-- ==== Sys2Proof/Word.lean ====
section
/-! DEFINITION. The word types of the Gretre 9600 model: bytes, dwords, 512-bit vectors, label tags and the
32-bit instruction word (R4, R8, R126). -/

namespace Sys2Proof

/-- One byte of memory or scratchpad. -/
abbrev Byte := BitVec 8

/-- A dword: 64 bits (R4). -/
abbrev Dword := BitVec 64

/-- A vector-class value: 512 bits (R15). -/
abbrev Vec := BitVec 512

/-- A 16-bit label tag (R8). -/
abbrev Tag := BitVec 16

/-- The tags whose join a value carries (R8, R153). `[]` is tag 0 and `[t]` is the single tag `t`; a longer
list is a join that the label unit has still to resolve (R267), and a value that carries one is pending. -/
abbrev LTag := List Tag

/-- A 32-bit instruction word (R126). -/
abbrev IWord := BitVec 32

/-- A system-wide core number: the core at (x, y) is number y·48 + x (R88). -/
abbrev CoreId := Nat

/-- An 11-bit port address (R145). -/
abbrev Port := BitVec 11

/-- The two halves of a core (R14). -/
inductive Half where
  | x
  | a
  deriving DecidableEq, Repr, Inhabited

/-- The fields of a move word that are not fixed by its DST (R126): S, G, N, I and bits [14:0], which hold
MOD and SRC, or IMM. -/
structure TrigW where
  s   : Bool
  g   : BitVec 3
  n   : Bool
  imm : Bool
  low : BitVec 15
  deriving DecidableEq, Repr, Inhabited

/-- The fields of a move word whose destination is no trigger port (R126). -/
structure MoveW where
  s   : Bool
  g   : BitVec 3
  n   : Bool
  dst : Port
  imm : Bool
  low : BitVec 15
  deriving DecidableEq, Repr, Inhabited

/-- The fields of a queue drop: DST 0, MOD 2, I 0 (R129, Table 3). -/
structure DropW where
  s   : Bool
  g   : BitVec 3
  n   : Bool
  src : Port
  deriving DecidableEq, Repr, Inhabited

/-- The fields of a hint word (R131, Table 4): G is 0 and N is 1. -/
structure HintW where
  s   : Bool
  pay : BitVec 24
  deriving DecidableEq, Repr, Inhabited

/-- What the debug port can name on a halted core (R194). -/
inductive DebugItem where
  /-- A register s, v, d or p, by its port address. -/
  | reg (p : Nat)
  /-- A system register, by its number (R178). -/
  | sys (n : Nat)
  /-- The saved image of an operand latch or result port, by its port address. -/
  | latch (p : Nat)
  /-- Entry `e`, counted from the head, of the image of queue `q` (Table 17's order, R181). -/
  | entry (q e : Nat)
  /-- Removal of the head of the image of queue `q`. -/
  | removeHead (q : Nat)
  /-- An entry appended at the tail of the image of queue `q`. -/
  | append (q : Nat)
  /-- The image of CTLAB. -/
  | ctlab
  /-- The image of XPCSAVE or APCSAVE (Table 18 of the core reference). -/
  | pcSave (h : Half)
  /-- Return-stack entry `e`, counted from the oldest, of half `h`. -/
  | stack (h : Half) (e : Nat)
  /-- The pending bit of source port `p` in the image, which is read-only. -/
  | pending (p : Nat)
  /-- Dword `i` of the region of label space `sp` (R252), which is read-only. -/
  | label (sp i : Nat)
  /-- Dword `i` of the region of diagram space `sp` (R286), which is read-only. -/
  | diagram (sp i : Nat)
  deriving DecidableEq, Repr, Inhabited

/-- The engine command that an XFORM node's OBJ points at (R56). Its layout in memory is not in the manual (log entry 5). -/
inductive XformCmd where
  /-- A copy, expand or gather command: the four words of R305. -/
  | copy (w0 w1 w2 w3 : Dword)
  /-- A diagram operation: the `cl` trigger index, its operands a, b and T, and its space (R295 to R303). -/
  | diagram (op space : Nat) (a b t : Dword)
  /-- A label census of one label space (R270). -/
  | census (space : Nat)
  deriving DecidableEq, Repr, Inhabited

/-- The type of a virtual register (R143). -/
inductive VType where
  | s
  | v
  | p
  deriving DecidableEq, Repr, Inhabited

/-- One item of a virtual core's program, in program order (R141, R143). -/
inductive PItem where
  /-- `.vreg n, type`. -/
  | vreg (n : Nat) (t : VType)
  /-- A word: of an instruction, or an extension word. -/
  | word (w : IWord)
  deriving DecidableEq, Repr, Inhabited

/-- The sequential program of the virtual core at gang position (gx, gy) (R143). -/
structure VCore where
  gx    : Nat
  gy    : Nat
  items : List PItem
  deriving DecidableEq, Repr, Inhabited

/-- A one-way channel between two virtual cores, by their places in the object's list (R143). -/
structure PChan where
  src   : Nat
  dst   : Nat
  depth : Nat
  deriving DecidableEq, Repr, Inhabited

/-- Portable code: its virtual cores in order, and its channels, which count from 0 (R143). How it is laid out in memory is not in
the manual (log entry 59). -/
structure PObject where
  vcores : List VCore
  chans  : List PChan
  /-- `.gang`: width and height, 0 where it is absent. -/
  gw     : Nat := 0
  gh     : Nat := 0
  /-- `.buffer` and `.lspace` declarations, as the entries of a declaration block (R335, Table 4). -/
  bufs   : List (BitVec 64) := []
  lsps   : List (BitVec 64) := []
  deriving DecidableEq, Repr, Inhabited

/-- What a packet of a link carries: bytes, under the block method and with the elements that its chunk has, where they are packed
(R320, R351). -/
structure LinkData where
  meth  : Nat := 0
  elen  : Nat := 0
  bytes : List Byte := []
  deriving DecidableEq, Repr, Inhabited

/-- A firmware image as the boot ROM reads it: its bytes, its Ed25519 and ML-DSA-65 signatures, and the measurement register, 0 to 3,
that the manifest gives it (R380, R381). -/
structure FwImage where
  bytes : List Byte := []
  ed    : List Byte := []
  ml    : List Byte := []
  reg   : Nat := 0
  deriving DecidableEq, Repr, Inhabited

/-- A translated image as `knqx` hands it over (R341): its words from offset 0, its entry offsets, the lengths in
words of the X segment (which starts at 0) and of the A segment (which follows it), and its own needs. -/
structure Translated where
  words : List IWord
  xLen  : Nat
  xEnt  : Nat
  aEnt  : Nat
  nv    : Nat
  ns    : Nat
  nd    : Nat
  nslot : Nat
  banks : BitVec 20
  bufs  : List Dword
  /-- The rest of its declaration block (R335): gang width and height, 0 where `.gang` is absent, and label spaces. -/
  gw    : Nat := 0
  gh    : Nat := 0
  lsps  : List (BitVec 64) := []
  /-- The gang positions of the program's virtual cores (R143). -/
  cores : List (Nat × Nat) := []
  deriving DecidableEq, Repr, Inhabited

end Sys2Proof
end

