-- ==== Sys2Proof/Machine/Bits.lean ====
section
/-! DEFINITION. Bit fields, bytes and elements of values (R4, R7): the helpers every unit uses. -/

namespace Sys2Proof.Machine

/-- Bits [hi:lo] of a number. -/
def field (x hi lo : Nat) : Nat := x / 2 ^ lo % 2 ^ (hi - lo + 1)

/-- Bits [hi:lo] of a dword. -/
def dfield (x : Dword) (hi lo : Nat) : Nat := field x.toNat hi lo

/-- Dword `i` of a granule or vector, lowest first. -/
def dwordOf (v : Vec) (i : Nat) : Dword := v.extractLsb' (64 * i) 64

/-- Element `i` of width `w` of a vector (R195's convention), as a natural number. -/
def elem (w : Nat) (v : Vec) (i : Nat) : Nat := v.toNat / 2 ^ (w * i) % 2 ^ w

/-- The vector whose elements of width `w` are the numbers listed, lowest first, each taken modulo 2^w. -/
def ofElems (w : Nat) : List Nat → Nat
  | [] => 0
  | x :: xs => x % 2 ^ w + 2 ^ w * ofElems w xs

/-- The vector of elements `f 0` to `f (n-1)`. -/
def vecOf (w n : Nat) (f : Nat → Nat) : Vec := BitVec.ofNat 512 (ofElems w ((List.range n).map f))

/-- A w-bit number as a signed integer. -/
def toSigned (w x : Nat) : Int := if x % 2 ^ w < 2 ^ (w - 1) then (x % 2 ^ w : Nat) else (x % 2 ^ w : Nat) - (2 ^ w : Nat)

/-- An integer modulo 2^w. -/
def wrap (w : Nat) (x : Int) : Nat := (x % (2 ^ w : Nat)).toNat

/-- The n low bytes of a number, lowest first (R4). -/
def bytesOf (n x : Nat) : List Byte := (List.range n).map fun i => BitVec.ofNat 8 (x / 256 ^ i)

/-- The number whose bytes are listed, lowest first (R4). -/
def ofBytes : List Byte → Nat
  | [] => 0
  | b :: bs => b.toNat + 256 * ofBytes bs

/-- The helper Sat of R30: `x` clamped to [lo, hi]. -/
def clamp (lo hi x : Int) : Int := min (max x lo) hi

/-- The range of a signed or unsigned w-bit integer (R30, Table 1). -/
def rangeOf (signed : Bool) (w : Nat) : Int × Int :=
  if signed then (-(2 ^ (w - 1) : Nat), (2 ^ (w - 1) : Nat) - 1) else (0, (2 ^ w : Nat) - 1)

/-- Sat to a w-bit integer, with whether it changed the value (R29, R30). -/
def satTo (signed : Bool) (w : Nat) (x : Int) : Int × Bool :=
  let (lo, hi) := rangeOf signed w
  (clamp lo hi x, x < lo || hi < x)

/-- A w-bit number read as signed or unsigned. -/
def readInt (signed : Bool) (w x : Nat) : Int := if signed then toSigned w x else (x % 2 ^ w : Nat)

/-- The number of one bits among the low `w`. -/
def popCount : Nat → Nat → Nat
  | 0, _ => 0
  | w + 1, x => x % 2 + popCount w (x / 2)

/-- Leading zero bits of a w-bit number; w for 0. -/
def leadZeros (w x : Nat) : Nat := if x % 2 ^ w = 0 then w else w - 1 - (x % 2 ^ w).log2

/-- Trailing zero bits of a w-bit number; w for 0. -/
def trailZeros : Nat → Nat → Nat
  | 0, _ => 0
  | w + 1, x => if x % 2 = 1 then 0 else 1 + trailZeros w (x / 2)

/-- Integer part of the square root: bits `i - 1` down to 0 are tried in turn on top of `r`. -/
def isqrtFrom (n : Nat) : Nat → Nat → Nat
  | 0, r => r
  | i + 1, r => if (r + 2 ^ i) * (r + 2 ^ i) ≤ n then isqrtFrom n i (r + 2 ^ i) else isqrtFrom n i r

/-- floor(√n). -/
def isqrt (n : Nat) : Nat := isqrtFrom n (n.log2 / 2 + 1) 0

/-- Replacement of list element `i`. -/
def setAt {α : Type} (l : List α) (i : Nat) (v : α) : List α := l.set i v

/-- Removal of list element `i`. -/
def dropAt {α : Type} (l : List α) (i : Nat) : List α := l.eraseIdx i

/-- CRC-32C (Castagnoli, reflected) of one more byte (R241). -/
def crcByte (c : Nat) (b : Byte) : Nat :=
  (List.range 8).foldl (fun c _ => if c % 2 = 1 then (c / 2) ^^^ 0x82F63B78 else c / 2) (c ^^^ b.toNat)

/-- CRC-32C of bytes (R241; log entry 7 says which conventions). -/
def crc32c (bs : List Byte) : Nat := (bs.foldl crcByte 0xFFFFFFFF) ^^^ 0xFFFFFFFF

end Sys2Proof.Machine
end

