-- ==== Sys2Proof/Machine/Float.lean ====
section
/-! DEFINITION. Floating point (R31 to R40): every value is decoded to an exact dyadic number, computed exactly, and
rounded once. Flags are the low byte of VFLAGS (R36). -/

namespace Sys2Proof.Machine

/-- VFLAGS bits (R36, Table 4). -/
abbrev FlagBits := BitVec 8
def fNV : FlagBits := 0x01
def fDZ : FlagBits := 0x02
def fOF : FlagBits := 0x04
def fUF : FlagBits := 0x08
def fNX : FlagBits := 0x10
def fILT : FlagBits := 0x20
def fSAT : FlagBits := 0x40
def fILC : FlagBits := 0x80

/-- The flag `f` if `b` holds. -/
def flagIf (b : Bool) (f : FlagBits) : FlagBits := if b then f else 0

/-- A floating format: exponent and fraction widths (R31, Table 2). -/
structure Fmt where
  ebits : Nat
  fbits : Nat
  deriving DecidableEq, Repr

def fp64 : Fmt := ⟨11, 52⟩
def fp32 : Fmt := ⟨8, 23⟩
def fp16 : Fmt := ⟨5, 10⟩
def bf16 : Fmt := ⟨8, 7⟩

def Fmt.width (f : Fmt) : Nat := 1 + f.ebits + f.fbits
def Fmt.bias (f : Fmt) : Int := (2 ^ (f.ebits - 1) : Nat) - 1
def Fmt.emin (f : Fmt) : Int := 1 - f.bias
/-- The bits of +∞. -/
def Fmt.infBits (f : Fmt) : Nat := (2 ^ f.ebits - 1) * 2 ^ f.fbits
def Fmt.signBit (f : Fmt) : Nat := 2 ^ (f.ebits + f.fbits)
/-- The canonical quiet NaN (R31, Table 2). -/
def Fmt.qnan (f : Fmt) : Nat := f.infBits + 2 ^ (f.fbits - 1)

/-- Rounding modes (R33, Table 3). -/
inductive RMode where
  | rne
  | rtz
  | rup
  | rdn
  | rna
  deriving DecidableEq, Repr

/-- The mode of an RM code; 5 to 7 are never held (R36). -/
def rmode (n : Nat) : RMode :=
  match n with
  | 0 => .rne
  | 1 => .rtz
  | 2 => .rup
  | 3 => .rdn
  | _ => .rna

/-- A floating value: a NaN, an infinity, or ±m·2^e (R31). -/
inductive FVal where
  | nan (signalling : Bool)
  | inf (neg : Bool)
  | num (neg : Bool) (m : Nat) (e : Int)
  deriving DecidableEq, Repr

/-- The value of the low bits of `x` in a format; under FTZ a subnormal is a zero of its sign (R31, R34). -/
def fdecode (f : Fmt) (ftz : Bool) (x : Nat) : FVal :=
  let sgn := x / f.signBit % 2 = 1
  let ex := x / 2 ^ f.fbits % 2 ^ f.ebits
  let fr := x % 2 ^ f.fbits
  if ex = 2 ^ f.ebits - 1 then
    if fr = 0 then .inf sgn else .nan (fr / 2 ^ (f.fbits - 1) = 0)
  else if ex = 0 then
    .num sgn (if ftz && f != fp64 then 0 else fr) (f.emin - f.fbits)
  else .num sgn (2 ^ f.fbits + fr) (f.emin - f.fbits + (ex - 1 : Int))

/-- Whether rounding goes up in magnitude: the mantissa kept, whether it is odd, and how the discarded part compares
with half a unit (R33). -/
def roundsUp (rm : RMode) (neg odd : Bool) (c : Ordering) (exact : Bool) : Bool :=
  if exact then false
  else match rm with
    | .rne => c == .gt || (c == .eq && odd)
    | .rna => c != .lt
    | .rtz => false
    | .rup => !neg
    | .rdn => neg

/-- `m` shifted right by `sh` and rounded; the discarded part also holds `sticky`. Gives the integer and whether it was
inexact. A negative `sh` shifts left. -/
def roundShift (rm : RMode) (neg : Bool) (m : Nat) (sh : Int) (sticky : Bool) : Nat × Bool :=
  if sh ≤ 0 then
    let k := m * 2 ^ (-sh).toNat
    (if roundsUp rm neg (k % 2 = 1) .lt (!sticky) then k + 1 else k, sticky)
  else
    let d := 2 ^ sh.toNat
    let k := m / d
    let rem := m % d
    let c := compare (2 * rem + (if sticky then 1 else 0)) d
    let exact := rem = 0 && !sticky
    (if roundsUp rm neg (k % 2 = 1) c exact then k + 1 else k, !exact)

/-- The overflow result of a mode, without its sign (R33). -/
def overflowBits (f : Fmt) (rm : RMode) (neg : Bool) : Nat :=
  match rm with
  | .rne | .rna => f.infBits
  | .rtz => f.infBits - 1
  | .rup => if neg then f.infBits - 1 else f.infBits
  | .rdn => if neg then f.infBits else f.infBits - 1

def withSign (f : Fmt) (neg : Bool) (x : Nat) : Nat := if neg then f.signBit + x else x

/-- ±(m + sticky)·2^e rounded to a format, with the flags of R33 to R35. `sticky` stands for a part below 2^e that
is not zero. -/
def fround (f : Fmt) (rm : RMode) (ftz neg : Bool) (m : Nat) (e : Int) (sticky : Bool := false) : Nat × FlagBits :=
  if m = 0 && !sticky then (withSign f neg 0, 0)
  else
    let top : Int := e + m.log2
    let ex := max top f.emin
    let (k, inexact) := roundShift rm neg m (ex - f.fbits - e) sticky
    let bits := (ex - f.emin).toNat * 2 ^ f.fbits + k
    let (ku, _) := roundShift rm neg m (top - f.fbits - e) sticky
    let tiny := top < f.emin && !(top = f.emin - 1 && ku = 2 ^ (f.fbits + 1))
    if f.infBits ≤ bits then (withSign f neg (overflowBits f rm neg), fOF ||| fNX)
    else if ftz && f != fp64 && 0 < bits && bits < 2 ^ f.fbits then (withSign f neg 0, fUF ||| fNX)
    else (withSign f neg bits, flagIf inexact fNX ||| flagIf (inexact && tiny) fUF)

/-- A NaN result with the flags of R32. -/
def nanOut (f : Fmt) (nv : Bool) : Nat × FlagBits := (f.qnan, flagIf nv fNV)

def FVal.isNan : FVal → Bool
  | .nan _ => true
  | _ => false

def FVal.isSnan : FVal → Bool
  | .nan s => s
  | _ => false

def FVal.neg : FVal → FVal
  | .nan s => .nan s
  | .inf n => .inf (!n)
  | .num n m e => .num (!n) m e

/-- ±m·2^e as an integer multiple of 2^q, for q ≤ e. -/
def scaled (neg : Bool) (m : Nat) (e q : Int) : Int :=
  let x : Int := (m * 2 ^ (e - q).toNat : Nat)
  if neg then -x else x

/-- The exact sum of two finite values, rounded once; the sign of an exact zero follows IEEE 754 (R37). -/
def addNum (f : Fmt) (rm : RMode) (ftz : Bool) (n1 : Bool) (m1 : Nat) (e1 : Int) (n2 : Bool) (m2 : Nat) (e2 : Int) :
    Nat × FlagBits :=
  let q := min e1 e2
  let x := scaled n1 m1 e1 q + scaled n2 m2 e2 q
  if x = 0 then (withSign f (if m1 = 0 && m2 = 0 && n1 == n2 then n1 else rm == .rdn) 0, 0)
  else fround f rm ftz (x < 0) x.natAbs q

/-- x + y (R37). -/
def fadd (f : Fmt) (rm : RMode) (ftz : Bool) (x y : FVal) : Nat × FlagBits :=
  if x.isNan || y.isNan then nanOut f (x.isSnan || y.isSnan)
  else match x, y with
    | .inf a, .inf b => if a == b then (withSign f a f.infBits, 0) else nanOut f true
    | .inf a, _ => (withSign f a f.infBits, 0)
    | _, .inf b => (withSign f b f.infBits, 0)
    | .num n1 m1 e1, .num n2 m2 e2 => addNum f rm ftz n1 m1 e1 n2 m2 e2
    | _, _ => nanOut f false

/-- The exact product, or none where it is invalid (0·∞) (R37). -/
def mulExact : FVal → FVal → Option FVal
  | .nan s, .nan t => some (.nan (s || t))
  | .nan s, _ => some (.nan s)
  | _, .nan t => some (.nan t)
  | .inf a, .inf b => some (.inf (a != b))
  | .inf a, .num b m _ => if m = 0 then none else some (.inf (a != b))
  | .num a m _, .inf b => if m = 0 then none else some (.inf (a != b))
  | .num a m1 e1, .num b m2 e2 => some (.num (a != b) (m1 * m2) (e1 + e2))

/-- x · y (R37). -/
def fmul (f : Fmt) (rm : RMode) (ftz : Bool) (x y : FVal) : Nat × FlagBits :=
  match mulExact x y with
  | none => nanOut f true
  | some (.nan s) => nanOut f s
  | some (.inf a) => (withSign f a f.infBits, 0)
  | some (.num n m e) => fround f rm ftz n m e

/-- x · y + z, rounded once (R37). A 0·∞ product sets NV whatever z is (R202). -/
def ffma (f : Fmt) (rm : RMode) (ftz : Bool) (x y z : FVal) : Nat × FlagBits :=
  match mulExact x y with
  | none => nanOut f true
  | some (.nan s) => nanOut f (s || z.isSnan)
  | some p => fadd f rm ftz p z

/-- x / y (R216). -/
def fdiv (f : Fmt) (rm : RMode) (ftz : Bool) (x y : FVal) : Nat × FlagBits :=
  if x.isNan || y.isNan then nanOut f (x.isSnan || y.isSnan)
  else match x, y with
    | .inf _, .inf _ => nanOut f true
    | .inf a, .num b _ _ => (withSign f (a != b) f.infBits, 0)
    | .num a _ _, .inf b => (withSign f (a != b) 0, 0)
    | .num a m1 e1, .num b m2 e2 =>
      if m2 = 0 then if m1 = 0 then nanOut f true else (withSign f (a != b) f.infBits, fDZ)
      else if m1 = 0 then (withSign f (a != b) 0, 0)
      else
        let k := m2.log2 + f.fbits + 4
        let q := m1 * 2 ^ k / m2
        fround f rm ftz (a != b) q (e1 - e2 - k) (m1 * 2 ^ k % m2 != 0)
    | _, _ => nanOut f false

/-- m·2^e with an even exponent. -/
def evenExp (m : Nat) (e : Int) : Nat × Int := if e % 2 = 0 then (m, e) else (2 * m, e - 1)

/-- √x (R216). -/
def fsqrt (f : Fmt) (rm : RMode) (ftz : Bool) (x : FVal) : Nat × FlagBits :=
  match x with
  | .nan s => nanOut f s
  | .inf n => if n then nanOut f true else (f.infBits, 0)
  | .num n m e =>
    if m = 0 then (withSign f n 0, 0)
    else if n then nanOut f true
    else
      let (m, e) := evenExp m e
      let k := f.fbits + 4
      let big := m * 2 ^ (2 * k)
      let r := isqrt big
      fround f rm ftz false r (e / 2 - k) (r * r != big)

/-- 1/x (R37, Table 5). -/
def frcp (f : Fmt) (rm : RMode) (ftz : Bool) (x : FVal) : Nat × FlagBits := fdiv f rm ftz (.num false 1 0) x

/-- 1/√x (R37, Table 5). -/
def frsqrt (f : Fmt) (rm : RMode) (ftz : Bool) (x : FVal) : Nat × FlagBits :=
  match x with
  | .nan s => nanOut f s
  | .inf n => if n then nanOut f true else (0, 0)
  | .num n m e =>
    if m = 0 then (withSign f n f.infBits, fDZ)
    else if n then nanOut f true
    else
      let (m, e) := evenExp m e
      let k := m.log2 + f.fbits + 4
      let r := isqrt (2 ^ (2 * k) / m)
      fround f rm ftz false r (-k - e / 2) (r * r * m != 2 ^ (2 * k))

/-- Working precision of exp2, in bits: log entry 8 bounds what it leaves to chance. -/
def expBits : Nat := 320

/-- 2^(fr / 2^n) times `acc`, in units of 2^-expBits and rounded down: `c` is 2^(2^-i) for the bit at hand, the most
significant of the `n` that are left. -/
def exp2Frac : Nat → Nat → Nat → Nat → Nat
  | 0, _, _, acc => acc
  | n + 1, fr, c, acc =>
    let c := isqrt (c * 2 ^ expBits)
    exp2Frac n fr c (if fr / 2 ^ n % 2 = 1 then acc * c / 2 ^ expBits else acc)

/-- 2^x in FP32 (R37, Table 5). A fraction that is not zero gives an irrational power, so the result is inexact. -/
def fexp2 (f : Fmt) (rm : RMode) (ftz : Bool) (x : FVal) : Nat × FlagBits :=
  match x with
  | .nan s => nanOut f s
  | .inf n => if n then (0, 0) else (f.infBits, 0)
  | .num n m e =>
    if m = 0 then fround f rm ftz false 1 0
    else
      let q := min e 0
      let v := scaled n m e q
      let d : Int := (2 ^ (-q).toNat : Nat)
      let ip := v / d
      let fr := (v % d).toNat
      if 128 ≤ ip then fround f rm ftz false 1 128 true
      else if ip < -1000 then fround f rm ftz false 1 (-1000) true
      else if fr = 0 then fround f rm ftz false 1 ip
      else fround f rm ftz false (exp2Frac (-q).toNat fr (2 * 2 ^ expBits) (2 ^ expBits)) (ip - expBits) true

/-- How two values compare, as numbers; none with a NaN. −0 equals +0 (R165). -/
def fcompare : FVal → FVal → Option Ordering
  | .nan _, _ => none
  | _, .nan _ => none
  | .inf a, .inf b => some (compare (if a then (0 : Nat) else 1) (if b then 0 else 1))
  | .inf a, .num _ _ _ => some (if a then .lt else .gt)
  | .num _ _ _, .inf b => some (if b then .gt else .lt)
  | .num n1 m1 e1, .num n2 m2 e2 =>
    let q := min e1 e2
    some (compare (scaled n1 m1 e1 q) (scaled n2 m2 e2 q))

/-- The sign of a value that is not a NaN. -/
def FVal.isNeg : FVal → Bool
  | .nan _ => false
  | .inf n => n
  | .num n _ _ => n

/-- The bits of a value already in the format, NaNs canonical. -/
def fencode (f : Fmt) (ftz : Bool) (x : FVal) : Nat × FlagBits :=
  match x with
  | .nan s => nanOut f s
  | .inf n => (withSign f n f.infBits, 0)
  | .num n m e => fround f .rne ftz n m e

/-- Minimum or maximum: −0 below +0, one NaN gives the other operand, two give the canonical NaN, a signalling NaN sets
NV (R164). -/
def fminmax (f : Fmt) (isMax : Bool) (x y : FVal) : Nat × FlagBits :=
  let nv := flagIf (x.isSnan || y.isSnan) fNV
  match x.isNan, y.isNan with
  | true, true => (f.qnan, nv)
  | true, false => ((fencode f false y).1, nv)
  | false, true => ((fencode f false x).1, nv)
  | false, false =>
    let less := match fcompare x y with
      | some .lt => true
      | some .eq => x.isNeg && !y.isNeg
      | _ => false
    ((fencode f false (if less != isMax then x else y)).1, nv)

/-- A value rounded to an integer under a mode: the magnitude and whether it was inexact (R53). -/
def roundInt (rm : RMode) (neg : Bool) (m : Nat) (e : Int) : Nat × Bool := roundShift rm neg m (-e) false

/-- A floating value encoded into a w-bit integer by Table 12 of R53: NaN gives 0 with NV; rounding sets NX; Sat sets
SAT. -/
def fToInt (rm : RMode) (signed : Bool) (w : Nat) (x : FVal) : Int × FlagBits :=
  match x with
  | .nan _ => (0, fNV)
  | .inf n => ((satTo signed w (if n then -(2 ^ 200 : Nat) else (2 ^ 200 : Nat))).1, fSAT)
  | .num n m e =>
    let (k, ix) := roundInt rm n m e
    let (v, c) := satTo signed w (if n then -(k : Int) else k)
    (v, flagIf ix fNX ||| flagIf c fSAT)

/-- An integer rounded to a floating format (R37). -/
def intToF (f : Fmt) (rm : RMode) (ftz : Bool) (x : Int) : Nat × FlagBits := fround f rm ftz (x < 0) x.natAbs 0

/-- A floating value rounded to another format (R53, Table 12): NaN gives the canonical NaN, a signalling one sets NV. -/
def fToF (f : Fmt) (rm : RMode) (ftz : Bool) (x : FVal) : Nat × FlagBits :=
  match x with
  | .nan s => nanOut f s
  | .inf n => (withSign f n f.infBits, 0)
  | .num n m e => fround f rm ftz n m e

/-- The class bit of `al.fcls` (R165). FTZ does not affect it. -/
def fclass (f : Fmt) (x : Nat) : Nat :=
  match fdecode f false x with
  | .inf n => if n then 1 else 0x80
  | .nan s => if s then 0x100 else 0x200
  | .num n m _ =>
    if m = 0 then (if n then 0x08 else 0x10)
    else if m < 2 ^ f.fbits then (if n then 0x04 else 0x20)
    else if n then 0x02 else 0x40

/-- Rounding to an integral value in the same format (R206). -/
def frndi (f : Fmt) (rm : RMode) (ftz : Bool) (x : FVal) : Nat × FlagBits :=
  match x with
  | .nan s => nanOut f s
  | .inf n => (withSign f n f.infBits, 0)
  | .num n m e =>
    if m = 0 then (withSign f n 0, 0)
    else
      let (k, ix) := roundInt rm n m e
      ((fround f .rne ftz n k 0).1, flagIf ix fNX)

end Sys2Proof.Machine
end

