-- ==== Sys2Proof/Syntax.lean ====
section
/-! DEFINITION. The instruction set: one constructor per row of the opcode table. The first 209 rows are 32-bit
words of a core's two streams (R126, R131); the other rows are the device's own steps, which have no encoding.
An argument of such a step is the agent it concerns, or what the outside world brings to it. -/

namespace Sys2Proof

/-- One step of the device: an instruction word, or an event of one of its agents. -/
inductive Instr where
  /-- A move word carries one value from a source port to a destination port. The value is adapted by width, modifier and guard, and it lands at the end of the group. (R126) -/
  | move (w : MoveW)
  /-- A drop pops the head of a queue and writes nothing. Its DST field is 0x000. (R129) -/
  | queueDrop (w : DropW)
  /-- This hint supplies 24 more immediate bits to the next immediate move of its group. (R132) -/
  | limm (w : HintW)
  /-- This scheduling hint has no architectural effect. (R134) -/
  | sched (w : HintW)
  /-- This hint modifies the next move with a rounding override, saturation, lane-0 broadcast or element width. (R133) -/
  | modx (w : HintW)
  /-- The group performs all its moves, then the stream takes the breakpoint trap with the payload in TRAPVAL. (R134) -/
  | brk (w : HintW)
  /-- This hint does nothing. (R134) -/
  | nop (w : HintW)
  /-- Integer add of a and T, with carry and overflow in .f. Saturates under MODX SAT. (R158) -/
  | alAdd (w : TrigW)
  /-- Integer subtract of T from a, with borrow and overflow in .f. Saturates under MODX SAT. (R158) -/
  | alSub (w : TrigW)
  /-- Bitwise AND of a and T. (R158) -/
  | alAnd (w : TrigW)
  /-- Bitwise OR of a and T. (R158) -/
  | alOr (w : TrigW)
  /-- Bitwise XOR of a and T. (R158) -/
  | alXor (w : TrigW)
  /-- Computes a AND NOT T. (R158) -/
  | alAndn (w : TrigW)
  /-- Shifts a left by T[5:0]. (R159) -/
  | alShl (w : TrigW)
  /-- Shifts a right by T[5:0], logical. (R159) -/
  | alShr (w : TrigW)
  /-- Shifts a right by T[5:0], arithmetic. (R159) -/
  | alSar (w : TrigW)
  /-- Rotates a left by T[5:0]. (R159) -/
  | alRol (w : TrigW)
  /-- Signed minimum of a and T. (R158) -/
  | alMin (w : TrigW)
  /-- Signed maximum of a and T. (R158) -/
  | alMax (w : TrigW)
  /-- Unsigned minimum of a and T. (R158) -/
  | alMinu (w : TrigW)
  /-- Unsigned maximum of a and T. (R158) -/
  | alMaxu (w : TrigW)
  /-- Gives a if T is non-zero, and b otherwise. (R163) -/
  | alSel (w : TrigW)
  /-- Counts the leading zero bits of T. (R160) -/
  | alClz (w : TrigW)
  /-- Counts the trailing zero bits of T. (R160) -/
  | alCtz (w : TrigW)
  /-- Counts the one bits of T. (R160) -/
  | alPopc (w : TrigW)
  /-- Reverses the bytes of T. (R160) -/
  | alBswap (w : TrigW)
  /-- Extracts a bit field of a, with position and length taken from T. (R161) -/
  | alExt (w : TrigW)
  /-- Inserts the low bits of b into a field of a. (R161) -/
  | alIns (w : TrigW)
  /-- Sign-extends a from bit T[5:0]. (R161) -/
  | alSext (w : TrigW)
  /-- Equality compare of a and T into .r and .f. (R162) -/
  | alEq (w : TrigW)
  /-- Inequality compare of a and T. (R162) -/
  | alNe (w : TrigW)
  /-- Signed less-than compare of a and T. (R162) -/
  | alLt (w : TrigW)
  /-- Signed less-or-equal compare of a and T. (R162) -/
  | alLe (w : TrigW)
  /-- Unsigned less-than compare of a and T. (R162) -/
  | alLtu (w : TrigW)
  /-- Unsigned less-or-equal compare of a and T. (R162) -/
  | alLeu (w : TrigW)
  /-- Gives 1 when a AND T is non-zero. (R162) -/
  | alTst (w : TrigW)
  /-- Floating add of a and T in the format that al.c selects. (R164) -/
  | alFadd (w : TrigW)
  /-- Floating subtract of T from a. (R164) -/
  | alFsub (w : TrigW)
  /-- Floating multiply of a and T. (R164) -/
  | alFmul (w : TrigW)
  /-- Computes a·b + T, rounded once. (R164) -/
  | alFma (w : TrigW)
  /-- Floating minimum of a and T. (R164) -/
  | alFmin (w : TrigW)
  /-- Floating maximum of a and T. (R164) -/
  | alFmax (w : TrigW)
  /-- Floating equality compare of a and T. (R165) -/
  | alFeq (w : TrigW)
  /-- Floating less-than compare of a and T. (R165) -/
  | alFlt (w : TrigW)
  /-- Floating less-or-equal compare of a and T. (R165) -/
  | alFle (w : TrigW)
  /-- Converts T between the types that al.c names. (R166) -/
  | alCvt (w : TrigW)
  /-- Classifies the floating value T as a one-hot mask. (R165) -/
  | alFcls (w : TrigW)
  /-- Signed 128-bit multiply-add a·T + b into .r and .h. (R167) -/
  | mdMul (w : TrigW)
  /-- Unsigned 128-bit multiply-add a·T + b. (R167) -/
  | mdMulu (w : TrigW)
  /-- Multiply-add with a signed and T unsigned. (R167) -/
  | mdMulsu (w : TrigW)
  /-- Signed 64-bit divide of a by T, giving quotient, remainder and status. (R168) -/
  | mdDiv (w : TrigW)
  /-- Unsigned 64-bit divide of a by T. (R168) -/
  | mdDivu (w : TrigW)
  /-- 32×32 signed multiply plus b, taken modulo 2^64. (R167) -/
  | mdMulw (w : TrigW)
  /-- Signed 32-bit divide of a by T. (R168) -/
  | mdDivw (w : TrigW)
  /-- Unsigned 32-bit divide of a by T. (R168) -/
  | mdDivuw (w : TrigW)
  /-- Element-wise add of a and T. (R201) -/
  | vxAdd (w : TrigW)
  /-- Element-wise subtract of T from a. (R201) -/
  | vxSub (w : TrigW)
  /-- Element-wise multiply of a and T. (R201) -/
  | vxMul (w : TrigW)
  /-- Element-wise a·b + T. (R202) -/
  | vxFma (w : TrigW)
  /-- Element-wise a·b − T. (R202) -/
  | vxFms (w : TrigW)
  /-- Element-wise −(a·b) + T. (R202) -/
  | vxFnma (w : TrigW)
  /-- Element-wise minimum of a and T. (R203) -/
  | vxMin (w : TrigW)
  /-- Element-wise maximum of a and T. (R203) -/
  | vxMax (w : TrigW)
  /-- Element-wise absolute value of T. (R204) -/
  | vxAbs (w : TrigW)
  /-- Element-wise negation of T. (R204) -/
  | vxNeg (w : TrigW)
  /-- Bitwise AND over 512 bits. (R207) -/
  | vxAnd (w : TrigW)
  /-- Bitwise OR over 512 bits. (R207) -/
  | vxOr (w : TrigW)
  /-- Bitwise XOR over 512 bits. (R207) -/
  | vxXor (w : TrigW)
  /-- Computes a AND NOT T over 512 bits. (R207) -/
  | vxAndn (w : TrigW)
  /-- Element-wise left shift. (R208) -/
  | vxShl (w : TrigW)
  /-- Element-wise logical right shift. (R208) -/
  | vxShr (w : TrigW)
  /-- Element-wise arithmetic right shift. (R208) -/
  | vxSar (w : TrigW)
  /-- Element-wise equality compare into .r and a mask in .f. (R210) -/
  | vxEq (w : TrigW)
  /-- Element-wise inequality compare. (R210) -/
  | vxNe (w : TrigW)
  /-- Element-wise less-than compare. (R210) -/
  | vxLt (w : TrigW)
  /-- Element-wise less-or-equal compare. (R210) -/
  | vxLe (w : TrigW)
  /-- Per-element select of a or b by the mask T. (R211) -/
  | vxSel (w : TrigW)
  /-- Permutes the elements of a by the indices in T. (R213) -/
  | vxPerm (w : TrigW)
  /-- Two-source shuffle of a and b by the indices in T. (R213) -/
  | vxShuf (w : TrigW)
  /-- Rotates the elements of a by T[0]. (R213) -/
  | vxRot (w : TrigW)
  /-- Generates T[0] + i in element i. (R213) -/
  | vxIota (w : TrigW)
  /-- Pairwise-tree sum reduction of T. (R214) -/
  | vxRsum (w : TrigW)
  /-- Maximum reduction of T. (R214) -/
  | vxRmax (w : TrigW)
  /-- Minimum reduction of T. (R214) -/
  | vxRmin (w : TrigW)
  /-- Bitwise AND reduction of T. (R214) -/
  | vxRandb (w : TrigW)
  /-- Bitwise OR reduction of T. (R214) -/
  | vxRorb (w : TrigW)
  /-- Bitwise XOR reduction of T. (R214) -/
  | vxRxorb (w : TrigW)
  /-- Correctly rounded FP32 reciprocal. (R215) -/
  | vxRcp (w : TrigW)
  /-- Correctly rounded FP32 reciprocal square root. (R215) -/
  | vxRsqrt (w : TrigW)
  /-- Correctly rounded FP32 base-2 exponential. (R215) -/
  | vxExp2 (w : TrigW)
  /-- Floating divide of a by T. (R216) -/
  | vxDiv (w : TrigW)
  /-- Floating square root of T. (R216) -/
  | vxSqrt (w : TrigW)
  /-- Converts elements from ET to ET2, selecting a part by SEL. (R217) -/
  | vxCvt (w : TrigW)
  /-- Converts the elements of T scaled by 2^s. (R218) -/
  | vxCvts (w : TrigW)
  /-- Two-source saturating narrowing of integers. (R219) -/
  | vxPack (w : TrigW)
  /-- One-source widening of integers. (R219) -/
  | vxUnpk (w : TrigW)
  /-- Expands T5 packed bytes into integer elements. (R220) -/
  | vxT5un (w : TrigW)
  /-- Expands I4 nibbles into integer elements. (R220) -/
  | vxI4un (w : TrigW)
  /-- Packs 32 values into one BFP8 or BFP12 block, with the exponent in .h. (R221) -/
  | vxBfpk (w : TrigW)
  /-- Expands a BFP block into floating values. (R222) -/
  | vxBfun (w : TrigW)
  /-- High half of each element-wise integer product. (R205) -/
  | vxMulh (w : TrigW)
  /-- Element-wise rounding average of a and T. (R205) -/
  | vxAvg (w : TrigW)
  /-- Per-element population count. (R209) -/
  | vxPopc (w : TrigW)
  /-- Per-element count of leading zeros. (R209) -/
  | vxClz (w : TrigW)
  /-- Inserts T[0] at element IDX of a. (R213) -/
  | vxIns (w : TrigW)
  /-- Gives 1 if any active mask bit of T is set. (R212) -/
  | vxAny (w : TrigW)
  /-- Gives 1 if every active mask bit of T is set. (R212) -/
  | vxAll (w : TrigW)
  /-- Bitwise blend (a AND T) OR (b AND NOT T). (R207) -/
  | vxBlend (w : TrigW)
  /-- Per-element count of leading sign bits. (R209) -/
  | vxCls (w : TrigW)
  /-- Short dot products accumulated into 32-bit lanes. (R223) -/
  | vxDot (w : TrigW)
  /-- Rounds each floating element to an integral value. (R206) -/
  | vxRndi (w : TrigW)
  /-- Claims a named or any free operand slot. (R229) -/
  | mxClaim (w : TrigW)
  /-- Frees an owned operand slot. (R230) -/
  | mxRelease (w : TrigW)
  /-- Starts the fill of a slot from scratchpad into residue form. (R231) -/
  | mxFill (w : TrigW)
  /-- Starts a residue multiply-accumulate of an A and a B slot into an accumulator. (R232) -/
  | mxMma (w : TrigW)
  /-- Issues a team step of multiply-accumulate with multicast operands. (R235) -/
  | mxMmat (w : TrigW)
  /-- Starts writing an accumulator to scratchpad as I32, I64 or RE36. (R236) -/
  | mxDrain (w : TrigW)
  /-- Sends n block-sum messages to a reduction target. (R237) -/
  | mxBsum (w : TrigW)
  /-- Zeroes one accumulator, or all four. (R238) -/
  | mxZero (w : TrigW)
  /-- Configures or disbands the member's matrix team. (R234) -/
  | mxTeam (w : TrigW)
  /-- Reads the progress state of the matrix unit or weight-driven mode. (R239) -/
  | mxProg (w : TrigW)
  /-- Makes a conditional on assumption h(T). (R271) -/
  | lbAssume (w : TrigW)
  /-- Gives T's value under the join of the tags of a and T. (R272) -/
  | lbJoin (w : TrigW)
  /-- Gives T's value under the merge of the tags of a and T. (R272) -/
  | lbMerge (w : TrigW)
  /-- Records the environments of T's tag as nogoods and advances the epoch across the partition. (R273) -/
  | lbContra (w : TrigW)
  /-- Commits T's value in context a, or mucks it. (R274) -/
  | lbCommit (w : TrigW)
  /-- Tests whether T's tag holds in context a. (R274) -/
  | lbHolds (w : TrigW)
  /-- Gives the resolved tag of T as a value. (R275) -/
  | lbTag (w : TrigW)
  /-- Gives a with the tag T[15:0]. (R276) -/
  | lbRetag (w : TrigW)
  /-- Counts the environments of T's label. (R277) -/
  | lbEnvs (w : TrigW)
  /-- Gives environment number a of T's label. (R277) -/
  | lbEnv (w : TrigW)
  /-- Gives the FP64 probability that T's label holds under weights read at a. (R278) -/
  | lbCount (w : TrigW)
  /-- Gives the smallest environment of T's label. (R277) -/
  | lbMin (w : TrigW)
  /-- Sweeps the current label space and frees the entries that nothing refers to. (R280) -/
  | lbCensus (w : TrigW)
  /-- Sets CTLAB from T. (R279) -/
  | lbCtlset (w : TrigW)
  /-- Reads the CTLAB index. (R279) -/
  | lbCtlget (w : TrigW)
  /-- Reads the parameters and counters of the current label space. (R281) -/
  | lbSpace (w : TrigW)
  /-- Returns the literal of a variable. (R295) -/
  | clVar (w : TrigW)
  /-- Returns if-then-else of a, b and T. (R295) -/
  | clIte (w : TrigW)
  /-- Applies a two-input truth table to a and b. (R295) -/
  | clApply (w : TrigW)
  /-- Returns the complement of T. (R295) -/
  | clNot (w : TrigW)
  /-- Fixes one variable of a to a value. (R295) -/
  | clRestrict (w : TrigW)
  /-- Existentially quantifies a over the support of T. (R295) -/
  | clExists (w : TrigW)
  /-- Counts the satisfying assignments over n levels. (R296) -/
  | clCount (w : TrigW)
  /-- Computes the FP64 weighted count under the weight table at DDWT. (R297) -/
  | clWcount (w : TrigW)
  /-- Returns the least satisfying cube and its mask. (R298) -/
  | clSat (w : TrigW)
  /-- Adds a reference to a node. (R301) -/
  | clRef (w : TrigW)
  /-- Releases a reference to a node. (R301) -/
  | clUnref (w : TrigW)
  /-- Swaps two adjacent levels of the variable order in place. (R303) -/
  | clSwap (w : TrigW)
  /-- Reads a size, level, variable or reference count, as the selector chooses. (R300) -/
  | clSize (w : TrigW)
  /-- Collects the unreferenced nodes of the current diagram space. (R302) -/
  | clGc (w : TrigW)
  /-- Counts minimal true sets, up to a limit. (R299) -/
  | clMincount (w : TrigW)
  /-- Sends a dword message on a channel to a gang member. The group holds until the message is accepted. (R325) -/
  | msSend (w : TrigW)
  /-- Places up to 64 bytes in a gang scratchpad for delivery at the next trick. (R327) -/
  | msPut (w : TrigW)
  /-- Counts the inbound entries of a channel without blocking. (R326) -/
  | msPoll (w : TrigW)
  /-- Reserves inbound entries for a channel. (R325) -/
  | msChan (w : TrigW)
  /-- X-stream jump to T. (R169) -/
  | ctJmp (w : TrigW)
  /-- X-stream call: pushes a return entry and jumps to T. (R169) -/
  | ctCall (w : TrigW)
  /-- X-stream return through the return stack. (R169) -/
  | ctRet (w : TrigW)
  /-- Starts an X-stream hardware loop of T iterations. (R171) -/
  | ctLoop (w : TrigW)
  /-- Holds until the outstanding-operation counts are at or below the fields of T. (R172) -/
  | ctWait (w : TrigW)
  /-- Acquire, release or full fence at scope T. (R173) -/
  | ctFence (w : TrigW)
  /-- The member arrives at the gang barrier and waits for release. (R174) -/
  | ctTrick (w : TrigW)
  /-- The member arrives at a barrier over scope T. (R175) -/
  | ctBar (w : TrigW)
  /-- Counts the member as triggered for early release of successors. (R75) -/
  | ctTrigger (w : TrigW)
  /-- Reads a launch record at T and enqueues it. (R176) -/
  | ctLaunch (w : TrigW)
  /-- Finishes the member's X stream. (R177) -/
  | ctExit (w : TrigW)
  /-- Enters weight-driven mode at the block header T. (R240) -/
  | ctWdrive (w : TrigW)
  /-- User read of a system register. (R178) -/
  | ctRsr (w : TrigW)
  /-- User write of a system register. (R178) -/
  | ctWsr (w : TrigW)
  /-- Trap return: restores the saved image and resumes both streams. (R182) -/
  | ctEret (w : TrigW)
  /-- Privileged read of a system register. (R178) -/
  | ctRsrs (w : TrigW)
  /-- Privileged write of a system register. (R178) -/
  | ctWsrs (w : TrigW)
  /-- Pushes a load request at a + T into a load queue. (R186) -/
  | agLd (w : TrigW)
  /-- Strong load at scope ag.c. (R186) -/
  | agLds (w : TrigW)
  /-- Stores the head of a store queue at a + T. (R187) -/
  | agSt (w : TrigW)
  /-- Strong store from a store queue. (R187) -/
  | agSts (w : TrigW)
  /-- Stores the low bytes of b at a + T. (R187) -/
  | agStd (w : TrigW)
  /-- Strong store of b. (R187) -/
  | agStds (w : TrigW)
  /-- Starts a strided stream of T loads. (R188) -/
  | agStrm (w : TrigW)
  /-- Starts a strided stream of T stores. (R188) -/
  | agStrw (w : TrigW)
  /-- Prefetch hint with no architectural effect. (R189) -/
  | agPf (w : TrigW)
  /-- A-half add of a and T. (R184) -/
  | aaAdd (w : TrigW)
  /-- A-half subtract of T from a. (R184) -/
  | aaSub (w : TrigW)
  /-- A-half bitwise AND. (R184) -/
  | aaAnd (w : TrigW)
  /-- A-half bitwise OR. (R184) -/
  | aaOr (w : TrigW)
  /-- A-half bitwise XOR. (R184) -/
  | aaXor (w : TrigW)
  /-- A-half left shift. (R184) -/
  | aaShl (w : TrigW)
  /-- A-half logical right shift. (R184) -/
  | aaShr (w : TrigW)
  /-- A-half equality test. (R184) -/
  | aaEq (w : TrigW)
  /-- A-stream jump. (R183) -/
  | acJmp (w : TrigW)
  /-- A-stream call. (R183) -/
  | acCall (w : TrigW)
  /-- A-stream return. (R183) -/
  | acRet (w : TrigW)
  /-- Starts an A-stream hardware loop. (R183) -/
  | acLoop (w : TrigW)
  /-- A-stream counted wait. (R183) -/
  | acWait (w : TrigW)
  /-- A-stream read of a system register. (R183) -/
  | acRsr (w : TrigW)
  /-- Atomic integer add at at.a. (R192) -/
  | atAdd (w : TrigW)
  /-- Atomic FP32 add. (R192) -/
  | atFadd (w : TrigW)
  /-- Atomic minimum. (R192) -/
  | atMin (w : TrigW)
  /-- Atomic maximum. (R192) -/
  | atMax (w : TrigW)
  /-- Atomic maximum of the absolute value. (R192) -/
  | atAmax (w : TrigW)
  /-- Atomic read and reset to zero. (R192) -/
  | atAmaxr (w : TrigW)
  /-- Atomic AND. (R192) -/
  | atAnd (w : TrigW)
  /-- Atomic OR. (R192) -/
  | atOr (w : TrigW)
  /-- Atomic XOR. (R192) -/
  | atXor (w : TrigW)
  /-- Atomic exchange. (R192) -/
  | atXchg (w : TrigW)
  /-- Atomic compare-and-swap against b. (R192) -/
  | atCas (w : TrigW)
  /-- Queues a copy command, stalling while the queue is full. (R308) -/
  | ceGo (w : TrigW)
  /-- Queues a copy command if there is room, and reports the outcome in ce.r. (R308) -/
  | ceTry (w : TrigW)
  /-- An operation's result lands in its result ports at its latency, and they stop being pending. (R148) -/
  | resultLand (core : Nat)
  /-- A load reply, possibly poisoned, enters its load queue in request order. (R186) -/
  | loadDataReturn (core q : Nat)
  /-- An atomic's old value returns into at.r. (R192) -/
  | atomicReply (core : Nat)
  /-- The next element of a stream issues once its queue has room or data. (R188) -/
  | streamElementIssue (core i : Nat)
  /-- A memory port serves a load, store or partial-write request at its home. (R94) -/
  | homeRequest (i : Nat)
  /-- A store refused at a remote home or scratchpad is reported back. The fault is raised at the issuer's next A group. (R92) -/
  | refusalReturn (core : Nat)
  /-- Each mesh cycle the atomic engine grants one source in ring order and performs its atomic. (R103) -/
  | atomicEngineGrant (cluster : Nat)
  /-- A die applies an arriving write once every write its vector covers has been applied. (R121) -/
  | crossDieWriteApply (i : Nat)
  /-- A write of XLINV starts a translation-cache invalidation of the kind given. (R93) -/
  | xlinvWrite (part : Nat) (v : Dword)
  /-- Every covering cache has invalidated, and BUSY clears. (R93) -/
  | xlinvComplete (part : Nat)
  /-- A descriptor write with OP 0 declares or undeclares a buffer. (R96) -/
  | bufDeclare (core n : Nat) (v : Dword)
  /-- A descriptor write with OP 1 returns the buffer to EMPTY. (R97) -/
  | bufReset (core n : Nat)
  /-- A descriptor write with OP 2 moves the buffer to FULL. (R97) -/
  | bufSetfull (core n : Nat)
  /-- A descriptor write with OP 3 moves the buffer to EMPTY. (R97) -/
  | bufSetempty (core n : Nat)
  /-- A write of VFLAGS clears W1C flags and sets RM, FTZ and TRAPILL. An RM of 5–7 stores 0. (R36) -/
  | vflagsWrite (core : Nat) (v : Dword)
  /-- A write of a bank format register. A reserved FMT is ignored, and PKT5 and PKI4 clear on a format change. (R50) -/
  | bfmtWrite (core b : Nat) (v : Dword)
  /-- A write of CTLAB through ct.wsr sets it to the join of the written index and its tag. (R264) -/
  | ctlabWrite (core : Nat) (v : Dword) (t : LTag)
  /-- A read of RSX or RSA pops the oldest return-stack entry. (R178) -/
  | returnStackPopRead (core : Nat) (h : Half)
  /-- A write of RSX or RSA inserts an entry beneath the oldest. (R178) -/
  | returnStackInsert (core : Nat) (h : Half) (v : Dword)
  /-- A write of a system or management register that has no row of its own, under its access codes; without a value, the host's
  read of a management register. (R5) -/
  | registerWrite (mgmt : Bool) (core n : Nat) (v : Option Dword)
  /-- A store to LREC enqueues a launch record, or is discarded and counted in LDROP. (R63) -/
  | launchRecordStore (part off : Nat) (bytes : List Byte)
  /-- The dealer dequeues a launch once it can be admitted, and creates its instance or removes it. (R64) -/
  | launchDequeue (part : Nat)
  /-- The dealer serves a ready TASK node and probes a candidate rectangle. (R68) -/
  | placementAttempt (part : Nat)
  /-- A core receives a reserve probe, then grants or refuses it. (R68) -/
  | reserveProbe (part core : Nat)
  /-- The dealer receives grants or refusals, then commits or releases and counts a failure. (R68) -/
  | probeResponse (part : Nat)
  /-- A core receives commit and acknowledges if its grant is still live. (R68) -/
  | reserveCommit (part core : Nat)
  /-- A core receives the release of a grant or commit after a failed attempt. (R68) -/
  | grantRelease (core : Nat)
  /-- An uncommitted grant lapses 256 mesh cycles after it was given. (R68) -/
  | grantLapse (core : Nat)
  /-- A node's back-off after a failed attempt expires, and it may be retried. (R68) -/
  | backoffExpire (part inst node : Nat)
  /-- An escalated node is placed once every held core is idle. (R70) -/
  | escalatedPlacement (part : Nat)
  /-- On start, each gang core is prepared and loaded, or the evicted context is restored, and the task begins. (R72) -/
  | taskStart (part inst node : Nat)
  /-- An XFORM node is started on the engines when it is served, and its command goes on: `cmd` is 0 for the node that is served
  next, and n + 1 for the n-th command under way. (R56) -/
  | xformNodeStart (part cmd : Nat)
  /-- An EVENT node writes NODEEVENT to the host ring when it is served. (R56) -/
  | eventNodeStart (part : Nat)
  /-- A SUBGRAPH node is served and reads its child's graph header. (R385) -/
  | subgraphServe (part : Nat)
  /-- A waiting child instance is admitted once the live node count allows it. (R385) -/
  | subgraphAdmit (part : Nat)
  /-- An exited member finishes once its counts are zero and its A stream has stopped. The node completes when every member has finished. (R177) -/
  | memberFinish (core : Nat)
  /-- A member is released from a trick or barrier at its staggered time. (R74) -/
  | memberRelease (core : Nat)
  /-- A gang's quantum expires, and eviction is requested when a waiting node qualifies. (R77) -/
  | quantumExpire (part inst node : Nat)
  /-- A member reaches a blocking point and is evicted to its context save area. (R78) -/
  | memberEvict (core : Nat)
  /-- A trap stops both streams, saves the image, and enters the handler. (R180) -/
  | trapEntry (core : Nat)
  /-- A task end reaches a member through the halt tree, and the member stops. (R386) -/
  | haltTreeStop (core : Nat)
  /-- A debug-port halt saves the image and stops the core. (R193) -/
  | debugHalt (core : Nat)
  /-- The debug port reads or writes registers and saved images of a halted core. (R194) -/
  | debugPortAccess (core : Nat) (item : DebugItem) (write : Bool) (v : Vec) (t : Tag)
  /-- The debug port resumes a halted core, restoring the images. (R194) -/
  | debugResume (core : Nat)
  /-- The cluster controller scans a code segment registered as executable, and accepts or refuses it. (R137) -/
  | scanSegment (part : Nat) (h : Half) (priv va len decl entry : Nat)
  /-- Firmware runs knqx to translate portable code, through the translation cache. (R341) -/
  | translatePortable (part inst node : Nat) (img : Option Translated)
  /-- The engine starts COPY, checking its words, and copies COUNT bytes or a packed chain. (R310) -/
  | copy (core : Nat)
  /-- The engine starts COPY2D, a strided row copy. (R310) -/
  | copy2d (core : Nat)
  /-- The engine starts GATHER of indexed handle rows to a destination. (R310) -/
  | gather (core : Nat)
  /-- The engine starts SCATTER of rows to indexed handle rows. (R310) -/
  | scatter (core : Nat)
  /-- The engine starts FILL of a destination with a 64-bit pattern. (R310) -/
  | fill (core : Nat)
  /-- The engine starts EXPAND of a packed block chain. (R310) -/
  | expand (core : Nat)
  /-- The engine starts SWZ, a row copy with swizzled placement in scratchpad. (R310) -/
  | swz (core : Nat)
  /-- The engine starts XCOPY to a peer device over Svetim Link. (R310) -/
  | xcopy (core : Nat)
  /-- The engine takes one chunk of a queue's head command in its round-robin turn, reading and then writing it. (R312) -/
  | copyChunk (core : Nat)
  /-- A slot fill completes, possibly raising a deferred illegal-trit trap. (R231) -/
  | mxFillComplete (core : Nat)
  /-- A multiply-accumulate completes all 32 K steps. (R232) -/
  | mxMmaComplete (core : Nat)
  /-- A team step starts when its multicast operands have arrived. (R235) -/
  | mmatStepStart (core : Nat)
  /-- A drain has written every byte, and .r and .f land. (R236) -/
  | mxDrainComplete (core : Nat)
  /-- A block-sum message set reaches its target and is buffered, applied or discarded. (R237) -/
  | bsumSetArrive (i : Nat)
  /-- The sequencer processes a NOP block. (R242) -/
  | nopBlock (core : Nat)
  /-- The sequencer applies a matrix-vector accumulate block. (R242) -/
  | mvaccBlock (core : Nat)
  /-- The sequencer fills a B slot and multiplies it into an accumulator. (R242) -/
  | mmaccBlock (core : Nat)
  /-- The sequencer adds I32 biases to lanes. (R242) -/
  | biasBlock (core : Nat)
  /-- The sequencer scales lanes by FP32 factors. (R242) -/
  | scaleBlock (core : Nat)
  /-- The sequencer applies an activation function to lanes. (R242) -/
  | actBlock (core : Nat)
  /-- The sequencer writes expanded bytes into vector registers. (R242) -/
  | loadvBlock (core : Nat)
  /-- The sequencer writes elements to a declared buffer. (R247) -/
  | storeBlock (core : Nat)
  /-- The sequencer sends elements as messages to a member. (R242) -/
  | sendBlock (core : Nat)
  /-- The sequencer chooses a successor from a table by the select value. (R243) -/
  | selectBlock (core : Nat)
  /-- The sequencer arrives at a trick or barrier. (R242) -/
  | syncBlock (core : Nat)
  /-- The sequencer ends weight-driven mode with a code. (R242) -/
  | exitBlock (core : Nat)
  /-- The sequencer takes a breakpoint trap at a block. (R242) -/
  | trapbBlock (core : Nat)
  /-- A payload granule of a block arrives and is applied in order. (R245) -/
  | blockPayloadGranule (core : Nat)
  /-- A label-table read, re-filter or insertion at the region's home replies, and the pending tag resolves. (R267) -/
  | labelResolveReply (core : Nat)
  /-- The Carillon performs the next operation of a space in engine order and replies. (R291) -/
  | carillonOperation (core : Nat)
  /-- A message reaches a receiver's inbound storage or spill ring, or waits for room. (R325) -/
  | messageArrive (i : Nat)
  /-- A host access to a data window is translated, then performed or refused. (R346) -/
  | hostWindowAccess (part win off : Nat) (write : Bool) (bytes : List Byte)
  /-- A link receives a packet, performing it in order or discarding it. (R348) -/
  | linkPacketReceive (port : Nat) (seq : BitVec 32) (cmd : Nat) (va : Dword) (data : LinkData)
  /-- A sender receives a cumulative acknowledgement and frees its replay buffer. (R348) -/
  | linkAckReceive (port : Nat) (n : BitVec 32) (refused : Bool)
  /-- A sender receives a negative acknowledgement and replays. (R348) -/
  | linkNakReceive (port : Nat) (n : BitVec 32)
  /-- An acknowledgement timeout of 2 µs triggers replay. (R348) -/
  | linkAckTimeout (port : Nat)
  /-- A lane fails, and the port degrades to a half or goes down. (R349) -/
  | laneFailure (port lane : Nat)
  /-- A port finishes training, resumes, and replays. (R349) -/
  | linkRetrainComplete (port : Nat) (mask : BitVec 4)
  /-- A down port retries training every 1 ms. (R349) -/
  | linkTrainRetry (port : Nat) (ok : Bool) (mask : BitVec 4)
  /-- Writing LCTL.RESET resets a port and retrains it at 16 lanes. (R352) -/
  | lctlReset (port : Nat)
  /-- A held device event is written to the host event ring when there is room. (R354) -/
  | eventRingWrite
  /-- Consuming poison in a protected gang restores the snapshots and repeats the superstep, or kills the task. (R359) -/
  | rollback (core : Nat)
  /-- A router receives a duplex item and pairs it, or detects a mismatch. (R361) -/
  | duplexItemArrive (i : Nat)
  /-- An item left unpaired for 2^20 mesh cycles is a mismatch. (R361) -/
  | duplexPairTimeout (i : Nat)
  /-- The tiebreak run completes, and the verdict chooses the traffic and raises the scores of the losing cores. (R362) -/
  | verdict (part inst node : Nat)
  /-- A suspect score falls by 1 after each 2^36 cycles with no vote lost. (R356) -/
  | scoreDecay (core : Nat)
  /-- A quarantined core leaves the logical map at its next gang boundary. (R363) -/
  | quarantine (core : Nat)
  /-- Firmware judges a layer failing, sets STATE 1, and writes the event. (R364) -/
  | layerwarn (stack layer : Nat)
  /-- Writing STKCTL.ACK in STATE 1 starts the layer remapping. (R364) -/
  | stkctlAck (stack : Nat)
  /-- With no acknowledgement within 1 s, firmware proceeds to remap. (R364) -/
  | layerAckTimeout (stack : Nat)
  /-- The remap copy ends and the stack shrinks to 45 GiB. (R364) -/
  | layerRemapComplete (stack : Nat)
  /-- A layer fails abruptly, and firmware completes the map-out with the lost granules poisoned. (R364) -/
  | layerAbruptFailure (stack layer : Nat) (lost : List Nat)
  /-- After two missed heartbeats the fallback sequencer takes over refresh. (R365) -/
  | refreshTakeover (stack : Nat)
  /-- Critical temperature forces a stack into self-refresh, and its accesses are held. (R365) -/
  | srenter (stack temp : Nat)
  /-- 50 ms after entry, the held accesses end with the stack-unavailable fault. (R365) -/
  | selfRefreshTimeout (stack : Nat)
  /-- A stack leaves self-refresh, and its held accesses are performed. (R365) -/
  | srexit (stack temp : Nat)
  /-- Firmware tests an idle cluster, and a failure quarantines cores and reports FIELDFAIL. (R366) -/
  | fieldTest (cluster : Nat) (bad : List Nat)
  /-- Reset wipes every memory and state before any agent runs. (R368) -/
  | resetWipe (banks : List (Nat × BitVec 4))
  /-- Firmware creates a partition and wipes its homes and core state. (R368) -/
  | partitionCreate (part x0 y0 w h maxNodes : Nat)
  /-- Firmware destroys a partition at system software's request. (R13) -/
  | partitionDestroy (part : Nat)
  /-- Firmware creates a label space with NA, LIMIT and a tied diagram space. (R250) -/
  | labelSpaceCreate (part n na limit dsp base : Nat)
  /-- Firmware destroys a label space. (R283) -/
  | labelSpaceDestroy (part n : Nat)
  /-- Firmware creates a diagram space on a die's Carillon. (R284) -/
  | diagramSpaceCreate (part n die nv nn logNb base : Nat) (order : List Nat) (tied : Option Nat)
  /-- Firmware destroys a diagram space and wipes its region. (R284) -/
  | diagramSpaceDestroy (part n : Nat)
  /-- Every 1 ms each die writes a telemetry record, or drops it. (R376) -/
  | telemetryRecord (die : Nat)
  /-- A capture unit bins one sample of its source. (R378) -/
  | monitorSample (unit : Nat) (v : BitVec 32)
  /-- Setting EN clears a capture unit's statistics. (R378) -/
  | monitorEnable (unit : Nat) (v : Dword)
  /-- Setting DUMP writes a snapshot of the unit to the host. (R379) -/
  | monitorDump (unit : Nat)
  /-- The boot ROM verifies the firmware signatures and measures the images: the public keys that come with them, Ed25519 and
  ML-DSA-65, and the images. (R380) -/
  | bootVerify (pubs : List (BitVec 8) × List (BitVec 8)) (images : List FwImage)
  /-- A QREQ write requests a signed attestation quote. (R381) -/
  | quoteRequest (req : Option (BitVec 256 × Dword))
  /-- A signed token moves the life-cycle state forward and wipes the device. (R382) -/
  | lifecycleTransition (target : Nat) (token : Bool)
  /-- The dealer receives the commit acknowledgements or refusals of a placement attempt, then sends start or releases and counts a failure. (R68) -/
  | commitResponse (part : Nat)
  /-- A remote load or store through the gang window arrives at the target member's scratchpad and is served there under its buffer and protection rules, even after that member has finished. (R86) -/
  | gangWindowRequest (i : Nat)
  /-- The device on the other end of a Svetim Link port resets, ending every waiting XCOPY on that port with LINK. (R350) -/
  | peerReset (port : Nat)
  /-- An HBM stack is reset, and refresh returns from the fallback sequencer to the management core, clearing FALLBACK. (R365) -/
  | stackReset (stack : Nat)
  /-- Supervisor software kills a running task, which ends with CODE KILLED through the halt tree. (R62) -/
  | supervisorKill (part inst node : Nat)
  /-- System software invalidates a translation-cache entry by key, and firmware drops it. (R342) -/
  | translationCacheInvalidate (part : Nat) (key : BitVec 384)
  /-- Firmware sets up a host data window onto a range of a partition's virtual space, at system software's request. (R345) -/
  | dataWindowSetup (part win base len : Nat)
  /-- Firmware binds a peer port's inbound window to a local partition, after which inbound packets are translated there instead of refused. (R346) -/
  | peerInboundBind (port : Nat) (part : Option Nat)
  /-- Firmware grants a shared key to a partition, making pages with KEY 1 to 3 naming it accessible. (R89) -/
  | sharedKeyGrant (part key : Nat)
  /-- A bench part in the DEVELOP state replays a recorded node, serving its outside inputs from the record ring. (R367) -/
  | recordReplay (core : Nat) (bytes : List Byte)
  deriving DecidableEq, Repr, Inhabited

end Sys2Proof
end

