-- ==== Sys2Proof/Config.lean ====
section
/-! DEFINITION. What the device fixes for good, and the free values: constants with no body, of which nothing can be
proved but that they exist. -/

namespace Sys2Proof

/-- Which agent moves next (log entry 1). -/
inductive Act where
  /-- One half of a core fetches and executes its next instruction word (R82). -/
  | fetch (core : Nat) (h : Half)
  /-- An agent of the device, or the world outside it, makes one step. -/
  | event (i : Instr)
  /-- `n` mesh cycles pass. -/
  | tick (n : Nat)
  /-- Entry `i` of the translation cache of core `c` is evicted (R93). -/
  | evictCore (c i : Nat)
  /-- Entry `i` of the shared translation cache of cluster `c` is evicted (R93). -/
  | evictCluster (c i : Nat)
  deriving DecidableEq, Repr, Inhabited

end Sys2Proof

namespace Sys2Proof.Config

/-- Free value (log entry 2): the n-th choice that the manual leaves to the hardware, for example which free
label-table index a new label takes (R254). It is applied to the counter `State.fresh`. -/
opaque choice : Nat → Nat

/-- Free value (log entry 3): a 64-bit value that the manual names and does not compute, for example the energy
that a telemetry record reports (R377). It is applied to the counter `State.fresh`. -/
opaque datum : Nat → BitVec 64

/-- The hash of a code object's portable code and the device inputs of R342 (SHA-384, log entry 4): a function
of the bytes hashed, whose values nothing fixes. -/
opaque sha384 : List (BitVec 8) → BitVec 384

/-- The hash of a public key that the fuses hold (R380, log entry 4). -/
opaque keyHash : List (BitVec 8) → BitVec 384

/-- A signature over a message verifies against a public key, under Ed25519 and under ML-DSA-65 (R380, log entry 4): key, message,
signature. -/
opaque edVerify : List (BitVec 8) → List (BitVec 8) → List (BitVec 8) → Bool
opaque mlVerify : List (BitVec 8) → List (BitVec 8) → List (BitVec 8) → Bool

/-- The signatures over a message under the device identity keys (R381, log entry 4): 64 bytes of Ed25519, 3,309 bytes of
ML-DSA-65. -/
opaque edSign : List (BitVec 8) → BitVec 512
opaque mlSign : List (BitVec 8) → BitVec 26472

/-- The coding of a life-cycle state in a quote, by its position along the life cycle (R381, log entry 3). -/
opaque lifeCode : Nat → BitVec 64

/-- Dwords 1 to 7 of the header of a context save area (R80, Table 8), which hold the wake condition, the node, its instance and the gang
position, in this order here; the manual places none of them (log entry 23). -/
opaque saveHeader : Nat → Nat → Nat → Nat → Nat → Nat → BitVec 64

/-- Dwords of the inbound spill ring of a context save area (R80, Table 8), for the entries it holds, oldest first: sender, channel,
value and tag. The manual gives no layout (log entry 23). -/
opaque spillDword : List (Nat × Nat × BitVec 64 × BitVec 16) → Nat → BitVec 64

/-- A granule of the write log of a snapshot area, for an entry's address, bytes and tag (R357). The manual gives no layout (log entry
23). -/
opaque logGranule : BitVec 64 → List (BitVec 8) → BitVec 16 → BitVec 512

/-- The granules in which the record ring holds one input of a member: the member's place in its gang, the bytes and the tag; the ring
holds `recordSize` granules, and `recordOverflow` sets the overflow bit of a node's first one. The manual gives no layout (R367, log
entry 70). -/
opaque recordGranules : Nat → List (BitVec 8) → BitVec 16 → List (BitVec 512)
opaque recordSize : Nat
opaque recordOverflow : BitVec 512 → BitVec 512

/-- The running hash of a duplex member over one outgoing item (R361, log entry 4). -/
opaque itemHash : BitVec 64 → List (BitVec 8) → BitVec 64

/-- Free value (log entry 1): which agent moves next when the agenda names none. It is applied to the counter
`State.fresh`. -/
opaque act : Nat → Act

/-- The command in the granule that an XFORM node's OBJ points at, or none where the engine refuses it (R56): the manual gives
no layout of it (log entry 5). -/
opaque xformCommand : BitVec 512 → Option XformCmd

/-- The content hash of a label, by its environments (R253): internal to the label units, so that nothing fixes its values (log
entry 56). -/
opaque labelHash : List (BitVec 64) → BitVec 64

/-- The hash of a diagram node's variable and children, whose low bits name its bucket (R286): internal to the engine, so that
nothing fixes its values (log entry 56). -/
opaque nodeHash : Nat → BitVec 32 → BitVec 32 → Nat

/-- The portable program in the bytes of a code object's portable code, or none where they are not one: the manual gives no layout
of the declarations (R143, log entry 59). -/
opaque portableObject : List (BitVec 8) → Option PObject

/-- The die that holds a link port (R354), which the manual does not name (log entry 15). -/
opaque portDie : Nat → Nat

/-- The microcode revision, a 32-bit input of the translation key (R342). -/
opaque microcode : BitVec 32

/-- The translator version, a 32-bit input of the translation key (R342). -/
opaque translator : BitVec 32

end Sys2Proof.Config
end

