-- ==== Sys2Proof/Machine/Store.lean ====
section
/-! DEFINITION. One sparse store for everything the machine keeps by number: bytes of memory, tags of granules,
registers, cores, table entries. A store is a list of (key, value) pairs in one canonical form: keys strictly rising,
and no entry equal to what an unlisted key reads as. Equal stores are therefore equal lists. -/

namespace Sys2Proof.Machine

/-- A sparse store keyed by natural numbers. -/
abbrev NMap (α : Type) := List (Nat × α)

/-- The value at key `k`; `d` is what an unlisted key reads as. -/
def NMap.get {α : Type} (d : α) : NMap α → Nat → α
  | [], _ => d
  | (i, v) :: m, k => if i = k then v else if k < i then d else NMap.get d m k

/-- The store with key `k` unlisted. In a canonical store what follows `k` already lies above it. -/
def NMap.erase {α : Type} : NMap α → Nat → NMap α
  | [], _ => []
  | (i, v) :: m, k =>
    if i = k then m.filter fun e => k < e.1
    else if k < i then (i, v) :: m
    else (i, v) :: NMap.erase m k

/-- The store with `v` listed at key `k`. -/
def NMap.put {α : Type} (v : α) : NMap α → Nat → NMap α
  | [], k => [(k, v)]
  | (i, w) :: m, k =>
    if i = k then (i, v) :: m
    else if k < i then (k, v) :: (i, w) :: m
    else (i, w) :: NMap.put v m k

/-- The store with value `v` at key `k`: writing what an unlisted key reads as removes the entry. -/
def NMap.set {α : Type} [DecidableEq α] (d : α) (m : NMap α) (k : Nat) (v : α) : NMap α :=
  if v = d then m.erase k else m.put v k

/-- Every key in the list is above `k`. -/
def NMap.above {α : Type} (k : Nat) : NMap α → Bool
  | [] => true
  | (i, _) :: m => decide (k < i) && NMap.above i m

/-- No entry holds the default. -/
def NMap.clean {α : Type} [DecidableEq α] (d : α) : NMap α → Bool
  | [] => true
  | (_, v) :: m => decide (v ≠ d) && NMap.clean d m

/-- Keys strictly rising. -/
def NMap.rising {α : Type} : NMap α → Bool
  | [] => true
  | (i, _) :: m => NMap.above i m && NMap.rising m

/-- The canonical form: keys strictly rising, no entry equal to the default. -/
def NMap.wf {α : Type} [DecidableEq α] (d : α) (m : NMap α) : Bool :=
  NMap.rising m && NMap.clean d m

/-- The store that holds `f i` at each key `base + i` for i below `n`, everything else unlisted. -/
def NMap.ofFn {α : Type} [DecidableEq α] (d : α) (base n : Nat) (f : Nat → α) : NMap α :=
  (List.range n).filterMap fun i => if f i = d then none else some (base + i, f i)

/-- The entries whose key lies below `lo` or at or above `hi`. -/
def NMap.dropRange {α : Type} (m : NMap α) (lo hi : Nat) : NMap α :=
  m.filter fun e => e.1 < lo || hi ≤ e.1

/-- The entries whose key lies in [lo, hi). -/
def NMap.inRange {α : Type} (m : NMap α) (lo hi : Nat) : NMap α :=
  m.filter fun e => lo ≤ e.1 && e.1 < hi

/-- The keys listed. -/
def NMap.keys {α : Type} (m : NMap α) : List Nat := m.map (·.1)

/-- `f` applied at key `k`. -/
def NMap.upd {α : Type} [DecidableEq α] (d : α) (m : NMap α) (k : Nat) (f : α → α) : NMap α :=
  m.set d k (f (m.get d k))

end Sys2Proof.Machine
end

