-- ==== Sys2Proof/Machine/State.lean ====
section
/-! DEFINITION. The state of a Gretre 9600 package as plain data: every register, queue, latch, memory, table and
engine that the manual gives the device, the reasons a step can stop, and the state after reset. The default of every
field is its value after reset. -/

namespace Sys2Proof.Machine

/-! ## Values -/

/-- A scalar-class value with its tag (R8, R128). -/
structure SVal where
  v : Dword := 0
  t : LTag := []
  deriving DecidableEq, Repr, Inhabited

/-- A vector-class value with its tag (R20, R128). -/
structure VVal where
  v : Vec := 0
  t : LTag := []
  deriving DecidableEq, Repr, Inhabited

/-- A predicate with its tag (R15, R20). -/
structure PVal where
  v : Bool := false
  t : LTag := []
  deriving DecidableEq, Repr, Inhabited

/-- A trap to be taken: cause, reason and TRAPVAL (R179). -/
structure Trap where
  cause  : BitVec 8
  reason : BitVec 8 := 0
  val    : Dword := 0
  /-- A memory integrity fault that a failed authentication raises, which is no poison (R100, R359). -/
  mac    : Bool := false
  deriving DecidableEq, Repr, Inhabited

/-- A trap that stopped both streams of a core and whose entry is still to come (R180). -/
structure Raised where
  half : Half := .x
  /-- None on a member of a follow-mode row that did not fault itself (R28). -/
  trap : Option Trap := none
  deriving DecidableEq, Repr, Inhabited

/-- A queue entry (R16, R128). -/
structure QEntry where
  /-- 512 bits wide, and else 64 (R128). -/
  wide   : Bool := false
  v      : Vec := 0
  t      : LTag := []
  /-- A poisoned entry, with the trap its consumer takes (R92). -/
  poison : Option Trap := none
  /-- The mesh cycle in which it landed (R16). -/
  since  : Nat := 0
  /-- Pushed by the group of a trick or barrier, which places what its popper does next after the release (R106). -/
  sync   : Bool := false
  deriving DecidableEq, Repr, Inhabited

/-- A queue between the halves (R16). -/
structure Queue where
  /-- Entries, head first. Reset: empty. -/
  ents  : List QEntry := []
  /-- Slot index of the head in the image (R181, Table 17). Reset 0. -/
  head  : Nat := 0
  /-- Mesh cycles of the pops whose room the other half cannot use yet (R16). Reset: none. -/
  pops  : List Nat := []
  deriving DecidableEq, Repr, Inhabited

/-- An issue slot of a group: a move, triggers included, or a hint (R126, R131). -/
inductive Slot where
  | move (g : BitVec 3) (n : Bool) (dst : Port) (imm : Bool) (low : BitVec 15)
  | hint (kind : BitVec 3) (pay : BitVec 24)
  deriving DecidableEq, Repr, Inhabited

/-- A return-stack entry (R170, Table 5). Offsets are byte offsets into the instruction store. -/
inductive RsEntry where
  /-- PCB and CNT, which a call ignores, keep what is written to them. -/
  | call (ret : BitVec 17) (pcb : BitVec 17 := 0) (cnt : BitVec 32 := 0)
  | loop (start stop : BitVec 17) (cnt : BitVec 32)
  deriving DecidableEq, Repr, Inhabited

/-- A code range of the instruction store, registered executable (R137, R169). -/
structure CodeSeg where
  lo : Nat := 0
  hi : Nat := 0
  /-- The privilege that it is registered at: 0 user, 1 supervisor, 2 firmware (R150). -/
  priv : Nat := 0
  deriving DecidableEq, Repr, Inhabited

/-- One instruction stream of a core (R14, R17). -/
structure Stream where
  /-- XPC or APC (R17): 17 bits, byte offset of the next word to fetch. Reset 0. -/
  pc      : BitVec 17 := 0
  /-- Offset of the first word of the group being fetched (R135). Reset 0. -/
  start   : BitVec 17 := 0
  /-- The stream stands just past the end of the instruction store, at 0x2_0000, which 17 bits do not hold (R169). Reset 0. -/
  past    : Bool := false
  /-- Words of that group fetched so far (R135). Reset: none. -/
  open_   : List Slot := []
  /-- Mesh cycle from which the next group may issue (R82, R169). Reset 0. -/
  ready   : Nat := 0
  /-- Return stack, top first, at most 16 entries (R170). Reset: empty. -/
  stack   : List RsEntry := []
  /-- The segment registered for the running task's stream (R169). Reset: empty. -/
  seg     : CodeSeg := {}
  /-- The trap handler's segment (R169, R180). Reset: empty. -/
  hseg    : CodeSeg := {}
  /-- The stream has stopped: `ct.exit` in X, or the A stream after it (R66, R177). Reset 0. -/
  exited  : Bool := false
  /-- A store refusal to be raised at the A stream's next group, or an engine's trap to be taken at the X stream's
  next group boundary (R92, R231, R269, R293). Reset: none. -/
  trap    : Option Trap := none
  /-- Further store refusals, to be raised after that one, oldest first (R92). Reset: none. -/
  more    : List Trap := []
  deriving DecidableEq, Repr, Inhabited

/-! ## Scopes, places and requests -/

/-- The agents a scope covers (R111). Rectangles are in mesh coordinates. -/
inductive Scope where
  | self
  | cluster
  | gang
  | die
  | device
  | system
  | rect (x0 y0 x1 y1 : Nat)
  deriving DecidableEq, Repr, Inhabited

/-- Where a byte lies: in a home, by physical address, or in a core's scratchpad, by offset (R86, R88). -/
inductive Loc where
  | mem (pa : Nat)
  | spad (core off : Nat)
  deriving DecidableEq, Repr, Inhabited

/-- A piece of a load, once it has been served: what one granule of memory or what one scratchpad supplies (R107, R98). -/
structure Piece where
  bytes : List Byte := []
  tag   : LTag := []
  fail  : Option Trap := none
  deriving DecidableEq, Repr, Inhabited

/-- A load request pushed and not yet delivered into its queue (R16, R186). -/
structure Load where
  q      : Nat := 0
  id     : Nat := 0
  size   : Nat := 1
  signed : Bool := false
  atag   : LTag := []
  pieces : List (Option Piece) := []
  addr   : Dword := 0
  /-- Not performed, because a selecting operand was mucked (R190): it counts as completed for `ct.wait`. -/
  muck   : Bool := false
  /-- An element of a stream, whose faults name the element's address (R188). -/
  strm   : Bool := false
  /-- Mesh cycle of its issue (R378). -/
  began  : Nat := 0
  deriving DecidableEq, Repr, Inhabited

/-- An atomic operation of Table 9 (R102, R192). -/
inductive AtOp where
  | add | fadd | min | max | amax | amaxr | and | or | xor | xchg | cas
  deriving DecidableEq, Repr, Inhabited

/-- What a memory request does when it is served (R94, R101, R102). -/
inductive ReqKind where
  /-- Piece `i` of load `id`. -/
  | load (i : Nat)
  /-- A store of these bytes with this data tag. -/
  | store (bytes : List Byte) (tag : LTag)
  /-- An atomic: operation, type code (R191), operand with tag, compare operand, tag of the address. -/
  | atomic (op : AtOp) (ty : Nat) (v : Dword) (vt : LTag) (cmp : Dword) (addrTag : LTag)
  deriving DecidableEq, Repr, Inhabited

/-- A memory request of a core, issued and not yet served, one per granule touched (R94, R107). -/
structure Req where
  core   : Nat := 0
  /-- The access it belongs to. -/
  id     : Nat := 0
  kind   : ReqKind := .load 0
  loc    : Loc := .mem 0
  /-- Bytes of the granule it touches. -/
  len    : Nat := 1
  /-- The address the program gave (R91). -/
  addr   : Dword := 0
  /-- The scope of a strong access (R110). -/
  strong : Option Scope := none
  /-- The issuing die's write vector, for a write that leaves its die (R121). -/
  vec    : Option (List Nat) := none
  /-- Key index of the page (R89). -/
  key    : Nat := 0
  /-- The partition whose address space it used (R86). -/
  part   : Nat := 0
  /-- The same atomic of the other partner of a duplex task: its core and access, which get the reply too (R361). -/
  twin   : Option (Nat × Nat) := none
  /-- An atomic that waits at an inbound port of another cluster's engine: the port, 0–4, and its place in that queue (R103). -/
  port   : Option (Nat × Nat) := none
  /-- Mesh cycle of its issue (R378). -/
  began  : Nat := 0
  deriving DecidableEq, Repr, Inhabited

/-- A stream of `ag.strm` or `ag.strw`, with elements not yet issued (R188). -/
structure AgStream where
  write  : Bool := false
  q      : Nat := 0
  size   : Nat := 1
  signed : Bool := false
  base   : Dword := 0
  stride : Dword := 0
  left   : Nat := 0
  atag   : LTag := []
  /-- The address is mucked: elements are not performed (R190). -/
  muck   : Bool := false
  /-- Ids of the elements issued so far: a refusal of one ends the stream (R188). -/
  ids    : List Nat := []
  deriving DecidableEq, Repr, Inhabited

/-- A result on its way to its ports (R148, R155). -/
structure Flight where
  /-- Mesh cycle from which it can be read. -/
  due   : Nat := 0
  sw    : List (Nat × SVal) := []
  vw    : List (Nat × VVal) := []
  /-- VFLAGS bits that it sets when it lands (R35). -/
  flags : BitVec 8 := 0
  /-- A floating, conversion or matrix operation, on which reads of VFLAGS wait (R35). -/
  fp    : Bool := false
  deriving DecidableEq, Repr, Inhabited

/-! ## Matrix unit -/

/-- An RE36 element as its three residues (R41). -/
structure Re36 where
  qa : Nat := 0
  qb : Nat := 0
  qc : Nat := 0
  deriving DecidableEq, Repr, Inhabited

/-- An accumulator (R227). -/
structure Acc where
  /-- Element (r, c) at key 64·r + c. Reset 0. -/
  el   : NMap Re36 := []
  /-- Row tags. Reset 0. -/
  tags : NMap LTag := []
  /-- AE, or EMPTY (R227). Reset EMPTY. -/
  ae   : Option Int := none
  deriving DecidableEq, Repr, Inhabited

/-- Who holds an operand slot (R99). -/
inductive SlotOwner where
  | free
  | task
  /-- Held by the evicted context of save area `k`. -/
  | held (k : Nat)
  deriving DecidableEq, Repr, Inhabited

/-- An operand slot (R19, R99, R228). -/
structure OpSlot where
  owner : SlotOwner := .free
  /-- Role B, else role A. Reset A. -/
  roleB : Bool := false
  /-- Element at key row·(32 or 64) + position. Reset 0. -/
  el    : NMap Re36 := []
  tags  : NMap LTag := []
  /-- Scale exponent s (R228). Reset 0. -/
  sexp  : Int := 0
  deriving DecidableEq, Repr, Inhabited

/-- An `mx` operation issued and not yet performed, in trigger order (R225). -/
inductive MxOp where
  /-- A slot fill, with its rows as read at its group: bytes, exponent bytes, offset and tag of each; the format captured
  and TRAPILL (R231). -/
  | fill (slot : Nat) (roleB : Bool) (kn fmt : Nat) (rows : List (List Byte × List Nat × Nat × LTag)) (trapIll : Bool)
      (ctl : LTag)
  /-- `mx.mma`: slots, accumulator, ZF, K steps done (R232, R233). -/
  | mma (a b acc : Nat) (zf : Bool) (k : Nat) (ctl : LTag)
  /-- `mx.mmat`: as `mma`, with its team, its step, whether the member's own tiles have been sent, and the operand tiles
  once they have reached the member (R235). -/
  | mmat (a b acc : Nat) (zf : Bool) (team : BitVec 19) (step : Nat) (sent : Bool) (tiles : Option (OpSlot × OpSlot))
      (k : Nat) (ctl : LTag)
  | drain (acc form : Nat) (za : Bool) (off stride : Nat) (token : Nat) (ctl rtag : LTag)
  | zero (acc : Nat) (ctl : LTag)
  | release (slot : Nat)
  deriving DecidableEq, Repr, Inhabited

/-- An operand tile that a source keeps until every receiver has taken it (R235). -/
structure Tile where
  team  : BitVec 19 := 0
  step  : Nat := 0
  roleB : Bool := false
  tile  : OpSlot := {}
  /-- Cores that have still to take it. -/
  left  : List Nat := []
  deriving DecidableEq, Repr, Inhabited

/-- A block-sum message set (R48, R237). -/
structure BsumSet where
  id     : Nat := 0
  sender : Nat := 0
  /-- Gang-linear index of the sender. -/
  index  : Nat := 0
  target : Nat := 0
  off    : Nat := 0
  sums   : List (Dword × LTag) := []
  exp    : BitVec 32 := 0
  cnt    : BitVec 32 := 0
  /-- The sender's die's write vector, for a set that leaves its die (R121). -/
  vec    : Option (List Nat) := none
  deriving DecidableEq, Repr, Inhabited

/-! ## Weight-driven mode -/

/-- What the block sequencer does next (R240, R245). -/
inductive WdPhase where
  /-- The header at the current block address is read next. -/
  | header
  /-- Payload granule `WDrive.restart` is applied next. -/
  | payload
  /-- The successor is chosen next (checks 10 to 12). -/
  | successor
  /-- A SYNC block has arrived and waits for release. -/
  | sync
  deriving DecidableEq, Repr, Inhabited

/-- The saved weight-mode state (R239, R243, R245). -/
structure WDrive where
  /-- WBLOCK: virtual address of the current block header, 48 bits. Reset 0. -/
  block   : Nat := 0
  /-- WREST: restart granule, 32 bits. Reset 0. -/
  restart : Nat := 0
  /-- BSTK: block stack, top first, at most 4 virtual addresses (R243). Reset: empty. -/
  bstk    : List Nat := []
  phase   : WdPhase := .header
  /-- The header granule of the current block, once read and checked (R241). -/
  hdr     : Vec := 0
  /-- The token of the pending `ct.r` (R240). -/
  token   : Nat := 0
  /-- Next element of a SEND block still to be sent. -/
  sent    : Nat := 0
  deriving DecidableEq, Repr, Inhabited

/-! ## Label, Carillon and message ports -/

/-- A `cl` operation issued to the Carillon (R292). -/
structure ClOp where
  op    : Nat := 0
  a     : SVal := {}
  b     : SVal := {}
  t     : SVal := {}
  space : Nat := 0
  ddwt  : Nat := 0
  ctl   : LTag := []
  token : Nat := 0
  /-- Mesh cycle of its issue (R378). -/
  began : Nat := 0
  deriving DecidableEq, Repr, Inhabited

/-- An `lb` operation that found no free entry or node and is performed again (R268, R269). -/
structure LbOp where
  op    : Nat := 0
  a     : SVal := {}
  t     : SVal := {}
  ctl   : LTag := []
  token : Nat := 0
  /-- Weights read for `lb.count`, and their tags (R278). -/
  ws    : List Dword := []
  wt    : LTag := []
  deriving DecidableEq, Repr, Inhabited

/-- A message entry: one dword with its tag, channel and sender (R325). -/
structure Msg where
  sender : Nat := 0
  chan   : Nat := 0
  v      : Dword := 0
  t      : LTag := []
  deriving DecidableEq, Repr, Inhabited

/-- A superstep delivery held for its trick: `ms.put` data, or a remote store of a protected gang (R73, R327, R358). -/
structure Held where
  core  : Nat := 0
  loc   : Loc := .mem 0
  addr  : Dword := 0
  bytes : List Byte := []
  tag   : LTag := []
  put   : Bool := false
  id    : Nat := 0
  /-- Key of the page (R89, R100). -/
  key   : Nat := 0
  deriving DecidableEq, Repr, Inhabited

/-! ## Copies -/

/-- A tensor handle's captured slot (R315, R316). -/
structure HSlot where
  /-- Physical address of the slot, and the key of its page (R89). -/
  pa     : Nat := 0
  key    : Nat := 0
  base   : Nat := 0
  rows   : Nat := 0
  rbytes : Nat := 0
  stride : Int := 0
  deriving DecidableEq, Repr, Inhabited

/-- Where the bytes of a run come from. -/
inductive RunSrc where
  | addr (a : Dword)
  /-- The pattern of a FILL. -/
  | pattern (v : Dword)
  | zeros
  /-- Bytes at hand, each with the tag of the granule that supplied it. -/
  | bytes (bs : List (Byte × LTag))
  deriving DecidableEq, Repr, Inhabited

/-- A row or block of the destination sequence that a command still has to write (R310, R312). -/
structure Run where
  src   : RunSrc := .zeros
  dst   : Dword := 0
  /-- Bytes of the row: source bytes in a converting copy, else destination bytes. -/
  len   : Nat := 0
  /-- Bytes of it done: source and destination. -/
  pos   : Nat := 0
  dpos  : Nat := 0
  /-- The tag of the index that chose the row. -/
  tag   : LTag := []
  /-- Swizzled placement: COUNT, else 0 (R314). -/
  swz   : Nat := 0
  /-- Format registers of the source and destination banks of a copy between banks (R52). -/
  conv  : Option (Dword × Dword) := none
  /-- A packed block that is expanded chunk by chunk: its method, and its elements (R312, R320). -/
  meth  : Option (Nat × Nat) := none
  /-- Bytes of padding that follow its payload and count as read with it (R319). -/
  pad   : Nat := 0
  deriving DecidableEq, Repr, Inhabited

/-- A command in a core's copy queue (R308, R330). -/
structure Copy where
  w0      : SVal := {}
  w1      : SVal := {}
  w2      : SVal := {}
  w3      : SVal := {}
  /-- VFLAGS.RM and FTZ at acceptance (R308). -/
  rm      : Nat := 0
  ftz     : Bool := false
  ctl     : LTag := []
  token   : Nat := 0
  /-- Format registers of each row's banks at acceptance, where both lie in scratchpad banks (R310). -/
  convs   : List (Option (Dword × Dword)) := []
  /-- Format registers of the source's and the destination's scratchpad at acceptance (R310, R320). -/
  bfSrc   : NMap Dword := []
  bfDst   : NMap Dword := []
  started : Bool := false
  hs      : Option HSlot := none
  hd      : Option HSlot := none
  runs    : List Run := []
  /-- Bytes of the packed chain read so far, of those it has (R319). -/
  chain   : Nat := 0
  chainLen : Nat := 0
  dbytes  : Nat := 0
  sbytes  : Nat := 0
  oor     : Nat := 0
  ilt     : Bool := false
  cfl     : Bool := false
  /-- The error it has ended with (R318); `some 0` when it has written everything. -/
  done    : Option Nat := none
  /-- Its latest write that a protected member's log holds (R330, R358). -/
  logged  : Option Nat := none
  /-- Packets of an XCOPY sent and not yet acknowledged: sequence number and bytes (R350). -/
  unacked : List (BitVec 32 × Nat) := []
  /-- The XFORM node whose command it is, as (partition, instance, node) (R56). -/
  node    : Option (Nat × Nat × Nat) := none
  /-- Mesh cycle of its acceptance (R378). -/
  began   : Nat := 0
  deriving DecidableEq, Repr, Inhabited

/-- An XFORM node's engine command under way (R56). -/
structure XRun where
  inst : Nat := 0
  node : Nat := 0
  cmd  : XformCmd := .census 0
  /-- A copy command, as it stands. -/
  copy : Copy := {}
  deriving DecidableEq, Repr, Inhabited

/-! ## Task membership -/

/-- The task that a core runs as a member of a gang (R65, R66). -/
structure Task where
  part  : Nat := 0
  inst  : Nat := 0
  node  : Nat := 0
  gx    : Nat := 0
  gy    : Nat := 0
  gw    : Nat := 1
  gh    : Nat := 1
  /-- Mesh coordinates of the gang's origin. -/
  ox    : Nat := 0
  oy    : Nat := 0
  follow   : Bool := false
  stag     : Bool := false
  rollback : Bool := false
  duplex   : Bool := false
  /-- Which rectangle of a duplex task: 0 P0, 1 P1, 2 the tiebreak T (R360, R362). -/
  partner  : Nat := 0
  nslot : Nat := 0
  banks : BitVec 20 := 0
  deriving DecidableEq, Repr, Inhabited

/-- A message accepted and on its way: its sender's task, the receiving member, and the message (R325). -/
structure Mail where
  task : Task := {}
  gx   : Nat := 0
  gy   : Nat := 0
  msg  : Msg := {}
  deriving DecidableEq, Repr, Inhabited

/-- An arrival at a trick or barrier that is outstanding (R174, R175). -/
structure Arrival where
  /-- None for a trick; else the barrier's scope rectangle in gang coordinates. -/
  rect    : Option (Nat × Nat × Nat × Nat) := none
  /-- The mesh cycle of release, once the instance has completed. -/
  release : Option Nat := none
  /-- Made by a SYNC block (R242). -/
  sync    : Bool := false
  /-- Made by the member's trap handler (R174). -/
  handler : Bool := false
  /-- The A stream has popped what the arrival's own group pushed, so that its accesses come after the release (R106). -/
  hold    : Bool := false
  /-- Mesh cycle of the arrival (R378). -/
  began   : Nat := 0
  deriving DecidableEq, Repr, Inhabited

/-- How a core stands in placement (R68, R70). -/
inductive Reserve where
  | idle
  | granted (part since : Nat)
  | committed (part : Nat)
  deriving DecidableEq, Repr, Inhabited

/-- A buffer descriptor (R95, Table 6). -/
structure Buf where
  base : BitVec 20 := 0
  len  : BitVec 16 := 0
  st   : BitVec 2 := 0
  fmt  : BitVec 5 := 0
  cnt  : BitVec 16 := 0
  deriving DecidableEq, Repr, Inhabited

/-- Where a tag stands that a trap does not save with its value: a register's port, a row of an accumulator, a row of an
operand slot (R383). -/
inductive TagHome where
  | port (p : Nat)
  | acc (a row : Nat)
  | slot (n row : Nat)
  deriving DecidableEq, Repr, Inhabited

/-- What trap entry saves (R180 step 5, R181). -/
structure Image where
  sfile  : NMap SVal := []
  vfile  : NMap VVal := []
  queues : NMap Queue := []
  ctlab  : LTag := []
  xpc    : BitVec 17 := 0
  apc    : BitVec 17 := 0
  pend   : List (Nat × Nat) := []
  wd     : Option WDrive := none
  clop   : Option ClOp := none
  lbops  : List LbOp := []
  /-- The half whose group left CTLAB unresolved (R383). -/
  ctlHalf : Half := .x
  priv   : Bool := false
  xdepth : Nat := 0
  adepth : Nat := 0
  streams : List AgStream := []
  /-- Matrix operations stopped or not begun (R180 step 4, R233). -/
  mxq    : List MxOp := []
  /-- The streams had stopped by `ct.exit` (R92). -/
  xexit : Bool := false
  aexit : Bool := false
  /-- Traps that the streams had still to raise (R92, R269). -/
  xtrap : Option Trap := none
  atrap : Option Trap := none
  amore : List Trap := []
  /-- TEAM and TSTEP (R181, Table 18). -/
  team  : BitVec 19 := 0
  tstep : Nat := 0
  /-- RELEASED of an arrival that was outstanding, once the member has been released from it (R181, Table 18). -/
  released : Bool := false
  /-- The unresolved map: tags outside the latches, the queues and CTLAB that wait for a label entry (R181, R383). -/
  unres : List (TagHome × LTag) := []
  deriving DecidableEq, Repr, Inhabited

/-- What a core holds for its task: the part that eviction saves and a snapshot copies (R78, R80, R357). -/
structure Ctx where
  /-- Scalar-class storage by port address: s0–s63 at 0x000, d0–d31 at 0x090, scalar latches and result ports
  (R15, R146). 64 bits and a tag each; reset 0, tag 0. -/
  sfile   : NMap SVal := []
  /-- Vector-class storage by port address: v0–v63 at 0x040, `vx` and `ms.v` latches, `vx` result ports (R15, R146).
  512 bits and a tag each; reset 0, tag 0. -/
  vfile   : NMap VVal := []
  /-- p1–p7 by port address 0x081–0x087 (R15). 1 bit and a tag each; reset 0, tag 0. -/
  pfile   : NMap PVal := []
  /-- lq0–lq3 at 0–3, sq0–sq3 at 4–7, xa at 8, ax at 9 (R16). Reset: empty. -/
  queues  : NMap Queue := []
  /-- The X stream (XPC). -/
  xs      : Stream := {}
  /-- The A stream (APC). -/
  as_     : Stream := {}
  /-- Results in flight (R148). Reset: none. -/
  flight  : List Flight := []
  /-- Ports that await an engine's reply, each with the token of the latest operation that writes it (R148, R309).
  Reset: none. -/
  pend    : List (Nat × Nat) := []
  /-- CTLAB (R251, R263): a tag. Reset 0. -/
  ctlab   : LTag := []
  /-- The half whose group left CTLAB unresolved, which takes the trap of a full label table (R383). Reset X. -/
  ctlHalf : Half := .x
  /-- VFLAGS (R36): 64 bits. Reset 0. -/
  vflags  : Dword := 0
  /-- LBLCTL.TRAPMUCK (R251): 1 bit. Reset 0. -/
  trapMuck : Bool := false
  /-- LSPACE.SPACE (R251): 8 bits. Reset LSP at task start, else 0. -/
  lspace  : BitVec 8 := 0
  /-- DDSPACE.SPACE (R285): 8 bits. Reset DDS at task start, else 0. -/
  ddspace : BitVec 8 := 0
  /-- DDWT.BASE (R285): 42 bits. Reset 0. -/
  ddwt    : BitVec 42 := 0
  /-- BUF00–BUF31 (R95): 64 bits each. Reset 0. -/
  bufs    : NMap Buf := []
  /-- acc0–acc3 (R227). Reset 0, EMPTY. -/
  accs    : NMap Acc := []
  /-- `mx` operations in trigger order (R225). Reset: none. -/
  mxq     : List MxOp := []
  /-- TEAM: bits [18:0] of the latest `mx.team` control (R181, R234). Reset 0. -/
  team    : BitVec 19 := 0
  /-- TSTEP: `mx.mmat` steps issued since the latest `mx.team` (R181, Table 18). 32 bits, reset 0. -/
  tstep   : Nat := 0
  /-- Operand tiles kept for team receivers, oldest first (R235). Reset: none. -/
  tiles   : List Tile := []
  /-- Weight-driven mode and its state, while it is active (R240). Reset: inactive. -/
  wd      : Option WDrive := none
  /-- The `cl` operation held by the port (R292). Reset: none. -/
  clop    : Option ClOp := none
  /-- The suspended `lb` operations, oldest first: while one waits, a handler may issue another (R269). Reset: none. -/
  lbops   : List LbOp := []
  /-- Inbound message storage, oldest first (R325): 64 entries. Reset: empty. -/
  inbox   : List Msg := []
  /-- `ms.chan` reservations by channel (R325). Reset 0. -/
  resv    : NMap Nat := []
  /-- Gang-linear index of the sender accepted last (R325). Reset 0. -/
  lastSender : Nat := 0
  /-- The member's send waits for room: receiving member and channel (R325). Reset: none. -/
  sendWait : Option (Nat × Nat × Nat) := none
  /-- The command queue of the core: 8 entries (R308, R330). Reset: empty. -/
  copies  : List Copy := []
  /-- Entries of that queue still held by commands with NOST = 1 whose last write waits in the log of a protected member: the
  id of that write (R330, R358). Reset: none. -/
  nosts   : List Nat := []
  /-- Streams with elements not yet issued, oldest first (R188). Reset: none. -/
  streams : List AgStream := []
  /-- Load requests pushed and not yet delivered, oldest first (R186). Reset: none. -/
  loads   : List Load := []
  /-- Ids of atomics whose reply has not returned (R192). Reset: none. -/
  atoms   : List Nat := []
  /-- Ids of stores issued and neither performed nor refused (R172). Reset: none. -/
  stores  : List Nat := []
  /-- Release fences whose earlier accesses are not all performed, each as the id that parts what comes before it from what
  comes after (R115, R123). Reset: none. -/
  fences  : List Nat := []
  /-- The outstanding arrival at a trick or barrier (R174). Reset: none. -/
  arrived : Option Arrival := none
  /-- The member has counted as triggered (R75). Reset 0. -/
  triggered : Bool := false
  /-- A release trap held for the sender of a dropped delivery (R97, R266). Reset: none. -/
  putTrap : Option Trap := none
  /-- A trap raised and not yet entered (R180). Reset: none. -/
  raised : Option Raised := none
  /-- Privilege: supervisor, else user (R180). Reset: user. -/
  priv    : Bool := false
  deriving DecidableEq, Repr, Inhabited

/-- A snapshot of a protected member (R357). -/
structure Snap where
  /-- The member, at the place that its gang had. -/
  task  : Task := {}
  ctx   : Ctx := {}
  slots : NMap OpSlot := []
  spad  : NMap Byte := []
  stags : NMap Tag := []
  image : Image := {}
  bfmt  : NMap Dword := []
  /-- TRAPCAUSE, TRAPVAL, XPCSAVE, APCSAVE, TVEC. -/
  trapCause : Dword := 0
  trapVal : Dword := 0
  xpcSave : BitVec 17 := 0
  apcSave : BitVec 17 := 0
  tvec  : Dword := 0
  /-- What the member had under way: requests, replies on their way back, block sums sent, and block sums that it holds
  buffered. -/
  reqs  : List Req := []
  replies : List (Nat × Nat × SVal) := []
  bsums : List BsumSet := []
  bsumBuf : List BsumSet := []
  /-- Uncorrectable scratchpad granules (R100). -/
  sbad  : NMap Bool := []
  deriving DecidableEq, Repr, Inhabited

/-- An evicted context in a save area (R79, R80). -/
structure Saved where
  task  : Task := {}
  ctx   : Ctx := {}
  /-- Order of eviction, for the oldest-first rule of R79. -/
  order : Nat := 0
  /-- Banks whose contents are in the save area: bit i = bank i. -/
  bankSaved : BitVec 20 := 0
  /-- Slots whose contents are in the save area. -/
  slotSaved : BitVec 16 := 0
  /-- Banks and slots the context holds, saved or in place. -/
  banks : BitVec 20 := 0
  slots : BitVec 16 := 0
  /-- Contents of saved banks, by scratchpad offset, and their tags by granule. -/
  spad  : NMap Byte := []
  stags : NMap Tag := []
  oslots : NMap OpSlot := []
  /-- Trap-handler registers of the context: TRAPCAUSE, TRAPVAL, XPCSAVE, APCSAVE and image, when it was evicted. -/
  image : Image := {}
  /-- The inbound spill ring, oldest first (R78). -/
  spill : List Msg := []
  /-- BFMT00–BFMT19 as the context left them (R80, Table 8). -/
  bfmt : NMap Dword := []
  /-- The log of a protected member, oldest first, with its snapshot and what it has done in the superstep (R357 to R361). -/
  held : List Held := []
  snap : Option Snap := none
  irrev : Bool := false
  atomDone : Bool := false
  hash : BitVec 64 := 0
  items : Nat := 0
  /-- Its gang has been rolled back meanwhile: the member resumes from its snapshot (R359). -/
  undone : Bool := false
  /-- The member had finished when its gang was evicted: what is kept is its scratchpad with its descriptors (R81, R332). -/
  fin   : Bool := false
  deriving DecidableEq, Repr, Inhabited

/-- One entry of a translation cache (R93). -/
structure Tlb where
  part : Nat := 0
  /-- Virtual page number and whether it is a 128 MiB page. -/
  vpn  : Nat := 0
  big  : Bool := false
  pte  : Dword := 0
  deriving DecidableEq, Repr, Inhabited

/-- Recording of a started node (R367). -/
structure Record where
  /-- Inputs written to the record ring so far. -/
  count : Nat := 0
  /-- The member is replayed and not recorded. -/
  stopped : Bool := false
  /-- Inputs served from the ring on replay that no load or atomic has taken, oldest first: value and tag. -/
  replay : List (Dword × Tag) := []
  deriving DecidableEq, Repr, Inhabited

/-- One core (R14). -/
structure Core where
  /-- CAPS.VREGS (R21): 7 bits, set at boot. Reset DESIGN CHOICE 64, a whole core (log entry 16). -/
  vregs  : BitVec 7 := 64
  /-- CAPS.VBMAP (R21): 4 bits, set at boot. Reset DESIGN CHOICE 0b1111, a whole core (log entry 16). -/
  vbmap  : BitVec 4 := 15
  /-- The core is out of the logical map, or leaves it at its next gang boundary (R363). Reset 0. -/
  quarantined : Bool := false
  /-- A quarantine waits for the gang boundary (R363). Reset 0. -/
  quarantine : Bool := false
  /-- Suspect score (R356): 0–255. Reset 0. -/
  score  : Nat := 0
  /-- Mesh cycle of the latest lost vote or decay (R356). Reset 0. -/
  scoreAt : Nat := 0
  /-- The task it runs. Reset: idle. -/
  task   : Option Task := none
  /-- The task's context (R66). -/
  ctx    : Ctx := {}
  /-- Operand slots slot0–slot15 (R19, R99). Reset: free, zero. -/
  slots  : NMap OpSlot := []
  /-- TRAPCAUSE (R178): 64 bits. Reset 0. -/
  trapCause : Dword := 0
  /-- TRAPVAL (R178): 64 bits. Reset 0. -/
  trapVal : Dword := 0
  /-- XPCSAVE (R178): 17 bits. Reset 0. -/
  xpcSave : BitVec 17 := 0
  /-- APCSAVE (R178): 17 bits. Reset 0. -/
  apcSave : BitVec 17 := 0
  /-- TVEC (R178): 64 bits. Reset 0. -/
  tvec   : Dword := 0
  /-- BFMT00–BFMT19 (R49): 64 bits each. Reset 0x1_0000_0000 (PKRAW). -/
  bfmt   : NMap Dword := []
  /-- The image of the trap save area that trap entry or a debug halt wrote (R181). Reset: zero. -/
  image  : Image := {}
  /-- The core is halted by the debug port (R193), with the privilege it had. Reset 0. -/
  halted : Bool := false
  /-- A halt is requested that could not be taken yet (R193). Reset 0. -/
  haltReq : Bool := false
  /-- Scratchpad bytes by offset (R18): 640 KiB. Reset 0. -/
  spad   : NMap Byte := []
  /-- Scratchpad granule tags by granule number (R20). Reset 0. -/
  stags  : NMap Tag := []
  /-- Uncorrectable scratchpad granules (R100). Reset: none. -/
  sbad   : NMap Bool := []
  /-- Instruction store by word index (R17): 32,768 words of 32 bits. Reset 0. -/
  istore : NMap IWord := []
  /-- Context save areas 0–3 (R80). Reset: free. -/
  areas  : NMap (Option Saved) := []
  /-- Placement (R68). Reset: idle. -/
  resv   : Reserve := .idle
  /-- The escalated node, as (partition, instance, node), or the field test, that holds the core (R70, R366). -/
  hold   : Option (Nat × Nat × Nat) := none
  /-- The core's 64-entry translation cache (R93). Reset: empty. -/
  tlb    : List Tlb := []
  /-- A task end reaches the member through the halt tree (R386). Reset: none. -/
  ended  : Bool := false
  /-- The member has finished and its gang has not (R332): its last task. Reset: none. -/
  finished : Option Task := none
  /-- An eviction is requested for the member (R77). Reset 0. -/
  evict  : Bool := false
  /-- The eviction has begun at a blocking point: steps 1 to 4 of R78 are under way. Reset 0. -/
  leaving : Bool := false
  /-- Snapshot of the current superstep (R357). Reset: none. -/
  snap   : Option Snap := none
  /-- The member performed an act of R359 that cannot be repeated. Reset 0. -/
  irrev  : Bool := false
  /-- Scratchpad granules that have been copied to the snapshot area since the snapshot (R357). Reset: none. -/
  copied : NMap Bool := []
  /-- An atomic of the member was performed in the superstep (R362). Reset 0. -/
  atomDone : Bool := false
  /-- The poisoned address whose consumption triggers rollback (R359). Reset: none. -/
  poisoned : Option Dword := none
  /-- Running hash of a duplex member (R361): 64 bits. Reset 0. -/
  hash   : BitVec 64 := 0
  /-- Items sent in the superstep (R361). Reset 0. -/
  items  : Nat := 0
  /-- Recording or replay (R367). Reset: none. -/
  record : Option Record := none
  /-- Halt-tree messages sent and received by the core's gang (R366). Reset 0. -/
  sent   : Nat := 0
  rcvd   : Nat := 0
  /-- The latest access to the scratchpad: 1 + its core cycle, and its place in the order of R98. Reset 0. -/
  turn   : Nat × Nat := (0, 0)
  deriving DecidableEq, Repr, Inhabited

/-! ## Label and diagram spaces -/

/-- The content of a label-table entry (R253). -/
inductive LForm where
  | free
  | inline (envs : List Dword)
  | diagram (handle : BitVec 32)
  | forward (t : Tag)
  deriving DecidableEq, Repr, Inhabited

/-- A label-table entry (R253). -/
structure LEntry where
  form  : LForm := .free
  /-- EPOCH, 40 bits. -/
  epoch : Nat := 0
  /-- MARK: 1 bit, as the latest census left it (R270). -/
  mark  : Bool := false
  deriving DecidableEq, Repr, Inhabited

/-- A label space (R250, R252). -/
structure LSpace where
  /-- NA: 7 bits. Set at creation. -/
  na    : Nat := 0
  /-- INCONS: 1 bit. Reset 0. -/
  incons : Bool := false
  /-- DSP: 3 bits. Set at creation. -/
  dsp   : Nat := 0
  /-- LIMIT: 16 bits. Set at creation. -/
  limit : Nat := 0
  /-- EPOCH: 40 bits. Reset 0. -/
  epoch : Nat := 0
  /-- Inline nogoods, ascending, at most 32 (R257). Reset: none. -/
  ngs   : List Dword := []
  /-- NGH: handle of the overflow nogood diagram. Reset 0x8000_0000. -/
  ngh   : BitVec 32 := 0x80000000
  /-- Entries by tag; unlisted entries are free (R253). -/
  ents  : NMap LEntry := []
  /-- Physical address of the region (R252). -/
  base  : Nat := 0
  deriving DecidableEq, Repr, Inhabited

/-- A diagram node (R288). -/
structure DNode where
  var  : Nat := 0
  ref  : Nat := 0
  used : Bool := false
  low  : BitVec 32 := 0
  high : BitVec 32 := 0
  /-- MARK: 1 bit. Reset 0; no rule sets it (log entry 56). -/
  mark : Bool := false
  deriving DecidableEq, Repr, Inhabited

/-- A diagram space (R284, R286). -/
structure DSpace where
  /-- The die whose Carillon serves it. -/
  die   : Nat := 0
  /-- NV: 13 bits. Set at creation. -/
  nv    : Nat := 1
  /-- NN: 28 bits. Set at creation. -/
  nn    : Nat := 1
  /-- TIED, LSP. Set at creation. -/
  tied  : Option Nat := none
  /-- LOGNB: 5 bits. Set at creation. -/
  logNb : Nat := 4
  /-- GCS: 40 bits. Reset 0. -/
  gcs   : Nat := 0
  /-- VAR: the variable at each level (R286). -/
  order : List Nat := []
  /-- Nodes by index; unlisted nodes are free (R288). -/
  nodes : NMap DNode := []
  /-- Physical address of the region (R286). -/
  base  : Nat := 0
  deriving DecidableEq, Repr, Inhabited

/-! ## The dealer -/

/-- How a gang of a node stands (R65, R360). -/
structure Gang where
  ox : Nat := 0
  oy : Nat := 0
  gw : Nat := 1
  gh : Nat := 1
  deriving DecidableEq, Repr, Inhabited

/-- A native image as selected (R334, R335, R339). -/
structure Img where
  /-- Virtual address of the image and its length. -/
  va   : Nat := 0
  len  : Nat := 0
  xent : Nat := 0
  aent : Nat := 0
  nv   : Nat := 0
  ns   : Nat := 0
  nd   : Nat := 0
  nslot : Nat := 0
  banks : BitVec 20 := 0
  bufs : List Dword := []
  /-- Registered segments of the image, as offsets (R137). -/
  xseg : CodeSeg := {}
  aseg : CodeSeg := {}
  priv : Nat := 0
  /-- Words of a translated image (R341). -/
  words : List IWord := []
  deriving DecidableEq, Repr, Inhabited

/-- Where a node of an instance stands (R60 to R75). -/
inductive Phase where
  | waiting
  | ready
  /-- A node that failed with RESOURCES by selection waits for its translation (R341). -/
  | translating
  | placing
  /-- Committed, waiting for its cores to load (R72). -/
  | starting
  | running
  /-- Evicted; in the ready order with saved contexts (R77). -/
  | evicted
  /-- An XFORM whose engine command runs, or a SUBGRAPH whose child waits or runs. -/
  | engine
  | finished
  deriving DecidableEq, Repr, Inhabited

/-- A node of a graph instance (R58, R60). -/
structure Node where
  counter : Nat := 0
  phase   : Phase := .waiting
  /-- The record, as read when the node became ready (R61). -/
  record  : BitVec 512 := 0
  /-- Mesh cycle at which it became ready. -/
  readyAt : Nat := 0
  /-- Mesh cycle at which it first became ready, for TIME (R62). -/
  firstReady : Nat := 0
  failures : Nat := 0
  backoff : Option Nat := none
  escalated : Bool := false
  img     : Option Img := none
  /-- The FEATMASK and DFV that the selection used (R340). -/
  selKey  : Nat := 0
  /-- Its gangs: one, or the rectangles of a duplex task. -/
  gangs   : List Gang := []
  /-- Old places of an evicted gang, with the save area on each core (R81). -/
  oldPlaces : List (Nat × Nat) := []
  trigCount : Nat := 0
  triggered : Bool := false
  finCount : Nat := 0
  /-- The CODE the task ends with, once its end is sent (R386). -/
  ending  : Option Nat := none
  code    : Option Nat := none
  /-- Mesh cycle from which its quantum counts (R77). -/
  quantumAt : Nat := 0
  evictReq : Bool := false
  superstep : Nat := 0
  /-- The partners of a duplex task have disagreed in the present superstep (R361). -/
  mismatch : Bool := false
  /-- The node waits for its tiebreak rectangle, or it runs (R362). -/
  tiebreak : Bool := false
  startAt : Nat := 0
  issued : Bool := false
  /-- Position in the record ring of the node's first granule, and its recording has met the end of the ring (R367). Reset: none, 0. -/
  recFirst : Option Nat := none
  recFull : Bool := false
  /-- The graph header that a SUBGRAPH node has read for its child (R385). -/
  child  : BitVec 512 := 0
  deriving DecidableEq, Repr, Inhabited

/-- A graph instance (R60). -/
structure Inst where
  num     : Nat := 0
  /-- A one-node instance of a record of KIND 0–3 (R64). -/
  single  : Bool := false
  failrel : Bool := false
  nnodes  : Nat := 0
  nodesVa : Nat := 0
  gstat   : Nat := 0
  ovr     : Bool := false
  nodes   : NMap Node := []
  /-- The SUBGRAPH node that it is the child of (R385). -/
  parent  : Option (Nat × Nat) := none
  madeAt  : Nat := 0
  done    : Bool := false
  deriving DecidableEq, Repr, Inhabited

/-- What the dealer knows of one core of an attempt (R68). -/
inductive Reply where
  | probed
  | granted
  | refused
  | asked
  | acked
  | denied
  deriving DecidableEq, Repr, Inhabited

/-- A placement attempt in progress (R68). -/
structure Attempt where
  inst  : Nat := 0
  node  : Nat := 0
  gangs : List Gang := []
  cores : List (Nat × Reply) := []
  commit : Bool := false
  deriving DecidableEq, Repr, Inhabited

/-- A code segment registered executable (R137). -/
structure Seg where
  half : Half := .x
  va   : Nat := 0
  len  : Nat := 0
  /-- 0 user, 1 supervisor, 2 firmware (R150). -/
  priv : Nat := 0
  /-- The declared vector need that it was scanned for (R23). -/
  need : Nat := 0
  /-- The profiles that it was scanned for, as VERS declares them (R333). -/
  vers : Dword := 0
  deriving DecidableEq, Repr, Inhabited

/-- A write held by a duplex router, or an item that has arrived unpaired (R361). -/
structure Item where
  part  : Nat := 0
  inst  : Nat := 0
  node  : Nat := 0
  partner : Nat := 0
  member : Nat := 0
  index : Nat := 0
  hash  : BitVec 64 := 0
  /-- The memory request that the item carries, where it is an atomic. -/
  req   : Option Req := none
  /-- The id of the held write that it carries, where it is one. -/
  held  : Option Nat := none
  /-- Mesh cycle at which it was sent. -/
  sentAt : Nat := 0
  /-- It has reached its router. -/
  arrived : Bool := false
  /-- It has met its equal from the other partner. -/
  paired : Bool := false
  deriving DecidableEq, Repr, Inhabited

/-- A partition (R13). -/
structure Part where
  x0 : Nat := 0
  y0 : Nat := 0
  w  : Nat := 0
  h  : Nat := 0
  /-- MAXNODES (R64). Set at creation. -/
  maxNodes : Nat := 0
  /-- Launch queue, oldest first: 64 records (R63). Reset: empty. -/
  launchQ : List (BitVec 512) := []
  /-- LDROP (R63): 16 bits. Reset 0. -/
  ldrop  : Nat := 0
  /-- The next instance number (R64): 16 bits. Reset 0. -/
  nextInst : Nat := 0
  /-- The placement cursor (R68): the partition's origin at creation. -/
  curX : Nat := 0
  curY : Nat := 0
  insts  : NMap (Option Inst) := []
  attempt : Option Attempt := none
  /-- Engine commands of XFORM nodes under way, oldest first (R56). Reset: none. -/
  xforms : List XRun := []
  /-- The node escalated at present, as (instance, node) (R70). -/
  escalated : Option (Nat × Nat) := none
  /-- SUBGRAPH nodes whose child waits for admission, oldest first (R385). -/
  children : List (Nat × Nat) := []
  /-- STAGGER.STG (R74): 6 bits. Reset 0. -/
  stagger : BitVec 6 := 0
  /-- QUANTUM.QNT (R77): 16 bits. Reset 0. -/
  quantum : BitVec 16 := 0
  /-- CSABASE.BASE (R80): 12 bits. Reset 0xE00. -/
  csabase : BitVec 12 := 0xE00
  /-- PTBASE.ROOT (R93): 26 bits. Reset 0. -/
  ptbase : BitVec 26 := 0
  /-- XLINV.BUSY, KIND, VPN (R93). Reset 0. -/
  xlBusy : Bool := false
  xlKind : BitVec 2 := 0
  xlVpn  : BitVec 32 := 0
  /-- DIDT.LIMIT (R373): 16 bits. Reset 0. -/
  didt   : BitVec 16 := 0
  /-- THBASE.LOGN and BASE (R315): 5 and 42 bits. Reset 0. -/
  thLogn : BitVec 5 := 0
  thBase : BitVec 42 := 0
  /-- FEATMASK.MASK (R338): 12 bits. Reset 0. -/
  featmask : BitVec 12 := 0
  /-- DUPCTL.INC and THRESH (R355): 8 bits each. Reset 8 and 32. -/
  dupInc : BitVec 8 := 8
  dupThresh : BitVec 8 := 32
  /-- SNAPBASE.BASE (R355): 12 bits. Reset 0xD00. -/
  snapbase : BitVec 12 := 0xD00
  /-- RECCTL.EN and RING (R355): 1 and 42 bits. Reset 0. -/
  recEn : Bool := false
  recRing : BitVec 42 := 0
  /-- Granules of the record ring written so far (R367). Reset 0. -/
  recHead : Nat := 0
  /-- Shared keys granted: bit k = key k (R89). Reset: none. -/
  keys  : BitVec 4 := 1
  /-- Label spaces 0–7 (R250). Reset: none. -/
  lspaces : NMap (Option LSpace) := []
  /-- Diagram spaces 0–7 (R284). Reset: none. -/
  dspaces : NMap (Option DSpace) := []
  /-- Segments registered executable (R137). Reset: none. -/
  segs  : List Seg := []
  /-- Segments refused, with their scan-fault records (R137, Table 6). Reset: none. -/
  scanFaults : List (Seg × Dword) := []
  /-- The translation cache: key and image (R342). Reset: empty. -/
  xcache : List (BitVec 384 × Translated) := []
  /-- Translations that `knqx` refused: instance, node and the byte offset of the word in the portable code (R142). Reset: none. -/
  xlErrors : List (Nat × Nat × Nat) := []
  /-- Data windows 0–7: base and length (R345). Reset: none. -/
  windows : NMap (Option (Nat × Nat)) := []
  /-- The device feature vector, dwords 0 to 2 (R337). -/
  dfv0 : Dword := 0
  dfv1 : Dword := 0
  dfv2 : Dword := 0
  /-- Deliveries held for the next trick (R73). Reset: none. -/
  held  : List Held := []
  /-- Duplex items (R361). Reset: none. -/
  items : List Item := []
  deriving DecidableEq, Repr, Inhabited

/-! ## Clusters, dies, stacks and ports -/

/-- A cluster's shared blocks (R12). -/
structure Cluster where
  /-- The 1,024-entry shared translation cache (R93). Reset: empty. -/
  tlb  : List Tlb := []
  /-- The source that the atomic engine granted last, 0–20 (R103). Reset DESIGN CHOICE 20, so that source 0 comes
  first (log entry 16). -/
  last : Nat := 20
  /-- The command queue that the copy engine served last (R321). Reset DESIGN CHOICE 15, so that queue 0 comes
  first (log entry 16). -/
  lastCopy : Nat := 15
  /-- Gangs run since the last pass of the field test: partition, instance, node, start, finish, sent, received
  (R366). Reset: none. -/
  gangs : List (List Nat) := []
  /-- More gangs ran than the list holds (R366). Reset 0. -/
  gangOvf : Bool := false
  /-- Mesh cycle of the last pass (R366). Reset 0. -/
  passAt : Nat := 0
  deriving DecidableEq, Repr, Inhabited

/-- What reading a granule of a home gives (R100, Table 8). -/
inductive GStat where
  | clean
  /-- A single symbol is in error; reading corrects it. -/
  | correctable
  | uncorrectable
  | macMismatch
  deriving DecidableEq, Repr, Inhabited

/-- An HBM stack (R11, R355, R364, R365). -/
structure Stack where
  /-- STKSTAT.CAPGIB: 6 bits. Reset 48. -/
  capGib : BitVec 6 := 48
  /-- STKSTAT.MAPL: 4 bits. Reset 0. -/
  mapl   : BitVec 4 := 0
  /-- STKSTAT.MAPPED: 1 bit. Reset 0. -/
  mapped : Bool := false
  /-- STKSTAT.STATE: 3 bits. Reset 0. -/
  state  : BitVec 3 := 0
  /-- STKSTAT.FALLBACK: 1 bit. Reset 0. -/
  fallback : Bool := false
  /-- The layer judged failing (R364). Reset 0. -/
  failing : Nat := 0
  /-- Mesh cycle of event 0x35 (R364). Reset 0. -/
  warnAt : Nat := 0
  /-- Mesh cycle of entry into self-refresh (R365). Reset 0. -/
  srAt   : Nat := 0
  /-- 50 ms have passed since entry (R365). Reset 0. -/
  srOver : Bool := false
  /-- The state before self-refresh. Reset 0. -/
  srPrev : BitVec 3 := 0
  deriving DecidableEq, Repr, Inhabited

/-- A packet in a replay buffer (R348). -/
structure Packet where
  seq  : BitVec 32 := 0
  va   : Dword := 0
  bytes : List Byte := []
  core : Nat := 0
  /-- The XFORM node whose command sent it, as (partition, instance, node) (R56). -/
  node : Option (Nat × Nat × Nat) := none
  /-- What it is: no command's, but a write to host memory, an event or a reply to a host read (R347). -/
  host : Bool := false
  /-- It is an error response (R346). -/
  err  : Bool := false
  deriving DecidableEq, Repr, Inhabited

/-- A Svetim Link port (R345, R352). -/
structure LinkPort where
  /-- LSTAT.LANES: 5 bits. Reset 0. -/
  lanes : BitVec 5 := 0
  /-- LSTAT.UP: 1 bit. Reset 0. -/
  up    : Bool := false
  /-- LSTAT.HALF: 1 bit. Reset 0. -/
  half  : Bool := false
  /-- LSTAT.METH: 4 bits. Reset 0. -/
  meth  : BitVec 4 := 0
  /-- LSTAT.RETRAINS: 16 bits, saturating. Reset 0. -/
  retrains : BitVec 16 := 0
  /-- LSTAT.REPLAYS: 32 bits, saturating. Reset 0. -/
  replays : BitVec 32 := 0
  /-- The next sequence number to send (R348). Reset 0. -/
  txSeq : BitVec 32 := 0
  /-- The replay buffer: 256 packets (R348). Reset: empty. -/
  replay : List Packet := []
  /-- The next sequence number expected (R348). Reset 0. -/
  rxSeq : BitVec 32 := 0
  /-- A negative acknowledgement has been sent for the present gap (R348). Reset 0. -/
  naked : Bool := false
  /-- Acknowledgements owed to the peer: the last sequence number performed (R348). Reset: none. -/
  lastAck : BitVec 32 := 0
  /-- The last sequence number the peer acknowledged (R353). Reset 0. -/
  peerAck : BitVec 32 := 0
  /-- Failed lanes: bit i = lane i (R349). Reset 0. -/
  failed : BitVec 16 := 0
  /-- Training is in progress, since this mesh cycle (R349). Reset: none. -/
  training : Option Nat := none
  /-- Mesh cycle of the latest failed training or of going down (R349). Reset 0. -/
  downAt : Nat := 0
  /-- Mesh cycle of the latest transmission that awaits acknowledgement (R348). Reset 0. -/
  sentAt : Nat := 0
  /-- The port's bound partition (R346). Reset: none. -/
  bound : Option Nat := none
  /-- Commands of the peer of which the port has refused a packet (R350). Reset: none. -/
  refused : List Nat := []
  deriving DecidableEq, Repr, Inhabited

/-- A device event waiting to be written, or written (R354). -/
structure Event where
  kind   : Nat := 0
  die    : Nat := 0
  time   : Nat := 0
  fields : List Dword := []
  /-- Granules that follow the record, for event 0x3A (R371). -/
  extra  : List (List Dword) := []
  deriving DecidableEq, Repr, Inhabited

/-- A ring of host memory: EN, LOGN, BASE, HEAD, TAIL, LOST (R354, R376). -/
structure Ring where
  /-- EN: 1 bit. Reset 0. -/
  en   : Bool := false
  /-- LOGN: 5 bits. Reset 0. -/
  logn : BitVec 5 := 0
  /-- BASE: 58 bits. Reset 0. -/
  base : BitVec 58 := 0
  /-- HEAD: 32 bits. Reset 0. -/
  head : BitVec 32 := 0
  /-- TAIL: 32 bits. Reset 0. -/
  tail : BitVec 32 := 0
  /-- LOST: 32 bits, saturating. Reset 0. -/
  lost : BitVec 32 := 0
  deriving DecidableEq, Repr, Inhabited

/-- A capture unit (R378). -/
structure Monitor where
  /-- Dword 0: SRC, X, Y, SHIFT, EN, DUMP, BASE. Reset 0. -/
  ctl  : Dword := 0
  /-- MIN: 32 bits. Reset 0xFFFF_FFFF. -/
  min  : BitVec 32 := 0xFFFFFFFF
  /-- MAX: 32 bits. Reset 0. -/
  max  : BitVec 32 := 0
  /-- COUNT: 32 bits, saturating. Reset 0. -/
  count : BitVec 32 := 0
  /-- DADDR: 58 bits. Reset 0. -/
  daddr : BitVec 58 := 0
  /-- The 32 bins (R378): 32 bits each, saturating. Reset 0. -/
  bins : NMap (BitVec 32) := []
  /-- The model's own: latencies that have ended and are still to be binned, oldest first (R378, R379; log entry 64). Reset DESIGN
  CHOICE none. -/
  due  : List (BitVec 32) := []
  /-- Mesh cycle of the latest sample of the die's current (R378). Reset 0. -/
  last : Nat := 0
  deriving DecidableEq, Repr, Inhabited

/-- A die (R9, R10). -/
structure Die where
  /-- DIDTCAP.LIMIT (R373): 16 bits. Reset 0. -/
  didtcap : BitVec 16 := 0
  /-- The vector of write counters (R121). Reset 0. -/
  vec  : List Nat := [0, 0, 0, 0]
  /-- SEQ of the next telemetry record (R377): 32 bits. Reset 0. -/
  tseq : BitVec 32 := 0
  /-- Mesh cycle of the latest telemetry record (R376). Reset 0. -/
  telAt : Nat := 0
  /-- For each interval that has ended without its record: the effective limit at its end, and whether one was in force in it, oldest
  first (R377). Reset: none. -/
  telEnds : List (Nat × Bool) := []
  /-- An effective limit has been in force in the present interval (R377). Reset 0. -/
  telLim : Bool := false
  /-- Granules corrected, as the telemetry counts them (R100). Reset 0. -/
  corrected : Nat := 0
  deriving DecidableEq, Repr, Inhabited

/-- Life-cycle states (R382). -/
inductive Life where
  | manufacture
  | develop
  | production
  | return_
  | decommissioned
  deriving DecidableEq, Repr, Inhabited

/-- The whole package. -/
structure State where
  /-- Mesh cycles since reset (R354, R178: CYCLE is half of it). Reset 0. -/
  now    : Nat := 0
  /-- The model's own: the number of free values drawn so far (log entries 1 to 4). Reset DESIGN CHOICE 0. -/
  fresh  : Nat := 0
  /-- The model's own: free choices given in advance, used before `Config.choice` (log entry 2).
  Reset: DESIGN CHOICE none. -/
  oracle : List Nat := []
  /-- The model's own: the agents that move next, in order (log entry 1). Reset: DESIGN CHOICE none. -/
  agenda : List Act := []
  /-- The model's own: an access of the present step has to wait, so that the step is taken back (log entry 52). Reset DESIGN
  CHOICE false. -/
  wait   : Bool := false
  /-- The model's own: the core whose half executes the present word. Reset DESIGN CHOICE 0 (log entry 1). -/
  curCore : Nat := 0
  /-- The model's own: the half of that core that executes it. Reset DESIGN CHOICE X (log entry 1). -/
  curHalf : Half := .x
  /-- Home memory: bytes by physical address (R88), 384 GiB. Reset 0. -/
  mem    : List Host.Cell := []
  /-- Tags of home granules, by physical granule number (R100). Reset 0. -/
  mtags  : NMap Tag := []
  /-- What reading a home granule gives (R100). Reset clean. -/
  mstat  : NMap GStat := []
  /-- The key under which a home granule was last written: 1 + partition for its own key, 32 + k for shared key k, 0 for none
  (R89, R100). Reset 0. -/
  mkeys  : NMap Nat := []
  /-- Cores by number y·48 + x (R2). -/
  cores  : NMap Core := []
  /-- Partitions 0–31 (R13). Reset: none. -/
  parts  : NMap (Option Part) := []
  /-- Clusters 0–95 (R12). -/
  clusters : NMap Cluster := []
  /-- Dies 0–3 (R10). -/
  dies   : NMap Die := []
  /-- Stacks 0–7 (R11). -/
  hbm    : NMap Stack := []
  /-- Ports: peers 0–11, host 12 (R345). -/
  ports  : NMap LinkPort := []
  /-- Memory requests issued and not yet served, oldest first (R94). Reset: none. -/
  reqs   : List Req := []
  /-- Accesses that have ended with the stack-unavailable fault, which their cores have not taken yet (R125). Reset: none. -/
  gone   : List Req := []
  /-- Refusals of stores and atomics on their way back: core, access and trap (R92). Reset: none. -/
  refusals : List (Nat × Nat × Trap) := []
  /-- Old values of atomics on their way back: core, access and value (R192). Reset: none. -/
  replies : List (Nat × Nat × SVal) := []
  /-- Block-sum sets on their way to their targets (R237). Reset: none. -/
  bsums  : List BsumSet := []
  /-- Sets that their targets hold buffered until their turn (R237). Reset: none. -/
  bsumBuf : List BsumSet := []
  /-- Messages accepted and on their way, oldest first (R325). Reset: none. -/
  msgs   : List Mail := []
  /-- The model's own: the next id of an access, operation or token. Reset DESIGN CHOICE 0 (log entry 16). -/
  nextId : Nat := 0
  /-- Evictions so far, which order saved contexts (R79). Reset 0. -/
  evictions : Nat := 0
  /-- Host event ring (R354). -/
  evRing : Ring := {}
  /-- Events waiting in the device buffer of 256 granules, oldest first (R354). Reset: none. -/
  evWait : List Event := []
  /-- The next event written has FLAGS bit 0 set (R354). Reset 0. -/
  evLost : Bool := false
  /-- Telemetry ring (R376). -/
  telRing : Ring := {}
  /-- Host memory that the device writes: bytes by host address (R345). -/
  host   : NMap Byte := []
  /-- Capture units 0–15 (R378). -/
  monitors : NMap Monitor := []
  /-- BOOTSTAT (R380): 1 verifying, 2 failed, 3 firmware runs. Reset 1. -/
  bootStat : BitVec 64 := 1
  /-- The four measurement registers, 48 bytes each (R381). Reset 0. -/
  meas   : NMap (BitVec 384) := []
  /-- The quote request pending: nonce and host address (R381). Reset: none. -/
  quote  : Option (BitVec 256 × Dword) := none
  /-- Life-cycle state (R382). Reset DESIGN CHOICE MANUFACTURE (log entry 6). -/
  life   : Life := .manufacture
  /-- Key generation of the device's keys (R368). Reset 0. -/
  keyGen : Nat := 0
  /-- The fuses' hashes of the Ed25519 and the ML-DSA-65 public key (R380). Reset DESIGN CHOICE 0 (log entry 16). -/
  fuseEd : BitVec 384 := 0
  fuseMl : BitVec 384 := 0
  /-- The device identifier (R381). Reset DESIGN CHOICE empty (log entry 16). -/
  devId  : List Byte := []
  /-- What the debug port read last (R194): 512 bits, and its tag. Reset DESIGN CHOICE 0 (log entry 16). -/
  dbgVal : Vec := 0
  dbgTag : Tag := 0
  /-- The bytes that the last read of a data window or a launch window gave (R63, R346). Reset DESIGN CHOICE none (log entry
  45). -/
  outRead : List Byte := []
  /-- The last access of the host was answered by an error response (R346). Reset 0. -/
  outErr : Bool := false
  deriving DecidableEq, Repr, Inhabited

/-- The reasons a step stops with a fault. -/
inductive Fault where
  /-- Raised by the step when the agenda names a core past the 1,536 of the package (R1). Safe: no such core exists,
  so nothing that the device does is lost. -/
  | noSuchCore
  deriving DecidableEq, Repr

/-- The reasons a step is refused. -/
inductive Refusal where
  /-- Not modelled yet: raised by an arm of `exec` that has no meaning. Safe. -/
  | notModelled (mnemonic : String)
  /-- Raised when a group breaks a rule that the scanner checks (R137): no such word ever becomes executable. Safe:
  the device never issues the group. -/
  | unscanned
  /-- Raised by the fetch when a word has a reserved encoding that the scanner refuses (R137, R149). Safe, as above. -/
  | reservedWord
  deriving DecidableEq, Repr

/-- The machine right after reset: wiped memories and registers, every core idle (R368). -/
def State.reset : State := {}

end Sys2Proof.Machine
end

