-- ==== Sys2Proof/Machine/Carillon.lean ====
section
/-! DEFINITION. The Carillon's diagrams (R284 to R304): handles, nodes, the procedure Mk, the forming operations in
their fixed order, counting, references, collection and variable exchange. -/

namespace Sys2Proof.Machine

/-! ## Handles (R287) -/

/-- C, SP and IDX of a handle. -/
def hC (h : Nat) : Bool := h / 2 ^ 31 % 2 = 1
def hSp (h : Nat) : Nat := h / 2 ^ 28 % 8
def hIdx (h : Nat) : Nat := h % 2 ^ 28
def hTrue : Nat := 0
def hFalse : Nat := 2 ^ 31
def hConst (h : Nat) : Bool := hIdx h = 0
def hNot (h : Nat) : Nat := if hC h then h - 2 ^ 31 else h + 2 ^ 31
/-- The complement of `h` where `c` holds. -/
def hXor (c : Bool) (h : Nat) : Nat := if c then hNot h else h
/-- A handle as operations take it: a constant has SP 0 (R287). -/
def hNorm (h : Nat) : Nat := if hConst h then (if hC h then hFalse else hTrue) else h

/-! ## Nodes and references (R288 to R290) -/

def DSpace.node (d : DSpace) (i : Nat) : DNode := d.nodes.get {} i
def DSpace.setNode (d : DSpace) (i : Nat) (n : DNode) : DSpace := { d with nodes := d.nodes.set {} i n }

/-- LEVEL of a variable; NV where it is none of the space's (R286). -/
def DSpace.level (d : DSpace) (v : Nat) : Nat := d.order.idxOf v

/-- The level of a handle's top node; the terminal lies below every variable (R288). -/
def DSpace.hLevel (d : DSpace) (h : Nat) : Nat := if hConst h then d.nv else d.level (d.node (hIdx h)).var

/-- LIVE: nodes in use (R286). -/
def DSpace.live (d : DSpace) : Nat := d.nodes.length

/-- The record of node `i`: node 0 is the terminal, in use and immortal (R288). -/
def DSpace.record (d : DSpace) (i : Nat) : DNode := if i = 0 then { ref := 0xFFFF, used := true } else d.node i

/-- The bucket of a node in use (R286). -/
def DSpace.bucketOf (d : DSpace) (n : DNode) : Nat := Config.nodeHash n.var n.low n.high % 2 ^ d.logNb

/-- The nodes of a bucket, in the order of its chain: by index (DESIGN CHOICE, log entry 56). -/
def DSpace.bucket (d : DSpace) (b : Nat) : List Nat := (d.nodes.filter fun e => d.bucketOf e.2 = b).map (·.1)

/-- CHAIN: the next node in the bucket of node `i`, and 0 at the end of the chain (R288). -/
def DSpace.chain (d : DSpace) (i : Nat) : Nat := (((d.bucket (d.bucketOf (d.node i))).filter (i < ·)).head?).getD 0

/-- 32-bit word `j` of the record of node `i` (R288, Table 5). -/
def DSpace.recordWord (d : DSpace) (i j : Nat) : Nat :=
  let n := d.record i
  match j with
  | 0 => n.var + n.ref * 2 ^ 12 + (if n.used then 2 ^ 28 else 0) + if n.mark then 2 ^ 29 else 0
  | 1 => n.low.toNat
  | 2 => n.high.toNat
  | _ => if i = 0 || !n.used then 0 else d.chain i

/-- Dword `i` of the header (R286, Table 3). -/
def DSpace.header (d : DSpace) : Nat → Nat
  | 0 => d.nv + (match d.tied with
      | some l => 2 ^ 13 + l * 2 ^ 14
      | none => 0) + d.nn * 2 ^ 32
  | 1 => d.logNb
  | 2 => d.live
  | 3 => d.gcs
  | _ => 0

/-- Word of the node array's first record: it starts at the next granule after the bucket heads (R286, Table 2). -/
def DSpace.nodeBase (d : DSpace) : Nat := (0x4040 + 4 * 2 ^ d.logNb + 63) / 64 * 16

/-- 32-bit word `w` of the region (R286, Table 2): LEVEL and VAR read 0xFFFF from NV on. -/
def DSpace.word (d : DSpace) (w : Nat) : Nat :=
  let two (f : Nat → Nat) (k : Nat) : Nat := f k + f (k + 1) * 2 ^ 16
  if w < 16 then d.header (w / 2) / 2 ^ (w % 2 * 32) % 2 ^ 32
  else if w < 0x810 then two (fun v => if v < d.nv then d.level v else 0xFFFF) (2 * (w - 16))
  else if w < 0x1010 then two (fun l => d.order.getD l 0xFFFF) (2 * (w - 0x810))
  else if w < 0x1010 + 2 ^ d.logNb then ((d.bucket (w - 0x1010)).head?).getD 0
  else if d.nodeBase ≤ w && (w - d.nodeBase) / 4 ≤ d.nn then d.recordWord ((w - d.nodeBase) / 4) ((w - d.nodeBase) % 4)
  else 0

/-- Dword `i` of the region. -/
def DSpace.dword (d : DSpace) (i : Nat) : Dword := BitVec.ofNat 64 (d.word (2 * i) + d.word (2 * i + 1) * 2 ^ 32)

/-- One reference more, saturating (R288, R290). -/
def DSpace.incRef (d : DSpace) (h : Nat) : DSpace :=
  if hConst h then d
  else
    let n := d.node (hIdx h)
    if n.ref = 0xFFFF then d else d.setNode (hIdx h) { n with ref := n.ref + 1 }

/-- One reference less; a saturated count stays, and 0 stays (R290, R301). -/
def DSpace.decRef (d : DSpace) (h : Nat) : DSpace :=
  if hConst h then d
  else
    let n := d.node (hIdx h)
    if n.ref = 0xFFFF || n.ref = 0 then d else d.setNode (hIdx h) { n with ref := n.ref - 1 }

/-- The lowest index from `i` on that no entry of the list takes; the list's keys rise. -/
def firstGap {α : Type} (i : Nat) : NMap α → Nat
  | [] => i
  | (k, _) :: m => if k = i then firstGap (i + 1) m else i

/-- A computation in a space: the space, its number, whether it has found the table full, and sub-results. -/
structure DRun where
  d    : DSpace := {}
  sp   : Nat := 0
  full : Bool := false
  memo : List (List Nat × Nat) := []
  deriving DecidableEq, Repr, Inhabited

/-- The handle of node `i`. -/
def DRun.handle (m : DRun) (i : Nat) : Nat := m.sp * 2 ^ 28 + i

/-- Mk on a high child that is not complemented (R289). -/
def DRun.mkNode (m : DRun) (v l h : Nat) : DRun × Nat :=
  match m.d.nodes.find? fun e => e.2.var = v && e.2.low.toNat = l && e.2.high.toNat = h with
  | some (i, _) => (m, m.handle i)
  | none =>
    let i := firstGap 1 m.d.nodes
    if m.d.nn < i then ({ m with full := true }, hFalse)
    else
      let n : DNode := { var := v, used := true, low := BitVec.ofNat 32 l, high := BitVec.ofNat 32 h }
      ({ m with d := ((m.d.setNode i n).incRef l).incRef h }, m.handle i)

/-- The procedure Mk (R289). After the table has been found full nothing more is formed (R293). -/
def DRun.form (m : DRun) (v l h : Nat) : DRun × Nat :=
  if m.full || l = h then (m, l)
  else if hC h then let (m, r) := m.mkNode v (hNot l) (hNot h); (m, hNot r)
  else m.mkNode v l h

/-- The cofactor of `h` with variable `v` fixed to `b`, where `v` is at or above its top node. -/
def DSpace.cof (d : DSpace) (v : Nat) (b : Bool) (h : Nat) : Nat :=
  if hConst h then h
  else
    let n := d.node (hIdx h)
    if n.var = v then hNorm (hXor (hC h) (if b then n.high.toNat else n.low.toNat)) else h

def hOfBool (b : Bool) : Nat := if b then hTrue else hFalse

/-- A function of several operands, by recursion on the variable at the least level, the 0-cofactor first (R304). -/
def DRun.combine (f : List Bool → Bool) : Nat → DRun → List Nat → DRun × Nat
  | 0, m, hs => (m, hOfBool (f (hs.map fun h => !hC h)))
  | n + 1, m, hs =>
    if hs.all hConst then (m, hOfBool (f (hs.map fun h => !hC h)))
    else match m.memo.lookup hs with
      | some r => (m, r)
      | none =>
        let l := hs.foldl (fun l h => min l (m.d.hLevel h)) m.d.nv
        let v := m.d.order.getD l 0
        let (m, r0) := combine f n m (hs.map (m.d.cof v false))
        let (m, r1) := combine f n m (hs.map (m.d.cof v true))
        let (m, r) := m.form v r0 r1
        ({ m with memo := (hs, r) :: m.memo }, r)

/-- Levels that a recursion can pass through. -/
def DRun.fuel (m : DRun) : Nat := m.d.nv + 1

/-- Bit `2x + y` of a truth table (R295). -/
def tableBit (t : Nat) (l : List Bool) : Bool :=
  match l with
  | [x, y] => t / 2 ^ (2 * (if x then 1 else 0) + (if y then 1 else 0)) % 2 = 1
  | _ => false

/-- If-then-else on three values. -/
def iteBit (l : List Bool) : Bool :=
  match l with
  | [a, b, c] => if a then b else c
  | _ => false

def DRun.ite (m : DRun) (a b t : Nat) : DRun × Nat := { m with memo := [] }.combine iteBit m.fuel [a, b, t]
def DRun.apply (m : DRun) (table a b : Nat) : DRun × Nat :=
  { m with memo := [] }.combine (tableBit table) m.fuel [a, b]
def DRun.orH (m : DRun) (a b : Nat) : DRun × Nat := m.apply 14 a b
def DRun.andH (m : DRun) (a b : Nat) : DRun × Nat := m.apply 8 a b

/-- The literal of variable `v` (R295). -/
def DRun.literal (m : DRun) (v : Nat) : DRun × Nat := m.form v hFalse hTrue

/-- `h` with variable `v` fixed to `b` (R295, R304). -/
def DRun.restrict (v : Nat) (b : Bool) : Nat → DRun → Nat → DRun × Nat
  | 0, m, h => (m, h)
  | n + 1, m, h =>
    if m.d.level v < m.d.hLevel h then (m, h)
    else match m.memo.lookup [h] with
      | some r => (m, r)
      | none =>
        let x := (m.d.node (hIdx h)).var
        if x = v then (m, m.d.cof v b h)
        else
          let (m, r0) := restrict v b n m (m.d.cof x false h)
          let (m, r1) := restrict v b n m (m.d.cof x true h)
          let (m, r) := m.form x r0 r1
          ({ m with memo := ([h], r) :: m.memo }, r)

/-- `h` with the variables listed quantified existentially (R295, R304). Sub-results of the quantification are kept
under keys of one handle, those of the disjunctions under keys of two. -/
def DRun.exists_ (vs : List Nat) : Nat → DRun → Nat → DRun × Nat
  | 0, m, h => (m, h)
  | n + 1, m, h =>
    if hConst h then (m, h)
    else match m.memo.lookup [h] with
      | some r => (m, r)
      | none =>
        let x := (m.d.node (hIdx h)).var
        let (m, r0) := exists_ vs n m (m.d.cof x false h)
        let (m, r1) := exists_ vs n m (m.d.cof x true h)
        let (m, r) := if vs.contains x then m.combine (tableBit 14) m.fuel [r0, r1] else m.form x r0 r1
        ({ m with memo := ([h], r) :: m.memo }, r)

/-! ## Inspecting diagrams -/

/-- Node indices reachable from the handles listed, each once. -/
def DSpace.reach (d : DSpace) : Nat → List Nat → List Nat → List Nat
  | 0, _, seen => seen
  | _ + 1, [], seen => seen
  | n + 1, h :: hs, seen =>
    if hConst h || seen.contains (hIdx h) then reach d n hs seen
    else
      let k := d.node (hIdx h)
      reach d n (k.low.toNat :: k.high.toNat :: hs) (hIdx h :: seen)

/-- Node indices reachable from `h` (R300). -/
def DSpace.reachable (d : DSpace) (h : Nat) : List Nat := d.reach (3 * d.live + 2) [h] []

/-- The variables tested by nodes reachable from `h` (R295). -/
def DSpace.support (d : DSpace) (h : Nat) : List Nat := ((d.reachable h).map fun i => (d.node i).var).eraseDups

/-- Node indices reachable from `h`, deepest level first. -/
def DSpace.bottomUp (d : DSpace) (h : Nat) : List Nat :=
  let r := d.reachable h
  ((List.range d.nv).reverse.flatMap fun l => r.filter fun i => d.level (d.node i).var = l)

/-- A value for every node reachable from `h`, computed from those of its children. -/
def DSpace.foldUp {α : Type} (d : DSpace) (h : Nat) (f : List (Nat × α) → Nat → α) : List (Nat × α) :=
  (d.bottomUp h).foldl (fun m i => (i, f m i) :: m) []

/-- The least satisfying cube in level order: (variable, value) from the top (R298). -/
def DSpace.cube (d : DSpace) : Nat → Nat → List (Nat × Bool)
  | 0, _ => []
  | n + 1, h =>
    if hConst h then []
    else
      let v := (d.node (hIdx h)).var
      let l := d.cof v false h
      if l = hFalse then (v, true) :: cube d n (d.cof v true h) else (v, false) :: cube d n l

/-- The conjunction of a cube's literals, formed from the deepest level upward (R304). -/
def DRun.formCube (m : DRun) : List (Nat × Bool) → DRun × Nat
  | [] => (m, hTrue)
  | (v, b) :: ls =>
    let (m, r) := formCube m ls
    if b then m.form v hFalse r else m.form v r hFalse

/-- Assignments to the levels l to n − 1 that make `h` true, from the counts of nodes (over their own level and those
below it) (R296). -/
def DSpace.countOf (d : DSpace) (n : Nat) (m : List (Nat × Nat)) (l h : Nat) : Nat :=
  let v := if hConst h then n else d.hLevel h
  let x := if hConst h then 1 else (m.lookup (hIdx h)).getD 0
  2 ^ (v - l) * (if hC h then 2 ^ (n - v) - x else x)

def DSpace.count (d : DSpace) (n h : Nat) : Nat :=
  let m := d.foldUp h fun m i =>
    let k := d.node i
    let v := d.level k.var
    d.countOf n m (v + 1) k.low.toNat + d.countOf n m (v + 1) k.high.toNat
  d.countOf n m 0 h

/-- A node reachable from `h` has a level of n or more (R296). -/
def DSpace.tooDeep (d : DSpace) (n h : Nat) : Bool := (d.reachable h).any fun i => n ≤ d.level (d.node i).var

/-- FP64 arithmetic under R39, on bits. -/
def f64 (x : Nat) : FVal := fdecode fp64 false x
def f64add (x y : Nat) : Nat := (fadd fp64 .rne false (f64 x) (f64 y)).1
def f64sub (x y : Nat) : Nat := (fadd fp64 .rne false (f64 x) (f64 y).neg).1
def f64mul (x y : Nat) : Nat := (fmul fp64 .rne false (f64 x) (f64 y)).1
def f64one : Nat := 0x3FF0000000000000

/-- Lift (R297): `ss` holds s[0], s[1], … -/
def wLift (ss : List Nat) (x frm target : Nat) : Nat :=
  ((List.range (frm - target)).reverse).foldl (fun x j => f64mul (ss.getD (target + j) 0) x) x

/-- Wt (R297), from the Wn of nodes. -/
def DSpace.wt (d : DSpace) (n : Nat) (ss : List Nat) (m : List (Nat × Nat)) (l h : Nat) : Nat :=
  let v := if hConst h then n else d.hLevel h
  let x := if hConst h then f64one else (m.lookup (hIdx h)).getD 0
  let x := if hC h then f64sub (wLift ss f64one n v) x else x
  wLift ss x v l

/-- The weighted count over levels 0 to n − 1, with weights by variable (R297). -/
def DSpace.wcount (d : DSpace) (w0 w1 : Nat → Nat) (n h : Nat) : Nat :=
  let ss := (List.range n).map fun k => let v := d.order.getD k 0; f64add (w0 v) (w1 v)
  let m := d.foldUp h fun m i =>
    let k := d.node i
    let v := d.level k.var
    f64add (f64mul (w0 k.var) (d.wt n ss m (v + 1) k.low.toNat)) (f64mul (w1 k.var) (d.wt n ss m (v + 1) k.high.toNat))
  d.wt n ss m 0 h

/-- One set, written as a mask, contains another. -/
def subset (x y : Nat) : Bool := x &&& y = x

/-- The minimal true sets of a function from those of its two cofactors by variable `v` (R299). -/
def minJoin (v : Nat) (lo hi : List Nat) : List Nat :=
  lo ++ (hi.filter fun s => lo.all fun t => !subset t s).map fun s => s ||| 2 ^ v

/-- Minimal true sets of `h` and of its complement, from those of nodes. -/
def minOf (m : List (Nat × (List Nat × List Nat))) (h : Nat) : List Nat × List Nat :=
  let p := if hConst h then ([0], []) else (m.lookup (hIdx h)).getD ([], [])
  if hC h then (p.2, p.1) else p

/-- The minimal true sets of `h`, as masks of variables (R299). -/
def DSpace.minSets (d : DSpace) (h : Nat) : List Nat :=
  let m := d.foldUp h fun m i =>
    let k := d.node i
    let l := minOf m k.low.toNat
    let r := minOf m k.high.toNat
    (minJoin k.var l.1 r.1, minJoin k.var l.2 r.2)
  (minOf m h).1

/-! ## Collection and exchange (R302, R303) -/

/-- Frees a node and gives up its references. -/
def DSpace.free (d : DSpace) (i : Nat) : DSpace :=
  let n := d.node i
  { (d.decRef n.low.toNat).decRef n.high.toNat with
    nodes := ((d.decRef n.low.toNat).decRef n.high.toNat).nodes.erase i }

/-- Passes of a collection until no node in use has REF 0. -/
def DSpace.sweep : Nat → DSpace → DSpace
  | 0, d => d
  | n + 1, d =>
    match d.nodes.find? fun e => e.2.ref = 0 with
    | some (i, _) => sweep n (d.free i)
    | none => d

/-- A collection: the space and the number of nodes freed (R302). -/
def DSpace.gc (d : DSpace) : DSpace × Nat :=
  let d' := DSpace.sweep (d.live + 1) d
  ({ d' with gcs := (d.gcs + 1) % 2 ^ 40 }, d.live - d'.live)

/-- Nodes of level l, in ascending index order. -/
def DSpace.atLevel (d : DSpace) (l : Nat) : List Nat := (d.nodes.filter fun e => d.level e.2.var = l).map (·.1)

/-- One node of level l rewritten by an exchange with level l + 1 (R303): u and w are their variables. -/
def DRun.rewrite (m : DRun) (u w : Nat) (i : Nat) : DRun :=
  let n := m.d.node i
  let f (a b : Bool) : Nat := m.d.cof w b (if a then n.high.toNat else hNorm n.low.toNat)
  let low := (f false false, f true false)
  let high := (f false true, f true true)
  let (m, r0) := m.form u low.1 low.2
  let (m, r1) := m.form u high.1 high.2
  let d := (m.d.incRef r0).incRef r1
  let d := (d.decRef n.low.toNat).decRef n.high.toNat
  let k := d.node i
  { m with d := d.setNode i { k with var := w, low := BitVec.ofNat 32 r0, high := BitVec.ofNat 32 r1 } }

/-- The exchange of levels l and l + 1, where the reservation is met (R303). -/
def DRun.swap (m : DRun) (l : Nat) : DRun :=
  let u := m.d.order.getD l 0
  let w := m.d.order.getD (l + 1) 0
  let is := (m.d.atLevel l).filter fun i =>
    let n := m.d.node i
    m.d.hLevel n.low.toNat = l + 1 || m.d.hLevel n.high.toNat = l + 1
  let m := is.foldl (fun m i => m.rewrite u w i) m
  { m with d := { m.d with order := (m.d.order.set l w).set (l + 1) u } }

/-! ## The `cl` operations (R294 to R303) -/

/-- Status codes (Table 8). -/
def stOk : Nat := 0
def stBadh : Nat := 1
def stArg : Nat := 2
def stDepth : Nat := 3
def stUnsat : Nat := 4
def stZero : Nat := 5
def stFault : Nat := 6

/-- A handle operand is bad: IDX past NN, or a free node (R294, Table 8). -/
def DSpace.bad (d : DSpace) (h : Nat) : Bool := !hConst h && (d.nn < hIdx h || !(d.node (hIdx h)).used)

/-- What an operation gives: `.r`, `.h` where it writes it, status, operation bits, and the space. -/
structure ClOut where
  r    : Nat := 0
  h    : Option Nat := none
  st   : Nat := 0
  bits : Nat := 0
  m    : DRun := {}
  deriving DecidableEq, Repr, Inhabited

/-- A handle result with one reference that the caller owns (R290). -/
def handleOut (x : DRun × Nat) : ClOut :=
  if x.1.full then { m := x.1 } else { r := x.2, m := { x.1 with d := x.1.d.incRef x.2 } }

/-- A count saturated to U64 (R296). -/
def countOut (m : DRun) (n : Nat) : ClOut :=
  if n < 2 ^ 64 then { r := n, m := m } else { r := 2 ^ 64 - 1, bits := 1, m := m }

/-- The handle operands of an operation, by its index (R294, Table 6). -/
def clHandles (op a b t : Nat) : List Nat :=
  match op with
  | 1 => [a, b, t]
  | 2 => [a, b]
  | 3 | 6 | 7 | 8 | 9 | 10 | 14 => [t]
  | 4 => [a]
  | 5 => [a, t]
  | 12 => if t % 8 = 1 || t % 8 = 5 then [a] else []
  | _ => []

/-- The operation's argument is out of range (Table 8, ARG). -/
def clArgBad (d : DSpace) (op a t : Nat) : Bool :=
  match op with
  | 0 => d.nv ≤ t % 4096
  | 4 => d.nv ≤ t % 4096
  | 6 | 7 => d.nv < a % 8192
  | 11 => d.nv < t % 4096 + 2
  | 12 => 6 ≤ t % 8 || ((t % 8 = 3 || t % 8 = 4) && d.nv ≤ a % 4096)
  | _ => false

/-- The result of an operation that is not performed (R294): a handle result is false, a number 0. -/
def clRefused (op st : Nat) (m : DRun) : ClOut :=
  { r := if op ≤ 5 || op = 8 then hFalse else 0
    h := if op = 8 || (op = 13) then some 0 else none
    st := st, m := m }

/-- The reference count of a handle: 0xFFFF for a constant (R301). -/
def DSpace.refOf (d : DSpace) (h : Nat) : Nat := if hConst h then 0xFFFF else (d.node (hIdx h)).ref

/-- One `cl` operation in the engine order (R291, R295 to R303): trigger index, operands from bits [31:0], the weights of
`cl.wcount`. -/
def clPerform (m : DRun) (op : Nat) (a b t : Nat) (w0 w1 : Nat → Nat) : ClOut :=
  let ha := hNorm (a % 2 ^ 32)
  let hb := hNorm (b % 2 ^ 32)
  let ht := hNorm (t % 2 ^ 32)
  if (clHandles op ha hb (if op = 12 then t else ht)).any m.d.bad then clRefused op stBadh m
  else if clArgBad m.d op a t then clRefused op stArg m
  else match op with
  | 0 => handleOut (m.literal (t % 4096))
  | 1 => handleOut (m.ite ha hb ht)
  | 2 => handleOut (m.apply (t % 16) ha hb)
  | 3 => handleOut (m, hNorm (hNot ht))
  | 4 => handleOut (DRun.restrict (t % 4096) (t / 4096 % 2 = 1) m.fuel m ha)
  | 5 => handleOut (DRun.exists_ (m.d.support ht) m.fuel m ha)
  | 6 =>
    let n := a % 8192
    if m.d.tooDeep n ht then clRefused op stDepth m else countOut m (m.d.count n ht)
  | 7 =>
    let n := a % 8192
    if m.d.tooDeep n ht then clRefused op stDepth m else { r := m.d.wcount w0 w1 n ht, m := m }
  | 8 =>
    if ht = hFalse then { r := hFalse, h := some 0, st := stUnsat, m := m }
    else
      let c := m.d.cube m.fuel ht
      { handleOut (m.formCube c) with
        h := some ((c.filter fun e => e.2 && e.1 < 64).foldl (fun x e => x ||| 2 ^ e.1) 0) }
  | 9 => let d := m.d.incRef ht; { r := d.refOf ht, m := { m with d := d } }
  | 10 =>
    if !hConst ht && m.d.refOf ht = 0 then { r := 0, st := stZero, m := m }
    else let d := m.d.decRef ht; { r := d.refOf ht, m := { m with d := d } }
  | 11 =>
    let l := t % 4096
    if m.d.nn < m.d.live + 2 * (m.d.atLevel l).length then { m := { m with full := true } }
    else { m := m.swap l }
  | 12 =>
    { m := m
      r := match t % 8 with
        | 0 => m.d.live
        | 1 => (m.d.reachable ha).length
        | 2 => m.d.nn
        | 3 => m.d.level (a % 4096)
        | 4 => m.d.order.getD (a % 4096) 0
        | _ => m.d.refOf ha }
  | 13 => let (d, n) := m.d.gc; { r := n, h := some d.live, m := { m with d := d } }
  | _ =>
    let lim := a % 2 ^ 32
    let n := (m.d.minSets ht).length
    if lim = 0 then countOut m n
    else { r := min n lim, bits := if lim ≤ n then 1 else 0, m := m }

end Sys2Proof.Machine
end

