-- ==== Sys2Proof/Machine/Ports.lean ====
section
/-! DEFINITION. The port map (R145 to R150): which address names what, in which direction, for which half, and in
which width class. -/

namespace Sys2Proof.Machine

/-- The half that may use a port (R145, Table 1). -/
inductive PHalf where
  | x
  | a
  | both
  deriving DecidableEq, Repr

/-- The width class of a port (R128). -/
inductive Cls where
  | scalar
  | vector
  | pred
  | queue
  deriving DecidableEq, Repr

/-- A unit's range: base, number of operand ports, TBASE, number of triggers, top address, half (R146, Table 2). -/
structure UnitRange where
  base  : Nat
  nOps  : Nat
  tbase : Nat
  nTrig : Nat
  top   : Nat
  half  : PHalf
  deriving DecidableEq, Repr

def uAl : UnitRange := ⟨0x100, 3, 0x108, 40, 0x17F, .x⟩
def uMd : UnitRange := ⟨0x180, 2, 0x188, 8, 0x1BF, .x⟩
def uVx : UnitRange := ⟨0x200, 5, 0x210, 56, 0x2FF, .x⟩
def uMx : UnitRange := ⟨0x300, 3, 0x308, 10, 0x37F, .x⟩
def uLb : UnitRange := ⟨0x380, 2, 0x388, 16, 0x3BF, .x⟩
def uCl : UnitRange := ⟨0x3C0, 3, 0x3C8, 15, 0x3FF, .x⟩
def uMs : UnitRange := ⟨0x400, 3, 0x408, 4, 0x43F, .x⟩
def uCt : UnitRange := ⟨0x440, 3, 0x448, 17, 0x4BF, .x⟩
def uAg : UnitRange := ⟨0x500, 4, 0x508, 9, 0x57F, .a⟩
def uAa : UnitRange := ⟨0x580, 2, 0x588, 8, 0x5BF, .a⟩
def uAc : UnitRange := ⟨0x5C0, 2, 0x5C8, 6, 0x5DF, .a⟩
def uAt : UnitRange := ⟨0x5E0, 3, 0x5E8, 11, 0x5FF, .a⟩
def uCe : UnitRange := ⟨0x600, 3, 0x608, 2, 0x63F, .a⟩

/-- The thirteen units in address order. -/
def unitRanges : List UnitRange := [uAl, uMd, uVx, uMx, uLb, uCl, uMs, uCt, uAg, uAa, uAc, uAt, uCe]

/-- The unit whose range holds address `p`. -/
def unitOf (p : Nat) : Option UnitRange :=
  unitRanges.find? fun u => u.base ≤ p && p ≤ u.top

/-- Whether `p` is a trigger port of unit `u` (R146). -/
def UnitRange.isTrig (u : UnitRange) (p : Nat) : Bool := u.tbase ≤ p && p < u.tbase + u.nTrig

/-- Whether `p` is an operand port of unit `u`. -/
def UnitRange.isOp (u : UnitRange) (p : Nat) : Bool := u.base ≤ p && p < u.base + u.nOps

/-- Whether `p` is a result port of unit `u`: the top three addresses. -/
def UnitRange.isRes (u : UnitRange) (p : Nat) : Bool := u.top - 2 ≤ p && p ≤ u.top

/-- Whether `p` is a trigger port of some unit. -/
def isTrigger (p : Nat) : Bool :=
  match unitOf p with
  | some u => u.isTrig p
  | none => false

/-- The class of an operand, trigger or result port of a unit (R146, Table 2). -/
def unitCls (u : UnitRange) (p : Nat) : Cls :=
  if u = uVx then (if p = 0x204 then .scalar else .vector)
  else if p = 0x402 then .vector
  else .scalar

/-- The result ports of a unit: `.r`, `.h`, `.f`. -/
def UnitRange.r (u : UnitRange) : Nat := u.top - 2
def UnitRange.h (u : UnitRange) : Nat := u.top - 1
def UnitRange.f (u : UnitRange) : Nat := u.top

/-- What address `p` names as a source: its half and class, or none where it is reserved (R145, R146). -/
def srcPort (p : Nat) : Option (PHalf × Cls) :=
  if p < 0x40 then some (.x, .scalar)
  else if p < 0x80 then some (.x, .vector)
  else if 0x81 ≤ p && p ≤ 0x87 then some (.x, .pred)
  else if 0x88 ≤ p && p ≤ 0x8B then some (.x, .queue)
  else if p = 0x8C then some (.a, .queue)
  else if 0x90 ≤ p && p ≤ 0xAF then some (.a, .scalar)
  else if p = 0xB0 then some (.x, .queue)
  else if 0xC0 ≤ p && p ≤ 0xC2 then some (.both, .scalar)
  else if 0xC8 ≤ p && p ≤ 0xCE then some (.both, .scalar)
  else if p = 0x43C then some (.x, .queue)
  else match unitOf p with
    | some u => if u.isOp p || u.isRes p then some (u.half, unitCls u p) else none
    | none => none

/-- What address `p` names as a destination (R145, R146). -/
def dstPort (p : Nat) : Option (PHalf × Cls) :=
  if p < 0x40 then some (.x, .scalar)
  else if p < 0x80 then some (.x, .vector)
  else if 0x81 ≤ p && p ≤ 0x87 then some (.x, .pred)
  else if 0x88 ≤ p && p ≤ 0x8B then some (.x, .queue)
  else if p = 0x8C then some (.x, .queue)
  else if 0x90 ≤ p && p ≤ 0xAF then some (.a, .scalar)
  else if p = 0xB0 then some (.a, .queue)
  else match unitOf p with
    | some u => if u.isOp p || u.isTrig p then some (u.half, unitCls u p) else none
    | none => none

/-- The privileged ports (R150). -/
def isPrivPort (p : Nat) : Bool := p = 0x456 || p = 0x457 || p = 0x458

/-- Whether a half may use a port (R149). -/
def PHalf.allows (ph : PHalf) (h : Half) : Bool :=
  match ph, h with
  | .both, _ => true
  | .x, .x => true
  | .a, .a => true
  | _, _ => false

/-- Whether MOD is reserved for a source class by Table 3 of R129, whatever MODX says. -/
def modReserved (c : Cls) (m : Nat) : Bool :=
  match c with
  | .scalar => 5 ≤ m
  | .pred => 5 ≤ m
  | .vector => false
  | .queue => 3 ≤ m

end Sys2Proof.Machine
end

