-- ==== Sys2Proof/Machine/Tags.lean ====
section
/-! DEFINITION. Joins of label tags (R255, R256): what a join gives without the label table, and what it leaves to the
label unit. -/

namespace Sys2Proof.Machine

/-- The mucked tag (R8). -/
abbrev mucked : Tag := 0xFFFF

/-- The distinct tags of a list, in order. -/
def distinct : List Tag → List Tag
  | [] => []
  | t :: ts => if ts.contains t then distinct ts else t :: distinct ts

/-- The join of tags as far as the fast path takes it (R255, R267): 0 joins nothing, 0xFFFF absorbs everything, equal
tags join to themselves. Two or more tags left are a join that the label unit has still to resolve. -/
def normTags (ts : List Tag) : LTag :=
  if ts.contains mucked then [mucked] else distinct (ts.filter (· != 0))

/-- Join(t1, …, tn) (R256). -/
def joinTags (ls : List LTag) : LTag := normTags ls.flatten

/-- A tag as a label tag. -/
def tagOf (t : Tag) : LTag := normTags [t]

/-- The tag has still to be resolved (R267). -/
def unresolved (l : LTag) : Bool := 2 ≤ l.length

/-- The tag is 0xFFFF. -/
def isMuck (l : LTag) : Bool := l.contains mucked

/-- The single tag of a resolved label tag. -/
def toTag (l : LTag) : Tag := l.headD 0

end Sys2Proof.Machine
end

