-- ==== Sys2Proof/Machine/Ops.lean ====
section
/-! DEFINITION. The named operations over the state: cores, partitions and memory; queues; results in flight; device
events; taking a trap (R180), returning from it (R182), and ending a task (R386). -/

namespace Sys2Proof.Machine

/-! ## Coordinates (R2, R9, R11, R12) -/

def coreX (c : Nat) : Nat := c % 48
def coreY (c : Nat) : Nat := c / 48
def coreAt (x y : Nat) : Nat := y * 48 + x
def dieOf (c : Nat) : Nat := (if 24 ≤ coreX c then 1 else 0) + 2 * (if 16 ≤ coreY c then 1 else 0)
def clusterOf (c : Nat) : Nat := coreY c / 4 * 12 + coreX c / 4
/-- The stack that holds the core's home (R11). -/
def stackOf (c : Nat) : Nat := 2 * dieOf c + coreY c % 16 / 8
/-- The pseudo-channel of the core's home (R11). -/
def channelOf (c : Nat) : Nat := coreY c % 16 % 8 * 24 + coreX c % 24
/-- Cluster-local order (R90). -/
def localIndex (c : Nat) : Nat := coreY c % 4 * 4 + coreX c % 4
def numCores : Nat := 1536
/-- The cores of a cluster in cluster-local order. -/
def clusterCores (k : Nat) : List Nat :=
  (List.range 16).map fun i => coreAt (4 * (k % 12) + i % 4) (4 * (k / 12) + i / 4)
/-- The cores of a rectangle in row-major order. -/
def rectCores (x0 y0 w h : Nat) : List Nat :=
  (List.range (w * h)).map fun i => coreAt (x0 + i % w) (y0 + i / w)

/-! ## Cores, partitions and the other agents -/

def State.core (s : State) (c : Nat) : Core := s.cores.get {} c
def State.setCore (s : State) (c : Nat) (k : Core) : State := { s with cores := s.cores.set {} c k }
def State.updCore (s : State) (c : Nat) (f : Core → Core) : State := s.setCore c (f (s.core c))
def State.ctx (s : State) (c : Nat) : Ctx := (s.core c).ctx
def State.updCtx (s : State) (c : Nat) (f : Ctx → Ctx) : State := s.updCore c fun k => { k with ctx := f k.ctx }
def State.part (s : State) (p : Nat) : Part := (s.parts.get none p).getD {}
def State.setPart (s : State) (p : Nat) (v : Option Part) : State := { s with parts := s.parts.set none p v }
/-- `f` applied to partition `p`, if it exists. -/
def State.updPart (s : State) (p : Nat) (f : Part → Part) : State :=
  match s.parts.get none p with
  | some x => s.setPart p (some (f x))
  | none => s
def State.cluster (s : State) (k : Nat) : Cluster := s.clusters.get {} k
def State.updCluster (s : State) (k : Nat) (f : Cluster → Cluster) : State :=
  { s with clusters := s.clusters.upd {} k f }
def State.die (s : State) (d : Nat) : Die := s.dies.get {} d
def State.updDie (s : State) (d : Nat) (f : Die → Die) : State := { s with dies := s.dies.upd {} d f }
def State.stk (s : State) (k : Nat) : Stack := s.hbm.get {} k
def State.updStk (s : State) (k : Nat) (f : Stack → Stack) : State := { s with hbm := s.hbm.upd {} k f }
def State.port (s : State) (p : Nat) : LinkPort := s.ports.get {} p
def State.updPort (s : State) (p : Nat) (f : LinkPort → LinkPort) : State := { s with ports := s.ports.upd {} p f }

/-- Operand slots of a core (R19). -/
def Core.slot (k : Core) (i : Nat) : OpSlot := k.slots.get {} i
def Core.setSlot (k : Core) (i : Nat) (v : OpSlot) : Core := { k with slots := k.slots.set {} i v }

/-- The cores of a partition. -/
def Part.cores (p : Part) : List Nat := rectCores p.x0 p.y0 p.w p.h
def Part.holds (p : Part) (c : Nat) : Bool :=
  p.x0 ≤ coreX c && coreX c < p.x0 + p.w && p.y0 ≤ coreY c && coreY c < p.y0 + p.h
/-- The partition that a core belongs to (R13). -/
def State.partOf (s : State) (c : Nat) : Option Nat :=
  (s.parts.find? fun (_, p) => match p with
    | some p => p.holds c
    | none => false).map (·.1)

/-- A graph instance and its nodes. -/
def Part.inst (p : Part) (i : Nat) : Inst := (p.insts.get none i).getD {}
def Part.updInst (p : Part) (i : Nat) (f : Inst → Inst) : Part :=
  match p.insts.get none i with
  | some x => { p with insts := p.insts.set none i (some (f x)) }
  | none => p
def State.inst (s : State) (p i : Nat) : Inst := (s.part p).inst i
def State.updInst (s : State) (p i : Nat) (f : Inst → Inst) : State := s.updPart p (·.updInst i f)
def State.node (s : State) (p i n : Nat) : Node := (s.inst p i).nodes.get {} n
def State.updNode (s : State) (p i n : Nat) (f : Node → Node) : State :=
  s.updInst p i fun x => { x with nodes := x.nodes.upd {} n f }

/-- The core of the gang member at (gx, gy) (R65). -/
def Task.member (t : Task) (gx gy : Nat) : Nat := coreAt (t.ox + gx) (t.oy + gy)
def Task.members (t : Task) : List Nat := rectCores t.ox t.oy t.gw t.gh
/-- Gang-linear index (R48). -/
def Task.index (t : Task) : Nat := t.gy * t.gw + t.gx
/-- The members of a follow-mode row, leader first; else the core itself (R25). -/
def Task.row (t : Task) (c : Nat) : List Nat :=
  if t.follow then (List.range t.gw).map fun gx => t.member gx t.gy else [c]
/-- A follower of a follow-mode row (R25). -/
def Task.isFollower (t : Task) : Bool := t.follow && t.gx != 0
/-- Two tasks are the same task of the same gang. -/
def Task.sameGang (t u : Task) : Bool :=
  t.part = u.part && t.inst = u.inst && t.node = u.node && t.partner = u.partner

def State.row (s : State) (c : Nat) : List Nat :=
  match (s.core c).task with
  | some t => t.row c
  | none => [c]

/-! ## Free choices (log entries 1 to 3) and names -/

/-- One free choice: the next of `State.oracle`, else the next of `Config.choice`. -/
def State.choose (s : State) : Nat × State :=
  match s.oracle with
  | x :: xs => (x, { s with oracle := xs })
  | [] => (Config.choice s.fresh, { s with fresh := s.fresh + 1 })

/-- One free dword. -/
def State.freeDword (s : State) : Dword × State :=
  (Config.datum s.fresh, { s with fresh := s.fresh + 1 })

/-- A new id. -/
def State.newId (s : State) : Nat × State := (s.nextId, { s with nextId := s.nextId + 1 })

/-! ## Bytes and tags of memory and scratchpad -/

/-- Writes a list of values at rising keys. -/
def NMap.setList {α : Type} [DecidableEq α] (d : α) (m : NMap α) (k : Nat) : List α → NMap α
  | [] => m
  | x :: xs => NMap.setList d (m.set d k x) (k + 1) xs

/-- Reads `n` values at rising keys. -/
def NMap.getList {α : Type} (d : α) (m : NMap α) (k n : Nat) : List α := (List.range n).map fun i => m.get d (k + i)

/-- What an unlisted byte of memory reads as: memory is wiped to zero at reset (R8, R368). -/
def memDefault : Byte := 0

/-- The canonical form of home memory. -/
abbrev Memory.wf (m : List Host.Cell) : Bool := NMap.wf memDefault m

def State.memByte (s : State) (pa : Nat) : Byte := NMap.get memDefault s.mem pa
def State.memRead (s : State) (pa n : Nat) : List Byte := NMap.getList memDefault s.mem pa n
def State.memWrite (s : State) (pa : Nat) (bs : List Byte) : State :=
  { s with mem := NMap.setList memDefault s.mem pa bs }
def State.memTag (s : State) (g : Nat) : Tag := s.mtags.get 0 g
def State.setMemTag (s : State) (g : Nat) (t : Tag) : State := { s with mtags := s.mtags.set 0 g t }
def State.memStat (s : State) (g : Nat) : GStat := s.mstat.get .clean g
def State.setMemStat (s : State) (g : Nat) (v : GStat) : State := { s with mstat := s.mstat.set .clean g v }
def Core.spadRead (k : Core) (off n : Nat) : List Byte := k.spad.getList 0 off n
def Core.spadWrite (k : Core) (off : Nat) (bs : List Byte) : Core := { k with spad := k.spad.setList 0 off bs }

/-! ## Queues (R16) -/

/-- Core cycles as mesh cycles (R4). -/
def coreCycles (n : Nat) : Nat := 2 * n

/-- Keys of `Ctx.queues`. -/
def qLq (n : Nat) : Nat := n
def qSq (n : Nat) : Nat := 4 + n
def qXa : Nat := 8
def qAx : Nat := 9

/-- Depth (R16, Table 3). -/
def queueDepth (q : Nat) : Nat := if 8 ≤ q then 8 else 16

def Ctx.queue (k : Ctx) (q : Nat) : Queue := k.queues.get {} q
def Ctx.setQueue (k : Ctx) (q : Nat) (v : Queue) : Ctx := { k with queues := k.queues.set {} q v }

/-- The head that a group at mesh cycle `now` can see: an entry pushed by the other half is seen from the next core
cycle on (R16). -/
def Queue.seen (q : Queue) (now : Nat) : Option QEntry :=
  match q.ents with
  | e :: _ => if e.since ≤ now then some e else none
  | [] => none

/-- The queue without its head; the slot index moves on (R181, Table 17). -/
def Queue.pop (q : Queue) (depth now : Nat) : Queue :=
  { ents := q.ents.tail, head := (q.head + 1) % depth, pops := now :: q.pops.filter (now < · + coreCycles 1) }

/-- Room for `n` more entries, besides `out` that are still to come. Room that a pop of core cycle c frees counts from
cycle c + 1 on (R16). -/
def Queue.room (q : Queue) (depth now out n : Nat) : Bool :=
  q.ents.length + q.pops.countP (now < · + coreCycles 1) + out + n ≤ depth

def Queue.push (q : Queue) (e : QEntry) : Queue := { q with ents := q.ents ++ [e] }

/-- Load requests pushed on `q` and not yet returned (R16). -/
def Ctx.owed (k : Ctx) (q : Nat) : Nat := (k.loads.filter fun l => l.q = q).length

/-! ## Ports, pending results and flights (R147, R148) -/

def Ctx.scalar (k : Ctx) (p : Nat) : SVal := k.sfile.get {} p
def Ctx.vector (k : Ctx) (p : Nat) : VVal := k.vfile.get {} p
def Ctx.pred (k : Ctx) (p : Nat) : PVal := k.pfile.get {} p
def Ctx.setScalar (k : Ctx) (p : Nat) (v : SVal) : Ctx := { k with sfile := k.sfile.set {} p v }
def Ctx.setVector (k : Ctx) (p : Nat) (v : VVal) : Ctx := { k with vfile := k.vfile.set {} p v }
def Ctx.setPred (k : Ctx) (p : Nat) (v : PVal) : Ctx := { k with pfile := k.pfile.set {} p v }

/-- A flight writes port `p`. -/
def Flight.writes (f : Flight) (p : Nat) : Bool := f.sw.any (·.1 = p) || f.vw.any (·.1 = p)

/-- A value of port `p` is still to come, or its tag is unresolved (R148, R153, R267). -/
def Ctx.portPending (k : Ctx) (p : Nat) : Bool :=
  k.pend.any (·.1 = p) || k.flight.any (·.writes p) || unresolved (k.scalar p).t || unresolved (k.vector p).t
    || unresolved (k.pred p).t

/-- Flights without their writes to the ports listed: a later operation's value is the only one that such a port still
takes (R148). -/
def dropPorts (ps : List Nat) (fs : List Flight) : List Flight :=
  fs.map fun f => { f with sw := f.sw.filter fun w => !ps.contains w.1, vw := f.vw.filter fun w => !ps.contains w.1 }

def Flight.ports (f : Flight) : List Nat := f.sw.map (·.1) ++ f.vw.map (·.1)

/-- An operation starts whose results land later (R148, R155). -/
def Ctx.send (k : Ctx) (f : Flight) : Ctx :=
  { k with
    flight := dropPorts f.ports k.flight ++ [f]
    pend := k.pend.filter fun e => !f.ports.contains e.1 }

/-- An operation starts whose results come from an engine (R148). -/
def Ctx.await (k : Ctx) (ps : List Nat) (token : Nat) : Ctx :=
  { k with
    flight := dropPorts ps k.flight
    pend := (k.pend.filter fun e => !ps.contains e.1) ++ ps.map fun p => (p, token) }

/-- One flight lands. -/
def Ctx.land (k : Ctx) (f : Flight) : Ctx :=
  { k with
    sfile := f.sw.foldl (fun m w => m.set {} w.1 w.2) k.sfile
    vfile := f.vw.foldl (fun m w => m.set {} w.1 w.2) k.vfile
    vflags := k.vflags ||| f.flags.setWidth 64 }

/-- Every flight lands that is due (R155). -/
def Ctx.landDue (k : Ctx) (now : Nat) : Ctx :=
  let k' := (k.flight.filter (·.due ≤ now)).foldl Ctx.land k
  { k' with flight := k.flight.filter fun f => now < f.due }

/-- Mesh cycles by which a follower of a follow-mode row is behind its leader (R25). -/
def Task.skew (t : Task) : Nat := if t.follow then coreCycles (2 * t.gx) else 0
/-- The time at core `c`, as its groups see it: a follower's groups are performed with its leader's, at the time at which the
follower executes them (R25; log entry 17). -/
def State.clock (s : State) (c : Nat) : Nat := s.now + (((s.core c).task.map Task.skew).getD 0)

def State.landDue (s : State) (c : Nat) : State := s.updCtx c (·.landDue (s.clock c))

/-- A fault of a write element, or a refused store, to be raised at the A stream's next group, after those that wait there
already (R92). -/
def Ctx.faultA (k : Ctx) (t : Trap) : Ctx :=
  { k with as_ := if k.as_.trap.isNone then { k.as_ with trap := some t } else { k.as_ with more := k.as_.more ++ [t] } }

/-- Flags set at once (R35). -/
def Ctx.setFlags (k : Ctx) (f : BitVec 8) : Ctx := { k with vflags := k.vflags ||| f.setWidth 64 }

/-- An engine's reply for operation `token`: each port that still waits for it takes its value, in the context or, while
a handler runs, in the image (R148, R181). -/
def Core.reply (k : Core) (token : Nat) (ws : List (Nat × SVal)) : Core :=
  ws.foldl (fun k w =>
    if k.ctx.pend.contains (w.1, token) then
      { k with ctx := { k.ctx.setScalar w.1 w.2 with pend := k.ctx.pend.filter (· != (w.1, token)) } }
    else if k.image.pend.contains (w.1, token) then
      { k with image := { k.image with sfile := k.image.sfile.set {} w.1 w.2,
                                       pend := k.image.pend.filter (· != (w.1, token)) } }
    else k) k

/-! ## Device events (R354) -/

/-- Granules of an event's record: its first has room for six fields, and each further one for eight (R354). -/
def Event.ngran (e : Event) : Nat := 1 + (e.fields.length - 6 + 7) / 8
/-- Granules that the event occupies in the ring, with the list that follows event 0x3A (R354, R371). -/
def Event.total (e : Event) : Nat := e.ngran + e.extra.length

/-- An event is raised: it waits in the device buffer of 256 granules, or is dropped and counted. -/
def State.post (s : State) (e : Event) : State :=
  let held := (s.evWait.map Event.ngran).foldl (· + ·) 0
  if held + e.ngran ≤ 256 then { s with evWait := s.evWait ++ [e] }
  else
    let l := s.evRing.lost
    { s with evRing := { s.evRing with lost := if l = 0xFFFFFFFF then l else l + 1 }, evLost := true }

/-- An event with the given fields. -/
def State.event (s : State) (kind die : Nat) (fields : List Nat) : State :=
  s.post { kind := kind, die := die, time := s.now, fields := fields.map (BitVec.ofNat 64) }

/-- The die of a partition's origin core. -/
def Part.die (p : Part) : Nat := dieOf (coreAt p.x0 p.y0)

/-- The debug port is open, and recordings may be replayed (R367, R382). -/
def Life.benchOpen : Life → Bool
  | .manufacture => true
  | .develop => true
  | .return_ => true
  | .production => false
  | .decommissioned => false

/-! ## Packets of the host port (R347, R348) -/

/-- A packet leaves on the host port: it takes the next number and stays in the replay buffer until it is acknowledged. With 256 packets
there, or with the port down, the step waits (R348). -/
def State.sendHost (s : State) (q : Packet) : State :=
  let x := s.port 12
  if !x.up || 256 ≤ x.replay.length then { s with wait := true }
  else s.updPort 12 fun x => { x with
    txSeq := x.txSeq + 1, replay := x.replay ++ [{ q with seq := x.txSeq, host := true }]
    sentAt := if x.replay.isEmpty then s.now else x.sentAt }

/-- The packet that was expected at port `p` has been performed or refused (R348). -/
def State.accepted (s : State) (p : Nat) : State :=
  s.updPort p fun x => { x with rxSeq := x.rxSeq + 1, lastAck := x.rxSeq, naked := false }

/-- A read of the host is answered by these bytes (R346, R347). -/
def State.reply (s : State) (a : Dword) (bs : List Byte) : State :=
  { s.sendHost { va := a, bytes := bs } with outRead := bs, outErr := false }

/-- An access of the host is answered by an error response (R346). -/
def State.replyError (s : State) (a : Dword) : State :=
  { s.sendHost { va := a, err := true } with outRead := [], outErr := true }

/-! ## Capture units (R378) -/

def Monitor.src (m : Monitor) : Nat := dfield m.ctl 3 0
def Monitor.en (m : Monitor) : Bool := dfield m.ctl 20 20 = 1

/-- Capture unit `u` samples core `c`: the unit is of the core's die, four to each, and X and Y name the core, modulo the die's width
and height (DEDUCED, log entry 64). -/
def Monitor.watches (m : Monitor) (u c : Nat) : Bool :=
  u / 4 = dieOf c && dfield m.ctl 9 4 % 24 = coreX c % 24 && dfield m.ctl 14 10 % 16 = coreY c % 16

/-- A latency of kind `src` of core `c` has taken `n` core cycles: each unit that watches it has a sample to bin (R378). -/
def State.sampled (s : State) (src c n : Nat) : State :=
  { s with monitors := s.monitors.map fun e =>
      if e.2.en && e.2.src = src && e.2.watches e.1 c then
        (e.1, { e.2 with due := e.2.due ++ [BitVec.ofNat 32 (min n 0xFFFFFFFF)] })
      else e }

/-- A latency that began at mesh cycle `t` ends (R378). -/
def State.observe (s : State) (src c t : Nat) : State := s.sampled src c ((s.now - t) / coreCycles 1)

/-! ## Steps that wait (log entry 52) -/

/-- A step of an agent, taken back where an access of it has to wait. -/
def State.whole (s : State) (f : State → State) : State := if (f s).wait then s else f s

/-- An access of core `k`'s scratchpad takes its place in the order of R98 within its core cycle: 1 the core's A stream or block
sequencer, 2 its `mx` unit, 3 the copy engine, 4 to 8 a remote request, by the router port that it enters by. One that comes after an
access of a later place waits. -/
def State.turnFor (s : State) (k place : Nat) : State :=
  let cyc := s.now / coreCycles 1 + 1
  let t := (s.core k).turn
  if t.1 = cyc && place < t.2 then { s with wait := true }
  else if cyc < t.1 then s
  else s.updCore k fun x => { x with turn := (cyc, place) }

/-- A remote access takes its place at the scratchpad of core `k`: north, east, south, west, local, by the port at which it enters the
router there, which the routes decide (R98; a free choice, log entry 2). -/
def State.remoteTurn (s : State) (k : Nat) : State :=
  let (n, s) := s.choose
  s.turnFor k (4 + n % 5)

/-- The last place: a remote access of a later port in the same core cycle, with which all of a step that performs several come
(R98). -/
def State.lastTurn (s : State) (k : Nat) : State :=
  s.updCore k fun x => { x with turn := (max x.turn.1 (s.now / coreCycles 1 + 1), 9) }

/-! ## Traps (R178 to R182, R386) -/

/-- TRAPCAUSE of a trap (R178, Table 7). -/
def trapCauseWord (h : Half) (t : Trap) : Dword :=
  BitVec.ofNat 64 (t.cause.toNat + 256 * t.reason.toNat + 65536 * (match h with
    | .x => 0
    | .a => 1))

/-- Core `c` runs a member of a rollback-protected gang, whose consumption of poison is no trap (R357, R359). -/
def State.shielded (s : State) (c : Nat) (t : Trap) : Bool :=
  match (s.core c).task with
  | some u => (u.rollback || u.duplex) && t.cause = 6 && !t.mac
  | none => false

/-- Core `c` consumes poison in a protected gang: it halts the gang at once, and the halt tree takes a message from it to each other
member (R359, R366). -/
def State.haltGang (s : State) (c : Nat) (a : Dword) : State :=
  match (s.core c).task with
  | none => s
  | some t =>
    let s := s.updCore c fun k => { k with poisoned := some a, sent := k.sent + 1 }
    t.members.foldl (fun s m => s.updCore m fun k =>
      if m != c && k.poisoned.isNone && k.task.any t.sameGang then { k with poisoned := some a, rcvd := k.rcvd + 1 } else k) s

/-- The members `row` of a follow-mode row, or one core alone, enter the traps `ts` of some of them: the streams of all
stop, each with its own trap or with none (R28, R180 steps 1 and 2). A trap already raised stands. Poison that a protected
member consumes halts its gang for rollback instead (R359). -/
def State.raiseRow (s : State) (row : List Nat) (h : Half) (ts : List (Nat × Trap)) : State :=
  match ts.filter fun e => s.shielded e.1 e.2 with
  | [] => row.foldl (fun s m => s.updCtx m fun k =>
      match k.raised with
      | some _ => k
      | none => { k with raised := some { half := h, trap := (ts.find? (·.1 = m)).map (·.2) } }) s
  | es => es.foldl (fun s e => s.haltGang e.1 e.2.val) s

/-- A trap is raised by half `h` of core `c`. -/
def State.raise (s : State) (c : Nat) (h : Half) (t : Trap) : State := s.raiseRow (s.row c) h [(c, t)]

/-- A task ends with CODE `code`: its members stop as the end reaches them (R386). -/
def State.endTask (s : State) (t : Task) (code : Nat) : State :=
  s.updNode t.part t.inst t.node fun n => match n.ending, n.code with
    | none, none => { n with ending := some code }
    | _, _ => n

/-- Core `c` ends its task with CODE FAULT: it sends the end into the halt tree (R366, R386). -/
def State.sendEnd (s : State) (c : Nat) (t : Task) : State :=
  let nd := s.node t.part t.inst t.node
  (if nd.ending.isNone && nd.code.isNone then s.updCore c fun k => { k with sent := k.sent + 1 } else s).endTask t 3

/-- The tags that half `h`'s group joins into CTLAB at its end (R263). The first group that leaves it unresolved is noted, whose half
takes the trap of a full label table (R383). -/
def Ctx.joinCtl (k : Ctx) (h : Half) (ts : List LTag) : Ctx :=
  let u := joinTags (k.ctlab :: ts)
  { k with ctlab := u, ctlHalf := if unresolved u && !unresolved k.ctlab then h else k.ctlHalf }

/-- Ports of operand latches and result ports, which trap entry saves and clears (R180 step 5). -/
def isLatch (p : Nat) : Bool := 0x100 ≤ p

/-- The weight-driven mode as saved: a block that was being applied is read and checked again, and goes on at its restart
granule (R245). -/
def WDrive.stopped (w : WDrive) : WDrive := { w with phase := if w.phase = .payload then .header else w.phase }

/-- What trap entry and a debug halt save (R180 step 5, R181). -/
def Ctx.save (k : Ctx) : Image :=
  { sfile := k.sfile.filter fun e => isLatch e.1
    vfile := k.vfile.filter fun e => isLatch e.1
    queues := k.queues, ctlab := k.ctlab
    xpc := k.xs.start, apc := k.as_.start
    pend := k.pend.filter fun e => isLatch e.1
    wd := k.wd.map WDrive.stopped, clop := k.clop, lbops := k.lbops, ctlHalf := k.ctlHalf
    priv := k.priv, xdepth := k.xs.stack.length, adepth := k.as_.stack.length
    streams := k.streams, mxq := k.mxq
    xexit := k.xs.exited, aexit := k.as_.exited, xtrap := k.xs.trap, atrap := k.as_.trap, amore := k.as_.more
    team := k.team, tstep := k.tstep }

/-- The arrival that was outstanding when the image was taken: the one in the context, unless a handler has made it since. -/
def Image.arrival (i : Image) (x : Ctx) : Option Arrival := x.arrived.filter fun a => a.handler = i.priv

/-- The tags of registers and of matrix rows that wait for a label entry, with their places (R181, R383). -/
def Core.unresolvedMap (k : Core) (x : Ctx) : List (TagHome × LTag) :=
  let rows (h : Nat → TagHome) (m : NMap LTag) : List (TagHome × LTag) := m.map fun e => (h e.1, e.2)
  ((x.sfile.map fun e => (TagHome.port e.1, e.2.t)) ++ (x.vfile.map fun e => (TagHome.port e.1, e.2.t))
    ++ (x.pfile.map fun e => (TagHome.port e.1, e.2.t)) ++ (x.accs.flatMap fun e => rows (.acc e.1) e.2.tags)
    ++ (k.slots.flatMap fun e => rows (.slot e.1) e.2.tags)).filter fun e => unresolved e.2

/-- The context as step 5 of R180 leaves it: latches, result ports and queues read 0 with tag 0 and empty, CTLAB is 0,
and the words of unfinished groups are forgotten. -/
def Ctx.cleared (k : Ctx) : Ctx :=
  { k with
    sfile := k.sfile.filter fun e => !isLatch e.1
    vfile := k.vfile.filter fun e => !isLatch e.1
    queues := [], ctlab := []
    pend := k.pend.filter fun e => !isLatch e.1
    wd := none, clop := none, lbops := [], streams := [], mxq := [], sendWait := none
    xs := { k.xs with pc := k.xs.start, open_ := [], exited := false, trap := none }
    as_ := { k.as_ with pc := k.as_.start, open_ := [], exited := false, trap := none, more := [] } }

/-- All results of fixed latency land (R180 step 3). -/
def Ctx.landAll (k : Ctx) : Ctx := { k.flight.foldl Ctx.land k with flight := [] }

/-- Every store of core `c` that is outstanding is held for a trick: in the log of a protected member, or a delivery of
`ms.put` (R73, R358). -/
def State.onlyHeld (s : State) (c : Nat) : Bool :=
  match (s.core c).task with
  | some t => (s.ctx c).stores.all fun id => (s.part t.part).held.any fun h => h.core = c && h.id = id
  | none => (s.ctx c).stores.isEmpty

/-- Everything that step 3 of R180 waits for has happened: no load, no atomic, and no store but those held for a trick, is
outstanding. -/
def State.quiet (s : State) (c : Nat) : Bool := (s.ctx c).loads.isEmpty && (s.ctx c).atoms.isEmpty && s.onlyHeld c

/-- The offset held by a field of TVEC or of a PC save register: bits [1:0] read 0. -/
def pcField (v : Dword) (lo : Nat) : BitVec 17 := BitVec.ofNat 17 (dfield v (lo + 16) (lo + 2) * 4)

/-- A stream starts afresh at an offset. -/
def Stream.restart (k : Stream) (pc : BitVec 17) (now : Nat) : Stream :=
  { k with pc := pc, start := pc, open_ := [], ready := now, past := false }

/-- A stream goes on at offset `o`, which may lie just past the end of the instruction store (R169). -/
def Stream.goOn (k : Stream) (o now : Nat) : Stream := { k.restart (BitVec.ofNat 17 o) now with past := 0x20000 ≤ o }

/-- Steps 3 to 6 of R180 on one core, for a trap that its handler takes. -/
def Core.enterTrap (k : Core) (h : Half) (t : Option Trap) (now : Nat) : Core :=
  let x := k.ctx.landAll
  let y := x.cleared
  { k with
    image := { x.save with unres := k.unresolvedMap x }
    trapCause := (t.map (trapCauseWord h)).getD 0
    trapVal := (t.map (·.val)).getD 0
    xpcSave := x.xs.start
    apcSave := x.as_.start
    ctx := { y with
      raised := none, priv := true
      xs := y.xs.restart (pcField k.tvec 0) now
      as_ := y.as_.restart (pcField k.tvec 32) now } }

/-- What a debug halt raises: CAUSE 16 (R179, R193). -/
def debugTrap : Trap := { cause := 16 }

/-- A debug halt: steps 3 to 5 of R180 with CAUSE 16 and HALF 0, after which the core stands still at the privilege that it
had (R193). A core that runs nothing has nothing in flight. -/
def Core.enterHalt (k : Core) : Core :=
  let x := k.ctx.landAll
  { k with
    image := { x.save with unres := k.unresolvedMap x }
    trapCause := trapCauseWord .x debugTrap
    trapVal := 0
    xpcSave := x.xs.start
    apcSave := x.as_.start
    ctx := { x.cleared with raised := none }
    halted := true, haltReq := false }

/-- A core that runs nothing takes a halt that was requested while it could not. -/
def Core.rest (k : Core) : Core := if k.haltReq then k.enterHalt else k

/-- TVEC.EN (R178, Table 7). -/
def Core.handled (k : Core) : Bool := dfield k.tvec 63 63 = 1

/-- Core `c` takes the stack-unavailable fault: what it issues from now on does not end with it (R125). -/
def State.tookGone (s : State) (c : Nat) (t : Option Trap) : State :=
  if t.any (·.cause = 17) then { s with gone := s.gone.filter (·.core != c) } else s

/-- Trap entry on core `c`, once a trap is raised there and steps 1 to 3 of R180 are done: the handler is entered; at
supervisor privilege, or with TVEC.EN = 0, the task ends with CODE FAULT (3) instead (R180, R182): the event of R182 is
posted once, and the streams stay stopped. A debug halt stops the core whatever its privilege (R193). -/
def State.trapEntry (s : State) (c : Nat) : State :=
  let k := s.core c
  match k.ctx.raised, k.task with
  | some r, some t =>
    if !s.quiet c || k.ended then s
    else if r.trap = some debugTrap then s.setCore c k.enterHalt
    else if k.ctx.priv then
      let s := match r.trap with
        | some tr => (s.updCtx c fun x => { x with raised := some { r with trap := none } }).event 0x12 (dieOf c)
            [t.part, c, (trapCauseWord r.half tr).toNat, tr.val.toNat]
        | none => s
      s.sendEnd c t
    else if !k.handled then s.sendEnd c t
    else (s.setCore c (k.enterTrap r.half r.trap s.now)).tookGone c r.trap
  | _, _ => s

/-- Items that step 5 saved come back, then the progress of the long units (R182). -/
def Ctx.restore (k : Ctx) (i : Image) : Ctx :=
  let x := k.landAll
  { x with
    sfile := i.sfile.foldl (fun m e => m.set {} e.1 e.2) (x.sfile.filter fun e => !isLatch e.1)
    vfile := i.vfile.foldl (fun m e => m.set {} e.1 e.2) (x.vfile.filter fun e => !isLatch e.1)
    queues := i.queues, ctlab := i.ctlab, ctlHalf := i.ctlHalf
    pend := (x.pend.filter fun e => !isLatch e.1) ++ i.pend
    wd := i.wd, clop := i.clop, lbops := i.lbops ++ x.lbops, streams := i.streams, team := i.team, tstep := i.tstep
    mxq := x.mxq ++ i.mxq }

/-- A stream resumes at offset `pc` with what its image held: the traps still to be raised come before those that have reached it
since (R92, R182). -/
def Stream.resumeAt (m : Stream) (pc : BitVec 17) (now : Nat) (exited : Bool) (ts : List Trap) : Stream :=
  let all := ts ++ m.trap.toList ++ m.more
  { m.restart pc now with exited := exited, trap := all.head?, more := all.tail }

/-- Both streams of a core resume where XPCSAVE and APCSAVE stand, X `cost` core cycles from now. -/
def Ctx.resumeStreams (x : Ctx) (k : Core) (now cost : Nat) : Ctx :=
  { x with
    xs := x.xs.resumeAt k.xpcSave (now + coreCycles cost) k.image.xexit k.image.xtrap.toList
    as_ := x.as_.resumeAt k.apcSave (now + coreCycles 1) k.image.aexit (k.image.atrap.toList ++ k.image.amore) }

/-- Resumption from a debug halt: the images come back as `ct.eret` restores them, both streams resume where XPCSAVE and
APCSAVE stand, and privilege is what it was at the halt (R194). A core whose task has ended meanwhile resumes nothing. -/
def Core.leaveHalt (k : Core) (now : Nat) : Core :=
  if k.task.isNone || k.ended then { k with halted := false }
  else
    { k with halted := false, ctx := { (k.ctx.restore k.image).resumeStreams k now 1 with priv := k.image.priv } }

/-- Return from a trap on core `c`: user privilege, and both streams resume where XPCSAVE and APCSAVE stand (R182). The
X stream issues again after the two cycles that a transfer costs (R169). -/
def Core.leaveTrap (k : Core) (now : Nat) : Core :=
  { k with ctx := { (k.ctx.restore k.image).resumeStreams k now 3 with priv := false } }

/-- A census is under way in the partition: its cores issue nothing (R270 step 1). -/
def State.censusWaits (s : State) (p : Nat) : Bool :=
  ((s.part p).cores.any fun c => (s.ctx c).lbops.any (·.op = 12))
    || (s.part p).xforms.any fun x => match x.cmd with
      | .census _ => true
      | _ => false

end Sys2Proof.Machine
end

