-- ==== Sys2Proof/Machine/Labels.lean ====
section
/-! DEFINITION. The label table (R249 to R260, R268, R271 to R278, R282): environments, joins, merges, interning,
re-filtering, nogoods and counting, over a label space and its tied diagram space. -/

namespace Sys2Proof.Machine

/-- A computation in a label space: the space, its tied diagram space, the free choices it may draw (R254, log entry 2),
and whether it has found no free entry (R269). -/
structure LRun where
  l      : LSpace := {}
  m      : DRun := {}
  oracle : List Nat := []
  fresh  : Nat := 0
  noEntry : Bool := false
  deriving DecidableEq, Repr, Inhabited

/-- The computation has met a full table of entries or of nodes (R268, R269). -/
def LRun.stuck (x : LRun) : Bool := x.noEntry || x.m.full

/-- The nogoods N of the space, as masks (R255). -/
def LRun.nogoods (x : LRun) : List Nat := x.l.ngs.map (·.toNat) ++ x.m.d.minSets (hNorm x.l.ngh.toNat)

/-- Insertion into a strictly ascending list. -/
def insertAsc (e : Nat) : List Nat → List Nat
  | [] => [e]
  | f :: fs => if e < f then e :: f :: fs else if e = f then f :: fs else f :: insertAsc e fs

/-- The helper Minimise (R255). -/
def minimise (ngs s : List Nat) : List Nat :=
  let s := s.filter fun e => !ngs.any fun n => subset n e
  let s := s.filter fun e => !s.any fun f => f != e && subset f e
  s.foldl (fun a e => insertAsc e a) []

def LRun.entry (x : LRun) (t : Tag) : LEntry := x.l.ents.get {} t.toNat
def LRun.setEntry (x : LRun) (t : Nat) (e : LEntry) : LRun := { x with l := { x.l with ents := x.l.ents.set {} t e } }

/-- The environments that an entry holds (R253). -/
def LRun.content (x : LRun) (e : LEntry) : List Nat :=
  match e.form with
  | .inline es => es.map (·.toNat)
  | .diagram h => (x.m.d.minSets (hNorm h.toNat)).foldl (fun a e => insertAsc e a) []
  | _ => []

/-- The entry, other than `t`, that holds the label `s` (R254). -/
def LRun.find (x : LRun) (t : Nat) (s : List Nat) : Option Nat :=
  (x.l.ents.find? fun e => e.1 != t && (match e.2.form with
    | .inline _ | .diagram _ => x.content e.2 = s
    | _ => false)).map (·.1)

/-- The conjunction of the literals of a mask's variables. -/
def DRun.formEnv (m : DRun) (e : Nat) : DRun × Nat :=
  ((List.range m.d.nv).filter fun i => e / 2 ^ i % 2 = 1).foldl (fun (m, r) i =>
    let (m, v) := m.literal i
    m.andH r v) (m, hTrue)

/-- The monotone function whose minimal true sets are the masks listed (R254). -/
def DRun.formSets (m : DRun) (s : List Nat) : DRun × Nat :=
  s.foldl (fun (m, r) e =>
    let (m, c) := m.formEnv e
    m.orH r c) (m, hFalse)

/-- Releases the reference of a diagram entry (R282). -/
def LRun.release (x : LRun) (f : LForm) : LRun :=
  match f with
  | .diagram h => { x with m := { x.m with d := x.m.d.decRef (hNorm h.toNat) } }
  | _ => x

/-- The form that R254 requires for a label, with the reference it owns: inline up to six environments. -/
def LRun.makeForm (x : LRun) (s : List Nat) : LRun × LForm :=
  if s.length ≤ 6 then (x, .inline (s.map (BitVec.ofNat 64)))
  else
    let (m, h) := x.m.formSets s
    if m.full then ({ x with m := m }, .free)
    else ({ x with m := { m with d := m.d.incRef h } }, .diagram (BitVec.ofNat 32 h))

/-- The helper Refilter (R259, R282). -/
def LRun.refilter (x : LRun) (t : Tag) : LRun :=
  let e := x.entry t
  if e.epoch = x.l.epoch then x
  else
    let c := x.content e
    let s := minimise x.nogoods c
    let put (x : LRun) (f : LForm) : LRun := (x.release e.form).setEntry t.toNat { e with form := f, epoch := x.l.epoch }
    if s = c then x.setEntry t.toNat { e with epoch := x.l.epoch }
    else if s = [] then put x (.forward mucked)
    else match x.find t.toNat s with
      | some u => put x (.forward (BitVec.ofNat 16 u))
      | none =>
        let (x, f) := x.makeForm s
        if x.m.full then x else put x f

/-- The tag after resolution, forward entries followed and the entry re-filtered (R275): the tag that now holds the
label, with 0xFFFF where it is mucked (R251). -/
def LRun.settle : Nat → LRun → Tag → LRun × Tag
  | 0, x, _ => (x, mucked)
  | n + 1, x, t =>
    if t = 0 then (x, 0)
    else if t = mucked || x.l.incons || x.l.limit < t.toNat then (x, mucked)
    else match (x.entry t).form with
      | .free => (x, mucked)
      | .forward u => settle n x u
      | _ =>
        let x := x.refilter t
        match (x.entry t).form with
        | .forward u => settle n x u
        | _ => (x, t)

/-- A chain of forward entries is no longer than the table. -/
def LRun.resolve (x : LRun) (t : Tag) : LRun × Tag := LRun.settle (x.l.ents.length + 2) x t

/-- The helper Envs (R255). -/
def LRun.envs (x : LRun) (t : Tag) : LRun × List Nat :=
  let (x, u) := x.resolve t
  (x, if u = 0 then [0] else if u = mucked then [] else x.content (x.entry u))

/-- The `n`-th index from `i` on, counted from 0, that no entry of the list takes. -/
def nthGap {α : Type} (n i : Nat) : NMap α → Nat
  | [] => i + n
  | (k, _) :: m => if k ≤ i + n then (if k < i then nthGap n i m else nthGap (n - (k - i)) (k + 1) m) else i + n

/-- One free choice below `n`. -/
def LRun.choose (x : LRun) (n : Nat) : LRun × Nat :=
  match x.oracle with
  | c :: cs => ({ x with oracle := cs }, c % n)
  | [] => ({ x with fresh := x.fresh + 1 }, Config.choice x.fresh % n)

/-- The helper Intern on a minimised set; none where no entry is free or the table of nodes is full (R254, R255,
R268, R269). -/
def LRun.intern (x : LRun) (s : List Nat) : LRun × Option Tag :=
  if s = [] then (x, some mucked)
  else if s = [0] then (x, some 0)
  else match x.find 0 s with
    | some u => (x, some (BitVec.ofNat 16 u))
    | none =>
      let free := x.l.limit - x.l.ents.length
      if free = 0 then ({ x with noEntry := true }, none)
      else
        let (x, f) := x.makeForm s
        if x.m.full then (x, none)
        else
          let (x, c) := x.choose free
          let t := nthGap c 1 x.l.ents
          (x.setEntry t { form := f, epoch := x.l.epoch }, some (BitVec.ofNat 16 t))

/-- The helper Join (R255). -/
def LRun.join (x : LRun) (t u : Tag) : LRun × Option Tag :=
  if t = 0 then (x, some u)
  else if u = 0 || u = t then (x, some t)
  else if t = mucked || u = mucked then (x, some mucked)
  else
    let (x, a) := x.envs t
    let (x, b) := x.envs u
    if x.stuck then (x, none)
    else x.intern (minimise x.nogoods (a.flatMap fun e => b.map fun f => e ||| f))

/-- The helper Merge (R255). -/
def LRun.merge (x : LRun) (t u : Tag) : LRun × Option Tag :=
  if t = 0 || u = 0 then (x, some 0)
  else if t = mucked then (x, some u)
  else if u = mucked || u = t then (x, some t)
  else
    let (x, a) := x.envs t
    let (x, b) := x.envs u
    if x.stuck then (x, none) else x.intern (minimise x.nogoods (a ++ b))

/-- A join of several tags, folded left to right (R256). -/
def LRun.joinAll (x : LRun) : List Tag → LRun × Option Tag
  | [] => (x, some 0)
  | [t] => (x, some t)
  | t :: u :: ts =>
    match x.join t u with
    | (x, some v) => joinRest x v ts
    | (x, none) => (x, none)
where
  joinRest (x : LRun) (v : Tag) : List Tag → LRun × Option Tag
    | [] => (x, some v)
    | t :: ts => match x.join v t with
      | (x, some w) => joinRest x w ts
      | (x, none) => (x, none)

/-- The join of several tags holds nowhere, so that it is 0xFFFF (R255): `acc` are the environments of those before. -/
def LRun.emptyJoin (x : LRun) (acc : List Nat) : List Tag → LRun × Bool
  | [] => (x, acc.isEmpty)
  | t :: ts =>
    let (x, es) := x.envs t
    emptyJoin x (minimise x.nogoods (acc.flatMap fun e => es.map fun f => e ||| f)) ts

/-- The helper Hidden (R255). -/
def LRun.hidden (x : LRun) (t : Tag) : LRun × Bool :=
  if t = 0 then (x, false) else let (x, u) := x.resolve t; (x, u = mucked)

/-- The helper Holds (R255). -/
def LRun.holds (x : LRun) (t : Tag) (c : Nat) : LRun × Bool :=
  if t = 0 then (x, true)
  else
    let (x, es) := x.envs t
    (x, es.any (fun e => subset e c) && !x.nogoods.any fun n => subset n c)

/-! ## Nogoods (R257) -/

/-- NGH rewritten to the function of these overflow nogoods. -/
def LRun.setNgh (x : LRun) (s : List Nat) : LRun :=
  let (m, h) := x.m.formSets s
  if m.full then { x with m := m }
  else { x with m := { m with d := (m.d.incRef h).decRef (hNorm x.l.ngh.toNat) },
                l := { x.l with ngh := BitVec.ofNat 32 h } }

/-- The nogoods of a space: inline, overflow, and the number added so far. -/
structure Nogoods where
  inl : List Nat := []
  ovf : List Nat := []
  added : Nat := 0
  deriving DecidableEq, Repr, Inhabited

/-- One nogood recorded (R257): none is added that contains one already there; those that contain it are removed; it goes
inline while fewer than 32 are held there. -/
def Nogoods.add (g : Nogoods) (n : Nat) : Nogoods :=
  if (g.inl ++ g.ovf).any fun k => subset k n then g
  else
    let inl := g.inl.filter fun k => !subset n k
    let ovf := g.ovf.filter fun k => !subset n k
    if inl.length < 32 then { inl := insertAsc n inl, ovf := ovf, added := g.added + 1 }
    else { inl := inl, ovf := ovf ++ [n], added := g.added + 1 }

/-- `lb.contra` of a tag (R257, R273), with the number of nogoods added. A full table of nodes leaves the label space as
it was. -/
def LRun.contra (x : LRun) (t : Tag) : LRun × Nat :=
  let (x, es) := x.envs t
  if x.stuck then (x, 0)
  else
  let g0 : Nogoods := { inl := x.l.ngs.map (·.toNat), ovf := x.m.d.minSets (hNorm x.l.ngh.toNat) }
  let g := es.foldl Nogoods.add g0
  let x := if g.ovf = g0.ovf then x else x.setNgh g.ovf
  if x.stuck then (x, 0)
  else ({ x with l := { x.l with ngs := g.inl.map (BitVec.ofNat 64), incons := x.l.incons || g.inl.contains 0,
                                 epoch := x.l.epoch + 1 } }, g.added)

/-! ## Counting (R278) -/

/-- The number of one bits of a mask. -/
def maskSize (e : Nat) : Nat := popCount 64 e

/-- The environment with the fewest assumptions, and among equals the lowest mask (R277). -/
def fewest : List Nat → Nat
  | [] => 2 ^ 64 - 1
  | [e] => e
  | e :: es =>
    let f := fewest es
    if maskSize f < maskSize e || (maskSize f = maskSize e && f < e) then f else e

/-- `lb.count` of a tag (R278): p_i by index. -/
def LRun.probability (x : LRun) (t : Tag) (p : Nat → Nat) : LRun × Nat :=
  let (x, u) := x.resolve t
  if u = 0 then (x, f64one)
  else if u = mucked then (x, 0)
  else
    let (m, f) := x.m.formSets (x.content (x.entry u))
    let (m, g) := m.formSets x.nogoods
    let (m, h) := m.apply 4 f g
    let x := { x with m := m }
    if m.full then (x, 0)
    else
      let w1 (v : Nat) : Nat := if v < x.l.na then p v else 0
      let w0 (v : Nat) : Nat := if v < x.l.na then f64sub f64one (p v) else f64one
      (x, m.d.wcount w0 w1 m.d.nv h)

/-! ## The region (R252, R253) -/

/-- LIVE: the entries in use (R252). -/
def LSpace.live (l : LSpace) : Nat := l.ents.length

/-- NENV and FORM of an entry (R253, Table 3). -/
def LForm.kind : LForm → Nat × Nat
  | .inline es => (es.length, 0)
  | .diagram _ => (0, 1)
  | .forward _ => (0, 2)
  | .free => (0, 3)

/-- Dword `j` of an entry (R253, Table 3). -/
def LEntry.dword (e : LEntry) (j : Nat) : Dword :=
  match j, e.form with
  | 0, f => BitVec.ofNat 64 (f.kind.1 + f.kind.2 * 2 ^ 3 + (if e.mark then 2 ^ 5 else 0) + e.epoch * 2 ^ 24)
  | 1, .inline es => Config.labelHash es
  | 1, .diagram h => h.setWidth 64
  | 1, .forward u => u.setWidth 64
  | j, .inline es => es.getD (j - 2) 0
  | _, _ => 0

/-- Dword `i` of the region: the header, the inline nogoods, then the entries from tag 1 on (R252, Table 2). -/
def LSpace.dword (l : LSpace) (i : Nat) : Dword :=
  match i with
  | 0 => BitVec.ofNat 64 (l.na + (if l.incons then 2 ^ 7 else 0) + l.dsp * 2 ^ 8 + l.limit * 2 ^ 16)
  | 1 => BitVec.ofNat 64 l.epoch
  | 2 => BitVec.ofNat 64 l.ngs.length
  | 3 => l.ngh.setWidth 64
  | 4 => BitVec.ofNat 64 l.live
  | _ => if i < 8 then 0
    else if i < 40 then l.ngs.getD (i - 8) 0
    else if (i - 40) / 8 < l.limit then (l.ents.get {} ((i - 40) / 8 + 1)).dword ((i - 40) % 8) else 0

/-! ## Label spaces of the state -/

/-- Label space `sp` of partition `p`, with its tied diagram space. -/
def State.lrun (s : State) (p sp : Nat) : Option LRun :=
  if 8 ≤ sp then none
  else (((s.part p).lspaces.get none sp)).map fun l =>
    { l := l, m := { d := ((s.part p).dspaces.get none l.dsp).getD {}, sp := l.dsp }
      oracle := s.oracle, fresh := s.fresh }

/-- What a computation leaves is kept. -/
def State.putLrun (s : State) (p sp : Nat) (x : LRun) : State :=
  { s.updPart p (fun q => { q with
      lspaces := q.lspaces.set none sp (some x.l)
      dspaces := q.dspaces.set none x.l.dsp (some x.m.d) }) with oracle := x.oracle, fresh := x.fresh }

/-- The trap of a computation that is stuck (R268, R269). -/
def LRun.trap (x : LRun) (sp : Nat) : Option Trap :=
  if x.m.full then some { cause := 10, val := BitVec.ofNat 64 x.l.dsp }
  else if x.noEntry then some { cause := 9, val := BitVec.ofNat 64 sp }
  else none

/-- A computation in label space `sp` of partition `p`; `d` is its answer where there is no such space. -/
def State.label {α : Type} (s : State) (p sp : Nat) (d : α) (f : LRun → LRun × α) : State × Option Trap × α :=
  match s.lrun p sp with
  | none => (s, none, d)
  | some x => let (y, a) := f x; (s.putLrun p sp y, y.trap sp, a)

/-- Resolution of a join of tags (R255, R256, R267): the tag, or the trap of a full table. -/
def State.resolveTags (s : State) (p sp : Nat) (t : LTag) : State × Option Trap × Tag :=
  match normTags t with
  | [] => (s, none, 0)
  | [u] => (s, none, u)
  | us =>
    let (s, tr, r) := s.label p sp (some mucked) (·.joinAll us)
    (s, tr, r.getD 0)

/-- Whether a tag is hidden (R255). A stuck re-filter of a diagram gives the trap. -/
def State.hiddenTag (s : State) (p sp : Nat) (t : Tag) : State × Option Trap × Bool :=
  if t = 0 then (s, none, false)
  else if t = mucked then (s, none, true)
  else s.label p sp true (·.hidden t)

end Sys2Proof.Machine
end

