-- ==== Sys2Proof/Machine/Address.lean ====
section
/-! DEFINITION. Memory as programs see it: address decode (R86), translation (R87 to R93), declared buffers (R95 to R97),
the rules that guard a scratchpad (R18, R85), and reads and writes of granules with their tags (R100, R101, R265, R266). -/

namespace Sys2Proof.Machine

/-! ## Faults (R91, Table 5; R179, Table 8) -/

def rNotValid : Nat := 1
def rFormat : Nat := 2
def rHome : Nat := 3
def rExtent : Nat := 4
def rKey : Nat := 5
def rRead : Nat := 6
def rWrite : Nat := 7
def rAtomic : Nat := 8
def rSpace : Nat := 9
def rBufState : Nat := 10
def rTarget : Nat := 11
def rSave : Nat := 12

def translationFault (reason : Nat) (a : Dword) : Trap := { cause := 1, reason := BitVec.ofNat 8 reason, val := a }
def permissionFault (reason : Nat) (a : Dword) : Trap := { cause := 2, reason := BitVec.ofNat 8 reason, val := a }
/-- Poisoned data is consumed (R100). -/
def integrityFault (a : Dword) : Trap := { cause := 6, val := a }
/-- Authentication fails (R100). -/
def macFault (a : Dword) : Trap := { cause := 6, val := a, mac := true }
/-- The stack is unavailable (R125, R365). -/
def stackTrap (a : Dword) : Trap := { cause := 17, val := a }
def bufferFault (v : Dword) : Trap := { cause := 7, reason := 10, val := v }

/-- What an access does, for the checks of R91. -/
inductive AccessKind where
  | read
  | write
  | atomic
  /-- A fetch of a weight-driven block. -/
  | block
  deriving DecidableEq, Repr, Inhabited

/-! ## Homes (R11, R88, R364) -/

/-- Home index and offset of a physical address (R88). -/
def paHome (pa : Nat) : Nat := pa / 2 ^ 28
def paOff (pa : Nat) : Nat := pa % 2 ^ 28
def paOf (home off : Nat) : Nat := home * 2 ^ 28 + off

/-- The current size of a home: 256 MiB, or 240 MiB once a layer of its stack is mapped out (R11, R364). -/
def State.homeSize (s : State) (home : Nat) : Nat := if (s.stk (stackOf home)).mapped then 0xF000000 else 0x10000000

/-- 50 ms have passed since the stack entered self-refresh (R365). -/
def Stack.over (k : Stack) (now : Nat) : Bool := k.srOver || k.srAt + 85000000 ≤ now

/-- The stack of a home holds accesses to this address: it is in self-refresh, or copies that window (R125, R364). -/
def State.homeHeld (s : State) (pa : Nat) : Bool :=
  let k := s.stk (stackOf (paHome pa))
  (k.state = 3 && !k.over s.now) || (k.state = 2 && paOff pa / 0x1000000 = k.failing)

/-- The stack of a home is unavailable: self-refresh has lasted 50 ms (R365). -/
def State.homeGone (s : State) (pa : Nat) : Bool :=
  let k := s.stk (stackOf (paHome pa))
  k.state = 3 && k.over s.now

/-- The access reaches past its home's current size, which the home itself refuses (R372). -/
def State.pastHome (s : State) (pa len : Nat) : Bool := s.homeSize (paHome pa) < paOff pa + len

/-- The key that key index `k` of a page of partition `p` names (R89). -/
def keyId (p k : Nat) : Nat := if k = 0 then 1 + p else 32 + k

/-- Authentication fails under key `key`: the granule was last written under another. DESIGN CHOICE (log entry 54): a granule that
no keyed write has reached since the wipe answers to every key, and accesses that no page governs use none. -/
def State.keyFails (s : State) (key g : Nat) : Bool := key != 0 && s.mkeys.get 0 g != 0 && s.mkeys.get 0 g != key

/-- A corrected granule is written back and counted in the die's telemetry (R100). -/
def State.correct (s : State) (pa : Nat) : State :=
  match s.memStat (pa / 64) with
  | .correctable => (s.setMemStat (pa / 64) .clean).updDie (dieOf (paHome pa)) fun d => { d with corrected := d.corrected + 1 }
  | _ => s

/-- The fault that reading a granule gives (R100, Table 8; R372). -/
def State.granuleFault (s : State) (key pa len : Nat) (a : Dword) : Option Trap :=
  if s.homeGone pa then some (stackTrap a)
  else if s.pastHome pa len then some (translationFault rExtent a)
  else match s.memStat (pa / 64) with
    | .uncorrectable => some (integrityFault a)
    | .macMismatch => some (macFault a)
    | _ => if s.keyFails key (pa / 64) then some (macFault a) else none

/-- What reading part of a granule of a home gives under key `key`: bytes, tag and fault. A stack that holds the access makes the
step wait (R125). -/
def State.readHome (s : State) (key pa len : Nat) (a : Dword) : State × Piece :=
  if s.homeHeld pa then ({ s with wait := true }, {})
  else match s.granuleFault key pa len a with
    | some t => (s, { fail := some t })
    | none => (s.correct pa, { bytes := s.memRead pa len, tag := tagOf (s.memTag (pa / 64)) })

/-! ## Page tables (R87 to R90) -/

/-- Bytes of a page. -/
def pageSize (big : Bool) : Nat := if big then 2 ^ 27 else 2 ^ 16

/-- A leaf's fields break the FORMAT row of Table 3 (R89, R91). -/
def leafFormatBad (e : Dword) (big : Bool) : Bool :=
  let il := dfield e 8 7
  let w := dfield e 2 2
  let x := dfield e 3 3
  let d := dfield e 4 4
  dfield e 11 11 != 0 || dfield e 63 48 != 0 || il = 3 || (!big && dfield e 6 6 != 0)
    || (il = 0 && dfield e 47 39 != 0) || (il = 1 && 16 ≤ dfield e 47 39) || (il = 2 && 384 ≤ dfield e 47 39)
    || (w = 1 && (x = 1 || d = 1)) || (x = 1 && d = 1)
    || (il = 0 && dfield e 27 12 * 4096 % pageSize big != 0)

/-- A non-leaf entry's fields break that row: reserved bits, and the alignment of the table it names (R87, R89). DESIGN CHOICE
(log entry 51): a table that is not aligned is a FORMAT fault. -/
def nextFormatBad (e : Dword) : Bool := dfield e 63 39 != 0 || dfield e 12 1 != 0 || dfield e 13 13 != 0

/-- The homes of a leaf's group, in the order of its members (R90). -/
def leafGroup (e : Dword) : List Nat :=
  let h := dfield e 38 28
  match dfield e 8 7 with
  | 0 => [h]
  | 1 => rectCores (coreX h) (coreY h) 4 4
  | _ => rectCores (coreX h) (coreY h) 24 16

/-- The leaf's home index or group breaks the HOME row of Table 3 (R91). -/
def leafHomeBad (p : Part) (e : Dword) : Bool :=
  let h := dfield e 38 28
  numCores ≤ h || (match dfield e 8 7 with
    | 0 => !p.holds h
    | 1 => coreX h % 4 != 0 || coreY h % 4 != 0 || !(leafGroup e).all p.holds
    | _ => coreX h % 24 != 0 || coreY h % 16 != 0 || !(leafGroup e).all p.holds)

/-- The homes that a leaf's page lies in, each with the bytes that it takes from HOFF on (R90): home (HSEL + c) mod n of the group
holds the 4 KiB pieces c, c + n, c + 2·n and so on. -/
def leafShares (e : Dword) (big : Bool) : List (Nat × Nat) :=
  let g := leafGroup e
  let n := g.length
  let pieces := pageSize big / 4096
  if dfield e 8 7 = 0 then g.map (·, pageSize big)
  else (List.range (min n pieces)).map fun c => (g.getD ((dfield e 47 39 + c) % n) 0, (pieces - c + n - 1) / n * 4096)

/-- Home offset from which firmware keeps its regions clear, 240 MiB (R364). -/
def regionTop : Nat := 0xF000000

/-- The physical ranges of a region of `n` bytes that starts at `base`: below 240 MiB of each home, and on in the next home of the same
die (R286, R364; DEDUCED, log entry 69). -/
def regionRanges : Nat → Nat → Nat → List (Nat × Nat)
  | 0, _, _ => []
  | k + 1, base, n =>
    if n = 0 then []
    else
      let room := regionTop - paOff base
      (base, base + min n room) :: regionRanges k (paOf (paHome base + 1) 0) (n - room)

/-- Bytes of a label region, and of a diagram region (R252, R286). -/
def LSpace.bytes (l : LSpace) : Nat := 0x140 + 64 * l.limit
def DSpace.bytes (d : DSpace) : Nat := (0x4040 + 4 * 2 ^ d.logNb + 63) / 64 * 64 + 16 * (d.nn + 1)

/-- The physical ranges of a partition's label and diagram regions (R252, R286). -/
def Part.regions (p : Part) : List (Nat × Nat) :=
  (p.lspaces.flatMap fun e => (e.2.map fun l => regionRanges 24 l.base l.bytes).getD [])
    ++ (p.dspaces.flatMap fun e => (e.2.map fun d => regionRanges 24 d.base d.bytes).getD [])

/-- The page's frame overlaps such a region (R252, R286). -/
def leafInRegion (p : Part) (e : Dword) (big : Bool) : Bool :=
  (leafShares e big).any fun h =>
    let lo := paOf h.1 (dfield e 27 12 * 4096)
    p.regions.any fun r => lo < r.2 && r.1 < lo + h.2

/-- Any byte of the page lies at or past its home's current size (R91). -/
def State.leafExtentBad (s : State) (e : Dword) (big : Bool) : Bool :=
  (leafShares e big).any fun h => s.homeSize h.1 < dfield e 27 12 * 4096 + h.2

/-- Where byte `o` of a page lies (R90). -/
def leafPa (e : Dword) (o : Nat) : Nat :=
  let h := dfield e 38 28
  let off := dfield e 27 12 * 4096
  let c := o / 4096
  let g := leafGroup e
  let n := g.length
  if dfield e 8 7 = 0 then paOf h (off + o)
  else paOf (g.getD ((dfield e 47 39 + c) % n) 0) (off + c / n * 4096 + o % 4096)

/-- The checks of Table 3 on a leaf, in its order (R91). -/
def State.leafCheck (s : State) (p : Part) (kind : AccessKind) (a : Dword) (big : Bool) (e : Dword) : Option Trap :=
  let r := dfield e 1 1 = 1
  let w := dfield e 2 2 = 1
  if dfield e 0 0 = 0 then some (translationFault rNotValid a)
  else if leafFormatBad e big then some (translationFault rFormat a)
  else if leafHomeBad p e || leafInRegion p e big then some (translationFault rHome a)
  else if s.leafExtentBad e big then some (translationFault rExtent a)
  else if p.keys.toNat / 2 ^ dfield e 10 9 % 2 = 0 then some (permissionFault rKey a)
  else match kind with
    | .read => if r then none else some (permissionFault rRead a)
    | .write => if w then none else some (permissionFault rWrite a)
    | .atomic => if r && w then none else some (permissionFault rAtomic a)
    | .block => if dfield e 4 4 = 1 then none else some { cause := 3, val := a }

/-- A table at `pa` lies in a home of the partition. -/
def tableBad (p : Part) (pa : Nat) : Bool := numCores ≤ paHome pa || !p.holds (paHome pa)

/-- Entry `i` of the table at `table`, by a plain read (R88). -/
def State.readEntry (s : State) (p : Part) (table i : Nat) (a : Dword) : State × Except Trap Dword :=
  if tableBad p table then (s, .error (translationFault rHome a))
  else match s.readHome 0 (table + 8 * i) 8 a with
    | (s, { bytes := b, tag := _, fail := none }) =>
      let e : Dword := BitVec.ofNat 64 (ofBytes b)
      (s, if dfield e 0 0 = 0 then .error (translationFault rNotValid a) else .ok e)
    | (s, { bytes := _, tag := _, fail := some t }) => (s, .error t)

/-- The table that a non-leaf entry names, or its fault (R87, R91). -/
def nextTable (e a : Dword) : Except Trap Nat :=
  if nextFormatBad e then .error (translationFault rFormat a) else .ok (dfield e 38 13 * 2 ^ 13)

/-- The walk of R87: the leaf and whether it maps 128 MiB. -/
def State.walk (s : State) (p : Part) (va : Nat) (a : Dword) : State × Except Trap (Dword × Bool) :=
  match s.readEntry p (p.ptbase.toNat * 2 ^ 13) (field va 47 38) a with
  | (s, .error t) => (s, .error t)
  | (s, .ok e3) => match nextTable e3 a with
    | .error t => (s, .error t)
    | .ok t2 => match s.readEntry p t2 (field va 37 27) a with
      | (s, .error t) => (s, .error t)
      | (s, .ok e2) =>
        if dfield e2 6 6 = 1 then (s, .ok (e2, true))
        else match nextTable e2 a with
          | .error t => (s, .error t)
          | .ok t1 => match s.readEntry p t1 (field va 26 16) a with
            | (s, .error t) => (s, .error t)
            | (s, .ok e1) => (s, .ok (e1, false))

/-- A cached entry serves this address (R93). -/
def Tlb.hits (t : Tlb) (part va : Nat) : Bool :=
  t.part = part && t.vpn = (if t.big then va / 2 ^ 27 else va / 2 ^ 16)

/-- An entry put into a cache of `n` entries; a full cache loses its oldest (R93). -/
def tlbInsert (n : Nat) (t : Tlb) (l : List Tlb) : List Tlb := (t :: l.filter (· != t)).take n

/-- The leaf for an address: from the core's cache, else its cluster's, else by a walk, which fills both (R93). -/
def State.leafFor (s : State) (c part va : Nat) (a : Dword) : State × Except Trap (Dword × Bool) :=
  match (s.core c).tlb.find? (·.hits part va) with
  | some t => (s, .ok (t.pte, t.big))
  | none =>
    match (s.cluster (clusterOf c)).tlb.find? (·.hits part va) with
    | some t => (s.updCore c fun k => { k with tlb := tlbInsert 64 t k.tlb }, .ok (t.pte, t.big))
    | none =>
      match s.walk (s.part part) va a with
      | (s, .error t) => (s, .error t)
      | (s, .ok (e, big)) =>
        if leafFormatBad e big then (s, .ok (e, big))
        else
          let t : Tlb := { part := part, vpn := if big then va / 2 ^ 27 else va / 2 ^ 16, big := big, pte := e }
          ((s.updCore c fun k => { k with tlb := tlbInsert 64 t k.tlb }).updCluster (clusterOf c)
            fun k => { k with tlb := tlbInsert 1024 t k.tlb }, .ok (e, big))

/-- A virtual address translated and checked: physical address and key (R87 to R91, R100). -/
def State.translate (s : State) (c part : Nat) (kind : AccessKind) (a : Dword) : State × Except Trap (Nat × Nat) :=
  let va := a.toNat % 2 ^ 48
  match s.leafFor c part va a with
  | (s, .error t) => (s, .error t)
  | (s, .ok (e, big)) =>
    match s.leafCheck (s.part part) kind a big e with
    | some t => (s, .error t)
    | none => (s, .ok (leafPa e (va % pageSize big), keyId part (dfield e 10 9)))

/-! ## Decode (R86) -/

def spadSize : Nat := 0xA0000

/-- Own scratchpad, gang window or virtual memory; a gang-window address of the member itself is its own scratchpad. -/
def decodeAddr (c : Nat) (t : Task) (a : Dword) : Option (Option Loc) :=
  let x := a.toNat
  match field x 63 48 with
  | 0 => some none
  | 1 => if field x 47 20 = 0 && field x 19 0 < spadSize then some (some (.spad c (field x 19 0))) else none
  | 2 =>
    let gx := field x 25 20
    let gy := field x 30 26
    if field x 47 31 = 0 && gx < t.gw && gy < t.gh && field x 19 0 < spadSize then
      some (some (.spad (t.member gx gy) (field x 19 0)))
    else none
  | _ => none

/-- Where an address of task `t` on core `c` leads, after decode and translation (R86, R91). -/
def State.locate (s : State) (c : Nat) (t : Task) (kind : AccessKind) (a : Dword) : State × Except Trap (Loc × Nat) :=
  match decodeAddr c t a with
  | none => (s, .error (translationFault rSpace a))
  | some (some l) =>
    if kind = .atomic then (s, .error (permissionFault rAtomic a))
    else if kind = .block then (s, .error { cause := 3, val := a })
    else (s, .ok (l, 0))
  | some none =>
    match s.translate c t.part kind a with
    | (s, .ok (pa, key)) => (s, .ok (.mem pa, key))
    | (s, .error e) => (s, .error e)

/-- An access cut at granule boundaries (R107): address and length of each part. -/
def granuleParts : Nat → Dword → Nat → List (Dword × Nat)
  | 0, _, _ => []
  | n + 1, a, len =>
    if len = 0 then []
    else
      let room := 64 - a.toNat % 64
      if len ≤ room then [(a, len)] else (a, room) :: granuleParts n (a + BitVec.ofNat 64 room) (len - room)

/-- The parts of an access of `len` bytes. -/
def partsOf (a : Dword) (len : Nat) : List (Dword × Nat) := granuleParts (len + 1) a len

/-! ## Declared buffers (R95 to R97) -/

/-- Bytes of [off, off + len) that lie in the buffer. -/
def Buf.touched (b : Buf) (off len : Nat) : Nat :=
  min (off + len) (b.base.toNat + b.len.toNat) - max off b.base.toNat

/-- States of a buffer (Table 6). -/
def bEmpty : BitVec 2 := 0
def bFilling : BitVec 2 := 1
def bFull : BitVec 2 := 2
def bDraining : BitVec 2 := 3

/-- The buffer permits this access (Table 7). -/
def Buf.permits (b : Buf) (write : Bool) : Bool :=
  if write then b.st = bEmpty || b.st = bFilling else b.st = bFull || b.st = bDraining

/-- The buffer after `n` of its bytes were moved (R97, Table 7). -/
def Buf.count (b : Buf) (write : Bool) (n : Nat) : Buf :=
  let cnt := b.cnt.toNat + n
  if b.len.toNat ≤ cnt then { b with st := if write then bFull else bEmpty, cnt := 0 }
  else { b with st := if write then bFilling else bDraining, cnt := BitVec.ofNat 16 cnt }

/-- Every buffer that the access touches permits it (R98). -/
def Ctx.bufOk (k : Ctx) (off len : Nat) (write : Bool) : Bool :=
  k.bufs.all fun e => e.2.touched off len = 0 || e.2.permits write

/-- The access counted in every buffer it touches. -/
def Ctx.bufCount (k : Ctx) (off len : Nat) (write : Bool) : Ctx :=
  { k with bufs := k.bufs.map fun e =>
      (e.1, if e.2.touched off len = 0 then e.2 else e.2.count write (e.2.touched off len)) }

/-! ## What guards a scratchpad (R18, R85, R97) -/

/-- Offset of the trap save area (R18). -/
def saveArea : Nat := 0x9C000

/-- Banks that evicted contexts of a core hold in place (R79). -/
def Core.heldBanks (k : Core) : BitVec 20 :=
  k.areas.foldl (fun a e => match e.2 with
    | some v => a ||| (v.banks &&& ~~~v.bankSaved)
    | none => a) 0

/-- The banks that the core's task names, or its last one's while its gang goes on (R332). -/
def Core.banks (k : Core) : BitVec 20 := ((k.task.orElse fun _ => k.finished).map (·.banks)).getD 0

/-- Bank `b` of core `k` is held by an evicted context, and the task that accesses it, whose BANKS are given, does not name it (R85). -/
def Core.bankBarred (k : Core) (banks : BitVec 20) (b : Nat) : Bool :=
  k.heldBanks.toNat / 2 ^ b % 2 = 1 && banks.toNat / 2 ^ b % 2 = 0

/-- Any bank of the range is barred. -/
def Core.rangeBarred (k : Core) (banks : BitVec 20) (off len : Nat) : Bool :=
  len != 0 && (List.range 20).any fun b => b * 0x8000 < off + len && off < (b + 1) * 0x8000 && k.bankBarred banks b

/-- The range reaches into the trap save area (R18). -/
def inSaveArea (off len : Nat) : Bool := len != 0 && saveArea < off + len

/-- The refusal of a scratchpad access by a task with these BANKS, in the order of R384 step 6; `a` is the address reported. -/
def Core.spadRefusal (k : Core) (banks : BitVec 20) (off len : Nat) (write : Bool) (a : Dword) : Option Trap :=
  if inSaveArea off len then some (permissionFault rSave a)
  else if k.rangeBarred banks off len then some (permissionFault (if write then rWrite else rRead) a)
  else if k.ctx.bufOk off len write then none
  else some (bufferFault a)

/-! ## Granules (R100, R101, R265, R266) -/

/-- The partition and label space in which core `c` resolves tags (R251). -/
def State.spaceOf (s : State) (c : Nat) : Nat × Nat :=
  ((((s.core c).task.map (·.part)).orElse fun _ => s.partOf c).getD 0, (s.ctx c).lspace.toNat)

/-- The join of tags that a write forms, in the writer's label space (R251, R266). -/
def State.joinFor (s : State) (c : Nat) (t : LTag) : State × Option Trap × Tag :=
  let (p, sp) := s.spaceOf c
  s.resolveTags p sp t

/-- Granule `g` of a home has been written under key `key` (R89, R100). -/
def State.seal (s : State) (key g : Nat) : State := { s with mkeys := if key = 0 then s.mkeys else s.mkeys.set 0 g key }

/-- The fault that a write of `n` bytes of a granule of a home meets before it joins a tag (R100, R101, R372). -/
def State.writeFault (s : State) (key pa n : Nat) (a : Dword) : Option Trap :=
  if n != 64 then s.granuleFault key pa n a
  else if s.homeGone pa then some (stackTrap a)
  else if s.pastHome pa n then some (translationFault rExtent a)
  else none

/-- A write of part or all of a granule of a home by core `c`, under key `key` (R101, R265, R266, R372): that of a whole granule
clears poison, that of a part reads it first. A stack that holds the access makes the step wait (R125). -/
def State.writeHome (s : State) (c key pa : Nat) (bs : List Byte) (t : LTag) (a : Dword) : State × Option Trap :=
  let g := pa / 64
  let whole := bs.length = 64
  if s.homeHeld pa then ({ s with wait := true }, none)
  else match s.writeFault key pa bs.length a with
    | some e => (s, some e)
    | none =>
      let s := if whole then s else s.correct pa
      match s.joinFor c (if whole then t else joinTags [tagOf (s.memTag g), t]) with
      | (s, some tr, _) => (s, some tr)
      | (s, none, u) =>
        ((((s.memWrite pa bs).setMemTag g u).setMemStat g .clean).seal key g, none)

/-- Reading part of a scratchpad granule (R100). -/
def Core.readSpad (k : Core) (off len : Nat) (a : Dword) : Piece :=
  { bytes := k.spadRead off len, tag := tagOf (k.stags.get 0 (off / 64)),
    fail := if k.sbad.get false (off / 64) then some (integrityFault a) else none }

/-- Reading a range of a scratchpad, granule by granule: its bytes, and the join of the granules' tags (R265). -/
def Core.readSpadAll (k : Core) (off len : Nat) (a : Dword) : Piece :=
  let ps := (partsOf (BitVec.ofNat 64 off) len).map fun p => k.readSpad p.1.toNat p.2 (a + (p.1 - BitVec.ofNat 64 off))
  { bytes := ps.flatMap (·.bytes), tag := joinTags (ps.map (·.tag)), fail := ps.findSome? (·.fail) }

/-- A granule of a home that firmware or the dealer keeps for its own use is written: under no page's key (R80, R357). -/
def State.rawWrite (s : State) (pa : Nat) (bs : List Byte) (t : Tag) : State :=
  { ((s.memWrite pa bs).setMemTag (pa / 64) t).setMemStat (pa / 64) .clean with mkeys := s.mkeys.set 0 (pa / 64) 0 }

/-- Physical address of core `c`'s snapshot area in partition `p` (R357). -/
def State.snapAt (s : State) (p c : Nat) : Nat := paOf c ((s.part p).snapbase.toNat * 0x10000)

/-- The first write of scratchpad granule `g` of core `k` after its snapshot copies the granule to the snapshot area (R357). -/
def State.copyOld (s : State) (k g : Nat) : State :=
  let x := s.core k
  match x.snap with
  | none => s
  | some z =>
    if x.copied.get false g then s
    else (s.rawWrite (s.snapAt z.task.part k + 0x70000 + 64 * g) (x.spadRead (64 * g) 64) (x.stags.get 0 g)).updCore k fun x =>
      { x with copied := x.copied.set false g true }

/-- A write of part or all of a scratchpad granule of core `k` by core `c` (R265, R266). -/
def State.writeSpad (s : State) (c k off : Nat) (bs : List Byte) (t : LTag) (a : Dword) : State × Option Trap :=
  let g := off / 64
  let whole := bs.length = 64
  if !whole && (s.core k).sbad.get false g then (s, some (integrityFault a))
  else
    match s.joinFor c (if whole then t else joinTags [tagOf ((s.core k).stags.get 0 g), t]) with
    | (s, some tr, _) => (s, some tr)
    | (s, none, u) =>
      ((s.copyOld k g).updCore k fun x => { x.spadWrite off bs with stags := x.stags.set 0 g u, sbad := x.sbad.set false g false }, none)

/-- A write of a range of a scratchpad, granule by granule; the first that is refused ends it. Gives the bytes that landed. -/
def State.writeSpadAll (s : State) (c k : Nat) (t : LTag) (a : Dword) :
    List (Dword × Nat) → List Byte → State × Nat × Option Trap
  | [], _ => (s, 0, none)
  | (o, n) :: ps, bs =>
    match s.writeSpad c k o.toNat (bs.take n) t a with
    | (s, some tr) => (s, 0, some tr)
    | (s, none) => match writeSpadAll s c k t (a + BitVec.ofNat 64 n) ps (bs.drop n) with
      | (s, m, e) => (s, n + m, e)

/-- A read of one part of an access of core `c` at its place, with the scratchpad's rules and the count of its buffers. -/
def State.readLoc (s : State) (c key : Nat) (l : Loc) (len : Nat) (a : Dword) : State × Piece :=
  match l with
  | .mem pa => s.readHome key pa len a
  | .spad k off =>
    match (s.core k).spadRefusal (s.core c).banks off len false a with
    | some t => (s, { fail := some t })
    | none => (s.updCtx k (·.bufCount off len false), (s.core k).readSpadAll off len a)

/-- A write of one part of an access at its place; `c` is the writer. The bytes that land are counted (R97). -/
def State.writeLoc (s : State) (c key : Nat) (l : Loc) (bs : List Byte) (t : LTag) (a : Dword) : State × Option Trap :=
  match l with
  | .mem pa => s.writeHome c key pa bs t a
  | .spad k off =>
    match (s.core k).spadRefusal (s.core c).banks off bs.length true a with
    | some tr => (s, some tr)
    | none =>
      match s.writeSpadAll c k t a (partsOf (BitVec.ofNat 64 off) bs.length) bs with
      | (s, n, e) => (s.updCtx k (·.bufCount off n true), e)

/-- Every part of an access located, in order; the first fault ends it (R384 step 6: the decode of all parts first). -/
def State.locateAll (s : State) (c : Nat) (t : Task) (kind : AccessKind) :
    List (Dword × Nat) → State × Except Trap (List (Loc × Nat × Dword × Nat))
  | [] => (s, .ok [])
  | (a, len) :: ps =>
    match s.locate c t kind a with
    | (s, .error e) => (s, .error e)
    | (s, .ok (l, key)) =>
      match locateAll s c t kind ps with
      | (s, .error e) => (s, .error e)
      | (s, .ok r) => (s, .ok ((l, len, a, key) :: r))

/-- The parts of an access of `len` bytes at `a`, located; no part that decodes to no space is translated first. -/
def State.place (s : State) (c : Nat) (t : Task) (kind : AccessKind) (a : Dword) (len : Nat) :
    State × Except Trap (List (Loc × Nat × Dword × Nat)) :=
  let ps := partsOf a len
  match ps.find? fun p => (decodeAddr c t p.1).isNone with
  | some p => (s, .error (translationFault rSpace p.1))
  | none => s.locateAll c t kind ps

/-! ## Writes between dies (R121) -/

/-- The die of a place's home or core. -/
def locDie : Loc → Nat
  | .mem pa => dieOf (paHome pa)
  | .spad k _ => dieOf k

/-- A write of die `o` that carries the vector `w` is covered by the vector `v`: its die had counted it (R121). -/
def vecCovered (v : List Nat) (o : Nat) (w : Option (List Nat)) : Bool := w.any fun w => w.getD o 0 < v.getD o 0

/-- Write `r` is covered by the vector `v` (R121). -/
def coveredBy (v : List Nat) (r : Req) : Bool := vecCovered v (dieOf r.core) r.vec

/-- Every item in the duplex routers (R361). -/
def State.allItems (s : State) : List Item := s.parts.flatMap fun e => match e.2 with
  | some p => p.items
  | none => []

/-- Atomics of duplex members that have not met their equals (R361). -/
def State.unpaired (s : State) : List Req := s.allItems.filterMap fun e => if e.paired then none else e.req

/-- A write or block-sum set that `v` covers has still to be applied at die `d` (R121). -/
def State.covers (s : State) (d : Nat) (v : List Nat) : Bool :=
  ((s.reqs ++ s.unpaired).any fun e => locDie e.loc = d && coveredBy v e)
    || s.bsums.any fun b => dieOf b.target = d && vecCovered v (dieOf b.sender) b.vec

/-- Component-wise maximum of two vectors of write counters. -/
def maxVec (v w : List Nat) : List Nat := (List.range 4).map fun d => max (v.getD d 0) (w.getD d 0)

/-- Die `d` has applied the write of die `o` that carries `v`: it and all that it covers count there (R121). -/
def State.applied (s : State) (d o : Nat) (v : List Nat) : State :=
  s.updDie d fun x => { x with vec := maxVec x.vec (v.set o (v.getD o 0 + 1)) }

/-- A write of die `o` that carries `v`, if it left its die, counts as applied at die `d` (R121). -/
def State.noteVec (s : State) (v : Option (List Nat)) (d o : Nat) : State :=
  match v with
  | some v => s.applied d o v
  | none => s

/-- A write that leaves its die takes the die's vector with it, and the die counts it (R121). -/
def State.stamp (s : State) (c : Nat) (l : Loc) : State × Option (List Nat) :=
  let o := dieOf c
  if locDie l = o then (s, none)
  else
    let v := (s.die o).vec
    (s.updDie o fun x => { x with vec := x.vec.set o (x.vec.getD o 0 + 1) }, some v)

/-- A write by core `c` that issues and is applied in one step: where it leaves its die, it waits for every write that its vector
covers and that has still to be applied there (R121). -/
def State.crossWrite (s : State) (c : Nat) (l : Loc) : State :=
  match s.stamp c l with
  | (s, none) => s
  | (s, some v) =>
    if s.covers (locDie l) v then { s with wait := true } else s.applied (locDie l) (dieOf c) v

end Sys2Proof.Machine
end

