-- ==== Sys2Proof/Machine/Operands.lean ====
section
/-! DEFINITION. The operand forms: how the words of a group become moves (R131 to R136), what each source gives (R129,
R130, R145 to R147), and how a value is adapted to its destination's class (R128). -/

namespace Sys2Proof.Machine

/-! ## Moves of a group -/

/-- The MODX payload's fields (R133, Table 5). -/
structure Modx where
  rmo : Nat := 0
  sat : Bool := false
  b0  : Bool := false
  ew  : Nat := 0
  deriving DecidableEq, Repr, Inhabited

/-- Element width of an EW code: 32 unless a MODX sets it (R128, R129). -/
def ewBits (ew : Nat) : Nat :=
  match ew with
  | 1 => 8
  | 2 => 16
  | 4 => 64
  | _ => 32

/-- A source: an immediate with its LIMM words applied, or a port with MOD. -/
inductive Src where
  | imm (v : Dword)
  | port (p m : Nat)
  deriving DecidableEq, Repr, Inhabited

/-- A move of a group, with the hints that belong to it. -/
structure Move where
  g   : Nat := 0
  neg : Bool := false
  dst : Nat := 0
  src : Src := .imm 0
  mx  : Modx := {}
  deriving DecidableEq, Repr, Inhabited

/-- The immediate value under `lims`, first payload most significant (R130, R132). -/
def immValue (lims : List (BitVec 24)) (low : BitVec 15) : Dword :=
  let p := lims.foldl (fun a l => a * 2 ^ 24 + l.toNat) 0
  BitVec.ofInt 64 (toSigned (24 * lims.length + 15) (p * 2 ^ 15 + low.toNat))

/-- What has been read of a group. -/
structure Parse where
  lims  : List (BitVec 24) := []
  modx  : Option (BitVec 24) := none
  moves : List Move := []
  brk   : Option (BitVec 24) := none
  ok    : Bool := true
  deriving DecidableEq, Repr, Inhabited

/-- No LIMM or MODX is waiting for its move. -/
def Parse.free (p : Parse) : Bool := p.lims.isEmpty && p.modx.isNone

/-- Fields of a MODX payload; reserved values refuse it (R133, Table 5). -/
def modxOf (pay : BitVec 24) : Option Modx :=
  let x := pay.toNat
  if field x 2 0 ≤ 5 && field x 7 5 ≤ 4 && field x 23 8 = 0 then
    some { rmo := field x 2 0, sat := field x 3 3 = 1, b0 := field x 4 4 = 1, ew := field x 7 5 }
  else none

/-- One more slot of a group. DESIGN CHOICE (log entry 51): of two BRK words in one group the later gives the payload. -/
def Parse.slot (p : Parse) : Slot → Parse
  | .hint kind pay =>
    match kind.toNat with
    | 0 => { p with lims := p.lims ++ [pay], ok := p.ok && p.lims.length < 3 }
    | 2 => { p with modx := some pay, ok := p.ok && p.modx.isNone && (modxOf pay).isSome }
    | 3 => { p with brk := some pay, ok := p.ok && p.free }
    | _ => { p with ok := p.ok && p.free }
  | .move g n dst imm low =>
    let first := match p.lims with
      | [f, _, _] => f.toNat ≤ 1
      | _ => true
    { p with
      lims := [], modx := none
      ok := p.ok && first && (imm || p.lims.isEmpty)
      moves := p.moves ++ [{
        g := g.toNat, neg := n, dst := dst.toNat
        src := if imm then .imm (immValue p.lims low) else .port (field low.toNat 10 0) (field low.toNat 14 11)
        mx := ((p.modx.bind modxOf).getD {}) }] }

/-- The group that these slots form. -/
def parseGroup (slots : List Slot) : Parse :=
  let p := slots.foldl Parse.slot {}
  { p with ok := p.ok && p.free }

/-! ## The scanner's rules for a group (R133 to R137) -/

/-- The class of a source. -/
def Move.srcCls (m : Move) : Cls :=
  match m.src with
  | .imm _ => .scalar
  | .port p _ => ((srcPort p).map (·.2)).getD .scalar

/-- The class of the destination. -/
def Move.dstCls (m : Move) : Cls := ((dstPort m.dst).map (·.2)).getD .scalar

/-- A drop: MOD 2 on a queue source (R129). -/
def Move.isDrop (m : Move) : Bool :=
  match m.src with
  | .port _ 2 => m.srcCls = .queue
  | _ => false

/-- The queue whose head a move removes, named by its source port. -/
def Move.pops (m : Move) : Option Nat :=
  match m.src with
  | .port p k => if m.srcCls = .queue && (k = 0 || k = 2) then some p else none
  | _ => none

/-- The move goes into an sq queue (R128). -/
def Move.toSq (m : Move) : Bool := 0x88 ≤ m.dst && m.dst ≤ 0x8B

/-- Triggers that accept MODX SAT (R157, R198). -/
def acceptsSat (p : Nat) : Bool :=
  [0x108, 0x109, 0x210, 0x211, 0x212, 0x213, 0x214, 0x215, 0x218, 0x219, 0x22A, 0x246].contains p

/-- Triggers that accept MODX RMO (R157, R198). -/
def acceptsRmo (p : Nat) : Bool :=
  [0x125, 0x126, 0x127, 0x128, 0x12E, 0x210, 0x211, 0x212, 0x213, 0x214, 0x215, 0x22A, 0x230, 0x231, 0x232, 0x233,
    0x234, 0x235, 0x236, 0x23B, 0x23C, 0x246, 0x247].contains p

/-- The source is of the scalar class, to which `xa`, `ax` and `ms.in` belong (R128). -/
def Move.scalarSrc (m : Move) : Bool :=
  m.srcCls = .scalar || (match m.src with
    | .port p _ => p = 0x8C || p = 0xB0 || p = 0x43C
    | .imm _ => false)

/-- The MODX fields of a move are accepted (R133, R157, R198). -/
def Move.modxOk (m : Move) : Bool :=
  let vecDst := m.dstCls = .vector
  let plainTrig := isTrigger m.dst && !vecDst
  let mod0 := match m.src with
    | .port _ k => k = 0
    | .imm _ => false
  (m.mx.rmo = 0 || acceptsRmo m.dst) && (!m.mx.sat || acceptsSat m.dst)
    && (!m.mx.b0 || (m.srcCls = .vector && mod0 && (vecDst || m.toSq)))
    && (m.mx.ew = 0 || (!plainTrig && (m.srcCls = .vector || (m.scalarSrc && vecDst))))

/-- MOD is not reserved for its source class (R129, Table 3). -/
def Move.modOk (m : Move) : Bool :=
  match m.src with
  | .imm _ => true
  | .port _ k =>
    match m.srcCls with
    | .vector => k * ewBits m.mx.ew < 512
    | .queue => k ≤ 2
    | _ => k ≤ 4

/-- Ports exist and belong to the half; a drop names no destination (R136, R149). -/
def Move.portsOk (h : Half) (priv : Nat) (m : Move) : Bool :=
  (match m.src with
    | .imm _ => true
    | .port p _ => match srcPort p with
      | some (ph, _) => ph.allows h
      | none => false)
  && (if m.isDrop then m.dst = 0 else
      (match dstPort m.dst with
        | some (ph, _) => ph.allows h
        | none => false)
      && (priv != 0 || !isPrivPort m.dst))

/-- No value occurs twice. -/
def noDup (xs : List Nat) : Bool :=
  match xs with
  | [] => true
  | x :: t => !t.contains x && noDup t

/-- The unit of a trigger move. -/
def Move.trigUnit (m : Move) : Option Nat :=
  if m.isDrop then none else (unitOf m.dst).bind fun u => if u.isTrig m.dst then some u.base else none

/-- The moves obey the rules that the scanner checks (R133 to R137). -/
def groupOk (h : Half) (priv : Nat) (words : Nat) (p : Parse) : Bool :=
  p.ok && (words ≤ match h with
    | .x => 4
    | .a => 2)
    && p.moves.all (fun m => m.portsOk h priv && m.modOk && m.modxOk)
    && noDup ((p.moves.filter (!·.isDrop)).map (·.dst))
    && noDup (p.moves.filterMap (·.trigUnit))
    && noDup (p.moves.filterMap (·.pops))

/-! ## Sources -/

/-- The value at a source: scalar or predicate, vector, or queue entry. -/
inductive Val where
  | s (x : SVal)
  | v (x : VVal)
  | q (e : QEntry)
  deriving DecidableEq, Repr, Inhabited

def Val.tag : Val → LTag
  | .s x => x.t
  | .v x => x.t
  | .q e => e.t

/-- The value with tag 0xFFFF. -/
def Val.muck : Val → Val
  | .s x => .s { x with t := [mucked] }
  | .v x => .v { x with t := [mucked] }
  | .q e => .q { e with t := [mucked] }

/-- The queue behind a source port. -/
def srcQueue (p : Nat) : Option Nat :=
  if 0x88 ≤ p && p ≤ 0x8B then some (qLq (p - 0x88))
  else if p = 0x8C then some qXa
  else if p = 0xB0 then some qAx
  else none

/-- The queue behind a destination port. -/
def dstQueue (p : Nat) : Option Nat :=
  if 0x88 ≤ p && p ≤ 0x8B then some (qSq (p - 0x88))
  else if p = 0x8C then some qXa
  else if p = 0xB0 then some qAx
  else none

/-- Identity ports (R2, R65, R145). -/
def identity (c : Nat) (t : Task) (p : Nat) : Nat :=
  match p with
  | 0xC8 => coreX c
  | 0xC9 => coreY c
  | 0xCA => t.gx
  | 0xCB => t.gy
  | 0xCC => t.gw
  | 0xCD => t.gh
  | _ => dieOf c

/-- The index in inbound storage of the entry that `ms.in` selects by `ms.b` (R326). -/
def Ctx.inSelect (k : Ctx) : Option Nat :=
  let b := (k.scalar 0x401).v
  k.inbox.findIdx? fun m => dfield b 8 8 = 1 || m.chan = dfield b 7 0

/-- What a source port gives, or none while the source is not ready (R82, R147, R148, R326). -/
def readPort (c now : Nat) (t : Task) (k : Ctx) (p : Nat) : Option Val :=
  match srcQueue p with
  | some q => ((k.queue q).seen now).bind fun e => if unresolved e.t then none else some (.q e)
  | none =>
    if p = 0x43C then
      if k.portPending 0x401 then none
      else k.inSelect.bind fun i => (k.inbox[i]?).bind fun m =>
        if unresolved m.t then none else some (.q { v := m.v.setWidth 512, t := m.t })
    else if p = 0xC0 then some (.s {})
    else if p = 0xC1 then some (.s { v := 1 })
    else if p = 0xC2 then some (.s { v := 0xFFFFFFFFFFFFFFFF })
    else if 0xC8 ≤ p && p ≤ 0xCE then some (.s { v := BitVec.ofNat 64 (identity c t p) })
    else if k.portPending p then none
    else match srcPort p with
      | some (_, .vector) => some (.v (k.vector p))
      | some (_, .pred) => some (.s { v := if (k.pred p).v then 1 else 0, t := (k.pred p).t })
      | _ => some (.s (k.scalar p))

/-- A scalar or predicate source under MOD (R129, Table 3). -/
def scalarMod (m : Nat) (x : Dword) : Dword :=
  match m with
  | 1 => (x.setWidth 32).setWidth 64
  | 2 => (x.setWidth 32).signExtend 64
  | 3 => ~~~x
  | 4 => -x
  | _ => x

/-- MOD of a move. -/
def Move.mod (m : Move) : Nat :=
  match m.src with
  | .imm _ => 0
  | .port _ k => k

/-- Lane `i` of `w` bits, zero-extended (R129). -/
def lane (w : Nat) (v : Vec) (i : Nat) : Dword := BitVec.ofNat 64 (elem w v i)

/-- The low `w` bits of `x` in every element (R128). -/
def broadcast (w : Nat) (x : Nat) : Vec := vecOf w (512 / w) fun _ => x

/-! ## Adaptation to the destination (R128, Table 2) -/

/-- Into the scalar class. -/
def Move.toScalar (m : Move) : Val → SVal
  | .s x => { v := scalarMod m.mod x.v, t := x.t }
  | .v x => { v := lane (ewBits m.mx.ew) x.v m.mod, t := x.t }
  | .q e => { v := e.v.setWidth 64, t := e.t }

/-- Into the vector class. -/
def Move.toVector (m : Move) : Val → VVal
  | .s x => { v := broadcast (ewBits m.mx.ew) (scalarMod m.mod x.v).toNat, t := x.t }
  | .v x =>
    if m.mod = 0 && !m.mx.b0 then x
    else { v := broadcast (ewBits m.mx.ew) (elem (ewBits m.mx.ew) x.v m.mod), t := x.t }
  | .q e => { v := if e.wide then e.v else broadcast (ewBits m.mx.ew) e.v.toNat, t := e.t }

/-- Into a predicate: bit 0. -/
def Move.toPred (m : Move) (x : Val) : PVal :=
  let y := m.toScalar x
  { v := y.v.toNat % 2 = 1, t := y.t }

/-- Into a queue: `xa` and `ax` take scalar-class values; sq takes what its producer gives (R128). -/
def Move.toEntry (m : Move) (now : Nat) (x : Val) : QEntry :=
  let since := now + coreCycles 1
  let narrow : QEntry := { v := (m.toScalar x).v.setWidth 512, t := x.tag, since := since }
  if m.toSq then
    match x with
    | .s _ => narrow
    | .v _ => if m.mod = 0 then { wide := true, v := (m.toVector x).v, t := x.tag, since := since } else narrow
    | .q e => { wide := e.wide, v := e.v, t := e.t, since := since }
  else narrow

/-- Whether the destination can take a value: a push needs room (R16, R82). -/
def Ctx.dstReady (k : Ctx) (now dst : Nat) : Bool :=
  match dstQueue dst with
  | some q => (k.queue q).room (queueDepth q) now 0 1
  | none => true

/-- A value arrives at a destination that is no trigger, with `g` joined into its tag (R128, R147, R262). A write to a
register or latch replaces what was still to come there. -/
def Ctx.write (k : Ctx) (now : Nat) (m : Move) (x : Val) (g : LTag) : Ctx :=
  match dstQueue m.dst with
  | some q =>
    let e := m.toEntry now x
    k.setQueue q ((k.queue q).push { e with t := joinTags [e.t, g] })
  | none =>
    let k := { k with pend := k.pend.filter fun e => e.1 != m.dst }
    match m.dstCls with
    | .vector => let y := m.toVector x; k.setVector m.dst { y with t := joinTags [y.t, g] }
    | .pred => let y := m.toPred x; k.setPred m.dst { y with t := joinTags [y.t, g] }
    | _ => let y := m.toScalar x; k.setScalar m.dst { y with t := joinTags [y.t, g] }

/-- The head that a move pops or drops is removed (R129, R136, R326). -/
def Ctx.popSource (k : Ctx) (now p : Nat) : Ctx :=
  match srcQueue p with
  | some q => k.setQueue q ((k.queue q).pop (queueDepth q) now)
  | none => match k.inSelect with
    | some i => { k with inbox := k.inbox.eraseIdx i }
    | none => k

/-! ## Triggers -/

/-- What a trigger has in hand (R136): the value written, the mode of arithmetic, and the registers as they stood before
the group. -/
structure Trig where
  core  : Nat := 0
  half  : Half := .x
  port  : Nat := 0
  t     : SVal := {}
  tv    : VVal := {}
  rm    : Nat := 0
  sat   : Bool := false
  ftz   : Bool := false
  trapIll : Bool := false
  ctl   : LTag := []
  lspace : Nat := 0
  ddspace : Nat := 0
  ddwt  : Nat := 0
  muckTrap : Bool := false
  /-- Offset of the group, and of the group that follows it. -/
  pc    : Nat := 0
  next  : Nat := 0
  deriving DecidableEq, Repr, Inhabited

/-- A latch as its unit's trigger reads it (R136). -/
def Trig.latch (x : Trig) (s : State) (p : Nat) : SVal := (s.ctx x.core).scalar p

/-- What a trigger comes to. -/
inductive Fired where
  /-- It is performed; `jump` is a taken transfer (R171). -/
  | done (s : State) (jump : Bool)
  /-- Its group holds (R82). -/
  | stall
  /-- The same, and what the device keeps of the attempt stays: a sender that waits for room (R325). -/
  | hold (s : State)
  /-- It is refused at step `rank` of R384 with this trap. -/
  | trap (rank : Nat) (t : Trap)

/-- The trap of a refused operation (R179, CAUSE 18). -/
def refused (reason : Nat) (v : Dword) : Trap := { cause := 18, reason := BitVec.ofNat 8 reason, val := v }

/-- Core cycles that the resolution of a joined tag takes at the least: 1 on the fast path, and 3 for each pairwise step off it (R267,
Table 5). -/
def tagCycles (t : LTag) : Nat := max 1 (3 * (t.length - 1))

/-- An operation of fixed latency starts: `L` core cycles, its results with the join of `tags` and CTLAB (R153, R155,
R263). -/
def Trig.result (x : Trig) (s : State) (L : Nat) (ws : List (Nat × Dword)) (tags : List LTag) (flags : BitVec 8 := 0)
    (fp : Bool := false) : State :=
  let t := joinTags (tags ++ [x.ctl])
  s.updCtx x.core (·.send { due := s.now + coreCycles (max L (tagCycles t)), sw := ws.map fun w => (w.1, { v := w.2, t := t }),
                            flags := flags, fp := fp })

/-- The same for vector results. -/
def Trig.resultV (x : Trig) (s : State) (L : Nat) (ws : List (Nat × Vec)) (tags : List LTag) (flags : BitVec 8 := 0)
    (fp : Bool := false) : State :=
  let t := joinTags (tags ++ [x.ctl])
  s.updCtx x.core (·.send { due := s.now + coreCycles (max L (tagCycles t)), vw := ws.map fun w => (w.1, { v := w.2, t := t }),
                            flags := flags, fp := fp })

/-- An operation that is not performed because an operand that selects is mucked: its results are 0 with tag 0xFFFF
(R154). -/
def Trig.muckResult (x : Trig) (s : State) (ports : List Nat) : State :=
  s.updCtx x.core (·.send { due := s.now + coreCycles 1,
                            sw := ports.map fun p => (p, { v := 0, t := [mucked] }) })

end Sys2Proof.Machine
end

