-- ==== Sys2Proof/Machine/Flags.lean ====
section
/-! DEFINITION. The flag computations: carry, borrow and overflow of the scalar unit (R158), and the VFLAGS register
(R35, R36). The flags of floating operations are given with the operations (Float.lean). -/

namespace Sys2Proof.Machine

/-- Carry out of bit 63 of a + b (R158). -/
def carryOut (a b : Dword) : Bool := 2 ^ 64 ≤ a.toNat + b.toNat

/-- Borrow of a − b (R158). -/
def borrowOut (a b : Dword) : Bool := a.toNat < b.toNat

/-- The exact signed value fits 64 bits. -/
def fits64 (x : Int) : Bool := -(2 ^ 63 : Nat) ≤ x && x < (2 ^ 63 : Nat)

/-- Signed overflow of a + b (R158). -/
def addOverflow (a b : Dword) : Bool := !fits64 (a.toInt + b.toInt)

/-- Signed overflow of a − b (R158). -/
def subOverflow (a b : Dword) : Bool := !fits64 (a.toInt - b.toInt)

/-- `.f` of add and sub: bit 0 carry or borrow, bit 1 overflow (R158). -/
def carryFlags (c v : Bool) : Dword := (if c then 1 else 0) ||| (if v then 2 else 0)

/-- A truth value as a result (R162). -/
def boolWord (b : Bool) : Dword := if b then 1 else 0

/-- VFLAGS.RM, FTZ and TRAPILL (R36, Table 4). -/
def vfRm (v : Dword) : Nat := dfield v 18 16
def vfFtz (v : Dword) : Bool := dfield v 19 19 = 1
def vfTrapIll (v : Dword) : Bool := dfield v 20 20 = 1

/-- VFLAGS after a write of `v`: flags clear where `v` is 1; an RM of 5 to 7 stores 0 (R36). -/
def vflagsWrite (old v : Dword) : Dword :=
  BitVec.ofNat 64 ((old &&& ~~~v).toNat % 256 + 2 ^ 16 * (if 5 ≤ vfRm v then 0 else vfRm v)
    + 2 ^ 19 * dfield v 19 19 + 2 ^ 20 * dfield v 20 20)

/-- A read of VFLAGS waits while a floating, conversion or matrix operation issued earlier has not landed (R35); `bsums` are
the block-sum sets of the core that no target has accepted yet. -/
def Ctx.vflagsReady (k : Ctx) (bsums : Nat) : Bool := k.flight.all (!·.fp) && k.mxq.isEmpty && bsums = 0

/-- The effective mode of an operation (R33): the MODX override, else VFLAGS.RM. -/
def effectiveRm (mx : Modx) (v : Dword) : Nat := if mx.rmo = 0 then vfRm v else mx.rmo - 1

end Sys2Proof.Machine
end

