-- ==== Sys2Proof/Machine/Residue.lean ====
section
/-! DEFINITION. The residue element RE36 (R41 to R43), block sums (R48), and the storage formats with the conversions
between them (R45 to R47, R52 to R54). -/

namespace Sys2Proof.Machine

/-! ## RE36 -/

/-- M of R41. -/
def re36M : Nat := 68719472640

/-- The element that represents X modulo M (R41). -/
def Re36.ofInt (x : Int) : Re36 :=
  { qa := (x % 4095).toNat, qb := (x % 4096).toNat, qc := (x % 4097).toNat }

/-- The helper Crt (R43). -/
def Re36.crt (r : Re36) : Int :=
  let x := (r.qa * 34368126976 + r.qb * 68702695425 + r.qc * 34368122880) % re36M
  if re36M / 2 ≤ x then (x : Int) - re36M else x

/-- One multiply-accumulate in the three channels (R42). -/
def Re36.mac (q x y : Re36) : Re36 :=
  { qa := (q.qa + x.qa * y.qa) % 4095, qb := (q.qb + x.qb * y.qb) % 4096, qc := (q.qc + x.qc * y.qc) % 4097 }

/-- The sum of two elements (R42). -/
def Re36.add (x y : Re36) : Re36 :=
  { qa := (x.qa + y.qa) % 4095, qb := (x.qb + y.qb) % 4096, qc := (x.qc + y.qc) % 4097 }

/-- The container, as a dword (R41, Table 6). -/
def Re36.pack (r : Re36) : Nat := r.qb + 2 ^ 12 * r.qa + 2 ^ 24 * r.qc

/-- How a container in memory is read (R41). -/
def Re36.unpack (x : Nat) : Re36 :=
  { qa := field x 23 12 % 4095, qb := field x 11 0, qc := field x 36 24 % 4097 }

/-! ## Block sums (R48) -/

/-- Rne(s / 2^n) and whether non-zero bits were discarded. Past 80 bits of shift nothing of a 64-bit sum is left. -/
def rneShift (s : Int) (n : Nat) : Int × Bool :=
  let (k, ix) := roundShift .rne (s < 0) s.natAbs (min n 80) false
  (if s < 0 then -(k : Int) else k, ix)

/-- The running state of a reduction: S, E, C. -/
structure BsumAcc where
  s : Int := 0
  e : Int := 0
  c : Nat := 0
  deriving DecidableEq, Repr, Inhabited

/-- One arrival applied to the running state, with the flags that it sets in the reducing core (R48). DESIGN CHOICE (log
entry 49): R39 says that the alignment sets no flag and R48 that a shift which discards bits sets NX; NX is set. -/
def BsumAcc.apply (a : BsumAcc) (s e : Int) (c : Nat) : BsumAcc × FlagBits :=
  let cn := min (a.c + c) (2 ^ 32 - 1)
  let fc := flagIf (a.c + c != cn) fSAT
  if a.s = 0 then ({ s := s, e := e, c := cn }, fc)
  else if s = 0 then ({ a with c := cn }, fc)
  else if e ≤ a.e then
    let (r, ix) := rneShift s (a.e - e).toNat
    let (v, sat) := satTo true 64 (a.s + r)
    ({ s := v, e := a.e, c := cn }, fc ||| flagIf ix fNX ||| flagIf sat fSAT)
  else
    let (r, ix) := rneShift a.s (e - a.e).toNat
    let (v, sat) := satTo true 64 (r + s)
    ({ s := v, e := e, c := cn }, fc ||| flagIf ix fNX ||| flagIf sat fSAT)

/-! ## T5, I4 and the BFP mantissas (R45 to R47) -/

/-- The recurrence of R46: the digits of a legal code. -/
def t5Digits : Nat → Nat → List Nat
  | 0, _ => []
  | n + 1, q => q * 3 / 256 :: t5Digits n (q * 3 % 256)

/-- The five elements of a T5 byte; an illegal code gives five elements of value 0 (R46). -/
def t5Decode (b : Nat) : List Int :=
  if b < 243 then (t5Digits 5 ((b * 256 + 242) / 243)).map fun (d : Nat) => (d : Int) - 1 else [0, 0, 0, 0, 0]

/-- A T5 code is illegal (R45). -/
def t5Illegal (b : Nat) : Bool := 243 ≤ b

/-- The T5 byte of five elements (R45). -/
def t5Encode (ds : List Int) : Nat := ds.foldl (fun a d => 3 * a + (d + 1).toNat) 0

/-- The two elements of an I4 byte (R47). -/
def i4Decode (b : Nat) : List Int := [toSigned 4 b, toSigned 4 (b / 16)]

/-- The mantissa of a BFP12 container and whether the container is illegal (R47). -/
def bfp12Decode (c : Nat) : Int × Bool :=
  if field c 15 12 = (if field c 11 11 = 1 then 15 else 0) then (toSigned 12 c, false)
  else (clamp (-2048) 2047 (toSigned 16 c), true)

/-! ## Bank formats (R49, R50) -/

/-- Format codes of Table 10. -/
def fmtRaw : Nat := 0
def fmtT5 : Nat := 12
def fmtI4 : Nat := 13
def fmtBfp8 : Nat := 14
def fmtBfp12 : Nat := 15
def fmtRe36 : Nat := 16

/-- The width and signedness of an integer format (Table 10). -/
def fmtInt (f : Nat) : Option (Bool × Nat) :=
  match f with
  | 1 => some (true, 8)
  | 2 => some (false, 8)
  | 3 => some (true, 16)
  | 4 => some (false, 16)
  | 5 => some (true, 32)
  | 6 => some (false, 32)
  | 7 => some (true, 64)
  | 8 => some (false, 64)
  | 13 => some (true, 4)
  | _ => none

/-- The floating format of a format code (Table 10). -/
def fmtFloat (f : Nat) : Option Fmt :=
  match f with
  | 9 => some fp16
  | 10 => some bf16
  | 11 => some fp32
  | _ => none

def fmtIsBfp (f : Nat) : Bool := f = fmtBfp8 || f = fmtBfp12

/-- Bytes of the smallest whole piece that a copy can take of a format: an element, or a block (R52). -/
def fmtUnit (f : Nat) : Nat :=
  match f with
  | 3 | 4 | 9 | 10 => 2
  | 5 | 6 | 11 => 4
  | 7 | 8 | 16 => 8
  | 14 => 32
  | 15 => 64
  | _ => 1

/-- Elements in such a piece. -/
def fmtElems (f : Nat) : Nat :=
  match f with
  | 12 => 5
  | 13 => 2
  | 14 | 15 => 32
  | _ => 1

/-- FMT, EXPBASE, PKT5 and PKI4 of a format register (R49). -/
def bfmtFmt (r : Dword) : Nat := dfield r 4 0
def bfmtExpBase (r : Dword) : Nat := 64 * dfield r 29 16
def bfmtPkT5 (r : Dword) : Bool := dfield r 33 33 = 1
def bfmtPkI4 (r : Dword) : Bool := dfield r 34 34 = 1

/-- The register that a write of `v` leaves: reserved FMT ignores the write, PKT5 and PKI4 stay only where FMT permits
them, BLK and PKRAW are read-only (R49, R50). -/
def bfmtWrite (old v : Dword) : Dword :=
  let f := dfield v 4 0
  if 17 ≤ f then old
  else
    BitVec.ofNat 64 (f + 2 ^ 8 * (if fmtIsBfp f then 5 else 0) + 2 ^ 16 * dfield v 29 16 + 2 ^ 32
      + 2 ^ 33 * (if f = fmtT5 then dfield v 33 33 else 0) + 2 ^ 34 * (if f = fmtI4 then dfield v 34 34 else 0))

/-! ## Conversions (R53, R54) -/

/-- An exact integer as a value. -/
def intVal (x : Int) : FVal := .num (x < 0) x.natAbs 0

/-- The elements of one piece of a source format, with the flags of decoding; `e` is the exponent byte of a BFP block
(R53, Table 11). -/
def decodePiece (f : Nat) (ftz : Bool) (e : Nat) (bs : List Byte) : List FVal × FlagBits :=
  if f = fmtT5 then
    let b := ofBytes bs
    ((t5Decode b).map intVal, flagIf (t5Illegal b) fILT)
  else if f = fmtI4 then ((i4Decode (ofBytes bs)).map intVal, 0)
  else if f = fmtBfp8 then
    (bs.map fun b => .num (b.toInt < 0) b.toInt.natAbs ((e : Int) - 127), 0)
  else if f = fmtBfp12 then
    let ms := (List.range 32).map fun i => bfp12Decode (ofBytes ((bs.drop (2 * i)).take 2))
    (ms.map fun m => .num (m.1 < 0) m.1.natAbs ((e : Int) - 127), flagIf (ms.any (·.2)) fILC)
  else if f = fmtRe36 then ([intVal (Re36.unpack (ofBytes bs)).crt], 0)
  else match fmtInt f, fmtFloat f with
    | some (sg, w), _ => ([intVal (readInt sg w (ofBytes bs))], 0)
    | _, some fl => ([fdecode fl ftz (ofBytes bs)], 0)
    | _, _ => (bs.map fun b => intVal b.toNat, 0)

/-- `bs` cut into pieces of `n` bytes. -/
def pieces (n : Nat) (bs : List Byte) : List (List Byte) :=
  (List.range (bs.length / n)).map fun i => (bs.drop (n * i)).take n

/-- All elements of a source (Table 11). -/
def decodeAll (f : Nat) (ftz : Bool) (exps : List Nat) (bs : List Byte) : List FVal × FlagBits :=
  let ps := (pieces (fmtUnit f) bs).zipIdx.map fun (p, i) => decodePiece f ftz (exps.getD i 0) p
  (ps.flatMap (·.1), ps.foldl (fun a p => a ||| p.2) 0)

/-- A value rounded to an integer and clamped, with flags (Table 12). -/
def encodeInt (rm : RMode) (lo hi : Int) (x : FVal) : Int × FlagBits :=
  match x with
  | .nan _ => (0, fNV)
  | .inf n => (if n then lo else hi, fSAT)
  | .num n m e =>
    let (k, ix) := roundInt rm n m e
    let v : Int := if n then -(k : Int) else k
    (clamp lo hi v, flagIf ix fNX ||| flagIf (v < lo || hi < v) fSAT)

/-- A value scaled by 2^-n. -/
def FVal.scale (n : Int) : FVal → FVal
  | .nan s => .nan s
  | .inf s => .inf s
  | .num s m e => .num s m (e - n)

/-- Whether |x| rounded is at most `mmax`. -/
def roundFits (rm : RMode) (mmax : Nat) (e : Nat) (x : FVal) : Bool :=
  match x with
  | .nan _ => true
  | .inf _ => false
  | .num _ m ex => (roundInt rm false m (ex - ((e : Int) - 127))).1 ≤ mmax

/-- The larger of two magnitudes; a NaN counts as 0 (R54). -/
def maxMag (a b : FVal) : FVal :=
  let mag (x : FVal) : FVal := match x with
    | .nan _ => .num false 0 0
    | .inf _ => .inf false
    | .num _ m e => .num false m e
  match fcompare (mag a) (mag b) with
  | some .lt => mag b
  | _ => mag a

/-- The block rule: exponent byte, 32 mantissas, flags (R54). `twelve` chooses BFP12. -/
def encodeBlock (twelve : Bool) (rm : RMode) (xs : List FVal) : Nat × List Int × FlagBits :=
  let mmax := if twelve then 2047 else 127
  let a := xs.foldl maxMag (.num false 0 0)
  let nv := flagIf (xs.any (·.isNan)) fNV
  if fcompare a (.num false 0 0) = some .eq then (0, xs.map fun _ => 0, nv)
  else
    let e := ((List.range 256).find? fun e => roundFits rm mmax e a).getD 255
    let lo : Int := if twelve then -2048 else -128
    let ms := xs.map fun x => if x.isNan then (0, 0) else encodeInt rm lo mmax (x.scale ((e : Int) - 127))
    (e, ms.map (·.1), ms.foldl (fun f m => f ||| m.2) nv)

/-- `xs` filled up with zeros to a multiple of `n`. -/
def padTo (n : Nat) (xs : List FVal) : List FVal :=
  xs ++ List.replicate ((n - xs.length % n) % n) (.num false 0 0)

/-- `xs` cut into groups of `n`. -/
def groups (n : Nat) (xs : List FVal) : List (List FVal) :=
  (List.range (xs.length / n)).map fun i => (xs.drop (n * i)).take n

/-- One group of elements encoded into a destination format: bytes, exponent byte, flags (Table 12). -/
def encodePiece (f : Nat) (rm : RMode) (ftz : Bool) (xs : List FVal) : List Byte × Nat × FlagBits :=
  if f = fmtT5 then
    let ds := xs.map (encodeInt rm (-1) 1)
    (bytesOf 1 (t5Encode (ds.map (·.1))), 0, ds.foldl (fun a d => a ||| d.2) 0)
  else if f = fmtI4 then
    let ds := xs.map (encodeInt rm (-8) 7)
    (bytesOf 1 (ofElems 4 (ds.map fun d => wrap 4 d.1)), 0, ds.foldl (fun a d => a ||| d.2) 0)
  else if fmtIsBfp f then
    let (e, ms, fl) := encodeBlock (f = fmtBfp12) rm xs
    if f = fmtBfp12 then (ms.flatMap fun m => bytesOf 2 (wrap 16 m), e, fl)
    else (ms.flatMap fun m => bytesOf 1 (wrap 8 m), e, fl)
  else
    let x := xs.headD (.num false 0 0)
    if f = fmtRe36 then
      match x with
      | .num n m e => (bytesOf 8 (Re36.ofInt (scaled n m e 0)).pack, 0, 0)
      | _ => (bytesOf 8 0, 0, 0)
    else match fmtInt f, fmtFloat f with
      | some (sg, w), _ =>
        let (lo, hi) := rangeOf sg w
        let (v, fl) := encodeInt rm lo hi x
        (bytesOf (w / 8) (wrap w v), 0, fl)
      | _, some fm =>
        let (v, fl) := fToF fm rm ftz x
        (bytesOf (fm.width / 8) v, 0, fl)
      | _, _ => (bytesOf 1 0, 0, 0)

/-- All elements encoded: bytes, exponent bytes (one for each block), flags (R52's padding, Table 12). -/
def encodeAll (f : Nat) (rm : RMode) (ftz : Bool) (xs : List FVal) : List Byte × List Nat × FlagBits :=
  let ps := (groups (fmtElems f) (padTo (fmtElems f) xs)).map (encodePiece f rm ftz)
  (ps.flatMap (·.1), ps.map (·.2.1), ps.foldl (fun a p => a ||| p.2.2) 0)

/-- Elements go into RE36 only from integer formats, T5 and I4 (Table 12). -/
def convertible (sf df : Nat) : Bool :=
  df != fmtRe36 || (fmtInt sf).isSome || sf = fmtT5

/-- Bytes move unchanged between these formats (R53). -/
def rawMove (sf df : Nat) : Bool := sf = fmtRaw || df = fmtRaw || sf = df

end Sys2Proof.Machine
end

