-- ==== Sys2Proof/Machine/Sysregs.lean ====
section
/-! DEFINITION. System registers by number (R178): who may read and write each, what a read gives, and what a write does,
with the registers of every chapter that Table 6 lists. -/

namespace Sys2Proof.Machine

/-! ## Access (R178, Table 6) -/

/-- A column of Table 6. -/
inductive Acc6 where
  | none
  | r
  | rw
  | w
  deriving DecidableEq, Repr

/-- User and privileged access of a register; nothing for an unassigned number. -/
def sysAccess (n : Nat) : Option (Acc6 × Acc6) :=
  if n = 0 || n = 7 then some (.r, .r)
  else if n ≤ 6 then some (.rw, .rw)
  else if n = 0x10 then some (.r, .rw)
  else if 0x11 ≤ n && n ≤ 0x1A then some (.none, .rw)
  else if 0x20 ≤ n && n ≤ 0x27 then some (.none, .rw)
  else if 0x30 ≤ n && n ≤ 0x3C then some (.none, .r)
  else if 0x40 ≤ n && n ≤ 0x53 then some (.rw, .rw)
  else if 0x60 ≤ n && n ≤ 0x7F then some (.rw, .rw)
  else if 0x80 ≤ n && n ≤ 0x87 then some (.none, .r)
  else if 0x88 ≤ n && n ≤ 0x8F then some (.none, .w)
  else none

/-- A user port may not read (or write) the register: the privilege trap. -/
def sysRefused (n : Nat) (write : Bool) : Bool :=
  match sysAccess n with
  | some (.none, _) => true
  | some (.r, _) => write
  | _ => false

def privilegeTrap (n : Nat) : Trap := { cause := 14, val := BitVec.ofNat 64 n }

/-! ## Fields packed into dwords -/

/-- Fields, as (low bit, value) pairs, as a dword. -/
def pack (fs : List (Nat × Nat)) : Dword := BitVec.ofNat 64 (fs.foldl (fun a f => a + f.2 * 2 ^ f.1) 0)

/-- CAPS (R21, Table 5). -/
def Core.caps (k : Core) : Dword :=
  pack [(0, k.vregs.toNat), (7, k.vbmap.toNat), (16, 64), (23, 32), (30, 20), (35, 16), (40, 128), (48, 1)]

/-- A buffer descriptor as it reads (R95, Table 6). -/
def Buf.word (b : Buf) : Dword :=
  pack [(0, b.base.toNat), (20, b.len.toNat), (36, b.st.toNat), (40, b.fmt.toNat), (48, b.cnt.toNat)]

/-- Reset value of a BFMT register: RAW with PKRAW (R49, Table 9). -/
def bfmtReset : Dword := 0x100000000
def Core.bfmtOf (k : Core) (b : Nat) : Dword := k.bfmt.get bfmtReset b

/-- LSTAT (R352, Table 2). -/
def LinkPort.stat (p : LinkPort) : Dword :=
  pack [(0, p.lanes.toNat), (5, if p.up then 1 else 0), (6, if p.half then 1 else 0), (7, p.meth.toNat),
    (16, p.retrains.toNat), (32, p.replays.toNat)]

/-- Mesh cycles of 2^36 core cycles (R356). -/
def decayPeriod : Nat := 2 ^ 37

/-- A core's suspect score at mesh cycle `now`: it has fallen by 1 for each period in which the core lost no vote (R356). -/
def Core.scoreNow (k : Core) (now : Nat) : Nat := k.score - (now - k.scoreAt) / decayPeriod

/-- STKSTAT (R355, Table 2). -/
def Stack.stat (k : Stack) : Dword :=
  pack [(0, k.capGib.toNat), (6, k.mapl.toNat), (10, if k.mapped then 1 else 0), (11, k.state.toNat),
    (14, if k.fallback then 1 else 0)]

/-- A return-stack entry as a dword (R170, Table 5). -/
def RsEntry.word : RsEntry → Dword
  | .call r b c => pack [(2, r.toNat / 4), (17, b.toNat / 4), (32, c.toNat)]
  | .loop b e c => pack [(0, 1), (2, b.toNat / 4), (17, e.toNat / 4), (32, c.toNat)]

/-- The entry that a dword stands for; KIND 2 and 3 are stored as call entries (R170, Table 5). -/
def RsEntry.ofWord (v : Dword) : RsEntry :=
  let pca := BitVec.ofNat 17 (dfield v 16 2 * 4)
  let pcb := BitVec.ofNat 17 (dfield v 31 17 * 4)
  let cnt := BitVec.ofNat 32 (dfield v 63 32)
  if dfield v 1 0 = 1 then .loop pca pcb cnt else .call pca pcb cnt

def Ctx.stream (k : Ctx) : Half → Stream
  | .x => k.xs
  | .a => k.as_
def Ctx.setStream (k : Ctx) (h : Half) (v : Stream) : Ctx :=
  match h with
  | .x => { k with xs := v }
  | .a => { k with as_ := v }
def Ctx.updStream (k : Ctx) (h : Half) (f : Stream → Stream) : Ctx := k.setStream h (f (k.stream h))

/-- A read of RSX or RSA: the oldest entry is removed; 0 from an empty stack (R178, Table 7). -/
def Ctx.popOldest (k : Ctx) (h : Half) : Ctx × Dword :=
  let l := (k.stream h).stack
  match l.getLast? with
  | some e => (k.updStream h fun x => { x with stack := l.dropLast }, e.word)
  | none => (k, 0)

/-- A write of RSX or RSA: an entry goes beneath the oldest, unless 16 are present (R178, Table 7). -/
def Ctx.insertOldest (k : Ctx) (h : Half) (v : Dword) : Ctx :=
  let l := (k.stream h).stack
  if l.length < 16 then k.updStream h fun x => { x with stack := l ++ [.ofWord v] } else k

/-! ## Reads -/

/-- The partition registers (Table 6, 0x010 to 0x01A). -/
def Part.reg (p : Part) (n : Nat) : Dword :=
  match n with
  | 0x10 => p.stagger.setWidth 64
  | 0x11 => p.quantum.setWidth 64
  | 0x12 => pack [(16, p.csabase.toNat)]
  | 0x13 => pack [(13, p.ptbase.toNat)]
  | 0x14 => pack [(0, if p.xlBusy then 1 else 0), (1, p.xlKind.toNat), (16, p.xlVpn.toNat)]
  | 0x15 => p.didt.setWidth 64
  | 0x16 => pack [(0, p.thLogn.toNat), (6, p.thBase.toNat)]
  | 0x17 => p.featmask.setWidth 64
  | 0x18 => pack [(0, p.dupInc.toNat), (8, p.dupThresh.toNat)]
  | 0x19 => pack [(16, p.snapbase.toNat)]
  | _ => pack [(0, if p.recEn then 1 else 0), (6, p.recRing.toNat)]

/-- The partition whose registers a core reaches: its own (R13). -/
def State.partNo (s : State) (c : Nat) : Nat := (s.spaceOf c).1

/-- The value of a register of core `c`; RSX and RSA lose an entry. A register marked W, and an unassigned number, reads
0 (R178). -/
def State.sysRead (s : State) (c n : Nat) : State × Dword :=
  let k := s.core c
  match n with
  | 0x00 => (s, k.caps)
  | 0x01 => (s, k.ctx.vflags)
  | 0x02 => (s, if k.ctx.trapMuck then 1 else 0)
  | 0x03 => (s, (toTag k.ctx.ctlab).setWidth 64)
  | 0x04 => (s, k.ctx.lspace.setWidth 64)
  | 0x05 => (s, k.ctx.ddspace.setWidth 64)
  | 0x06 => (s, pack [(6, k.ctx.ddwt.toNat)])
  | 0x07 => (s, BitVec.ofNat 64 (s.now / 2))
  | 0x20 => (s, k.trapCause)
  | 0x21 => (s, k.trapVal)
  | 0x22 => (s, k.xpcSave.setWidth 64)
  | 0x23 => (s, k.apcSave.setWidth 64)
  | 0x24 => (s, k.tvec)
  | 0x25 => let (x, v) := k.ctx.popOldest .x; (s.updCtx c fun _ => x, v)
  | 0x26 => let (x, v) := k.ctx.popOldest .a; (s.updCtx c fun _ => x, v)
  | 0x27 => (s, pack [(0, k.ctx.xs.stack.length), (8, k.ctx.as_.stack.length)])
  | _ =>
    if 0x10 ≤ n && n ≤ 0x1A then (s, (s.part (s.partNo c)).reg n)
    else if 0x30 ≤ n && n ≤ 0x3C then (s, (s.port (n - 0x30)).stat)
    else if 0x40 ≤ n && n ≤ 0x53 then (s, k.bfmtOf (n - 0x40))
    else if 0x60 ≤ n && n ≤ 0x7F then (s, (k.ctx.bufs.get {} (n - 0x60)).word)
    else if 0x80 ≤ n && n ≤ 0x87 then (s, (s.stk (n - 0x80)).stat)
    else (s, 0)

/-! ## Writes -/

/-- Bytes of a context save area (R80). -/
def saveAreaBytes : Nat := 0x110000

/-- Bytes of a snapshot area: a context image and a log of 16,384 granules (R357). -/
def snapBytes : Nat := 0x110000 + 16384 * 64

/-- Save areas at `csa` and a snapshot area at `snap`, in units of 64 KiB, keep apart and below 240 MiB of each home (R80, R355,
R364; DEDUCED, log entry 69). -/
def areasFit (csa snap : Nat) : Bool :=
  let a := csa * 0x10000
  let b := snap * 0x10000
  let z := regionTop
  a + 4 * saveAreaBytes ≤ z && b + snapBytes ≤ z && (a + 4 * saveAreaBytes ≤ b || b + snapBytes ≤ a)

/-- A write of a partition register. -/
def State.partWrite (s : State) (p n : Nat) (v : Dword) : State :=
  let q := s.part p
  match n with
  | 0x10 => s.updPart p fun q => { q with stagger := v.setWidth 6 }
  | 0x11 => s.updPart p fun q => { q with quantum := v.setWidth 16 }
  | 0x12 =>
    if areasFit (dfield v 27 16) q.snapbase.toNat then
      s.updPart p fun q => { q with csabase := BitVec.ofNat 12 (dfield v 27 16) }
    else s
  | 0x13 => s.updPart p fun q => { q with ptbase := BitVec.ofNat 26 (dfield v 38 13) }
  | 0x14 =>
    if dfield v 2 1 = 3 || q.xlBusy then s
    else s.updPart p fun q => { q with
      xlBusy := dfield v 0 0 = 1, xlKind := BitVec.ofNat 2 (dfield v 2 1), xlVpn := BitVec.ofNat 32 (dfield v 47 16) }
  | 0x15 =>
    let l := dfield v 15 0
    s.updPart p fun q => { q with didt := BitVec.ofNat 16 (if 0 < l && l < 50 then 50 else l) }
  | 0x16 => s.updPart p fun q => { q with thLogn := v.setWidth 5, thBase := BitVec.ofNat 42 (dfield v 47 6) }
  | 0x17 => s.updPart p fun q => { q with featmask := v.setWidth 12 }
  | 0x18 => s.updPart p fun q => { q with
      dupInc := v.setWidth 8, dupThresh := BitVec.ofNat 8 (max 1 (dfield v 15 8)) }
  | 0x19 =>
    if areasFit q.csabase.toNat (dfield v 27 16) then
      s.updPart p fun q => { q with snapbase := BitVec.ofNat 12 (dfield v 27 16) }
    else s
  | _ => s.updPart p fun q => { q with
      recEn := dfield v 0 0 = 1, recRing := BitVec.ofNat 42 (dfield v 47 6), recHead := 0 }

/-- A refused descriptor operation (R96, R97). -/
def bufRefusal (n : Nat) : Trap := bufferFault (BitVec.ofNat 64 n)

/-- The extents of two buffers meet. -/
def Buf.overlaps (b : Buf) (lo hi : Nat) : Bool :=
  b.len != 0 && lo < b.base.toNat + b.len.toNat && b.base.toNat < hi

/-- A declaration is refused (R96; Table 7 for the state it stands in). DEDUCED (log entry 57): with the buffer-state fault in a
barred bank too, as R96 says, where R85 names the permission fault. -/
def Core.declareBad (k : Core) (n base len : Nat) : Bool :=
  let b := k.ctx.bufs.get {} n
  b.st = bFilling || b.st = bDraining || base % 64 != 0
    || (len != 0 && (len % 64 != 0 || 32768 < len || base / 0x8000 != (base + len - 1) / 0x8000
      || inSaveArea base len || k.rangeBarred k.banks base len
      || k.ctx.bufs.any fun e => e.1 != n && e.2.overlaps base (base + len)))

/-- OP 0 of a descriptor write: BASE, LEN and FMT are taken, ST and CNT become 0 (R96). -/
def State.bufDeclareOp (s : State) (c n : Nat) (v : Dword) : State × Option Trap :=
  let base := dfield v 19 0
  let len := dfield v 35 20
  if (s.core c).declareBad n base len then (s, some (bufRefusal n))
  else (s.updCtx c fun k => { k with bufs := k.bufs.set {} n {
    base := BitVec.ofNat 20 base, len := BitVec.ofNat 16 len, fmt := BitVec.ofNat 5 (dfield v 44 40) } }, none)

/-- OP 1 to 3: the buffer moves to state `to_`, unless it stands in `bad` (R97, Table 7). A change of state sets CNT to
0. -/
def State.bufMove (s : State) (c n : Nat) (to_ : BitVec 2) (bad : Option (BitVec 2)) : State × Option Trap :=
  let b := (s.ctx c).bufs.get {} n
  if bad = some b.st then (s, some (bufRefusal n))
  else
    let b' : Buf := if b.st = to_ then b else { b with st := to_, cnt := 0 }
    (s.updCtx c fun k => { k with bufs := k.bufs.set {} n b' }, none)

def State.bufResetOp (s : State) (c n : Nat) : State × Option Trap := s.bufMove c n bEmpty none
def State.bufSetfullOp (s : State) (c n : Nat) : State × Option Trap := s.bufMove c n bFull (some bDraining)
def State.bufSetemptyOp (s : State) (c n : Nat) : State × Option Trap := s.bufMove c n bEmpty (some bFilling)

/-- A write of a descriptor (R96). -/
def State.bufWrite (s : State) (c n : Nat) (v : Dword) : State × Option Trap :=
  match dfield v 39 38 with
  | 0 => s.bufDeclareOp c n v
  | 1 => s.bufResetOp c n
  | 2 => s.bufSetfullOp c n
  | _ => s.bufSetemptyOp c n

/-- The tag means nothing in label space `sp` of partition `p`: no such space, past LIMIT, or a free entry (R251). -/
def State.strayTag (s : State) (p sp : Nat) (t : Tag) : Bool :=
  t != 0 && t != mucked && (match if 8 ≤ sp then none else (s.part p).lspaces.get none sp with
    | none => true
    | some l => l.limit < t.toNat || (l.ents.get {} t.toNat).form = .free)

/-- CTLAB as a write of V with a tag sets it (R264): a V that resolves as mucked under R251 gives 0xFFFF. -/
def State.ctlabOf (s : State) (c : Nat) (v : SVal) : State × Option Trap × LTag :=
  let (p, sp) := s.spaceOf c
  let t : Tag := v.v.setWidth 16
  (s, none, joinTags [tagOf (if s.strayTag p sp t then mucked else t), v.t])

/-- STKCTL.ACK: in STATE 1 the remapping starts (R355, R364 step 3). -/
def State.stkAck (s : State) (k : Nat) (v : Dword) : State :=
  if dfield v 0 0 = 1 && (s.stk k).state = 1 then s.updStk k fun x => { x with state := 2 } else s

/-- A write of VFLAGS by a core (R36). -/
def Ctx.writeVflags (k : Ctx) (v : Dword) : Ctx := { k with vflags := vflagsWrite k.vflags v }

/-- A write of a BFMT register (R49, R50). -/
def Core.writeBfmt (k : Core) (b : Nat) (v : Dword) : Core :=
  { k with bfmt := k.bfmt.set bfmtReset b (bfmtWrite (k.bfmtOf b) v) }

/-- TVEC as a write leaves it (R178, Table 7). -/
def tvecWrite (x : Dword) : Dword := pack [(0, (pcField x 0).toNat), (32, (pcField x 32).toNat), (63, dfield x 63 63)]

/-- A write of a register of core `c` through a port that may write it. A register marked R, and an unassigned number,
ignores it (R178). -/
def State.sysWrite (s : State) (c n : Nat) (v : SVal) : State × Option Trap :=
  let x := v.v
  match n with
  | 0x01 => (s.updCtx c (·.writeVflags x), none)
  | 0x02 => (s.updCtx c fun k => { k with trapMuck := dfield x 0 0 = 1 }, none)
  | 0x03 =>
    match s.ctlabOf c v with
    | (s, tr, t) => (if tr.isSome then s else s.updCtx c fun k => { k with ctlab := t }, tr)
  | 0x04 => (s.updCtx c fun k => { k with lspace := x.setWidth 8 }, none)
  | 0x05 => (s.updCtx c fun k => { k with ddspace := x.setWidth 8 }, none)
  | 0x06 => (s.updCtx c fun k => { k with ddwt := BitVec.ofNat 42 (dfield x 47 6) }, none)
  | 0x20 => (s.updCore c fun k => { k with trapCause := BitVec.ofNat 64 (dfield x 16 0) }, none)
  | 0x21 => (s.updCore c fun k => { k with trapVal := x }, none)
  | 0x22 => (s.updCore c fun k => { k with xpcSave := pcField x 0 }, none)
  | 0x23 => (s.updCore c fun k => { k with apcSave := pcField x 0 }, none)
  | 0x24 => (s.updCore c fun k => { k with tvec := tvecWrite x }, none)
  | 0x25 => (s.updCtx c (·.insertOldest .x x), none)
  | 0x26 => (s.updCtx c (·.insertOldest .a x), none)
  | _ =>
    if 0x10 ≤ n && n ≤ 0x1A then (s.partWrite (s.partNo c) n x, none)
    else if 0x40 ≤ n && n ≤ 0x53 then (s.updCore c (·.writeBfmt (n - 0x40) x), none)
    else if 0x60 ≤ n && n ≤ 0x7F then s.bufWrite c (n - 0x60) x
    else if 0x88 ≤ n && n ≤ 0x8F then (s.stkAck (n - 0x88) x, none)
    else (s, none)

/-- A group that writes XLINV while BUSY is 1 stalls (R93); one that reads VFLAGS, or CTLAB, waits while it is pending
(R35, R82). -/
def State.sysStalls (s : State) (c n : Nat) (write : Bool) : Bool :=
  if write then n = 0x14 && (s.part (s.partNo c)).xlBusy
  else (n = 1 && !(s.ctx c).vflagsReady (s.bsums.countP (·.sender = c))) || (n = 3 && unresolved (s.ctx c).ctlab)

end Sys2Proof.Machine
end

