-- ==== Sys2Proof/Machine/Portable.lean ====
section
/-! DEFINITION. Reads and writes by the device's own agents (R61, R62), the device feature vector (R337, R338), the code
object and the choice of an image (R334 to R340, R369, R370), and translation through the translation cache (R341 to
R343). -/

namespace Sys2Proof.Machine

/-! ## Accesses by device agents -/

/-- The origin core of a partition. -/
def Part.origin (p : Part) : Nat := coreAt p.x0 p.y0

/-- A part of an access by an agent of the device: physical address, length, address, key. -/
abbrev DevPart := Nat × Nat × Dword × Nat

/-- One part of an access by an agent of the device, translated and checked under R87 to R91: physical address and key. An agent
has no scratchpad: an address with a non-zero top is refused as reserved space (R86). -/
def State.devLocate (s : State) (p : Nat) (kind : AccessKind) (a : Dword) : State × Except Trap (Nat × Nat) :=
  if dfield a 63 48 != 0 then (s, .error (translationFault rSpace a))
  else
    let va := a.toNat % 2 ^ 48
    match s.walk (s.part p) va a with
    | (s, .error t) => (s, .error t)
    | (s, .ok (e, big)) =>
      match s.leafCheck (s.part p) kind a big e with
      | some t => (s, .error t)
      | none => (s, .ok (leafPa e (va % pageSize big), keyId p (dfield e 10 9)))

/-- The parts in turn: places, or the first refusal. -/
def State.devPlaces (s : State) (p : Nat) (kind : AccessKind) : List (Dword × Nat) → State × Except Trap (List DevPart)
  | [] => (s, .ok [])
  | (a, n) :: ps =>
    match s.devLocate p kind a with
    | (s, .error t) => (s, .error t)
    | (s, .ok (pa, key)) => match devPlaces s p kind ps with
      | (s, .error t) => (s, .error t)
      | (s, .ok r) => (s, .ok ((pa, n, a, key) :: r))

/-- The bytes of the places in turn; poison ends the read (R100). -/
def State.devBytes (s : State) : List DevPart → State × Except Trap (List Byte)
  | [] => (s, .ok [])
  | (pa, n, a, key) :: ps =>
    match s.readHome key pa n a with
    | (s, { bytes := _, tag := _, fail := some t }) => (s, .error t)
    | (s, { bytes := b, tag := _, fail := none }) => match devBytes s ps with
      | (s, .error t) => (s, .error t)
      | (s, .ok r) => (s, .ok (b ++ r))

/-- `n` bytes at virtual address `a` of partition `p`, read by an agent of the device. -/
def State.devRead (s : State) (p : Nat) (a : Dword) (n : Nat) : State × Except Trap (List Byte) :=
  match s.devPlaces p .read (partsOf a n) with
  | (s, .error t) => (s, .error t)
  | (s, .ok ps) => s.devBytes ps

/-- Bytes written at the places in turn, with tag 0, as writes of the die of core `c` (R121). -/
def State.devFill (s : State) (c : Nat) : List DevPart → List Byte → State × Option Trap
  | [], _ => (s, none)
  | (pa, n, a, key) :: ps, bs =>
    match (s.crossWrite c (.mem pa)).writeHome c key pa (bs.take n) [] a with
    | (s, some t) => (s, some t)
    | (s, none) => devFill s c ps (bs.drop n)

/-- The same, unless a place refuses its part: then nothing is written (R346). -/
def State.devPut (s : State) (c : Nat) (ps : List DevPart) (bs : List Byte) : State × Option Trap :=
  match ps.findSome? fun p => s.writeFault p.2.2.2 p.1 p.2.1 p.2.2.1 with
  | some t => (s, some t)
  | none => s.devFill c ps bs

/-- Bytes written at virtual address `a` of partition `p` by an agent of the device; nothing is written where the access
is refused. -/
def State.devWrite (s : State) (p : Nat) (a : Dword) (bs : List Byte) : State × Option Trap :=
  match s.devPlaces p .write (partsOf a bs.length) with
  | (s, .error t) => (s, some t)
  | (s, .ok ps) => s.devPut (s.part p).origin ps bs

/-- A 48-bit address field of a granule. -/
def addrField (v : Vec) (i : Nat) : Dword := BitVec.ofNat 64 (dfield (dwordOf v i) 47 0)

/-- A granule read by an agent. -/
def State.devGranule (s : State) (p : Nat) (a : Dword) : State × Except Trap Vec :=
  match s.devRead p a 64 with
  | (s, .ok bs) => (s, .ok (BitVec.ofNat 512 (ofBytes bs)))
  | (s, .error t) => (s, .error t)

/-! ## Recording (R367) -/

/-- Granules of the record ring of partition `p`, from granule `i` on. A write that is refused leaves no trace: recording never changes
the results of the node. -/
def State.recPut (s : State) (p : Nat) : Nat → List Vec → State
  | _, [] => s
  | i, g :: gs =>
    recPut (s.devWrite p (BitVec.ofNat 64 (64 * ((s.part p).recRing.toNat + i))) (bytesOf 64 g.toNat)).1 p (i + 1) gs

/-- The overflow bit of the record at granule `i` is set. -/
def State.recMark (s : State) (p i : Nat) : State :=
  match s.devGranule p (BitVec.ofNat 64 (64 * ((s.part p).recRing.toNat + i))) with
  | (s, .ok g) => s.recPut p i [Config.recordOverflow g]
  | (s, .error _) => s

/-- An input of core `c` from outside, with its tag, enters the record ring at its head; with no room left the node's recording stops
(R367; the layout is log entry 70). -/
def State.recordIn (s : State) (c : Nat) (bs : List Byte) (t : LTag) : State :=
  match (s.core c).record, (s.core c).task with
  | some r, some k =>
    let nd := s.node k.part k.inst k.node
    let q := s.part k.part
    if r.stopped || nd.recFull then s
    else
      let gs := Config.recordGranules k.index bs (toTag t)
      if Config.recordSize < q.recHead + gs.length then
        let s := s.updNode k.part k.inst k.node fun n => { n with recFull := true }
        nd.recFirst.elim s (s.recMark k.part)
      else
        let s := s.recPut k.part q.recHead gs
        let s := s.updNode k.part k.inst k.node fun n => { n with recFirst := n.recFirst.orElse fun _ => some q.recHead }
        let s := s.updPart k.part fun p => { p with recHead := q.recHead + gs.length }
        s.updCore c fun k => { k with record := some { r with count := r.count + 1 } }
  | _, _ => s

/-- A value from outside enters core `c`: on a replay the oldest one that the ring has served takes its place (R367). -/
def State.inputIn (s : State) (c : Nat) (v : Dword) (t : LTag) : State × SVal :=
  match (s.core c).record with
  | none => (s, { v := v, t := t })
  | some r => match r.replay with
    | e :: es => (s.updCore c fun k => { k with record := some { r with replay := es } }, { v := e.1, t := tagOf e.2 })
    | [] => (s.recordIn c (bytesOf 8 v.toNat) t, { v := v, t := t })

/-- A value served from the ring for the `n`-th read after this one (R367). -/
def Core.served (k : Core) (n : Nat) : Option SVal :=
  (k.record.bind fun r => r.replay[n]?).map fun e => { v := e.1, t := tagOf e.2 }

/-! ## The device feature vector (R337, R338) -/

/-- Profile and feature bits of this device (R337). -/
def deviceFeatures : Dword := 0xFFF
/-- Profile versions of this device (R337, Table 1). -/
def deviceVersions : Dword := 0x010101010101

/-- The counts of a partition: the least VREGS of the cores in its logical map, with VBMAP 0 (R23, R337). -/
def State.counts2 (s : State) (p : Part) : Dword :=
  let live := p.cores.filter fun c => !(s.core c).quarantined
  let v := live.foldl (fun a c => min a (s.core c).vregs.toNat) 64
  { (s.core p.origin) with vregs := BitVec.ofNat 7 (if live.isEmpty then 0 else v), vbmap := 0 }.caps

/-- The DFV is computed afresh for partition `p` (R337). -/
def State.refreshDfv (s : State) (p : Nat) : State :=
  s.updPart p fun q => { q with dfv0 := deviceFeatures, dfv1 := deviceVersions, dfv2 := s.counts2 q }

/-- EFF (R338). -/
def Part.eff (p : Part) : Dword := p.dfv0 &&& ~~~p.featmask.setWidth 64

/-- What a selection rests on: it is made again when this has changed (R340). -/
def Part.selKey (p : Part) : Nat := p.eff.toNat + 2 ^ 64 * (p.dfv1.toNat + 2 ^ 64 * p.dfv2.toNat)

/-! ## Task records (R58, R59) -/

def recVer (r : Vec) : Nat := dfield (dwordOf r 0) 7 0
def recKind (r : Vec) : Nat := dfield (dwordOf r 0) 11 8
def recPrio (r : Vec) : Nat := dfield (dwordOf r 0) 13 12
def recFollow (r : Vec) : Bool := dfield (dwordOf r 0) 16 16 = 1
def recDuplex (r : Vec) : Bool := dfield (dwordOf r 0) 17 17 = 1
def recRollback (r : Vec) : Bool := dfield (dwordOf r 0) 18 18 = 1
def recStag (r : Vec) : Bool := dfield (dwordOf r 0) 19 19 = 1
def recDeps (r : Vec) : Nat := dfield (dwordOf r 0) 39 24
def recNsucc (r : Vec) : Nat := dfield (dwordOf r 0) 55 40
def recObj (r : Vec) : Dword := addrField r 1
def recGw (r : Vec) : Nat := dfield (dwordOf r 2) 5 0
def recGh (r : Vec) : Nat := dfield (dwordOf r 2) 11 6
def recNvreg (r : Vec) : Nat := dfield (dwordOf r 2) 18 12
def recNsreg (r : Vec) : Nat := dfield (dwordOf r 2) 25 19
def recNdreg (r : Vec) : Nat := dfield (dwordOf r 2) 31 26
def recNslot (r : Vec) : Nat := dfield (dwordOf r 2) 36 32
def recBanks (r : Vec) : BitVec 20 := BitVec.ofNat 20 (dfield (dwordOf r 2) 56 37)
def recParam (r : Vec) : Dword := addrField r 3
def recLsp (r : Vec) : Nat := dfield (dwordOf r 4) 7 0
def recDds (r : Vec) : Nat := dfield (dwordOf r 4) 15 8
def recSucc (r : Vec) : Dword := addrField r 5
def recStat (r : Vec) : Dword := addrField r 6

/-- A reserved field of the record is not zero (R58, Table 2). -/
def recReserved (r : Vec) : Bool :=
  let d0 := dwordOf r 0
  dfield d0 15 14 != 0 || dfield d0 23 20 != 0 || dfield d0 63 56 != 0 || dfield (dwordOf r 1) 63 48 != 0
    || dfield (dwordOf r 2) 63 57 != 0 || dfield (dwordOf r 3) 63 48 != 0 || dfield (dwordOf r 4) 63 16 != 0
    || dfield (dwordOf r 5) 63 48 != 0 || dfield (dwordOf r 6) 63 48 != 0 || dwordOf r 7 != 0

/-- The record fails with FORMAT (R59). -/
def recBad (r : Vec) : Bool :=
  recVer r != 0x96 || 4 ≤ recKind r || recReserved r
    || (recKind r = 0 && (recGw r = 0 || 48 < recGw r || recGh r = 0 || 32 < recGh r))

/-! ## The code object (R334 to R336) -/

/-- The directory entry breaks a rule of R336 that can be seen in it. -/
def entryBad (e : Vec) : Bool :=
  let feat := dwordOf e 0
  let req := dwordOf e 1
  let vers := dwordOf e 2
  let need := dwordOf e 3
  let len := dfield (dwordOf e 5) 63 32
  let xent := dfield (dwordOf e 6) 16 0
  let aent := dfield (dwordOf e 6) 48 32
  req &&& ~~~feat != 0 || dfield vers 63 48 != 0
    || dfield need 15 7 != 0 || dfield need 63 56 != 0 || dfield (dwordOf e 4) 63 8 != 0
    || dfield (dwordOf e 6) 31 17 != 0 || dfield (dwordOf e 6) 63 49 != 0 || xent % 4 != 0 || aent % 4 != 0
    || dfield (dwordOf e 7) 63 32 != 0 || len = 0 || 0x20000 < len || len ≤ xent || len ≤ aent

/-- Every version field of `v` is at most that of `d`. -/
def versionsOk (v d : Dword) : Bool := (List.range 6).all fun i => dfield v (8 * i + 7) (8 * i) ≤ dfield d (8 * i + 7) (8 * i)

/-- The entry matches (R339). -/
def entryMatches (p : Part) (e : Vec) : Bool :=
  let need := dwordOf e 3
  let d := p.dfv2
  (dwordOf e 1 &&& ~~~p.eff) = 0 && versionsOk (dwordOf e 2) p.dfv1
    && dfield need 6 0 ≤ dfield d 6 0 && dfield need 22 16 ≤ dfield d 22 16 && dfield need 29 23 ≤ dfield d 29 23
    && dfield need 34 30 ≤ dfield d 34 30 && dfield need 39 35 ≤ dfield d 39 35 && dfield need 47 40 ≤ dfield d 47 40
    && (dfield need 55 48 = 0 || dfield need 55 48 = dfield d 55 48)

/-- RANK of an entry. -/
def entryRank (e : Vec) : Nat := dfield (dwordOf e 4) 7 0

/-- The matching entry of highest RANK, the first of equals (R339). -/
def bestEntry (p : Part) (es : List Vec) : Option Vec :=
  (es.filter (entryMatches p)).foldl (fun b e => match b with
    | some f => if entryRank f < entryRank e then some e else b
    | none => some e) none

/-- The directory, granules 1 to NIMG. -/
def State.readDirectory (s : State) (p : Nat) (obj : Dword) (i : Nat) : Nat → State × Option (List Vec)
  | 0 => (s, some [])
  | n + 1 =>
    match s.devGranule p (obj + BitVec.ofNat 64 (64 * i)) with
    | (s, .error _) => (s, none)
    | (s, .ok e) => match readDirectory s p obj (i + 1) n with
      | (s, some es) => (s, some (e :: es))
      | (s, none) => (s, none)

/-- A declaration block as read: its counts, buffers and label spaces (R335, Table 4). -/
structure Decl where
  gw : Nat := 0
  gh : Nat := 0
  ns : Nat := 0
  nv : Nat := 0
  nd : Nat := 0
  bufs : List Dword := []
  lsps : List Dword := []
  deriving DecidableEq, Repr

/-- Declared values of a buffer entry that are reserved: ST, OP and CNT, and what the layout leaves out (R335). -/
def declBufBad (v : Dword) : Bool := dfield v 39 36 != 0 || dfield v 63 45 != 0

/-- The declaration block at `a` (R335, R336); none where it breaks R336. -/
def State.readDecl (s : State) (p : Nat) (a : Dword) : State × Option Decl :=
  match s.devRead p a 8 with
  | (s, .error _) => (s, none)
  | (s, .ok b0) =>
    let d := BitVec.ofNat 64 (ofBytes b0)
    let nb := dfield d 37 32
    let nl := dfield d 41 38
    if dfield d 63 42 != 0 || 32 < nb || 8 < nl || a.toNat % 64 != 0 then (s, none)
    else match s.devRead p (a + 8) (8 * (nb + nl)) with
      | (s, .error _) => (s, none)
      | (s, .ok bs) =>
        let v (i : Nat) : Dword := BitVec.ofNat 64 (ofBytes ((bs.drop (8 * i)).take 8))
        let bufs := (List.range nb).map v
        let lsps := (List.range nl).map fun i => v (nb + i)
        if bufs.any declBufBad || lsps.any (fun l => dfield l 63 15 != 0) then (s, none)
        else (s, some { gw := dfield d 5 0, gh := dfield d 11 6, ns := dfield d 18 12, nv := dfield d 25 19,
                        nd := dfield d 31 26, bufs := bufs, lsps := lsps })

/-- The block agrees with the record and with the partition's label spaces (R335). -/
def declFits (p : Part) (r : Vec) (d : Decl) : Bool :=
  (d.gw = 0 || d.gw = recGw r) && (d.gh = 0 || d.gh = recGh r) && d.lsps.all fun l =>
    match p.lspaces.get none (dfield l 7 0) with
    | some x => x.na = dfield l 14 8
    | none => false

/-- Bits of the profiles declared in a dword of versions (R333, R334). -/
def declaredProfiles (vers : Dword) : BitVec 6 :=
  BitVec.ofNat 6 (((List.range 6).filter fun i => dfield vers (8 * i + 7) (8 * i) != 0).foldl (fun n i => n + 2 ^ i) 0)

/-- The registered segment of half `h` inside the image [va, va + len) that holds offset `ent` of it (R137, R336), scanned for no
more vector registers than the `nv` of the image's declaration block and for no profile that its entry's VERS does not declare (R23,
R333, R335). -/
def Part.segIn (p : Part) (h : Half) (vers : Dword) (nv va len ent : Nat) : Option CodeSeg :=
  (p.segs.find? fun g => g.half = h && g.need ≤ nv && declaredProfiles g.vers &&& ~~~declaredProfiles vers = 0 && va ≤ g.va && g.va + g.len ≤ va + len && g.va ≤ va + ent && va + ent < g.va + g.len).map
    fun g => { lo := g.va - va, hi := g.va - va + g.len, priv := g.priv }

/-- Where a handler's segment lies in the instruction store: at its virtual address modulo the store's size (log entry
13). -/
def Seg.place (g : Seg) : Nat := g.va % 0x20000

/-- Segments registered at supervisor or firmware privilege outside [va, va + len): those of the trap handlers (R150,
R180). -/
def Part.handlers (p : Part) (va len : Nat) : List Seg :=
  p.segs.filter fun g => g.priv != 0 && (g.va + g.len ≤ va || va + len ≤ g.va)

/-- The handlers that are loaded beside an image: a translated one lies at no virtual address. -/
def Part.handlersOf (p : Part) (g : Img) : List Seg := if g.words.isEmpty then p.handlers g.va g.len else p.handlers 0 0

/-- An image overlaps a handler in the instruction store (R180). -/
def Part.overlapsHandler (p : Part) (g : Img) : Bool := (p.handlersOf g).any (·.place < g.len)

/-- What a selection comes to (R339). -/
inductive Sel where
  | image (i : Img)
  /-- Portable code at this address with this length is translated, under the profile versions declared. -/
  | translate (va len : Nat) (vers : Dword)
  /-- The node fails with this CODE. -/
  | fail (code : Nat)
  deriving DecidableEq, Repr

/-- CODE values of a status dword (R62, Table 3). -/
def cDone : Nat := 0
def cResources : Nat := 1
def cShape : Nat := 2
def cFault : Nat := 3
def cKilled : Nat := 4
def cDepfail : Nat := 5
def cFormat : Nat := 6
def cEngine : Nat := 7

/-- A chosen native image, with its needs joined to the record's (R23). DESIGN CHOICE (log entry 61): its X and A segments may overlap
in the store, which R17 forbids without saying what follows. -/
def State.imageOf (s : State) (p : Nat) (r : Vec) (obj : Dword) (e : Vec) : State × Sel :=
  let q := s.part p
  match s.readDecl p (obj + BitVec.ofNat 64 (dfield (dwordOf e 7) 31 0)) with
  | (s, none) => (s, .fail cFormat)
  | (s, some d) =>
    let va := (obj.toNat + dfield (dwordOf e 5) 31 0) % 2 ^ 48
    let len := dfield (dwordOf e 5) 63 32
    let xent := dfield (dwordOf e 6) 16 0
    let aent := dfield (dwordOf e 6) 48 32
    let nv := max (recNvreg r) d.nv
    if !declFits q r d then (s, .fail cFormat)
    else match q.segIn .x (dwordOf e 2) d.nv va len xent, q.segIn .a (dwordOf e 2) d.nv va len aent with
      | some xg, some ag =>
        let g : Img := {
          va := va, len := len, xent := xent, aent := aent
          nv := nv, ns := max (recNsreg r) d.ns, nd := max (recNdreg r) d.nd
          nslot := recNslot r, banks := recBanks r, bufs := d.bufs, xseg := xg, aseg := ag, priv := xg.priv }
        (s, if q.overlapsHandler g then .fail cResources else .image g)
      | _, _ => (s, .fail cFormat)

/-- The portable code of an object, or RESOURCES where it declares a profile version that the device lacks (R370). -/
def portable (p : Part) (obj : Dword) (h : Vec) : Sel :=
  if !versionsOk (dwordOf h 2) p.dfv1 then .fail cResources
  else .translate ((obj.toNat + dfield (dwordOf h 1) 31 0) % 2 ^ 48) (dfield (dwordOf h 1) 63 32) (dwordOf h 2)

/-- Selection of a form of the record's object (R336, R339). With `forced`, no native image can be placed (R69, R84). -/
def State.select (s : State) (p : Nat) (r : Vec) (forced : Bool) : State × Sel :=
  let obj := recObj r
  match s.devGranule p obj with
  | (s, .error _) => (s, .fail cFormat)
  | (s, .ok h) =>
    let d0 := dwordOf h 0
    let nimg := dfield d0 11 8
    let port := dfield d0 12 12 = 1
    if dfield d0 7 0 != 0x96 || dfield d0 63 13 != 0 || dfield (dwordOf h 2) 63 48 != 0
        || (List.range 5).any (fun i => dwordOf h (3 + i) != 0) || (nimg = 0 && !port) then (s, .fail cFormat)
    else match s.readDirectory p obj 1 nimg with
      | (s, none) => (s, .fail cFormat)
      | (s, some es) =>
        if es.any entryBad then (s, .fail cFormat)
        else match (if forced then none else bestEntry (s.part p) es) with
          | some e => s.imageOf p r obj e
          | none => (s, if port then portable (s.part p) obj h else .fail cResources)

/-! ## Needs and placement (R23, R69, R84) -/

/-- The core has what the image needs (R23), and is not out of the logical map, nor to leave it at the gang boundary at which it
stands or to which it comes (R363). -/
def Core.meets (k : Core) (i : Img) : Bool :=
  !k.quarantined && !k.quarantine && i.nv ≤ k.vregs.toNat && i.ns ≤ 64 && i.nd ≤ 32 && i.nslot ≤ 16

/-- Origins of a partition at which a w × h rectangle fits, in raster order. -/
def Part.originsOf (p : Part) (w h : Nat) : List (Nat × Nat) :=
  (List.range (p.w * p.h)).filterMap fun k =>
    let x := p.x0 + k % p.w
    let y := p.y0 + k / p.w
    if x + w ≤ p.x0 + p.w && y + h ≤ p.y0 + p.h then some (x, y) else none

/-- Two rectangles share no cluster (R360). -/
def clusterApart (a b : Gang) : Bool :=
  let cx (g : Gang) : List Nat := (rectCores g.ox g.oy g.gw g.gh).map clusterOf
  (cx a).all fun k => !(cx b).contains k

/-- Some rectangle of the partition could hold the gang, were every core idle (R69). -/
def State.canHold (s : State) (p : Part) (w h : Nat) (i : Img) : Bool :=
  (p.originsOf w h).any fun o => (rectCores o.1 o.2 w h).all fun c => (s.core c).meets i

/-! ## Translation (R341 to R343) -/

/-- The key of a translation of this portable code (R342). -/
def Part.xlKey (q : Part) (code : List Byte) : BitVec 384 :=
  Config.sha384 (code ++ bytesOf 4 Config.translator.toNat ++ bytesOf 8 q.eff.toNat ++ bytesOf 8 q.dfv1.toNat
    ++ bytesOf 8 q.dfv2.toNat ++ bytesOf 4 Config.microcode.toNat ++ bytesOf 4 1)

/-- The declaration block of a translated image (R335). -/
def Translated.decl (t : Translated) : Decl :=
  { gw := t.gw, gh := t.gh, ns := t.ns, nv := t.nv, nd := t.nd, bufs := t.bufs, lsps := t.lsps }

/-- A translated image as the dealer places it: its own needs take the place of the record's (R341). -/
def translatedImg (t : Translated) : Img :=
  { len := 4 * t.words.length, xent := t.xEnt, aent := t.aEnt, nv := t.nv, ns := t.ns, nd := t.nd, nslot := t.nslot
    banks := t.banks, bufs := t.bufs, xseg := { lo := 0, hi := 4 * t.xLen }
    aseg := { lo := 4 * t.xLen, hi := 4 * t.words.length }, words := t.words }

end Sys2Proof.Machine
end

