-- ==== Sys2Proof/Machine/SaveArea.lean ====
section
/-! DEFINITION. The layouts of the trap save area (R181, Tables 15 to 18) and of a context save area (R80, Table 8): what each of their
dwords holds; and the writes of save areas and of snapshot areas to the core's home (R79, R80, R357). The machine works on structured
data (`Image`, `Saved`, `Snap`); what it writes to the home is a copy that loads and the debug port can read (log entry 23). -/

namespace Sys2Proof.Machine

/-- The operation that a trap interrupted: K steps, accumulator, kind (R239). -/
def heldMma : List MxOp → Option (Nat × Nat × Nat)
  | .mma _ _ acc _ k _ :: _ => some (k, acc, 0)
  | .mmat _ _ acc _ _ _ _ _ k _ :: _ => some (k, acc, 1)
  | _ => none

/-- Four tags in one dword, the first lowest. -/
def packTags (ts : List LTag) : Dword :=
  pack ((List.range 4).map fun i => (16 * i, (toTag (ts.getD i [])).toNat))

/-- Dword `j` of a vector. -/
def vecDword (v : Vec) (j : Nat) : Dword := v.extractLsb' (64 * j) 64

/-- The ports of the vector-class latches in the image's order (Table 15). -/
def imageVecPorts : List Nat := [0x200, 0x201, 0x202, 0x203, uVx.r, uVx.h, uVx.f, 0x402]

/-- The ports of the scalar-class latches in the image's order (Table 16). -/
def imageScalarPorts : List Nat :=
  let lat (u : UnitRange) (n : Nat) : List Nat := (List.range n).map (u.base + ·) ++ [u.r, u.h, u.f]
  lat uAl 3 ++ lat uMd 2 ++ [0x204] ++ lat uMx 3 ++ lat uLb 2 ++ lat uCl 3 ++ lat uMs 2 ++ lat uCt 3 ++ lat uAg 4
    ++ lat uAa 2 ++ lat uAc 2 ++ lat uAt 3 ++ lat uCe 3

/-- The entry in slot `e` of queue `q`: entries stand from the head's slot on, modulo the depth (Table 17). -/
def Image.slot (i : Image) (q e : Nat) : QEntry :=
  let x := i.queues.get {} q
  x.ents.getD ((e + queueDepth q - x.head) % queueDepth q) {}

/-- The mask of the slots of queue `q` whose entries satisfy `p`. -/
def Image.slotMask (i : Image) (q : Nat) (p : QEntry → Bool) : Nat :=
  ((List.range (queueDepth q)).map fun e => if p (i.slot q e) then 2 ^ e else 0).sum

/-- The descriptor of queue `q` (Table 17). -/
def Image.descriptor (i : Image) (q : Nat) : Dword :=
  let x := i.queues.get {} q
  pack [(0, x.head), (4, x.ents.length), (16, if q < 8 then i.slotMask q (·.wide) else 0),
    (32, i.slotMask q (·.poison.isSome))]

/-- Dword `j` of a map of source ports. -/
def portMap (ps : List Nat) (j : Nat) : Dword :=
  BitVec.ofNat 64 (((List.range 64).map fun b => if ps.contains (64 * j + b) then 2 ^ b else 0).sum)

/-- The token is that of a suspended `lb` operation, whose ports are unresolved (R269). -/
def Image.suspended (i : Image) (token : Nat) : Bool := i.lbops.any (·.token = token)

/-- The source ports whose tags are unresolved: registers, latches and queues (R181, R383). -/
def Image.unresolvedPorts (i : Image) : List Nat :=
  (i.unres.filterMap fun e => match e.1 with
    | .port p => some p
    | _ => none)
  ++ (i.pend.filter (i.suspended ·.2)).map (·.1)
  ++ (i.sfile.filter fun e => unresolved e.2.t).map (·.1) ++ (i.vfile.filter fun e => unresolved e.2.t).map (·.1)
  ++ ((List.range 10).filter fun q => (i.queues.get {} q).ents.any fun e => unresolved e.t).map fun q =>
    if q < 8 then 0x88 + q % 4 else if q = 8 then 0x8C else 0xB0

/-- The progress words, as `mx.prog` gives them for T = 0, 1 and 2 (R239). -/
def Image.progress (i : Image) (t : Nat) : Dword :=
  match t with
  | 0 => match heldMma i.mxq with
    | some (n, acc, kind) => pack [(0, n), (6, 1), (8, acc), (10, kind)]
    | none => 0
  | 1 => match i.wd with
    | some d => pack [(0, d.block % 2 ^ 48)]
    | none => 0
  | _ => match i.wd with
    | some d => pack [(0, d.restart), (32, 1), (33, d.bstk.length)]
    | none => 0

/-- Dword `j` of the state block (Table 18). What an eviction or a trap leaves in the context itself, it takes from
`x` as it stands at mesh cycle `now`. -/
def Image.stateBlock (i : Image) (x : Ctx) (now j : Nat) : Dword :=
  match j with
  | 0 => pack [(0, (toTag i.ctlab).toNat), (16, if unresolved i.ctlab then 1 else 0),
      (17, if i.released || (i.arrival x).isSome then 1 else 0),
      (18, if i.released || ((i.arrival x).bind (·.release)).any (· ≤ now) then 1 else 0),
      (19, i.xdepth), (24, i.adepth), (29, if i.wd.isSome then 1 else 0)]
  | 1 => i.xpc.setWidth 64
  | 2 => i.apc.setWidth 64
  | 3 => i.progress 0
  | 4 => pack [(0, i.tstep % 2 ^ 32), (32, i.team.toNat)]
  | 5 => i.progress 1
  | 6 => i.progress 2
  | 11 => pack [(0, (i.clop.map (·.op)).getD 0), (8, if i.clop.isSome then 1 else 0)]
  | 12 => (i.clop.map (·.t.v)).getD 0
  | 13 => pack [(0, (i.lbops.head?.map (·.op)).getD 0), (8, if i.lbops.isEmpty then 0 else 1)]
  | 14 => (i.lbops.head?.map (·.t.v)).getD 0
  | 15 => pack [(0, (toTag ((i.clop.map (·.t.t)).getD [])).toNat), (16, (toTag ((i.lbops.head?.map (·.t.t)).getD [])).toNat)]
  | _ =>
    if 7 ≤ j && j ≤ 10 then BitVec.ofNat 64 (((i.wd.map (·.bstk.reverse)).getD []).getD (j - 7) 0) else 0

/-- The dword at offset 8·`k` of the image (R181, Table 15). Register ports that await a status word stand in `x`. -/
def Image.dword (i : Image) (x : Ctx) (now k : Nat) : Dword :=
  let o := 8 * k
  let tags (base : Nat) (f : Nat → LTag) : Dword := packTags ((List.range 4).map fun n => f ((o - base) / 2 + n))
  if o < 0x2000 then vecDword (i.slot (o / 0x400) (o % 0x400 / 64)).v (k % 8)
  else if o < 0x2200 then vecDword (i.vfile.get {} (imageVecPorts.getD ((o - 0x2000) / 64) 0)).v (k % 8)
  else if o < 0x2428 then (i.sfile.get {} (imageScalarPorts.getD ((o - 0x2200) / 8) 0)).v
  else if o < 0x2600 then 0
  else if o < 0x2640 then vecDword (i.slot 8 ((o - 0x2600) / 8)).v 0
  else if o < 0x2680 then vecDword (i.slot 9 ((o - 0x2640) / 8)).v 0
  else if o < 0x2780 then tags 0x2680 fun n => (i.slot (n / 16) (n % 16)).t
  else if o < 0x2790 then tags 0x2780 fun n => (i.slot 8 n).t
  else if o < 0x27A0 then tags 0x2790 fun n => (i.slot 9 n).t
  else if o < 0x27B0 then tags 0x27A0 fun n => (i.vfile.get {} (imageVecPorts.getD n 0)).t
  else if o < 0x2800 then 0
  else if o < 0x2890 then tags 0x2800 fun n => if n < 69 then (i.sfile.get {} (imageScalarPorts.getD n 0)).t else []
  else if o < 0x2900 then 0
  else if o < 0x2950 then i.descriptor ((o - 0x2900) / 8)
  else if o < 0x2A00 then 0
  else if o < 0x2B00 then portMap (((i.pend.filter (!i.suspended ·.2)) ++ x.pend.filter (!isLatch ·.1)).map (·.1)) ((o - 0x2A00) / 8)
  else if o < 0x2C00 then portMap i.unresolvedPorts ((o - 0x2B00) / 8)
  else if o < 0x2C80 then i.stateBlock x now ((o - 0x2C00) / 8)
  else 0

/-- The dword at scratchpad offset 8·`k` of the trap save area, 0x9_C000 to 0x9_FFFF, of core `k` (R181). -/
def Core.trapArea (c : Core) (now k : Nat) : Dword := c.image.dword c.ctx now (k - 0x9C000 / 8)

/-- Dword `k` of a stored stretch of memory: eight bytes, the lowest address first. -/
def bytesDword (m : NMap Byte) (k : Nat) : Dword :=
  BitVec.ofNat 64 (ofBytes (m.getList 0 (8 * k) 8))

/-- What the member waits for (R76): 1 a release, 2 room for a send, 3 the Carillon, 0 anything else. -/
def Ctx.wake (x : Ctx) : Nat := if x.arrived.isSome then 1 else if x.sendWait.isSome then 2 else if x.clop.isSome then 3 else 0

/-- Dword `j` of the header. DESIGN CHOICE (log entry 23): the masks stand in the first. -/
def Saved.header (v : Saved) (j : Nat) : Dword :=
  if j = 0 then pack [(0, v.bankSaved.toNat), (20, v.slotSaved.toNat)]
  else Config.saveHeader j v.ctx.wake v.task.node v.task.inst v.task.gx v.task.gy

/-- The dword at offset 8·`k` of a context save area (R80, Table 8). The image is the one that the context would take at a trap
(R181). -/
def Saved.dword (v : Saved) (now k : Nat) : Dword :=
  let x := v.ctx
  let o := 8 * k
  let tags (base : Nat) (f : Nat → LTag) : Dword := packTags ((List.range 4).map fun n => f ((o - base) / 2 + n))
  let entry (st : Stream) (n : Nat) : Dword := ((st.stack.reverse[n]?).map RsEntry.word).getD 0
  if o < 0x4000 then x.save.dword x now k
  else if o < 0x4040 then v.header (k % 8)
  else if o < 0x5040 then vecDword (x.vfile.get {} (0x40 + (o - 0x4040) / 64)).v (k % 8)
  else if o < 0x5240 then (x.sfile.get {} ((o - 0x5040) / 8)).v
  else if o < 0x5340 then (x.sfile.get {} (0x90 + (o - 0x5240) / 8)).v
  else if o < 0x5348 then
    pack ((List.range 7).map fun p => (p + 1, if (x.pfile.get {} (0x81 + p)).v then 1 else 0))
  else if o < 0x5380 then 0
  else if o < 0x5400 then tags 0x5380 fun n => (x.vfile.get {} (0x40 + n)).t
  else if o < 0x5480 then tags 0x5400 fun n => (x.sfile.get {} n).t
  else if o < 0x54C0 then tags 0x5480 fun n => (x.sfile.get {} (0x90 + n)).t
  else if o < 0x54D0 then tags 0x54C0 fun n => if 1 ≤ n && n ≤ 7 then (x.pfile.get {} (0x80 + n)).t else []
  else if o < 0x5500 then 0
  else if o = 0x5500 then x.vflags
  else if o = 0x5508 then if x.trapMuck then 1 else 0
  else if o = 0x5510 then x.lspace.setWidth 64
  else if o = 0x5518 then x.ddspace.setWidth 64
  else if o = 0x5520 then pack [(6, x.ddwt.toNat)]
  else if o < 0x5540 then 0
  else if o < 0x55E0 then v.bfmt.get bfmtReset ((o - 0x5540) / 8)
  else if o < 0x56E0 then (x.bufs.get {} ((o - 0x55E0) / 8)).word
  else if o < 0x5700 then 0
  else if o < 0x5780 then entry x.xs ((o - 0x5700) / 8)
  else if o < 0x5800 then entry x.as_ ((o - 0x5780) / 8)
  else if o < 0x10000 then Config.spillDword (v.spill.map fun m => (m.sender, m.chan, m.v, toTag m.t)) (k - 0x5800 / 8)
  else if o < 0x30000 then
    BitVec.ofNat 64 (((x.accs.get {} ((o - 0x10000) / 0x8000)).el.get {} ((o % 0x8000) / 8)).pack)
  else if o < 0x70000 then
    BitVec.ofNat 64 (((v.oslots.get {} ((o - 0x30000) / 0x4000)).el.get {} ((o % 0x4000) / 8)).pack)
  else if o < 0x110000 then bytesDword v.spad (k - 0x70000 / 8)
  else 0

/-! ## Areas in home memory (R79, R80, R357) -/

/-- Bytes, tags, keys and errors of memory in the range are wiped: zero data, tag 0, valid integrity (R368). -/
def State.wipeRange (s : State) (lo hi : Nat) : State :=
  { s with
    mem := s.mem.filter fun e => e.1 < lo || hi ≤ e.1
    mtags := s.mtags.filter fun e => 64 * e.1 < lo || hi ≤ 64 * e.1
    mkeys := s.mkeys.filter fun e => 64 * e.1 < lo || hi ≤ 64 * e.1
    mstat := s.mstat.filter fun e => 64 * e.1 < lo || hi ≤ 64 * e.1 }

/-- Numbers of the dwords of an area, before its banks, that can hold something: registers, header and stacks, the spill ring where it is
not empty, and the elements of accumulators and saved slots. -/
def Saved.listed (v : Saved) : List Nat :=
  List.range 0xB00 ++ (if v.spill.isEmpty then [] else (List.range 0x1500).map (0xB00 + ·))
    ++ (v.ctx.accs.flatMap fun e => e.2.el.map fun f => 0x2000 + 0x1000 * e.1 + f.1)
    ++ v.oslots.flatMap fun e => e.2.el.map fun f => 0x6000 + 0x800 * e.1 + f.1

/-- Tags of the granules of an area that holds rows with tags: 64 elements, which are 8 granules, a row. -/
def Saved.rowTags (v : Saved) : List (Nat × Tag) :=
  let rows (base : Nat) (m : NMap LTag) : List (Nat × Tag) :=
    m.flatMap fun e => (List.range 8).map fun i => (base + 8 * e.1 + i, toTag e.2)
  (v.ctx.accs.flatMap fun e => rows (0x400 + 0x200 * e.1) e.2.tags) ++ v.oslots.flatMap fun e => rows (0xC00 + 0x100 * e.1) e.2.tags

/-- An area at physical address `at_` takes what `v` holds, up to its banks; with `banks` those that `v` holds too. -/
def State.putArea (s : State) (at_ : Nat) (v : Saved) (banks : Bool) : State :=
  let s := s.wipeRange at_ (at_ + if banks then saveAreaBytes else 0x70000)
  let s := v.listed.foldl (fun s k => let w := v.dword s.now k; if w = 0 then s else s.memWrite (at_ + 8 * k) (bytesOf 8 w.toNat)) s
  let s := v.rowTags.foldl (fun s e => s.setMemTag (at_ / 64 + e.1) e.2) s
  if banks then
    v.stags.foldl (fun s e => s.setMemTag (at_ / 64 + 0x1C00 + e.1) e.2)
      (v.spad.foldl (fun s e => s.memWrite (at_ + 0x70000 + e.1) [e.2]) s)
  else s

/-- The save areas of core `c` that are taken stand in its home as they are now (R79, R80). -/
def State.putAreas (s : State) (c : Nat) : State :=
  (s.core c).areas.foldl (fun s e => match e.2 with
    | some v => s.putArea (paOf c ((s.part v.task.part).csabase.toNat * 0x10000 + e.1 * saveAreaBytes)) v true
    | none => s) s

end Sys2Proof.Machine
end

