-- ==== Sys2Proof/Machine/Gang.lean ====
section
/-! DEFINITION. What joins the members of a gang: scopes (R111, R112, R175), arrivals at tricks and barriers and their
releases (R73, R74, R174, R175), and superstep delivery (R73, R358). -/

namespace Sys2Proof.Machine

/-! ## Scopes -/

def scopeFault (v : Dword) : Trap := { cause := 8, val := v }

/-- The rectangle X0, Y0, X1, Y1 of a scope operand (R111, Table 2). -/
def scopeRect (v : Dword) : Nat × Nat × Nat × Nat := (dfield v 15 8, dfield v 23 16, dfield v 31 24, dfield v 39 32)

/-- The scope that an operand names to core `c`, or none where it raises the scope fault (R111, R112). DESIGN CHOICE (log entry
51): the order of the bounds is checked where KIND uses them, RECT and GRECT. -/
def State.scopeOf (s : State) (c : Nat) (t : Task) (v : Dword) : Option Scope :=
  let (x0, y0, x1, y1) := scopeRect v
  if dfield v 7 4 != 0 || dfield v 63 40 != 0 then none
  else match dfield v 3 0 with
    | 0 => some .self
    | 1 => some .cluster
    | 2 => some .gang
    | 3 => some .die
    | 4 => some .device
    | 5 => some .system
    | 6 =>
      let p := s.part t.part
      if x0 ≤ x1 && y0 ≤ y1 && p.x0 ≤ x0 && x1 < p.x0 + p.w && p.y0 ≤ y0 && y1 < p.y0 + p.h
        && x0 ≤ coreX c && coreX c ≤ x1 && y0 ≤ coreY c && coreY c ≤ y1 then some (.rect x0 y0 x1 y1) else none
    | 7 =>
      if x0 ≤ x1 && y0 ≤ y1 && x1 < t.gw && y1 < t.gh && x0 ≤ t.gx && t.gx ≤ x1 && y0 ≤ t.gy && t.gy ≤ y1 then
        some (.rect (t.ox + x0) (t.oy + y0) (t.ox + x1) (t.oy + y1)) else none
    | _ => none

/-- X0, Y0, X1, Y1 as a rectangle of gang coordinates, if it lies inside the gang. -/
def Task.inGang (t : Task) (x0 y0 x1 y1 : Nat) : Option (Nat × Nat × Nat × Nat) :=
  if t.ox ≤ x0 && x1 < t.ox + t.gw && t.oy ≤ y0 && y1 < t.oy + t.gh then
    some (x0 - t.ox, y0 - t.oy, x1 - t.ox, y1 - t.oy) else none

/-- The scope of `ct.bar` (R175): `none` is the scope fault, `some none` SELF, and else a rectangle of gang
coordinates. -/
def State.barRect (s : State) (c : Nat) (t : Task) (v : Dword) : Option (Option (Nat × Nat × Nat × Nat)) :=
  match s.scopeOf c t v with
  | some .self => some none
  | some .gang => some (some (0, 0, t.gw - 1, t.gh - 1))
  | some .cluster =>
    let x := coreX c / 4 * 4
    let y := coreY c / 4 * 4
    (t.inGang x y (x + 3) (y + 3)).map some
  | some .die =>
    let x := coreX c / 24 * 24
    let y := coreY c / 16 * 16
    (t.inGang x y (x + 23) (y + 15)).map some
  | some (.rect x0 y0 x1 y1) => (t.inGang x0 y0 x1 y1).map some
  | _ => none

/-! ## Superstep delivery (R73, R358) -/

/-- The gang of the task is rollback-protected: ROLLBACK or DUPLEX (R357). -/
def Task.isProtected (t : Task) : Bool := t.rollback || t.duplex

/-- The core runs, or has finished, a task of this gang. -/
def Core.inGang (k : Core) (t : Task) : Bool :=
  match k.task, k.finished with
  | some u, _ => u.sameGang t
  | none, some u => u.sameGang t
  | none, none => false

/-- An outgoing item of a duplex member folds its address, bytes, tags and kind into the member's running hash, and goes
to its router with the updated hash (R361): a logged write that leaves the partner, a message, or an atomic request. -/
def State.sendItem (s : State) (c : Nat) (t : Task) (kind : Nat) (addr : Dword) (bs : List Byte) (tag : LTag)
    (req : Option Req) (held : Option Nat) : State :=
  if !t.duplex then s
  else
    let k := s.core c
    let h := Config.itemHash k.hash (bytesOf 8 addr.toNat ++ bs ++ tag.flatMap (fun x => bytesOf 2 x.toNat) ++ bytesOf 1 kind)
    (s.updCore c fun k => { k with hash := h, items := k.items + 1 }).updPart t.part fun p => { p with items := p.items ++
      [{ part := t.part, inst := t.inst, node := t.node, partner := t.partner, member := t.index, index := k.items
         hash := h, req := req, held := held, sentAt := s.now }] }

/-- An access of core `c` takes its place at a scratchpad (R98). -/
def State.placeTurn (s : State) (c : Nat) (l : Loc) : State :=
  match l with
  | .mem _ => s
  | .spad k _ => if k = c then s.turnFor k 1 else s.remoteTurn k

/-- A delivery's place at a scratchpad: one step performs a superstep's deliveries, which would come in many cycles, so that none of
them waits for another (R98; log entry 52). -/
def State.deliverTurn (s : State) (l : Loc) : State :=
  match l with
  | .mem _ => s
  | .spad k _ => s.lastTurn k

/-- One held write is performed at its destination. A `ms.put` that meets a refusal is dropped, and its sender takes the
fault at its release; a store's refusal returns to its core (R92, R97). DESIGN CHOICE (log entry 66): of several that one trick drops, the
fault names the first. -/
def State.deliverOne (s : State) (h : Held) : State :=
  let s := (s.crossWrite h.core h.loc).deliverTurn h.loc
  let r := s.writeLoc h.core h.key h.loc h.bytes h.tag h.addr
  let s := r.1.updCtx h.core fun k => { k with stores := k.stores.erase h.id, nosts := k.nosts.erase h.id }
  match r.2 with
  | none => s
  | some t =>
    if h.put then s.updCtx h.core fun k => { k with putTrap := k.putTrap.orElse fun _ => some t }
    else s.updCtx h.core (·.faultA t)

/-- A held write that is not performed: the equal one of the other partner is (R361), or nothing performs it. -/
def State.dropOne (s : State) (h : Held) : State :=
  s.updCtx h.core fun k => { k with stores := k.stores.erase h.id, nosts := k.nosts.erase h.id }

/-- What the gang of `t` holds is not performed (R362). -/
def State.dropHeld (s : State) (t : Task) : State :=
  let mine (h : Held) : Bool := (s.core h.core).inGang t
  ((s.part t.part).held.filter mine).foldl State.dropOne
    (s.updPart t.part fun p => { p with held := p.held.filter fun h => !mine h })

/-- Every delivery that the gang of `t` holds is performed, oldest first; without `outward`, only those inside the gang. -/
def State.deliver (s : State) (t : Task) (outward : Bool) : State :=
  let p := s.part t.part
  let mine (h : Held) : Bool := (s.core h.core).inGang t
  let inside (h : Held) : Bool := match h.loc with
    | .spad _ _ => true
    | .mem _ => false
  (p.held.filter mine).foldl (fun s h => if outward || inside h then s.deliverOne h else s.dropOne h)
    (s.updPart t.part fun p => { p with held := p.held.filter fun h => !mine h })

/-- The place is in core `c`'s scratchpad. -/
def Loc.isSpadOf (l : Loc) (c : Nat) : Bool :=
  match l with
  | .spad k _ => k = c
  | .mem _ => false

/-- The bytes and tags of one logged write laid over a piece that starts at `at_` (R358). -/
def overlayOne (at_ lo : Nat) (bs : List Byte) (t : LTag) (r : Piece × LTag) : Piece × LTag :=
  let n := r.1.bytes.length
  if at_ + n ≤ lo || lo + bs.length ≤ at_ then r
  else ({ r.1 with bytes := r.1.bytes.mapIdx fun i b =>
      if lo ≤ at_ + i && at_ + i < lo + bs.length then bs.getD (at_ + i - lo) b else b },
    if bs.length = 64 then t else joinTags [r.2, t])

/-- Access `id` of a protected member, a read, sees the bytes that the member logged before it, with their tags (R107, R108,
R358). -/
def State.overlay (s : State) (c id : Nat) (l : Loc) (p : Piece) : State × Piece :=
  match (s.core c).task with
  | none => (s, p)
  | some t =>
    if !t.isProtected || p.fail.isSome then (s, p)
    else
      let r := ((s.part t.part).held.filter fun h => h.core = c && !(h.put && h.loc.isSpadOf c) && h.id < id).foldl (fun r h =>
        match l, h.loc with
        | .mem pa, .mem q => overlayOne pa q h.bytes h.tag r
        | .spad k o, .spad k' q => if k = k' then overlayOne o q h.bytes h.tag r else r
        | _, _ => r) (p, p.tag)
      match s.joinFor c r.2 with
      | (s, some e, _) => (s, { r.1 with fail := some e })
      | (s, none, u) => (s, { r.1 with tag := tagOf u })

/-! ## Mail (R325) -/

/-- Where a gang member's inbound entries are kept: in its core, in the spill ring of a save area, or nowhere once it has
finished. -/
inductive Box where
  | live (core : Nat)
  | saved (core area : Nat)
  | gone
  deriving DecidableEq, Repr, Inhabited

/-- Where the context of the member at (gx, gy) of partner `q` lies: core and save area. -/
def State.oldPlace (s : State) (nd : Node) (q gx gy : Nat) : Option (Nat × Nat) :=
  nd.oldPlaces.find? fun e => match (s.core e.1).areas.get none e.2 with
    | some v => v.task.partner = q && v.task.gx = gx && v.task.gy = gy
    | none => false

/-- The task of partner `q` of a node, at its present rectangle (R360). -/
def Node.partnerTask (nd : Node) (t : Task) (q : Nat) : Task :=
  match nd.gangs[q]? with
  | some g => { t with partner := q, ox := g.ox, oy := g.oy, gw := g.gw, gh := g.gh, gx := 0, gy := 0 }
  | none => t

/-- The saved context of an area. -/
def Core.area (k : Core) (a : Nat) : Saved := (k.areas.get none a).getD {}

/-- The member of the gang of `t` at (gx, gy), wherever the gang has been since (R81, R325). -/
def State.box (s : State) (t : Task) (gx gy : Nat) : Box :=
  let nd := s.node t.part t.inst t.node
  let m := (nd.partnerTask t t.partner).member gx gy
  if ((s.core m).task.map (·.sameGang t)).getD false then .live m
  else match s.oldPlace nd t.partner gx gy with
    | some e => if ((s.core e.1).area e.2).fin then .gone else .saved e.1 e.2
    | none => .gone
def Core.updArea (k : Core) (a : Nat) (f : Saved → Saved) : Core := { k with areas := k.areas.set none a (some (f (k.area a))) }

/-- A message enters its receiver's storage, or its spill ring (R325). -/
def State.putMail (s : State) (m : Mail) : State :=
  match s.box m.task m.gx m.gy with
  | .live k => s.updCtx k fun x => { x with inbox := x.inbox ++ [m.msg] }
  | .saved k a => (s.updCore k (·.updArea a fun v => { v with spill := v.spill ++ [m.msg] })).putAreas k
  | .gone => s

/-- Every message on its way inside the gang arrives. -/
def State.putAllMail (s : State) (t : Task) : State :=
  (s.msgs.filter (·.task.sameGang t)).foldl State.putMail { s with msgs := s.msgs.filter fun m => !m.task.sameGang t }

/-! ## Snapshots (R357) -/

/-- The context that a snapshot holds, as a save area has it: with every slot of the member. -/
def Snap.saved (z : Snap) : Saved :=
  let own := z.slots.filter fun e => e.2.owner = .task
  { task := z.task, ctx := z.ctx, image := z.image, bfmt := z.bfmt, spill := z.ctx.inbox, oslots := own
    slotSaved := BitVec.ofNat 16 (own.foldl (fun m e => m + 2 ^ e.1) 0) }

/-- The snapshot area of core `c` takes the context of its snapshot; the banks follow as they are first written (R357). -/
def State.putSnap (s : State) (c : Nat) : State :=
  match (s.core c).snap with
  | some z => s.putArea (s.snapAt z.task.part c) z.saved false
  | none => s

/-- A snapshot of a protected member, and of what it has under way. Of a core that the debug port has halted it holds the context as the
halt found it (R193; log entry 44). -/
def State.takeSnap (s : State) (c : Nat) : State :=
  let k := if (s.core c).halted then (s.core c).leaveHalt s.now else s.core c
  let reqs := s.reqs.filter (·.core = c)
  match k.task with
  | none => s.updCore c fun k => { k with snap := none, irrev := false, atomDone := false, hash := 0, items := 0 }
  | some t =>
    if !t.isProtected then s
    else State.putSnap (s.updCore c fun k' => { k' with
      snap := some {
        task := t, ctx := k.ctx, slots := k.slots, spad := k.spad, stags := k.stags, sbad := k.sbad, image := k.image, bfmt := k.bfmt
        trapCause := k.trapCause, trapVal := k.trapVal, xpcSave := k.xpcSave, apcSave := k.apcSave, tvec := k.tvec
        reqs := reqs, replies := s.replies.filter (·.1 = c)
        bsums := s.bsums.filter (·.sender = c), bsumBuf := s.bsumBuf.filter (·.target = c) }
      irrev := false, atomDone := false, hash := 0, items := 0, copied := [] }) c

/-! ## Arrivals and releases (R74, R174, R175) -/

/-- The members of the gang inside a rectangle of gang coordinates. -/
def Task.within (t : Task) (r : Nat × Nat × Nat × Nat) : List Nat :=
  rectCores (t.ox + r.1) (t.oy + r.2.1) (r.2.2.1 + 1 - r.1) (r.2.2.2 + 1 - r.2.1)

/-- The member has exited and holds nothing but deliveries for a trick, which its finish waits for: it stands at the next trick
(R66, R73, R358; log entry 38). -/
def State.exitsHeld (s : State) (m : Nat) : Bool :=
  (s.ctx m).xs.exited && (s.ctx m).raised.isNone && !(s.ctx m).stores.isEmpty && s.quiet m

/-- The core has arrived at this instance, or its member has finished and counts as arriving at every later one. -/
def State.hasArrived (s : State) (t : Task) (rect : Option (Nat × Nat × Nat × Nat)) (m : Nat) : Bool :=
  let k := s.core m
  match k.task with
  | some u => u.sameGang t && (match k.ctx.arrived with
    | some a => a.rect = rect && a.release = none
    | none => rect.isNone && s.exitsHeld m)
  | none => match k.finished with
    | some u => u.sameGang t
    | none => false

/-- Mesh cycles between the last arrival and the member's release (R27, R74). -/
def State.stagger (s : State) (u : Task) (x0 y0 : Nat) : Nat :=
  if u.stag then coreCycles (((if u.follow then 0 else u.gx - x0) + (u.gy - y0)) * (s.part u.part).stagger.toNat) else 0

/-- Each member of the rectangle that waits gets its time of release. -/
def State.setReleases (s : State) (t : Task) (r : Nat × Nat × Nat × Nat) : State :=
  (t.within r).foldl (fun s m => match (s.core m).task with
    | some u => s.updCtx m fun k => { k with arrived := k.arrived.map fun a =>
        { a with release := some (s.now + s.stagger u r.1 r.2.1) } }
    | none => s) s

/-- The whole gang, as a rectangle of gang coordinates. -/
def Task.whole (t : Task) : Nat × Nat × Nat × Nat := (0, 0, t.gw - 1, t.gh - 1)

/-- The superstep of one gang ends: what it holds is delivered, its members get their times of release, and those of a
protected gang are snapshot as they stand (R73, R357, R358). Of two equal partners one performs what leaves them. -/
def State.endSuperstep (s : State) (t : Task) (outward : Bool) : State :=
  let s := s.deliver t outward
  let s := if t.isProtected then s.putAllMail t else s
  let s := s.setReleases t t.whole
  if t.isProtected then t.members.foldl State.takeSnap s else s

/-- The superstep number of the node goes up. -/
def State.nextSuperstep (s : State) (t : Task) : State :=
  s.updNode t.part t.inst t.node fun n => { n with superstep := n.superstep + 1 }

/-- A task ends with CODE KILLED and event 0x34 (R356, Table 3). -/
def State.kill (s : State) (t : Task) (cause : Nat) : State :=
  (s.event 0x34 (s.part t.part).die [t.node, t.inst, cause]).endTask t cKilled

/-- A rectangle as one field of an event. -/
def Gang.word (g : Gang) : Nat := g.ox + 2 ^ 16 * g.oy + 2 ^ 32 * g.gw + 2 ^ 48 * g.gh

/-- A rectangle of the node's shape shares no cluster with either partner (R362). -/
def State.tiebreakFits (s : State) (p : Nat) (nd : Node) : Bool :=
  let q := s.part p
  (q.originsOf (recGw nd.record) (recGh nd.record)).any fun o =>
    (nd.gangs.take 2).all (clusterApart { ox := o.1, oy := o.2, gw := recGw nd.record, gh := recGh nd.record })

/-- The partners, halted at their trick, disagree: the task ends, with nothing that they hold performed, or the dealer is asked
for a tiebreak (R362). -/
def State.disagree (s : State) (t : Task) : State :=
  let nd := s.node t.part t.inst t.node
  let drop (s : State) : State := (s.dropHeld (nd.partnerTask t 0)).dropHeld (nd.partnerTask t 1)
  let gs := nd.gangs.take 2
  let s := s.event 0x30 (s.part t.part).die ([t.node, t.inst, nd.superstep, gs.length] ++ gs.map Gang.word)
  if (gs.flatMap fun g => rectCores g.ox g.oy g.gw g.gh).any fun c => (s.core c).atomDone then (drop s).kill t 1
  else if !s.tiebreakFits t.part nd then (drop s).kill t 5
  else s.updNode t.part t.inst t.node fun n => { n with tiebreak := true, mismatch := true, readyAt := s.now, failures := 0 }

/-- Every item of the node is dropped. -/
def State.dropItems (s : State) (t : Task) : State :=
  s.updPart t.part fun p => { p with items := p.items.filter fun e => !(e.inst = t.inst && e.node = t.node) }

/-- The accesses that a request is, each as core and id: its own, and its twin's (R361). -/
def Req.names (r : Req) : List (Nat × Nat) := (r.core, r.id) :: r.twin.toList

/-- The request is core `c`'s. -/
def Req.isOf (r : Req) (c : Nat) : Bool := r.names.any (·.1 = c)

def Req.isLoad (r : Req) : Bool :=
  match r.kind with
  | .load _ => true
  | _ => false

def Req.isAtomic (r : Req) : Bool :=
  match r.kind with
  | .atomic _ _ _ _ _ _ => true
  | _ => false

/-- A refusal of core `c` has still to be taken by its A stream (R92, R125). -/
def State.refusalDue (s : State) (c : Nat) : Bool :=
  s.refusals.any (·.1 = c) || (s.ctx c).as_.trap.any (·.cause = 17)

/-- The item is an atomic that has met no equal for 2^20 mesh cycles (R361). -/
def Item.stale (e : Item) (now : Nat) : Bool := e.arrived && !e.paired && e.req.isSome && e.sentAt + 2 ^ 20 ≤ now

/-- Member `m` of a duplex gang that has disagreed stands: at the trick, or where it waits for an atomic that met no equal in time, since
it reaches no trick (R361, R362; DEDUCED, log entry 62). -/
def State.stands (s : State) (t : Task) (m : Nat) : Bool :=
  s.hasArrived t none m || (s.part t.part).items.any fun e =>
    e.stale s.now && e.inst = t.inst && e.node = t.node && e.partner = t.partner && e.req.any (·.core = m)

/-- Both partners of a duplex task have arrived at the trick: they go on together, once every item has met its equal (R361);
an item that is left, or one that differed, is a mismatch. Atomics that have met their equals are performed first (R116). -/
def State.tryDuplex (s : State) (t : Task) : State :=
  let nd := s.node t.part t.inst t.node
  let t0 := nd.partnerTask t 0
  let t1 := nd.partnerTask t 1
  let here (u : Task) : Bool := u.members.all fun m => if nd.mismatch then s.stands u m else s.hasArrived u none m
  let runs (u : Task) : Bool := u.members.any fun m => (s.core m).task.isSome
  let left := (s.part t.part).items.filter fun e => e.inst = t.inst && e.node = t.node && !e.paired
  let busy : Bool := s.reqs.any fun r => (t0.members ++ t1.members).any r.isOf
  if nd.tiebreak || nd.ending.isSome || nd.gangs.length < 2 || !here t0 || !here t1 || !(runs t0 || runs t1) || busy then s
  else if nd.mismatch then s.disagree t
  else if left.isEmpty then (((s.dropItems t).endSuperstep t0 true).endSuperstep t1 false).nextSuperstep t
  else if left.all (·.arrived) then s.disagree t
  else s

/-- The instance is complete if every member of its rectangle has arrived: deliveries are performed at a trick, and
each member that waits gets its time of release. A tiebreak gang waits for its verdict (R362). -/
def State.tryRelease (s : State) (t : Task) (rect : Option (Nat × Nat × Nat × Nat)) : State :=
  let r := rect.getD t.whole
  let ms := t.within r
  if !ms.all (s.hasArrived t rect) || !ms.any (fun m => (s.core m).task.isSome) then s
  else if rect.isSome then s.setReleases t r
  else if t.partner = 2 then s
  else if t.duplex then s.tryDuplex t
  else (s.endSuperstep t true).nextSuperstep t

/-- Member `c` of task `t` arrives (R174, R175). -/
def State.arrive (s : State) (c : Nat) (t : Task) (rect : Option (Nat × Nat × Nat × Nat)) (sync : Bool) : State :=
  (s.updCtx c fun k => { k with arrived := some { rect := rect, sync := sync, handler := k.priv, began := s.now } }).tryRelease t rect

/-- A member of the gang has finished or left: every instance that now lacks nobody completes. -/
def State.recheck (s : State) (t : Task) : State :=
  let rects := distinctRects (t.members.filterMap fun m =>
    (s.ctx m).arrived.bind fun a => if a.release = none then some a.rect else none)
  let s := rects.foldl (fun s r => s.tryRelease t r) s
  if t.duplex && t.partner != 2 then s.tryDuplex t else s
where
  distinctRects (l : List (Option (Nat × Nat × Nat × Nat))) : List (Option (Nat × Nat × Nat × Nat)) :=
    l.foldl (fun a r => if a.contains r then a else a ++ [r]) []

/-- No store datum that the X stream of core `c` pushed in an earlier group waits for its address. -/
def State.paired (s : State) (c : Nat) : Bool :=
  (List.range 4).all fun n => ((s.ctx c).queue (qSq n)).ents.all fun e => s.now < e.since

/-- Every access of core `c` that has issued is performed, and every store whose data its X stream has pushed has been
paired: what a release act of the X stream waits for (R106, R115, R116). Data that the act's own group pushes does not
count. A refused access is not performed: its fault comes first (R125). -/
def State.drained (s : State) (c : Nat) : Bool :=
  (s.reqs ++ s.unpaired).all (!·.isOf c) && s.paired c && !s.refusalDue c

/-- What an arrival waits for: as `drained`, but a duplex member's atomics meet their equals while both partners stand at the
trick (R361). -/
def State.arrivable (s : State) (c : Nat) : Bool := s.reqs.all (!·.isOf c) && s.paired c && !s.refusalDue c

/-- Every load and atomic that has issued is performed: what an acquire waits for (R115, R123). -/
def State.performed (s : State) (c : Nat) : Bool :=
  (s.reqs ++ s.unpaired).all (fun r => !r.isOf c || !(r.isLoad || r.isAtomic)) && !s.refusalDue c

/-- Every access of core `c` that issued before access `id` is performed: what the fork of a copy waits for (R119, R123). -/
def State.settledBefore (s : State) (c id : Nat) : Bool :=
  (s.reqs ++ s.unpaired ++ s.gone.filter (!·.isLoad)).all (fun r => r.names.all fun n => n.1 != c || id ≤ n.2)
    && s.refusals.all (fun r => r.1 != c || id ≤ r.2.1)

/-- The mesh rectangle of a scope of core `c`: the cores it covers (R111). -/
def State.scopeBox (s : State) (c : Nat) : Scope → Nat × Nat × Nat × Nat
  | .self => (coreX c, coreY c, coreX c, coreY c)
  | .cluster => (coreX c / 4 * 4, coreY c / 4 * 4, coreX c / 4 * 4 + 3, coreY c / 4 * 4 + 3)
  | .gang => match (s.core c).task with
    | some t => (t.ox, t.oy, t.ox + t.gw - 1, t.oy + t.gh - 1)
    | none => (coreX c, coreY c, coreX c, coreY c)
  | .die => (coreX c / 24 * 24, coreY c / 16 * 16, coreX c / 24 * 24 + 23, coreY c / 16 * 16 + 15)
  | .device => (0, 0, 47, 31)
  | .system => (0, 0, 47, 31)
  | .rect x0 y0 x1 y1 => (x0, y0, x1, y1)

/-- Core `m` is inside the scope of core `c`; so are its engine threads (R111, R113). -/
def State.inScope (s : State) (c : Nat) (sc : Scope) (m : Nat) : Bool :=
  let (x0, y0, x1, y1) := s.scopeBox c sc
  x0 ≤ coreX m && coreX m ≤ x1 && y0 ≤ coreY m && coreY m ≤ y1

/-- Core `c` has an engine thread under way, which is an observer inside its every scope: a copy command (R113, R119). -/
def State.threads (s : State) (c : Nat) : Bool := !(s.ctx c).copies.isEmpty

/-- The scopes leave somebody but core `c`'s own thread an observer: an engine thread of it, a core inside both, or the host and the
peers, who are inside SYSTEM only (R113). Where they do not, nothing that core `c` can see keeps the pair (R123, notes 2 and 3). -/
def State.scopesMeet (s : State) (c : Nat) (a b : Scope) : Bool :=
  let (x0, y0, x1, y1) := s.scopeBox c a
  let (u0, v0, u1, v1) := s.scopeBox c b
  s.threads c || max x0 u0 < min x1 u1 || max y0 v0 < min y1 v1

end Sys2Proof.Machine
end

