-- ==== Sys2Proof/Machine/Graph.lean ====
section
/-! DEFINITION. Graph instances: launches (R63, R64), counters and successors (R60), how nodes become ready, finish and
fail (R61, R62, R344), and SUBGRAPH and EVENT nodes (R56, R385). -/

namespace Sys2Proof.Machine

/-! ## Jobs of the dealer -/

/-- Something that the dealer still has to do for an instance. -/
inductive Job where
  /-- One decrement of a node's counter (R60). -/
  | decr (n : Nat)
  /-- The node has become ready: its record is read (R61). -/
  | ready (n : Nat)
  /-- The node, whose record has been read, finishes with a CODE (R62). -/
  | finish (n code : Nat)
  /-- The node fails with DEPFAIL, unless it is ready or has finished (R62). -/
  | depfail (n : Nat)
  /-- The node's record cannot be read (R61). -/
  | unread (n : Nat)
  /-- The node has failed with DEPFAIL, at once with every node that waited (R61), and its record is read. -/
  | doomed (n : Nat)
  /-- The instance finishes if every node has (R62). -/
  | check
  deriving DecidableEq, Repr

/-- The kinds of device event that the dealer raises (R354, Table 6). -/
def evLaunchDrop : Nat := 0x10
def evLaunchFail : Nat := 0x11
def evNodeFail : Nat := 0x13
def evHostRefused : Nat := 0x14
def evNodeEvent : Nat := 0x15
def evStatFail : Nat := 0x16

/-- An event that names a partition (R354: DIE). -/
def State.partEvent (s : State) (p kind : Nat) (fields : List Nat) : State := s.event kind (s.part p).die (p :: fields)

/-- TIME of a status dword (R62). -/
def timeField (start now : Nat) : Nat := min ((now - start) / 1024) 0xFFFFFFFF

/-- A status dword (R62, Table 3). -/
def statusWord (code inst time : Nat) (ovr : Bool) : Dword :=
  pack [(0, code), (8, if ovr then 1 else 0), (16, inst), (32, time)]

/-- A status dword is written; a write that is refused raises STATFAIL (R62). -/
def State.writeStatus (s : State) (p n i : Nat) (a : Dword) (v : Dword) : State :=
  if a = 0 then s
  else match s.devWrite p a (bytesOf 8 v.toNat) with
    | (s, none) => s
    | (s, some t) => s.partEvent p evStatFail [n, i, a.toNat, if t.cause = 6 then 0 else t.reason.toNat]

/-- OVER is set in the instance (R60). -/
def State.setOver (s : State) (p i : Nat) : State := s.updInst p i fun x => { x with ovr := true }

/-- The successor indices of a node; an entry that cannot be read sets OVER (R60). -/
def State.successors (s : State) (p i : Nat) (a : Dword) : Nat → State × List Nat
  | 0 => (s, [])
  | n + 1 =>
    match s.devRead p a 4 with
    | (s, .error _) => successors (s.setOver p i) p i (a + 4) n
    | (s, .ok bs) => match successors s p i (a + 4) n with
      | (s, r) => (s, ofBytes bs :: r)

/-- A duplex node's partition holds two rectangles of its shape that share no cluster (R360). -/
def Part.twoApart (p : Part) (w h : Nat) : Bool :=
  let os := p.originsOf w h
  os.any fun a => os.any fun b => clusterApart { ox := a.1, oy := a.2, gw := w, gh := h } { ox := b.1, oy := b.2, gw := w, gh := h }

/-- What a record that has been read fails with at once (R59, R360). -/
def recordCode (p : Part) (r : Vec) : Option Nat :=
  if recBad r then some cFormat
  else if recKind r = 0 && (p.w < recGw r || p.h < recGh r) then some cShape
  else if recKind r = 0 && recDuplex r && !p.twoApart (recGw r) (recGh r) then some cShape
  else none

/-- A pair of rectangles of the partition that share no cluster could hold a duplex gang (R69, R360). -/
def State.canHoldTwo (s : State) (p : Part) (w h : Nat) (g : Img) : Bool :=
  let os := (p.originsOf w h).filter fun o => (rectCores o.1 o.2 w h).all fun c => (s.core c).meets g
  os.any fun a => os.any fun b => clusterApart { ox := a.1, oy := a.2, gw := w, gh := h } { ox := b.1, oy := b.2, gw := w, gh := h }

/-- The partition could ever place a node with this record and image (R69). -/
def State.placeable (s : State) (p : Nat) (r : Vec) (g : Img) : Bool :=
  if recDuplex r then s.canHoldTwo (s.part p) (recGw r) (recGh r) g else s.canHold (s.part p) (recGw r) (recGh r) g

/-- The outcome of a selection takes effect: an image, a wait for translation, or failure (R339 to R341). -/
def State.takeSel (s : State) (p i n : Nat) (r : Vec) (forced : Bool) : State × List (Nat × Job) :=
  let key := (s.part p).selKey
  match s.select p r forced with
  | (s, .image g) =>
    (s.updNode p i n fun x => { x with img := some g, selKey := key, phase := .ready }, [])
  | (s, .translate _ _ _) => (s.updNode p i n fun x => { x with img := none, selKey := key, phase := .translating }, [])
  | (s, .fail c) => (s, [(i, .finish n c)])

/-- A TASK node is selected; a native image that no rectangle can ever hold is passed over for the portable code (R69,
R339, R340). -/
def State.selectNode (s : State) (p i n : Nat) : State × List (Nat × Job) :=
  let r := (s.node p i n).record
  match s.takeSel p i n r false with
  | (s, []) => match (s.node p i n).img with
    | some g => if s.placeable p r g then (s, []) else s.takeSel p i n r true
    | none => (s, [])
  | (s, js) => (s, js)

/-- A node is ready with this record (R60, R61). -/
def State.nodeReady (s : State) (p i n : Nat) (r : Vec) : State × List (Nat × Job) :=
  let s := s.updNode p i n fun x => { x with phase := .ready, record := r, readyAt := s.now, firstReady := s.now, counter := 0 }
  match recordCode (s.part p) r with
  | some c => (s, [(i, .finish n c)])
  | none => if recKind r = 0 then s.selectNode p i n else (s, [])

/-- The address of a node's record (R57). -/
def Inst.recAddr (x : Inst) (n : Nat) : Dword := BitVec.ofNat 64 ((x.nodesVa + 64 * n) % 2 ^ 48)

/-- The record of a node, as the dealer reads it: a one-node instance has its launch record (R64). -/
def State.readRecord (s : State) (p i n : Nat) : State × Except Trap Vec :=
  let x := s.inst p i
  if x.single then (s, .ok ((x.nodes.get {} n).record)) else s.devGranule p (x.recAddr n)

/-- The successors of a node that has completed, triggered or failed (R60, R62, R75). -/
def State.release (s : State) (p i n : Nat) (ok : Bool) : State × List (Nat × Job) :=
  let x := s.inst p i
  if x.single then (s, [])
  else
    let r := (s.node p i n).record
    match s.successors p i (recSucc r) (recNsucc r) with
    | (s, ks) => (s, ks.map fun k => (i, if ok || x.failrel then Job.decr k else Job.depfail k))

/-- The attempt to place a node ends with the node: GRANT_RELEASE gives back what it was granted (R68 step 4). -/
def Part.dropAttempt (p : Part) (i n : Nat) : Part :=
  { p with attempt := p.attempt.filter fun a => !(a.inst = i && a.node = n) }

/-- The region held for an escalated node is held no longer (R70). -/
def State.freeRegion (s : State) (p i n : Nat) : State :=
  if (s.part p).escalated = some (i, n) then
    (s.part p).cores.foldl (fun s c => s.updCore c fun k =>
        if k.hold = some (p, i, n) then { k with hold := none } else k)
      (s.updPart p fun q => { q with escalated := none })
  else s

/-- A node that has just failed or completed with a CODE: its status, its events and its successors (R62, R344). -/
def State.closeNode (s : State) (p i n code : Nat) : State × List (Nat × Job) :=
  let nd := s.node p i n
  let (time, s) := if nd.phase = .waiting then
      let (v, s) := s.freeDword
      (v.toNat % 2 ^ 32, s)
    else (timeField nd.firstReady s.now, s)
  let s := s.updNode p i n fun x => { x with code := some code, phase := .finished, tiebreak := false }
  let s := s.updPart p (·.dropAttempt i n)
  let s := s.writeStatus p n i (recStat nd.record) (statusWord code i time false)
  let s := if code = cResources then s.partEvent p evNodeFail [n, i, code] else s
  let s := s.freeRegion p i n
  if nd.triggered then (s, [(i, .check)])
  else
    let (s, js) := s.release p i n (code = cDone)
    (s, js ++ [(i, .check)])

/-- A node finishes with a CODE, once (R62). -/
def State.finishNode (s : State) (p i n code : Nat) : State × List (Nat × Job) :=
  if (s.node p i n).code.isSome then (s, []) else s.closeNode p i n code

/-- CODE of a graph: that of the failed node with the lowest index, or DONE (R62). -/
def Inst.graphCode (x : Inst) : Nat :=
  (((List.range x.nnodes).filterMap fun n => (x.nodes.get {} n).code).find? (· != cDone)).getD cDone

/-- Every node of the instance has finished. -/
def Inst.allDone (x : Inst) : Bool := (List.range x.nnodes).all fun n => (x.nodes.get {} n).code.isSome

/-- One job. DESIGN CHOICE (log entry 50): TIME of a graph status counts from the creation of its instance. DESIGN CHOICE (log
entry 61): an entry of a failed node's successor array that is out of range or cannot be read sets OVER under FAILREL = 0 too, where
no counter is decremented. -/
def State.job (s : State) (p i : Nat) : Job → State × List (Nat × Job)
  | .decr n =>
    let x := s.inst p i
    let nd := x.nodes.get {} n
    if x.nnodes ≤ n then (s.setOver p i, [])
    else match nd.code with
      | some c => (if c = cDone then s.setOver p i else s, [])
      | none =>
        if nd.counter = 0 then (s.setOver p i, [])
        else
          let s := s.updNode p i n fun x => { x with counter := x.counter - 1 }
          (s, if nd.counter = 1 then [(i, .ready n)] else [])
  | .ready n =>
    match s.readRecord p i n with
    | (s, .error _) => (s, [(i, .unread n)])
    | (s, .ok r) => s.nodeReady p i n r
  | .finish n code => s.finishNode p i n code
  | .depfail n =>
    let x := s.inst p i
    let nd := x.nodes.get {} n
    if x.nnodes ≤ n then (s.setOver p i, [])
    else if nd.counter = 0 || nd.code.isSome then (s, [])
    else match s.readRecord p i n with
      | (s, .error _) => (s, [(i, .unread n)])
      | (s, .ok r) => (s.updNode p i n fun x => { x with record := r }, [(i, .finish n cDepfail)])
  | .unread n =>
    let x := s.inst p i
    if (x.nodes.get {} n).code.isSome then (s, [])
    else
      let s := s.updNode p i n fun x => { x with code := some cFormat, phase := .finished }
      let s := s.partEvent p evNodeFail [n, i, cFormat]
      let late := (List.range x.nnodes).filter fun k =>
        k != n && (x.nodes.get {} k).counter != 0 && (x.nodes.get {} k).code.isNone
      let s := late.foldl (fun s k => s.updNode p i k fun x => { x with code := some cDepfail }) s
      (s, late.map (fun k => (i, Job.doomed k)) ++ [(i, .check)])
  | .doomed n =>
    match s.readRecord p i n with
    | (s, .error _) =>
      let s := s.updNode p i n fun x => { x with code := some cFormat, phase := .finished }
      (s.partEvent p evNodeFail [n, i, cFormat], [])
    | (s, .ok r) => (s.updNode p i n fun x => { x with record := r }).closeNode p i n cDepfail
  | .check =>
    let x := s.inst p i
    if x.done || !x.allDone then (s, [])
    else
      let code := x.graphCode
      let s := s.updInst p i fun x => { x with done := true }
      let s := s.writeStatus p 0xFFFF i (BitVec.ofNat 64 x.gstat) (statusWord code i (timeField x.madeAt s.now) x.ovr)
      (s, match x.parent with
        | some (pi, pn) => [(pi, .finish pn code)]
        | none => [])

/-- Jobs until none is left; `fuel` bounds their number. -/
def State.settle (p : Nat) : Nat → List (Nat × Job) → State → State
  | 0, _, s => s
  | _, [], s => s
  | fuel + 1, (i, j) :: js, s =>
    match s.job p i j with
    | (s, more) => settle p fuel (more ++ js) s

/-- More jobs than any instance can give rise to: each node finishes once, with at most 65,535 successors. -/
def jobFuel : Nat := 2 ^ 40

/-- A node finishes, with all that follows. -/
def State.endNode (s : State) (p i n code : Nat) : State := s.settle p jobFuel [(i, .finish n code)]

/-- Members of the node's gang, of both partners of a duplex task (R65, R360). -/
def Node.memberCount (n : Node) : Nat := ((n.gangs.take 2).map fun g => g.gw * g.gh).foldl (· + ·) 0

/-! ## Launches (R63, R64) -/

/-- Room of a partition's launch queue (R63). -/
def launchDepth : Nat := 64

/-- A record enters the launch queue; false where the queue is full (R64). -/
def State.enqueueLaunch (s : State) (p : Nat) (rec : BitVec 512) : State × Bool :=
  if (s.part p).launchQ.length < launchDepth then
    (s.updPart p fun q => { q with launchQ := q.launchQ ++ [rec] }, true)
  else (s, false)

/-- What a read of the dword at offset `off` of the launch window gives: LCRED, LDROP, and 0 elsewhere, where LREC is write-only
and the rest reserved (R63; log entry 45). -/
def Part.launchRead (p : Part) (off : Nat) : Nat :=
  if off = 0x40 then launchDepth - p.launchQ.length else if off = 0x48 then p.ldrop else 0

/-- LAUNCH_RECORD_STORE: a store of `bytes` at offset `off` of the launch window, by the host or by supervisor code; no bytes
make the access a read of the dword there (R63; log entry 45). -/
def State.launchStore (s : State) (p off : Nat) (bytes : List Byte) : State :=
  if (s.parts.get none p).isNone then s
  else if bytes.isEmpty then { s with outRead := bytesOf 8 ((s.part p).launchRead off) }
  else if off = 0x48 then
    s.updPart p fun q => { q with ldrop := q.ldrop &&& (0xFFFF - ofBytes (bytes.take 2) % 2 ^ 16) }
  else if 0x40 ≤ off then s
  else
    let (s', ok) := s.enqueueLaunch p (BitVec.ofNat 512 (ofBytes bytes))
    if off = 0 && bytes.length = 64 && ok then s'
    else
      let d := min 0xFFFF ((s.part p).ldrop + 1)
      (s.updPart p fun q => { q with ldrop := d }).partEvent p evLaunchDrop [d]

/-- Nodes of the partition that have not finished (R64). -/
def Part.liveNodes (p : Part) : Nat :=
  p.insts.foldl (fun a e => match e.2 with
    | some x => if x.done then a else a + (List.range x.nnodes).countP fun n => (x.nodes.get {} n).code.isNone
    | none => a) 0

/-- The instance number is taken (R64). -/
def State.takeNumber (s : State) (p : Nat) : Nat × State :=
  let i := (s.part p).nextInst
  (i, s.updPart p fun q => { q with nextInst := (i + 1) % 65536 })

/-- Header fields (R57). -/
def hdrFailrel (h : Vec) : Bool := dfield (dwordOf h 0) 8 8 = 1
def hdrNnodes (h : Vec) : Nat := dfield (dwordOf h 0) 63 32
def hdrNodes (h : Vec) : Dword := addrField h 1
def hdrGstat (h : Vec) : Dword := addrField h 2

/-- The graph header is bad (R64, R385). DESIGN CHOICE (log entry 61): NNODES above 65,535 and a NODES address that is not
granule-aligned break Table 1 and no rule says with what effect: the header is accepted, and the records are read where they lie. -/
def hdrBad (h : Vec) : Bool :=
  dfield (dwordOf h 0) 7 0 != 0x96 || dfield (dwordOf h 0) 31 9 != 0 || dfield (dwordOf h 1) 63 48 != 0
    || dfield (dwordOf h 2) 63 48 != 0 || (List.range 5).any (fun i => dwordOf h (3 + i) != 0) || hdrNnodes h = 0

/-- DEPS of each node from `n` on, as they stand at creation; 0 where dword 0 cannot be read (R60, R61). -/
def State.readDeps (s : State) (p : Nat) (base : Dword) (n : Nat) : Nat → State × List Nat
  | 0 => (s, [])
  | k + 1 =>
    match s.devRead p (base + BitVec.ofNat 64 (64 * n)) 8 with
    | (s, .error _) => match readDeps s p base (n + 1) k with
      | (s, r) => (s, 0 :: r)
    | (s, .ok bs) => match readDeps s p base (n + 1) k with
      | (s, r) => (s, field (ofBytes bs) 39 24 :: r)

/-- An instance of a graph is created (R60, R64). DESIGN CHOICE (log entry 50): a number that has wrapped onto a live instance
takes its place. -/
def State.createGraph (s : State) (p : Nat) (h : Vec) (parent : Option (Nat × Nat)) : State :=
  let (i, s) := s.takeNumber p
  let n := hdrNnodes h
  let (s, deps) := s.readDeps p (hdrNodes h) 0 n
  let x : Inst := { num := i, failrel := hdrFailrel h, nnodes := n, nodesVa := (hdrNodes h).toNat, gstat := (hdrGstat h).toNat
                    parent := parent, madeAt := s.now
                    nodes := NMap.ofFn {} 0 n fun k => { counter := deps.getD k 0 } }
  let s := s.updPart p fun q => { q with insts := q.insts.set none i (some x) }
  let roots := (List.range n).filter fun k => deps.getD k 0 = 0
  s.settle p jobFuel (roots.map fun k => (i, Job.ready k))

/-- A one-node instance of a launch record (R64). -/
def State.createSingle (s : State) (p : Nat) (r : Vec) : State :=
  let (i, s) := s.takeNumber p
  let x : Inst := { num := i, single := true, nnodes := 1, madeAt := s.now, nodes := NMap.ofFn {} 0 1 fun _ => { record := r } }
  (s.updPart p fun q => { q with insts := q.insts.set none i (some x) }).settle p jobFuel [(i, .ready 0)]

/-- A launch is removed without an instance: it takes a number, writes its graph status where it can, and sends LAUNCHFAIL
(R64). -/
def State.removeLaunch (s : State) (p code : Nat) (gstat : Dword) : State :=
  let (i, s) := s.takeNumber p
  let (v, s) := s.freeDword
  (s.writeStatus p 0xFFFF i gstat (statusWord code i (v.toNat % 2 ^ 32) false)).partEvent p evLaunchFail [i, code]

/-- LAUNCH_DEQUEUE (R64, R83): the head of the launch queue, unless a child instance waits (R385). -/
def State.dequeueLaunch (s : State) (p : Nat) : State :=
  let q := s.part p
  match q.launchQ with
  | [] => s
  | r :: rest =>
    let pop (s : State) : State := s.updPart p fun q => { q with launchQ := rest }
    if !q.children.isEmpty then s
    else if recVer r != 0x96 || 5 ≤ recKind r || recReserved r then (pop s).removeLaunch p cFormat 0
    else if recKind r != 4 then
      if q.maxNodes < q.liveNodes + 1 then s else (pop s).createSingle p r
    else match s.devGranule p (recObj r) with
      | (s, .error _) => (pop s).removeLaunch p cFormat 0
      | (s, .ok h) =>
        if hdrBad h then (pop s).removeLaunch p cFormat (hdrGstat h)
        else if q.maxNodes < hdrNnodes h then (pop s).removeLaunch p cResources (hdrGstat h)
        else if q.maxNodes < q.liveNodes + hdrNnodes h then s
        else (pop s).createGraph p h none

/-! ## Order of service (R67) -/

/-- Effective class (R67). -/
def effClass (prio wait : Nat) : Nat := prio - wait / 2 ^ 20

/-- Where a node stands in the ready order, or none where it is not served now: it backs off (R68), is held back for its
region (R70), waits for its translation (R341), or is not ready. A tiebreak comes first (R362). -/
def State.rank (s : State) (p i n : Nat) (nd : Node) : Option (List Nat) :=
  let q := s.part p
  let cls := effClass (recPrio nd.record) (s.now - nd.readyAt)
  if nd.backoff.isSome || q.escalated = some (i, n) then none
  else if nd.phase = .ready || nd.phase = .evicted then some [1, cls, nd.readyAt, i, n]
  else if nd.phase = .running && nd.tiebreak && nd.gangs.length = 2 && nd.ending.isNone then some [0, 0, nd.readyAt, i, n]
  else none

/-- Lexicographic order. -/
def lexLt : List Nat → List Nat → Bool
  | a :: as, b :: bs => a < b || (a = b && lexLt as bs)
  | [], _ :: _ => true
  | _, [] => false

/-- The nodes that are served now, with their ranks. -/
def State.served (s : State) (p : Nat) : List (List Nat × Nat × Nat) :=
  (s.part p).insts.flatMap fun e => match e.2 with
    | some x => if x.done then [] else x.nodes.filterMap fun m => (s.rank p e.1 m.1 m.2).map fun r => (r, e.1, m.1)
    | none => []

/-- The node that is served next (R67): instance and index. -/
def State.nextNode (s : State) (p : Nat) : Option (Nat × Nat) :=
  ((s.served p).foldl (fun b e => match b with
    | some f => if lexLt e.1 f.1 then some e else b
    | none => some e) none).map (·.2)

/-- The next node, if it is of kind `k`. -/
def State.nextOfKind (s : State) (p k : Nat) : Option (Nat × Nat) :=
  match s.nextNode p with
  | some (i, n) => if recKind (s.node p i n).record = k then some (i, n) else none
  | none => none

/-! ## EVENT and SUBGRAPH nodes (R56, R385) -/

/-- EVENT_NODE_START: an EVENT node writes its notification and is done (R56). -/
def State.startEvent (s : State) (p : Nat) : State :=
  match s.nextOfKind p 3 with
  | none => s
  | some (i, n) => (s.partEvent p evNodeEvent [n, i, (recObj (s.node p i n).record).toNat]).endNode p i n cDone

/-- SUBGRAPH_SERVE: the child's header is read; the child waits for admission, or its node fails (R385). -/
def State.serveSubgraph (s : State) (p : Nat) : State :=
  match s.nextOfKind p 2 with
  | none => s
  | some (i, n) =>
    match s.devGranule p (recObj (s.node p i n).record) with
    | (s, .error _) => s.endNode p i n cFormat
    | (s, .ok h) =>
      if hdrBad h then s.endNode p i n cFormat
      else if (s.part p).maxNodes < hdrNnodes h then s.endNode p i n cResources
      else (s.updNode p i n fun x => { x with phase := .engine, child := h }).updPart p fun q =>
        { q with children := q.children ++ [(i, n)] }

/-- SUBGRAPH_ADMIT: the child that waits longest is created once the node count allows it (R385). -/
def State.admitChild (s : State) (p : Nat) : State :=
  let q := s.part p
  match q.children with
  | [] => s
  | (i, n) :: rest =>
    let h := (s.node p i n).child
    if q.maxNodes < q.liveNodes + hdrNnodes h then s
    else (s.updPart p fun q => { q with children := rest }).createGraph p h (some (i, n))

/-! ## The rows -/

def execLaunchRecordStore (part off : Nat) (bytes : List Byte) (s : State) : Host.Outcome State Fault Refusal :=
  .next (s.launchStore part off bytes)
def execLaunchDequeue (part : Nat) (s : State) : Host.Outcome State Fault Refusal := .next (s.whole (·.dequeueLaunch part))
def execEventNodeStart (part : Nat) (s : State) : Host.Outcome State Fault Refusal := .next (s.whole (·.startEvent part))
def execSubgraphServe (part : Nat) (s : State) : Host.Outcome State Fault Refusal := .next (s.whole (·.serveSubgraph part))
def execSubgraphAdmit (part : Nat) (s : State) : Host.Outcome State Fault Refusal := .next (s.whole (·.admitChild part))

end Sys2Proof.Machine
end

