-- ==== Sys2Proof/Machine/Control.lean ====
section
/-! DEFINITION. The control units `ct` and `ac`: transfers and hardware loops (R169 to R171, R183), counted waits (R172),
fences (R173), tricks and barriers (R174, R175), trigger, launch and exit (R75, R176, R177), system registers (R178) and
trap return (R182). -/

namespace Sys2Proof.Machine

def taskOf (s : State) (c : Nat) : Task := (s.core c).task.getD {}

/-- A selecting operand is mucked (R154, R384 step 3). -/
def anyMuck (ts : List LTag) : Bool := ts.any isMuck

/-- `ct.a` or `ac.a`, and `ct.r` or `ac.r`. -/
def Trig.ctlA (x : Trig) : Nat := match x.half with
  | .x => 0x440
  | .a => 0x5C0
def Trig.ctlR (x : Trig) : Nat := match x.half with
  | .x => 0x4BD
  | .a => 0x5DD

/-- A stream of the trigger's core. -/
def Trig.stream (x : Trig) (s : State) : Stream := (s.ctx x.core).stream x.half

/-- The segment that a stream runs in: the handler's in a handler (R169). -/
def Ctx.segOf (k : Ctx) (h : Half) : CodeSeg := if k.priv then (k.stream h).hseg else (k.stream h).seg

def targetFault (v : Dword) : Trap := permissionFault rTarget v

/-- A target inside the segment, word-aligned (R169). -/
def CodeSeg.holds (g : CodeSeg) (v : Dword) : Bool := v.toNat % 4 = 0 && g.lo ≤ v.toNat && v.toNat < g.hi

def rsFull (e : RsEntry) : Trap := { cause := 13, reason := 1, val := e.word }
def rsEmpty : Trap := { cause := 13, reason := 2 }

/-- A taken transfer to offset `o`: the target issues no earlier than three cycles on (R169). -/
def Trig.goto (x : Trig) (s : State) (o : Nat) (stack : List RsEntry) : Fired :=
  .done (s.updCtx x.core fun k => k.updStream x.half fun m =>
    { (m.goOn o (s.now + coreCycles 3)) with stack := stack }) true

/-- An operation that R154 leaves undone: its result port receives 0 with tag 0xFFFF. -/
def Trig.undone (x : Trig) (s : State) (ports : List Nat) : Fired := .done (x.muckResult s ports) false

/-- Offset of the group after the one that contains the word at `o`: past the first word with S = 1 from there on. -/
def groupEnd (k : Core) : Nat → Nat → Nat
  | 0, o => o
  | n + 1, o => if (k.istore.get 0 (o / 4)).getLsbD 31 then o + 4 else groupEnd k n (o + 4)

/-- Words of the longest group (R135). -/
def maxGroup : Nat := 4

/-- Loop entries that a jump to `v` leaves (R171): those on top whose body, up to the end of the group that contains its last
word, does not hold the target. -/
def leaveLoops (k : Core) (v : Nat) : List RsEntry → List RsEntry
  | .loop b e c :: r =>
    if b.toNat ≤ v && v < groupEnd k maxGroup e.toNat then .loop b e c :: r else leaveLoops k v r
  | r => r

/-- `jmp` (R169, R171). -/
def jumpOp (x : Trig) (s : State) : Fired :=
  if isMuck x.t.t then .done s false
  else if !((s.ctx x.core).segOf x.half).holds x.t.v then .trap 4 (targetFault x.t.v)
  else x.goto s x.t.v.toNat (leaveLoops (s.core x.core) x.t.v.toNat (x.stream s).stack)

/-- `call` (R169, R170). -/
def callOp (x : Trig) (s : State) : Fired :=
  let e := RsEntry.call (BitVec.ofNat 17 x.next)
  let st := (x.stream s).stack
  if isMuck x.t.t then .done s false
  else if !((s.ctx x.core).segOf x.half).holds x.t.v then .trap 4 (targetFault x.t.v)
  else if 16 ≤ st.length then .trap 4 (rsFull e)
  else x.goto s x.t.v.toNat (e :: st)

/-- The topmost call entry and what lies beneath it. -/
def topCall : List RsEntry → Option (BitVec 17 × List RsEntry)
  | [] => none
  | .call r _ _ :: rest => some (r, rest)
  | .loop _ _ _ :: rest => topCall rest

/-- `ret` (R169, R170). -/
def retOp (x : Trig) (s : State) : Fired :=
  if isMuck x.t.t then .done s false
  else match topCall (x.stream s).stack with
    | none => .trap 4 rsEmpty
    | some (r, rest) => x.goto s r.toNat rest

/-- `loop` (R171): the body runs from the group that follows to the group that holds the word at `a`. DESIGN CHOICE (log entry 68): an
address inside a word names that word. -/
def loopOp (x : Trig) (s : State) : Fired :=
  let a := x.latch s x.ctlA
  let g := (s.ctx x.core).segOf x.half
  let st := (x.stream s).stack
  let stop := a.v.toNat / 4 * 4
  let n := dfield x.t.v 31 0
  let e := RsEntry.loop (BitVec.ofNat 17 x.next) (BitVec.ofNat 17 stop) (BitVec.ofNat 32 n)
  if anyMuck [x.t.t, a.t] then .done s false
  else if a.v.toNat < x.next || g.hi ≤ a.v.toNat then .trap 4 (targetFault a.v)
  else if 16 ≤ st.length then .trap 4 (rsFull e)
  else if n = 0 then x.goto s (groupEnd (s.core x.core) maxGroup stop) st
  else .done (s.updCtx x.core fun k => k.updStream x.half fun m =>
    { (m.goOn x.next (s.now + coreCycles 1)) with stack := e :: st }) true

/-- Operations that the matrix count takes: `mx.zero` and `mx.release` are none of them (R172, R224). -/
def MxOp.counted : MxOp → Bool
  | .zero _ _ => false
  | .release _ => false
  | .fill _ _ _ _ _ _ _ => true
  | .mma _ _ _ _ _ _ => true
  | .mmat _ _ _ _ _ _ _ _ _ _ => true
  | .drain _ _ _ _ _ _ _ _ => true

/-- The four counts of R172: loads, stores, copies, matrix operations. -/
def Ctx.counts (k : Ctx) (bsums : Nat) : Nat × Nat × Nat × Nat :=
  (k.loads.countP (!·.muck) + k.atoms.length, k.stores.length, k.copies.length + k.nosts.length, k.mxq.countP MxOp.counted + bsums)

/-- The counts of core `c`. -/
def State.counts (s : State) (c : Nat) : Nat × Nat × Nat × Nat := (s.ctx c).counts (s.bsums.countP (·.sender = c))

/-- `wait` (R172). -/
def waitOp (x : Trig) (s : State) : Fired :=
  let (l, st, cp, m) := s.counts x.core
  if isMuck x.t.t then .done s false
  else if l ≤ dfield x.t.v 3 0 && st ≤ dfield x.t.v 7 4 && cp ≤ dfield x.t.v 11 8 && m ≤ dfield x.t.v 15 12 then .done s false
  else .stall

/-- The value that a read of a system register gives: CYCLE is an input of the member from outside (R367). -/
def State.sysInput (s : State) (c n : Nat) : State × SVal :=
  match s.sysRead c n with
  | (s, v) => if n = 0x07 then s.inputIn c v [] else (s, { v := v })

/-- `ct.rsr`, `ct.rsrs` and `ac.rsr` (R178). -/
def readSysOp (priv : Bool) (x : Trig) (s : State) : Fired :=
  let n := dfield x.t.v 11 0
  if !priv && sysRefused n false then .trap 1 (privilegeTrap n)
  else if isMuck x.t.t then x.undone s [x.ctlR]
  else if s.sysStalls x.core n false then .stall
  else
    let (s, v) := s.sysInput x.core n
    .done (s.updCtx x.core (·.send { due := s.now + coreCycles 1, sw := [(x.ctlR, v)] })) false

/-- `ct.wsr` and `ct.wsrs` (R178). -/
def writeSysOp (priv : Bool) (x : Trig) (s : State) : Fired :=
  let n := dfield x.t.v 11 0
  let a := x.latch s 0x440
  if !priv && sysRefused n true then .trap 1 (privilegeTrap n)
  else if anyMuck [x.t.t, a.t] then .done s false
  else if s.sysStalls x.core n true then .stall
  else match s.sysWrite x.core n a with
    | (s, none) => .done s false
    | (_, some t) => .trap (if t.cause = 7 then 4 else 7) t

/-- A privileged port (R150, R384 step 1): a handler may use it, and so may a segment registered at supervisor or firmware
privilege. -/
def Trig.needPriv (x : Trig) (s : State) (n : Nat) (f : Fired) : Fired :=
  if (s.ctx x.core).priv || ((s.ctx x.core).segOf x.half).priv != 0 then f else .trap 1 (privilegeTrap n)

/-! ## The triggers of ct -/

def fireCtJmp : Trig → State → Fired := jumpOp
def fireCtCall : Trig → State → Fired := callOp
def fireCtRet : Trig → State → Fired := retOp
def fireCtLoop : Trig → State → Fired := loopOp
def fireCtWait : Trig → State → Fired := waitOp

/-- A release fence of core `c`: its later stores come after every access that has issued (R115, R123). -/
def State.releaseFence (s : State) (c : Nat) : State :=
  let live (f : Nat) : Bool := (s.reqs ++ s.unpaired ++ s.gone).any fun r => r.names.any fun n => n.1 = c && n.2 < f
  let (id, s) := s.newId
  s.updCtx c fun k => { k with fences := (k.fences ++ [id]).filter live }

/-- `ct.fence` (R115, R173): kind 0 performs nothing, nor does a fence whose scope holds no other observer. An acquire holds its group
until every earlier load is performed, a full fence until everything earlier is. A release orders later stores after everything
earlier, and holds no later load back; it waits until store data pushed before it have met their addresses. -/
def fireCtFence (x : Trig) (s : State) : Fired :=
  let a := x.latch s 0x440
  if anyMuck [x.t.t, a.t] then .done s false
  else if dfield a.v 1 0 = 0 then .done s false
  else match s.scopeOf x.core (taskOf s x.core) x.t.v with
    | none => .trap 5 (scopeFault x.t.v)
    | some sc =>
      if !s.scopesMeet x.core sc sc then .done s false
      else if dfield a.v 1 0 = 1 then (if s.performed x.core then .done s false else .stall)
      else if dfield a.v 1 0 = 2 then (if s.paired x.core then .done (s.releaseFence x.core) false else .stall)
      else if s.drained x.core then .done s false else .stall

/-- A barrier is refused to a handler while its member's arrival is outstanding: until its release (R174). -/
def Ctx.barrierBusy (k : Ctx) : Bool := k.arrived.isSome

/-- `ct.trick` (R174). DESIGN CHOICE (log entry 68): TRAPVAL of the refusal BARRIER is the value of T. -/
def fireCtTrick (x : Trig) (s : State) : Fired :=
  if isMuck x.t.t then .done s false
  else if (s.ctx x.core).barrierBusy then .trap 4 (refused 15 x.t.v)
  else if !s.arrivable x.core then .stall
  else .done (s.arrive x.core (taskOf s x.core) none false) false

/-- `ct.bar` (R175). -/
def fireCtBar (x : Trig) (s : State) : Fired :=
  let t := taskOf s x.core
  if isMuck x.t.t then .done s false
  else if (s.ctx x.core).barrierBusy then .trap 4 (refused 15 x.t.v)
  else match s.barRect x.core t x.t.v with
    | none => .trap 5 (scopeFault x.t.v)
    | some r =>
      if !s.drained x.core then .stall
      else match r with
        | none => .done s false
        | some r => .done (s.arrive x.core t (some r) false) false

/-- A member counts as triggered; when every member has, the successors are released, once (R75). -/
def State.countTrigger (s : State) (c : Nat) (t : Task) : State :=
  if (s.ctx c).triggered then s
  else
    let s := (s.updCtx c fun k => { k with triggered := true }).updNode t.part t.inst t.node fun n =>
      { n with trigCount := n.trigCount + 1 }
    let nd := s.node t.part t.inst t.node
    if nd.triggered || nd.code.isSome || nd.trigCount < nd.memberCount then s
    else
      let s := s.updNode t.part t.inst t.node fun n => { n with triggered := true }
      let (s, js) := s.release t.part t.inst t.node true
      s.settle t.part jobFuel js

/-- `ct.trigger` (R75). -/
def fireCtTrigger (x : Trig) (s : State) : Fired :=
  if isMuck x.t.t then .done s false
  else if !s.drained x.core then .stall
  else .done ((s.updCore x.core fun k => { k with irrev := true }).countTrigger x.core (taskOf s x.core)) false

/-- The pieces of a read of core `c`, access `id`, in turn, with the join of their tags; the first failure ends it. -/
def State.readParts (s : State) (c id : Nat) : List (Loc × Nat × Dword × Nat) → State × Except Trap (List Byte × LTag)
  | [] => (s, .ok ([], []))
  | (l, len, a, key) :: ps =>
    let r := (s.placeTurn c l).readLoc c key l len a
    match r.1.overlay c id l r.2 with
    | (s, { bytes := b, tag := t, fail := none }) =>
      match readParts s c id ps with
      | (s, .ok (bs, ts)) => (s, .ok (b ++ bs, joinTags [t, ts]))
      | (s, .error e) => (s, .error e)
    | (s, { bytes := _, tag := _, fail := some e }) => (s, .error e)

/-- A trap of a trigger, unless an access of it has to wait (R125). -/
def Fired.fault (s : State) (n : Nat) (t : Trap) : Fired := if s.wait then .stall else .trap n t

/-- Step of R384 at which a trap of an access is taken: address checks before what arises while it is performed. -/
def accessRank (t : Trap) : Nat := if t.cause = 6 then 7 else 6

/-- `ct.launch` (R176). -/
def fireCtLaunch (x : Trig) (s : State) : Fired :=
  let t := taskOf s x.core
  let reply (s : State) (r : Nat) : Fired := .done (x.result s 1 [(0x4BD, BitVec.ofNat 64 r)] [x.t.t]) false
  if isMuck x.t.t then x.undone s [0x4BD]
  else if !s.drained x.core then .stall
  else if x.t.v.toNat % 64 != 0 then reply s 2
  else match s.place x.core t .read x.t.v 64 with
    | (s, .error e) => .fault s 6 e
    | (s, .ok ps) =>
      match s.readParts x.core s.nextId ps with
      | (s, .error e) => .fault s (accessRank e) e
      | (s, .ok (bs, _)) =>
        let (s, ok) := s.enqueueLaunch t.part (BitVec.ofNat 512 (ofBytes bs))
        reply (s.updCore x.core fun k => { k with irrev := true }) (if ok then 0 else 1)

/-- `ct.exit` (R177): neither stream issues again (R66). -/
def fireCtExit (x : Trig) (s : State) : Fired :=
  if isMuck x.t.t then .done s false
  else .done (s.updCtx x.core fun k => { k with
    xs := { k.xs with exited := true }, as_ := { k.as_ with exited := true } }) false

def fireCtRsr : Trig → State → Fired := readSysOp false
def fireCtWsr : Trig → State → Fired := writeSysOp false
def fireCtRsrs (x : Trig) (s : State) : Fired := x.needPriv s (dfield x.t.v 11 0) (readSysOp true x s)
def fireCtWsrs (x : Trig) (s : State) : Fired := x.needPriv s (dfield x.t.v 11 0) (writeSysOp true x s)

/-- `ct.eret` (R182). The followers of a follow-mode row return with their leader, at the same group (R28, `State.member`). -/
def fireCtEret (x : Trig) (s : State) : Fired :=
  x.needPriv s 0 (if isMuck x.t.t then .done s false
    else .done (s.updCore x.core (·.leaveTrap s.now)) true)

/-! ## The triggers of ac (R183) -/

def fireAcJmp : Trig → State → Fired := jumpOp
def fireAcCall : Trig → State → Fired := callOp
def fireAcRet : Trig → State → Fired := retOp
def fireAcLoop : Trig → State → Fired := loopOp
def fireAcWait : Trig → State → Fired := waitOp
def fireAcRsr : Trig → State → Fired := readSysOp false

/-! ## What each trigger reads -/

/-- Ports that are program-counter ports, which a follower does not perform (R26). -/
def isPcPort (p : Nat) : Bool := (0x448 ≤ p && p ≤ 0x44B) || p = 0x456 || (0x5C8 ≤ p && p ≤ 0x5CB)

/-- A transfer of control, whose operands' tags go into CTLAB (R154). -/
def isTransfer (p : Nat) : Bool := isPcPort p

/-- The latches that a `ct` or `ac` trigger reads. -/
def controlLatches (p : Nat) : List Nat :=
  if p = 0x44B || p = 0x44D || p = 0x455 || p = 0x458 then [0x440]
  else if p = 0x5CB then [0x5C0]
  else []

end Sys2Proof.Machine
end

