-- ==== Sys2Proof/Machine/Access.lean ====
section
/-! DEFINITION. Loads, stores and streams (R185 to R190), atomics (R102, R191, R192), and how their requests are issued
(R94, R105, R107). -/

namespace Sys2Proof.Machine

/-! ## Parts of an access -/

/-- A part of an access: place, length, address, key index. -/
abbrev APart := Loc × Nat × Dword × Nat

/-- Parts that lie one after the other in one scratchpad are one (R98: an access is checked and counted whole). -/
def mergeParts (ps : List APart) : List APart :=
  ps.foldr (fun p acc => match p.1, acc with
    | .spad k o, (.spad k' o', n', _) :: r =>
      if k = k' && o + p.2.1 = o' then (.spad k o, p.2.1 + n', p.2.2) :: r else p :: acc
    | _, _ => p :: acc) []

/-- The place is the core's own scratchpad. -/
def ownSpad (c : Nat) : Loc → Bool
  | .spad k _ => k = c
  | .mem _ => false

/-- The first refusal that the core's own scratchpad gives to parts of an access (R384 step 6). -/
def State.ownRefusal (s : State) (c : Nat) (write : Bool) (ps : List APart) : Option Trap :=
  ps.findSome? fun p => match p.1 with
    | .spad k o => if k = c then (s.core c).spadRefusal (s.core c).banks o p.2.1 write p.2.2.1 else none
    | .mem _ => none

/-- An access of `len` bytes at `a`, checked as its group checks it: its parts, or the trap. -/
def State.checkAccess (s : State) (c : Nat) (t : Task) (kind : AccessKind) (a : Dword) (len : Nat) :
    State × Except Trap (List APart) :=
  match s.place c t kind a len with
  | (s, .error e) => (s, .error e)
  | (s, .ok ps) =>
    let ps := mergeParts ps
    let s := if ps.any (ownSpad c ·.1) then s.turnFor c 1 else s
    match s.ownRefusal c (kind = .write) ps with
    | some e => (s, .error e)
    | none => (s, .ok ps)

/-! ## Loads (R186) -/

/-- Entry of a load: 64 bits up to SZ 3, sign-extended under SX; else 512 bits (R186). -/
def loadEntry (size : Nat) (signed : Bool) (bs : List Byte) (t : LTag) (poison : Option Trap) (since : Nat) : QEntry :=
  if size ≤ 8 then
    let x := ofBytes bs
    { v := (if signed then BitVec.ofInt 64 (toSigned (8 * size) x) else BitVec.ofNat 64 x).setWidth 512,
      t := t, poison := poison, since := since }
  else { wide := true, v := BitVec.ofNat 512 (ofBytes bs), t := t, poison := poison, since := since }

/-- A piece of load `id` of core `c` has been served. -/
def Ctx.setPiece (k : Ctx) (id i : Nat) (p : Piece) : Ctx :=
  { k with loads := k.loads.map fun l => if l.id = id then { l with pieces := l.pieces.set i (some p) } else l }

/-- The parts of a load: those in the core's own scratchpad are read at once, the others become requests (R94). -/
def State.issueLoad (s : State) (c : Nat) (t : Task) (id : Nat) (strong : Option Scope) : List APart → Nat → State
  | [], _ => s
  | (l, n, a, key) :: ps, i =>
    let s := if ownSpad c l then
        let (s, p) := s.readLoc c key l n a
        s.updCtx c (·.setPiece id i p)
      else { s with reqs := s.reqs ++ [{ core := c, id := id, kind := .load i, loc := l, len := n, addr := a,
                                         strong := strong, key := key, part := t.part, began := s.now }] }
    issueLoad s c t id strong ps (i + 1)

/-- A load request is pushed (R186). -/
def State.pushLoad (s : State) (c : Nat) (t : Task) (q size : Nat) (signed : Bool) (a : Dword) (atag : LTag)
    (strong : Option Scope) (ps : List APart) (strm : Bool := false) : State :=
  let (id, s) := s.newId
  let l : Load := { q := q, id := id, size := size, signed := signed, atag := atag, pieces := ps.map fun _ => none, addr := a
                    strm := strm, began := s.now }
  (s.updCtx c fun k => { k with loads := k.loads ++ [l] }).issueLoad c t id strong ps 0

/-- A load that is not performed: an entry of 0 with tag 0xFFFF, in its place in the queue's order (R190). -/
def State.pushMucked (s : State) (c q size : Nat) : State :=
  let (id, s) := s.newId
  let l : Load := { q := q, id := id, size := size, atag := [mucked], muck := true,
                    pieces := [some { bytes := List.replicate size 0 }], began := s.now }
  s.updCtx c fun k => { k with loads := k.loads ++ [l] }

/-- An element that faults is pushed as a poisoned entry (R188). -/
def State.pushPoison (s : State) (c q size : Nat) (t : Trap) : State :=
  let (id, s) := s.newId
  let l : Load := { q := q, id := id, size := size, pieces := [some { fail := some t }], began := s.now }
  s.updCtx c fun k => { k with loads := k.loads ++ [l] }

/-! ## Stores (R187) -/

/-- Capacity of a member's write log in granules (R357). -/
def logDepth : Nat := 16384

/-- A write is entered in the log of a protected member, and is performed at the release (R358). One to paged memory
leaves the partner of a duplex task (R360, R361). -/
def State.logWrite (s : State) (c : Nat) (t : Task) (h : Held) : State :=
  if logDepth ≤ ((s.part t.part).held.countP fun x => x.core = c && !x.loc.isSpadOf c) then s.kill t 3
  else
    let n := (s.part t.part).held.countP fun x => x.core = c && !x.loc.isSpadOf c
    let s := s.updPart t.part fun p => { p with held := p.held ++ [h] }
    let s := s.rawWrite (s.snapAt t.part c + saveAreaBytes + 64 * n) (bytesOf 64 (Config.logGranule h.addr h.bytes (toTag h.tag)).toNat) 0
    match h.loc with
    | .mem _ => s.sendItem c t 0 h.addr h.bytes h.tag none (some h.id)
    | .spad _ _ => s

/-- A store of a core is outstanding (R172). -/
def State.addStore (s : State) (c id : Nat) : State :=
  s.updCtx c fun k => { k with stores := if k.stores.contains id then k.stores else k.stores ++ [id] }

/-- The parts of a store of `bs`. Those in the core's own scratchpad are written at once; those of a protected member
go to its log; the others become requests. DESIGN CHOICE (log entry 67): a strong store of a protected member waits in the log like
any other. -/
def State.issueStore (s : State) (c : Nat) (t : Task) (id : Nat) (ea : Dword) (strong : Option Scope) (tag : LTag) :
    List APart → List Byte → State × Option Trap
  | [], _ => (s, none)
  | (l, n, a, key) :: ps, bs =>
    let b := bs.take n
    if ownSpad c l then
      match s.writeLoc c key l b tag a with
      | (s, some e) => (s, some e)
      | (s, none) => issueStore s c t id ea strong tag ps (bs.drop n)
    else if t.isProtected then
      issueStore ((s.logWrite c t { core := c, loc := l, addr := ea, bytes := b, tag := tag, id := id, key := key }).addStore c id)
        c t id ea strong tag ps (bs.drop n)
    else
      let (s, v) := s.stamp c l
      let r : Req := { core := c, id := id, kind := .store b tag, loc := l, len := n, addr := ea, strong := strong,
                       vec := v, key := key, part := t.part, began := s.now }
      let s := { s with reqs := s.reqs ++ [r] }
      issueStore (s.addStore c id) c t id ea strong tag ps (bs.drop n)

/-- A store issues (R187); a refusal by the label table at the core's own scratchpad is the trap (R266). -/
def State.performStore (s : State) (c : Nat) (t : Task) (ea : Dword) (bs : List Byte) (tag : LTag)
    (strong : Option Scope) (ps : List APart) : State × Option Trap :=
  let (id, s) := s.newId
  s.issueStore c t id ea strong tag ps bs

/-- The low `n` bytes of a queue entry, with zeros above bit 63 of a 64-bit entry (R187). -/
def entryBytes (e : QEntry) (n : Nat) : List Byte := bytesOf n (if e.wide then e.v.toNat else e.v.toNat % 2 ^ 64)

/-! ## ag.q (R185) and what the triggers read -/

def qNum (q : Dword) : Nat := dfield q 1 0
def qSize (q : Dword) : Nat := 2 ^ dfield q 6 4
def qSigned (q : Dword) : Bool := dfield q 7 7 = 1
def qBad (q : Dword) : Bool := dfield q 6 4 = 7 || dfield q 3 2 != 0 || dfield q 63 8 != 0

/-- An unfinished stream names this queue (R188). -/
def Ctx.streaming (k : Ctx) (write : Bool) (q : Nat) : Bool := k.streams.any fun r => r.write = write && r.q = q

/-- lq `q` has room for one more request and no unfinished stream (R16, R188). -/
def Ctx.loadRoom (k : Ctx) (now q : Nat) : Bool :=
  (k.queue (qLq q)).room 16 now (k.owed q) 1 && !k.streaming false q

/-- The head of sq `q`, if it can be paired (R16, R188). -/
def Ctx.storeHead (k : Ctx) (now q : Nat) : Option QEntry :=
  if k.streaming true q then none
  else ((k.queue (qSq q)).seen now).bind fun e => if unresolved e.t then none else some e

def Ctx.popSq (k : Ctx) (now q : Nat) : Ctx := k.setQueue (qSq q) ((k.queue (qSq q)).pop 16 now)

/-- The operands of an `ag` access. -/
structure AgIn where
  q    : SVal
  a    : SVal
  b    : SVal
  c    : SVal
  ea   : Dword
  atag : LTag

def Trig.ag (x : Trig) (s : State) : AgIn :=
  let a := x.latch s 0x500
  { q := x.latch s 0x503, a := a, b := x.latch s 0x501, c := x.latch s 0x502,
    ea := a.v + x.t.v, atag := joinTags [a.t, x.t.t] }

/-- The scope of a strong access: its fault, or the scope (R110, R112). -/
def Trig.strongScope (x : Trig) (s : State) (strong : Bool) (c : SVal) : Except Trap (Option Scope) :=
  if !strong then .ok none
  else match s.scopeOf x.core (taskOf s x.core) c.v with
    | some sc => .ok (some sc)
    | none => .error (scopeFault c.v)

/-- Access `e` of core `c` is kept before an access of its that issues now, with scope `sc` if it is strong (R110, R113, R115, R123). -/
def State.keepsNow (s : State) (c : Nat) (sc : Option Scope) (write : Bool) (e : Req) : Bool :=
  e.names.any fun n => n.1 = c && (s.threads c || (sc.any fun a => e.strong.any (s.scopesMeet c a))
    || (write && (s.ctx c).fences.any (n.2 < ·)))

/-- An access reaches the core's own scratchpad, where it is performed at once: it waits for what is kept before it and has still to be
performed: strong accesses before a strong one, and everything before it while an engine thread of the core runs (R110, R113, R123). -/
def State.strongHeld (s : State) (c : Nat) (sc : Option Scope) (ps : List APart) : Bool :=
  ps.any (ownSpad c ·.1) && (s.reqs ++ s.unpaired).any (s.keepsNow c sc false)

/-- An access that is kept before it has ended with the stack-unavailable fault, which the core has not taken: it is not performed, and
takes that fault too (R125). -/
def State.goneBefore (s : State) (c : Nat) (sc : Option Scope) (write : Bool) (ps : List APart) : Bool :=
  ps.any (ownSpad c ·.1) && s.gone.any (s.keepsNow c sc write)

/-- A store reaches the core's own scratchpad: it waits for what a release fence keeps before it (R115, R123). -/
def State.fenceHeld (s : State) (c : Nat) (ps : List APart) : Bool :=
  ps.any (ownSpad c ·.1) && (s.ctx c).fences.any fun f =>
    (s.reqs ++ s.unpaired).any fun e => e.names.any fun n => n.1 = c && n.2 < f

/-! ## Load and store triggers -/

/-- `ag.ld` and `ag.lds` (R186, R190). -/
def agLoad (strong : Bool) (x : Trig) (s : State) : Fired :=
  let i := x.ag s
  let t := taskOf s x.core
  let k := s.ctx x.core
  let q := qNum i.q.v
  if anyMuck ([i.atag, i.q.t] ++ if strong then [i.c.t] else []) then
    if isMuck i.q.t && qBad i.q.v then .done s false
    else if !k.loadRoom s.now q then .stall
    else .done (s.pushMucked x.core q (qSize i.q.v)) false
  else if qBad i.q.v then .trap 4 (refused 1 i.q.v)
  else match x.strongScope s strong i.c with
    | .error e => .trap 5 e
    | .ok sc => match s.checkAccess x.core t .read i.ea (qSize i.q.v) with
      | (s, .error e) => .fault s 6 e
      | (s, .ok ps) =>
        if s.goneBefore x.core sc false ps then .trap 6 (stackTrap i.ea)
        else if !k.loadRoom s.now q || s.strongHeld x.core sc ps then .stall
        else .done (s.pushLoad x.core t q (qSize i.q.v) (qSigned i.q.v) i.ea i.atag sc ps) false

/-- `ag.st` and `ag.sts` (from an sq entry), `ag.std` and `ag.stds` (from `ag.b`) (R187, R190). -/
def agStore (fromQ strong : Bool) (x : Trig) (s : State) : Fired :=
  let i := x.ag s
  let t := taskOf s x.core
  let q := qNum i.q.v
  let head : Option QEntry := if fromQ then (s.ctx x.core).storeHead s.now q
    else some { v := i.b.v.setWidth 512, t := i.b.t }
  let pop (s : State) : State := if fromQ then s.updCtx x.core (·.popSq s.now q) else s
  if anyMuck ([i.atag, i.q.t] ++ if strong then [i.c.t] else []) then
    if isMuck i.q.t && qBad i.q.v then .done s false
    else if head.isNone then .stall else .done (pop s) false
  else if qBad i.q.v then .trap 4 (refused 1 i.q.v)
  else match x.strongScope s strong i.c with
    | .error e => .trap 5 e
    | .ok sc => match s.checkAccess x.core t .write i.ea (qSize i.q.v) with
      | (s, .error e) => .fault s 6 e
      | (s, .ok ps) => match head with
        | none => .stall
        | some e =>
          if s.goneBefore x.core sc true ps then .trap 6 (stackTrap i.ea)
          else if s.strongHeld x.core sc ps || s.fenceHeld x.core ps then .stall
          else match s.performStore x.core t i.ea (entryBytes e (qSize i.q.v)) (joinTags [e.t, i.atag]) sc ps with
          | (s, some e) => .fault s 7 e
          | (s, none) => .done (pop s) false

def fireAgLd : Trig → State → Fired := agLoad false
def fireAgLds : Trig → State → Fired := agLoad true
def fireAgSt : Trig → State → Fired := agStore true false
def fireAgSts : Trig → State → Fired := agStore true true
def fireAgStd : Trig → State → Fired := agStore false false
def fireAgStds : Trig → State → Fired := agStore false true

/-! ## Streams (R188) -/

/-- `ag.strm` and `ag.strw`: the stream is captured; its elements issue one after another. -/
def agStream (write : Bool) (x : Trig) (s : State) : Fired :=
  let i := x.ag s
  let q := qNum i.q.v
  let tag := joinTags [i.a.t, i.b.t, x.t.t]
  let muck := anyMuck [tag, i.q.t]
  if isMuck i.q.t && qBad i.q.v then .done s false
  else if !muck && qBad i.q.v then .trap 4 (refused 1 i.q.v)
  else if (s.ctx x.core).streaming write q then .stall
  else if dfield x.t.v 31 0 = 0 then .done s false
  else .done (s.updCtx x.core fun k => { k with streams := k.streams ++ [{
    write := write, q := q, size := qSize i.q.v, signed := qSigned i.q.v, base := i.a.v, stride := i.b.v,
    left := dfield x.t.v 31 0, atag := tag, muck := muck }] }) false

def fireAgStrm : Trig → State → Fired := agStream false
def fireAgStrw : Trig → State → Fired := agStream true

/-- `ag.pf` has no architectural effect (R189). -/
def fireAgPf (_ : Trig) (s : State) : Fired := .done s false

/-- Stream `i` of core `c` after one more element, whose access is `id`; its last element removes it. -/
def Ctx.stepStream (k : Ctx) (i id : Nat) : Ctx :=
  match k.streams[i]? with
  | none => k
  | some r =>
    if r.left ≤ 1 then { k with streams := k.streams.eraseIdx i }
    else
      let r' := { r with left := r.left - 1, base := r.base + r.stride, ids := r.ids ++ [id] }
      { k with streams := k.streams.set i r' }

/-- A refusal of access `id` ends the stream that it is an element of (R188). -/
def Ctx.endStream (k : Ctx) (id : Nat) : Ctx := { k with streams := k.streams.filter fun r => !r.ids.contains id }

/-- STREAM_ELEMENT_ISSUE: the next element of stream `i` issues, once its queue has room or data (R188). A fault names the
element's address, whichever of its granules it concerns. -/
def State.streamElement (s : State) (c i : Nat) : State :=
  let k := s.ctx c
  match (s.core c).task, k.streams[i]? with
  | some t, some r =>
    let now := s.clock c
    let step (s' : State) : State := s'.updCtx c (·.stepStream i s.nextId)
    let stop (s : State) : State := s.updCtx c fun k => { k with streams := k.streams.eraseIdx i }
    let at_ (f : Trap) : Trap := if f.cause = 9 || f.cause = 10 then f else { f with val := r.base }
    if k.raised.isSome || (s.core c).halted || (s.core c).leaving then s
    else if r.write then
      match (k.queue (qSq r.q)).seen now with
      | none => s
      | some e =>
        if unresolved e.t then s
        else
          let pop (s : State) : State := s.updCtx c (·.popSq now r.q)
          if r.muck then step (pop s)
          else match s.checkAccess c t .write r.base r.size with
            | (s, .error f) => stop (pop (s.updCtx c (·.faultA (at_ f))))
            | (s, .ok ps) =>
              if s.goneBefore c none true ps then stop (pop (s.updCtx c (·.faultA (stackTrap r.base))))
              else if s.strongHeld c none ps || s.fenceHeld c ps then { s with wait := true }
              else match s.performStore c t r.base (entryBytes e r.size) (joinTags [e.t, r.atag]) none ps with
              | (s, some f) => stop (pop (s.updCtx c (·.faultA (at_ f))))
              | (s, none) => step (pop s)
    else if !(k.queue (qLq r.q)).room 16 now (k.owed r.q) 1 then s
    else if r.muck then step (s.pushMucked c r.q r.size)
    else match s.checkAccess c t .read r.base r.size with
      | (s, .error f) => stop (s.pushPoison c r.q r.size (at_ f))
      | (s, .ok ps) =>
        if s.goneBefore c none false ps then stop (s.pushPoison c r.q r.size (stackTrap r.base))
        else if s.strongHeld c none ps then { s with wait := true }
        else step (s.pushLoad c t r.q r.size r.signed r.base r.atag none ps true)
  | _, _ => s

/-! ## Atomics (R102, R191, R192) -/

/-- Type codes of `at.c` (R191, Table 14). -/
def tI32 : Nat := 0
def tI64 : Nat := 1
def tU32 : Nat := 2
def tU64 : Nat := 3
def tFp32 : Nat := 4

/-- Operand width in bytes. -/
def atWidth (ty : Nat) : Nat := if ty = tI64 || ty = tU64 then 8 else 4

/-- The types that a trigger takes (R192). -/
def atTypes : AtOp → List Nat
  | .add => [tI32, tI64]
  | .fadd => [tFp32]
  | .min => [tI32, tI64, tU32, tU64, tFp32]
  | .max => [tI32, tI64, tU32, tU64, tFp32]
  | .amax => [tI32, tFp32]
  | .amaxr => [tU32, tFp32]
  | _ => [tI32, tU32, tI64, tU64]

/-- A reserved bit of `at.c` is set. -/
def atReserved (c : Dword) : Bool := dfield c 7 5 != 0 || dfield c 15 12 != 0 || dfield c 63 48 != 0

/-- The scope operand within `at.c` (R191). -/
def atScope (c : Dword) : Dword := BitVec.ofNat 64 (dfield c 47 8)

/-- FP32 minimum or maximum with the NaN rules of Table 9: a NaN loses to a number, two give the canonical NaN, and −0
is below +0. -/
def atFloat (greater : Bool) (m v : Nat) : Nat :=
  match isNaN32 m, isNaN32 v with
  | true, true => nan32
  | true, false => v
  | false, true => m
  | false, false => if (key32 m < key32 v) = greater then v else m
where
  nan32 : Nat := 0x7FC00000
  isNaN32 (x : Nat) : Bool := field x 30 23 = 255 && field x 22 0 != 0
  /-- Order of finite and infinite values, −0 below +0. -/
  key32 (x : Nat) : Int := if x / 2 ^ 31 % 2 = 1 then -(x % 2 ^ 31 : Nat) - 1 else (x % 2 ^ 31 : Nat)

/-- The new value of Table 9 (R102). -/
def atNew (op : AtOp) (ty m v cmp : Nat) : Nat :=
  let w := 8 * atWidth ty
  let signed := ty = tI32 || ty = tI64
  let r (x : Nat) : Int := readInt signed w x
  let v := v % 2 ^ w
  match op with
  | .add => (m + v) % 2 ^ w
  | .fadd => (fadd fp32 .rne false (fdecode fp32 false m) (fdecode fp32 false v)).1
  | .min => if ty = tFp32 then atFloat false m v else if r v < r m then v else m
  | .max => if ty = tFp32 then atFloat true m v else if r m < r v then v else m
  | .amax =>
    if ty = tFp32 then atFloat true m (v % 2 ^ 31)
    else max m (toSigned 32 v).natAbs
  | .amaxr => 0
  | .and => m &&& v
  | .or => m ||| v
  | .xor => m ^^^ v
  | .xchg => v
  | .cas => if m = cmp % 2 ^ w then v else m

/-- The old value as `at.r` gives it (R192). -/
def atOld (ty m : Nat) : Dword := if ty = tI32 then BitVec.ofInt 64 (toSigned 32 m) else BitVec.ofNat 64 m

/-- Position of an operation among those of Table 9. -/
def AtOp.code : AtOp → Nat
  | .add => 0 | .fadd => 1 | .min => 2 | .max => 3 | .amax => 4 | .amaxr => 5 | .and => 6 | .or => 7 | .xor => 8 | .xchg => 9 | .cas => 10

/-- A refusal of an atomic: what Table 3 checks is ATOMIC, whichever row it is (R91, R192). -/
def atomicFault (t : Trap) (a : Dword) : Trap :=
  if t.cause = 1 && t.reason.toNat != rSpace || t.cause = 2 then permissionFault rAtomic a else t

/-- An `at` trigger (R192); `at.amaxr` ignores T, and the tag of T with it. -/
def atOp (op : AtOp) (x : Trig) (s : State) : Fired :=
  let t := taskOf s x.core
  let a := x.latch s 0x5E0
  let b := x.latch s 0x5E1
  let c := x.latch s 0x5E2
  let ty := dfield c.v 3 0
  let tt : LTag := if op = .amaxr then [] else x.t.t
  if anyMuck [a.t, c.t] then x.undone s [0x5FD]
  else if atReserved c.v || !(atTypes op).contains ty then .trap 4 (permissionFault rAtomic a.v)
  else match s.scopeOf x.core t (atScope c.v) with
    | none => .trap 5 (scopeFault (atScope c.v))
    | some sc => match s.locate x.core t .atomic a.v with
      | (s, .error e) => .fault s 6 (atomicFault e a.v)
      | (s, .ok (l, key)) =>
        if a.v.toNat % atWidth ty != 0 then .fault s 6 (permissionFault rAtomic a.v)
        else
          let (id, s) := s.newId
          let (s, v) := if t.duplex && t.partner != 0 then (s, none) else s.stamp x.core l
          let r : Req := { core := x.core, id := id, loc := l, vec := v, len := atWidth ty, addr := a.v, key := key, part := t.part, began := s.now
                           kind := .atomic op ty x.t.v tt b.v a.t
                           strong := if dfield c.v 4 4 = 1 then some sc else none }
          let s := if t.duplex then s.sendItem x.core t 2 a.v (bytesOf 8 x.t.v.toNat ++ bytesOf 8 b.v.toNat ++ bytesOf 1 op.code ++ bytesOf 1 ty)
                (joinTags [tt, a.t]) (some r) none
            else { s with reqs := s.reqs ++ [r] }
          .done (s.updCtx x.core fun k => { k.await [0x5FD] id with atoms := k.atoms ++ [id] }) false

def fireAtAdd : Trig → State → Fired := atOp .add
def fireAtFadd : Trig → State → Fired := atOp .fadd
def fireAtMin : Trig → State → Fired := atOp .min
def fireAtMax : Trig → State → Fired := atOp .max
def fireAtAmax : Trig → State → Fired := atOp .amax
def fireAtAmaxr : Trig → State → Fired := atOp .amaxr
def fireAtAnd : Trig → State → Fired := atOp .and
def fireAtOr : Trig → State → Fired := atOp .or
def fireAtXor : Trig → State → Fired := atOp .xor
def fireAtXchg : Trig → State → Fired := atOp .xchg
def fireAtCas : Trig → State → Fired := atOp .cas

/-- The latches that an `ag` or `at` trigger reads. -/
def accessLatches (p : Nat) : List Nat :=
  match p with
  | 0x508 | 0x50A => [0x500, 0x503]
  | 0x509 | 0x50B => [0x500, 0x502, 0x503]
  | 0x50C => [0x500, 0x501, 0x503]
  | 0x50D => [0x500, 0x501, 0x502, 0x503]
  | 0x50E | 0x50F => [0x500, 0x501, 0x503]
  | 0x510 => [0x500]
  | 0x5F2 => [0x5E0, 0x5E1, 0x5E2]
  | _ => [0x5E0, 0x5E2]

end Sys2Proof.Machine
end

