-- ==== Sys2Proof/Machine/Matrix.lean ====
section
/-! DEFINITION. The matrix unit (R224 to R239): slots, fills, multiply-accumulate, teams, drains and block sums. -/

namespace Sys2Proof.Machine

/-! ## Slots and the order of R225 -/

def Ctx.acc (k : Ctx) (i : Nat) : Acc := k.accs.get {} i
def Ctx.setAcc (k : Ctx) (i : Nat) (v : Acc) : Ctx := { k with accs := k.accs.set {} i v }
def Ctx.pushMx (k : Ctx) (o : MxOp) : Ctx := { k with mxq := k.mxq ++ [o] }

/-- The operation names the slot. -/
def MxOp.names (i : Nat) : MxOp → Bool
  | .fill j _ _ _ _ _ _ => i = j
  | .mma a b _ _ _ _ => i = a || i = b
  | .mmat a b _ _ _ _ _ _ _ _ => i = a || i = b
  | .drain _ _ _ _ _ _ _ _ => false
  | .zero _ _ => false
  | .release j => i = j

/-- The task owns the slot, once every earlier operation has been performed. -/
def Core.owns (k : Core) (i : Nat) : Bool := (k.slot i).owner = .task && !k.ctx.mxq.contains (.release i)

/-- The slot's role, once every earlier operation has been performed. -/
def Core.roleOf (k : Core) (i : Nat) : Bool :=
  k.ctx.mxq.foldl (fun r o => match o with
    | .fill j b _ _ _ _ _ => if i = j then b else r
    | _ => r) (k.slot i).roleB

/-- Slots that the task owns. -/
def Core.ownedSlots (k : Core) : Nat := (List.range 16).countP k.owns

/-- A slot held by an evicted context is saved to its area (R79). -/
def Core.saveSlot (k : Core) (i : Nat) : Core :=
  match (k.slot i).owner with
  | .held a => { k with areas := k.areas.map fun e => if e.1 = a then
      (e.1, e.2.map fun v => { v with slotSaved := v.slotSaved ||| BitVec.ofNat 16 (2 ^ i),
                                      oslots := v.oslots.set {} i (k.slot i) }) else e }
  | _ => k

/-- The slot is claimed: zero residues, role A, tags 0, s = 0 (R228). -/
def Core.claim (k : Core) (i : Nat) : Core := (k.saveSlot i).setSlot i { owner := .task }

/-- The first slot whose owner passes. -/
def Core.firstSlot (k : Core) (p : SlotOwner → Bool) : Option Nat := (List.range 16).find? fun i => p (k.slot i).owner

def SlotOwner.isHeld : SlotOwner → Bool
  | .held _ => true
  | _ => false

/-! ## What every trigger checks -/

/-- The operands of `mx`: a, b, c. -/
def Trig.mxA (x : Trig) (s : State) : SVal := x.latch s 0x300
def Trig.mxB (x : Trig) (s : State) : SVal := x.latch s 0x301
def Trig.mxC (x : Trig) (s : State) : SVal := x.latch s 0x302

/-- R154 for the matrix unit (R226): with T, a, b or c mucked the operation is not performed. -/
def Trig.mxGate (x : Trig) (s : State) (ports : List Nat) (f : Fired) : Fired :=
  if anyMuck [x.t.t, (x.mxA s).t, (x.mxB s).t, (x.mxC s).t] then x.undone s ports else f

/-- The latches that an `mx` trigger reads (R226). -/
def matrixLatches (_ : Nat) : List Nat := [0x300, 0x301, 0x302]

/-- The own-scratchpad address of an offset (R86). -/
def spadAddr (off : Nat) : Dword := BitVec.ofNat 64 (2 ^ 48 + off)

/-- The refusal of ranges of the core's own scratchpad that count as one access (R225, R384 step 6). -/
def Core.rangesRefusal (k : Core) (write : Bool) (rs : List (Nat × Nat)) : Option Trap :=
  match rs.find? fun r => inSaveArea r.1 r.2 with
  | some r => some (permissionFault rSave (spadAddr r.1))
  | none => match rs.find? fun r => k.rangeBarred k.banks r.1 r.2 with
    | some r => some (permissionFault (if write then rWrite else rRead) (spadAddr r.1))
    | none => (rs.find? fun r => !k.ctx.bufOk r.1 r.2 write).map fun r => bufferFault (spadAddr r.1)

/-- Bytes of the ranges that lie in a buffer. -/
def Buf.touchedAll (b : Buf) (rs : List (Nat × Nat)) : Nat := (rs.map fun r => b.touched r.1 r.2).foldl (· + ·) 0

/-- The ranges counted as one access in every buffer they touch (R97). -/
def Ctx.countRanges (k : Ctx) (write : Bool) (rs : List (Nat × Nat)) : Ctx :=
  { k with bufs := k.bufs.map fun e =>
      (e.1, if e.2.touchedAll rs = 0 then e.2 else e.2.count write (e.2.touchedAll rs)) }

/-- Granules of a range. -/
def granulesOf (off len : Nat) : List Nat := (List.range ((off + len + 63) / 64 - off / 64)).map (off / 64 + ·)

/-- The join of the tags of a range's granules. -/
def Core.rangeTag (k : Core) (off len : Nat) : LTag := joinTags ((granulesOf off len).map fun g => tagOf (k.stags.get 0 g))

/-- A granule of the ranges is uncorrectable (R100). -/
def Core.rangesBad (k : Core) (rs : List (Nat × Nat)) : Option Trap :=
  (rs.find? fun r => (granulesOf r.1 r.2).any fun g => k.sbad.get false g).map fun r => integrityFault (spadAddr r.1)

/-! ## Tiles -/

/-- One tile row of a source: elements with the exponent of their block, and flags (R55, R231). DESIGN CHOICE (log entry 49):
a block is decoded whole, so that an illegal container past KN raises ILC too. -/
def decodeRow (fmt : Nat) (bs : List Byte) (exps : List Nat) : List (Int × Nat) × FlagBits :=
  let rs : List (List (Int × Nat) × FlagBits) := (pieces (fmtUnit fmt) bs).zipIdx.map fun (p, i) =>
    let e := exps.getD i 0
    let x := ofBytes p
    if fmt = fmtT5 then ((t5Decode x).map (·, 0), flagIf (t5Illegal x) fILT)
    else if fmt = fmtI4 then ((i4Decode x).map (·, 0), 0)
    else if fmt = fmtBfp8 then (p.map fun b => (b.toInt, e), 0)
    else if fmt = fmtBfp12 then
      let ms := (pieces 2 p).map fun b => bfp12Decode (ofBytes b)
      (ms.map fun m => (m.1, e), flagIf (ms.any (·.2)) fILC)
    else match fmtInt fmt with
      | some (sg, w) => ([(readInt sg w x, 0)], 0)
      | none => ([], 0)
  (rs.flatMap (·.1), rs.foldl (fun a r => a ||| r.2) 0)

/-- The tile of rows of elements, aligned to the largest exponent (R55, R228). -/
def tileOf (roleB : Bool) (bfp : Bool) (rows : List (List (Int × Nat) × LTag)) (ctl : LTag) : OpSlot × FlagBits :=
  let w := if roleB then 64 else 32
  let e := (rows.flatMap fun r => r.1.map (·.2)).foldl max 0
  let al (m : Int × Nat) : Int × Bool := if bfp then rneShift m.1 (e - m.2) else (m.1, false)
  let rs := rows.map fun r => r.1.map al
  ({ owner := .task, roleB := roleB, sexp := if bfp then (e : Int) - 127 else 0
     el := NMap.ofFn {} 0 2048 fun i => match (rs.getD (i / w) [])[i % w]? with
       | some v => Re36.ofInt v.1
       | none => {}
     tags := NMap.ofFn [] 0 (if roleB then 32 else 64) fun i => joinTags [((rows[i]?).map (·.2)).getD [], ctl] },
    flagIf (rs.any fun r => r.any (·.2)) fNX)

/-- The first illegal T5 code among rows of bytes, with its offset (R231). -/
def firstIllegal (fmt : Nat) (rows : List (List Byte × List Nat × Nat × LTag)) : Option (Nat × Nat) :=
  if fmt != fmtT5 then none
  else rows.findSome? fun (bs, _, off, _) =>
    (bs.zipIdx.find? fun (b, _) => t5Illegal b.toNat).map fun (b, i) => (b.toNat, off + i)

/-! ## Accumulation (R232) -/

def Re36.mul (x y : Re36) : Re36 := Re36.mac {} x y

/-- The accumulator brought to scale exponent `p` or below, and the factor exponent d. -/
def Acc.align (a : Acc) (p : Int) : Acc × Nat :=
  match a.ae with
  | none => ({ a with ae := some p }, 0)
  | some e =>
    if p < e then
      let f := Re36.ofInt ((2 ^ (e - p).toNat : Nat) : Int)
      ({ a with el := NMap.ofFn {} 0 4096 fun i => (a.el.get {} i).mul f, ae := some p }, 0)
    else (a, (p - e).toNat)

/-- Accumulator zeroed (R227). -/
def zeroAcc (ctl : LTag) : Acc := { tags := NMap.ofFn [] 0 64 fun _ => ctl }

/-- K steps k to k + n − 1 of A · B, scaled by 2^d, are added. -/
def Acc.steps (acc : Acc) (a b : OpSlot) (d k n : Nat) : Acc :=
  let f := Re36.ofInt ((2 ^ d : Nat) : Int)
  { acc with el := NMap.ofFn {} 0 4096 fun i =>
      (List.range n).foldl (fun q j =>
        q.mac (a.el.get {} (32 * (i / 64) + (k + j))) ((b.el.get {} (64 * (k + j) + i % 64)).mul f)) (acc.el.get {} i) }

/-- Row tags after an accumulation. -/
def Acc.joinRows (acc : Acc) (a b : OpSlot) (ctl : LTag) : Acc :=
  let bt := joinTags ((List.range 32).map fun i => b.tags.get [] i)
  { acc with tags := NMap.ofFn [] 0 64 fun r => joinTags [acc.tags.get [] r, a.tags.get [] r, bt, ctl] }

/-- Steps `k` to `k + n - 1` of a multiply-accumulate, with what comes before the first step. -/
def Acc.multiply (acc : Acc) (a b : OpSlot) (zf : Bool) (k n : Nat) (ctl : LTag) : Acc :=
  let acc := if zf && k = 0 then zeroAcc ctl else acc
  let (acc, d) := acc.align (a.sexp + b.sexp)
  (acc.steps a b d k n).joinRows a b ctl

/-- A tag of the rows is still to be resolved (R383). -/
def rowsPending (m : NMap LTag) : Bool := m.any fun e => unresolved e.2

/-- Reads of these slots and this accumulator wait (R383). -/
def mmaPending (a b : OpSlot) (acc : Acc) : Bool := rowsPending a.tags || rowsPending b.tags || rowsPending acc.tags

/-! ## Drains (R236) -/

/-- Bytes of a row. -/
def drainRow (form : Nat) : Nat := if form = 0 then 256 else 512

/-- One element as written, and whether it was clamped. -/
def drainElem (form : Nat) (q : Re36) : List Byte × Bool :=
  match form with
  | 0 =>
    let (v, c) := satTo true 32 q.crt
    (bytesOf 4 (wrap 32 v), c)
  | 1 => (bytesOf 8 (wrap 64 q.crt), false)
  | _ => (bytesOf 8 q.pack, false)

/-- Row r as written, and the elements clamped in it. -/
def Acc.drainRow (a : Acc) (form r : Nat) : List Byte × Nat :=
  let es := (List.range 64).map fun c => drainElem form (a.el.get {} (64 * r + c))
  (es.flatMap (·.1), es.countP (·.2))

/-- Whole granules of core `c`'s scratchpad written, with tag `t`. -/
def Core.writeGranules (k : Core) (off : Nat) (bs : List Byte) (t : Tag) : Core :=
  (granulesOf off bs.length).foldl (fun k g => { k with stags := k.stags.set 0 g t, sbad := k.sbad.set false g false })
    (k.spadWrite off bs)

/-- The rows of an accumulator are written in turn; none where a row's tag finds no entry. -/
def State.drainRows (s : State) (c : Nat) (a : Acc) (form off stride : Nat) (ctl : LTag) :
    List Nat → State × Option Trap
  | [] => (s, none)
  | r :: rs =>
    match s.joinFor c (joinTags [a.tags.get [] r, ctl]) with
    | (s, some t, _) => (s, some t)
    | (s, none, u) =>
      drainRows (s.updCore c fun k => k.writeGranules (off + r * stride) (a.drainRow form r).1 u) c a form off stride ctl rs

/-- Operations that write accumulator `i`. -/
def MxOp.writesAcc (i : Nat) : MxOp → Bool
  | .mma _ _ acc _ _ _ => acc = i
  | .mmat _ _ acc _ _ _ _ _ _ _ => acc = i
  | .drain acc _ za _ _ _ _ _ => acc = i && za
  | .zero acc _ => acc = i
  | .release _ => false
  | .fill _ _ _ _ _ _ _ => false

/-- The tags that a drain's granules take, each row's joined with CTLAB, are formed at its group, which takes the trap where one finds no
entry (R236, R266). -/
def State.drainTags (s : State) (c acc : Nat) (ctl : LTag) : List Nat → State × Option Trap
  | [] => (s, none)
  | r :: rs => match s.joinFor c (joinTags [((s.ctx c).acc acc).tags.get [] r, ctl]) with
    | (s, some t, _) => (s, some t)
    | (s, none, _) => drainTags s c acc ctl rs

/-- A drain of accumulator `acc` with CTLAB `ctl` at its group: none where the group waits for what the rows' tags will be. With CTLAB 0
nothing is joined. DEDUCED (log entry 31): only an earlier operation on the accumulator makes the group wait. -/
def State.drainReady (s : State) (c acc : Nat) (ctl : LTag) : Option (State × Option Trap) :=
  if ctl = [] then some (s, none)
  else if (s.ctx c).mxq.any (·.writesAcc acc) || rowsPending ((s.ctx c).acc acc).tags then none
  else some (s.drainTags c acc ctl (List.range 64))

/-! ## Performing the operation at the head -/

/-- An engine's trap, taken at the X stream's next group boundary. -/
def Ctx.engineTrap (k : Ctx) (t : Trap) : Ctx := { k with xs := { k.xs with trap := k.xs.trap.orElse fun _ => some t } }

/-- A fill is performed (R231). -/
def State.doFill (s : State) (c slot : Nat) (roleB : Bool) (kn fmt : Nat)
    (rows : List (List Byte × List Nat × Nat × LTag)) (trapIll : Bool) (ctl : LTag) : State :=
  match (if trapIll then firstIllegal fmt rows else none) with
  | some (code, off) => s.updCtx c (·.engineTrap { cause := 12, val := BitVec.ofNat 64 (code + off * 2 ^ 20) })
  | none =>
    let ds := rows.map fun (bs, es, _, t) => (decodeRow fmt bs es, t)
    let nel := if roleB then 64 else kn
    let (tile, nx) := tileOf roleB (fmtIsBfp fmt) (ds.map fun d => (d.1.1.take nel, d.2)) ctl
    (s.updCore c (·.setSlot slot tile)).updCtx c (·.setFlags (ds.foldl (fun a d => a ||| d.1.2) nx))

/-- A drain is performed; none where a tag finds no entry, and then nothing is (R236). -/
def State.doDrain (s : State) (c acc form : Nat) (za : Bool) (off stride token : Nat) (ctl rtag : LTag) : State × Bool :=
  let a := (s.ctx c).acc acc
  match s.drainRows c a form off stride ctl (List.range 64) with
  | (_, some t) => (s.updCtx c (·.engineTrap t), false)
  | (s, none) =>
    let n := ((List.range 64).map fun r => (a.drainRow form r).2).foldl (· + ·) 0
    let s := s.updCtx c fun k =>
      (if za then k.setAcc acc (zeroAcc ctl) else k).setFlags (flagIf (n != 0) fSAT)
    (s.updCore c (·.reply token [(0x37D, { v := BitVec.ofInt 64 (a.ae.getD 0), t := rtag }),
                                 (0x37F, { v := BitVec.ofNat 64 n, t := rtag })]), true)

/-- An operation is performed as far as its last step; false where it has to wait. -/
def State.mxPerform (s : State) (c : Nat) (o : MxOp) : State × Bool :=
  let k := s.core c
  match o with
  | .fill slot rb kn fmt rows ti ctl => if k.ctx.xs.trap.isSome then (s, false) else (s.doFill c slot rb kn fmt rows ti ctl, true)
  | .mma a b acc zf n ctl =>
    if mmaPending (k.slot a) (k.slot b) (k.ctx.acc acc) then (s, false)
    else (s.updCtx c fun x => x.setAcc acc ((x.acc acc).multiply (k.slot a) (k.slot b) zf n (32 - n) ctl), true)
  | .mmat _ _ acc zf _ _ _ tiles n ctl =>
    match tiles with
    | some (a, b) =>
      if mmaPending a b (k.ctx.acc acc) then (s, false)
      else (s.updCtx c fun x => x.setAcc acc ((x.acc acc).multiply a b zf n (32 - n) ctl), true)
    | none => (s, false)
  | .drain acc form za off stride tok ctl rt =>
    if k.ctx.xs.trap.isSome || rowsPending (k.ctx.acc acc).tags then (s, false)
    else s.doDrain c acc form za off stride tok ctl rt
  | .zero acc ctl => (s.updCtx c (·.setAcc acc (zeroAcc ctl)), true)
  | .release i => (s.updCore c (·.setSlot i {}), true)

/-- Operations that take no time, at the head, are performed with the one before them. -/
def State.mxFlush (c : Nat) : Nat → State → State
  | 0, s => s
  | n + 1, s =>
    match (s.ctx c).mxq with
    | .zero a t :: q => mxFlush c n (((s.mxPerform c (.zero a t)).1).updCtx c fun k => { k with mxq := q })
    | .release i :: q => mxFlush c n (((s.mxPerform c (.release i)).1).updCtx c fun k => { k with mxq := q })
    | _ => s

/-- The operation at the head completes. -/
def State.mxComplete (s : State) (c : Nat) : State :=
  match (s.ctx c).mxq with
  | o :: q =>
    match s.mxPerform c o with
    | (s, true) => State.mxFlush c (q.length + 1) (s.updCtx c fun k => { k with mxq := q })
    | (s, false) => s
  | [] => s

/-- The same multiply-accumulate, stopped after `k` steps. -/
def MxOp.at (k : Nat) : MxOp → MxOp
  | .mma a b acc zf _ ctl => .mma a b acc zf k ctl
  | .mmat a b acc zf tm st sent t _ ctl => .mmat a b acc zf tm st sent t k ctl
  | o => o

/-- The tiles of a multiply-accumulate that has begun, or can, with what else its steps need. -/
def MxOp.running (k : Core) : MxOp → Option (OpSlot × OpSlot × Nat × Bool × Nat × LTag)
  | .mma a b acc zf n ctl =>
    if mmaPending (k.slot a) (k.slot b) (k.ctx.acc acc) then none else some (k.slot a, k.slot b, acc, zf, n, ctl)
  | .mmat _ _ acc zf _ _ _ (some (a, b)) n ctl =>
    if mmaPending a b (k.ctx.acc acc) then none else some (a, b, acc, zf, n, ctl)
  | _ => none

/-- Trap entry or eviction stops the unit (R78, R180 step 4, R233): fills and drains at the head run to completion, and
a multiply-accumulate stops at the end of one of its drain groups of 8 K steps, a free choice (log entry 2). -/
def State.mxStop (c : Nat) : Nat → State → State
  | 0, s => s
  | n + 1, s =>
    match (s.ctx c).mxq with
    | [] => s
    | o :: q =>
      match o with
      | .mma _ _ _ _ _ _ | .mmat _ _ _ _ _ _ _ _ _ _ =>
        match o.running (s.core c) with
        | none => s
        | some (a, b, acc, zf, done, ctl) =>
          let (x, s) := s.choose
          let m := min 32 (done + 8 * (x % 5))
          let s := if m = done then s
            else s.updCtx c fun k => k.setAcc acc ((k.acc acc).multiply a b zf done (m - done) ctl)
          if m = 32 then mxStop c n (s.updCtx c fun k => { k with mxq := q })
          else s.updCtx c fun k => { k with mxq := o.at m :: q }
      | _ =>
        match s.mxPerform c o with
        | (s, true) => mxStop c n (s.updCtx c fun k => { k with mxq := q })
        | (s, false) => s

/-! ## The triggers -/

def Trig.mxRefuse (x : Trig) (reason : Nat) : Fired := .trap 4 (refused reason x.t.v)

/-- Results of `mx`: `.r` and `.f`, one cycle on. -/
def Trig.mxResult (x : Trig) (s : State) (ws : List (Nat × Nat)) : Fired :=
  .done (x.result s 1 (ws.map fun w => (w.1, BitVec.ofNat 64 w.2)) [x.t.t]) false

/-- `mx.claim` (R229). It waits for a release that is still to take effect. -/
def fireMxClaim (x : Trig) (s : State) : Fired :=
  let k := s.core x.core
  let i := dfield x.t.v 3 0
  x.mxGate s [0x37D, 0x37F] (
    if dfield x.t.v 63 5 != 0 then x.mxRefuse 3
    else if k.ctx.mxq.any fun o => match o with
      | .release _ => true
      | _ => false then .stall
    else
      let got (i : Nat) : Fired := x.mxResult ((s.updCore x.core (·.claim i)).putAreas x.core) [(0x37D, i), (0x37F, 0)]
      if (taskOf s x.core).nslot ≤ k.ownedSlots then x.mxResult s [(0x37D, 16), (0x37F, 3)]
      else if dfield x.t.v 4 4 = 0 then
        if k.owns i then x.mxResult s [(0x37D, i), (0x37F, 2)] else got i
      else match k.firstSlot (· = .free), k.firstSlot SlotOwner.isHeld with
        | some i, _ => got i
        | none, some i => got i
        | none, none => x.mxResult s [(0x37D, 16), (0x37F, 1)])

/-- `mx.release` (R230). -/
def fireMxRelease (x : Trig) (s : State) : Fired :=
  let k := s.core x.core
  let i := dfield x.t.v 3 0
  x.mxGate s [0x37F] (
    if dfield x.t.v 63 4 != 0 then x.mxRefuse 3
    else if !k.owns i then x.mxResult s [(0x37F, 1)]
    else if k.ctx.mxq.any (MxOp.names i) then x.mxResult (s.updCtx x.core (·.pushMx (.release i))) [(0x37F, 0)]
    else x.mxResult (s.updCore x.core (·.setSlot i {})) [(0x37F, 0)])

/-- Alignment of the rows of a source (Table 3). -/
def fillAlign (fmt : Nat) : Nat := if fmtIsBfp fmt then fmtUnit fmt else 1

/-- The fill formats (R55). -/
def fillFormat (fmt : Nat) : Bool := [1, 2, fmtT5, fmtI4, fmtBfp8, fmtBfp12].contains fmt

/-- `mx.fill` (R231): the source is checked and read at the group. -/
def fireMxFill (x : Trig) (s : State) : Fired :=
  let k := s.core x.core
  let slot := dfield x.t.v 3 0
  let roleB := dfield x.t.v 4 4 = 1
  let kn := if dfield x.t.v 10 5 = 0 then 32 else dfield x.t.v 10 5
  let a := (x.mxA s).v.toNat
  let b := (x.mxB s).v.toInt
  let lo := a / 0x8000 * 0x8000
  let reg := k.bfmtOf (a / 0x8000)
  let fmt := bfmtFmt reg
  let nel := if roleB then 64 else kn
  let nb := (nel + fmtElems fmt - 1) / fmtElems fmt * fmtUnit fmt
  let offs := (List.range (if roleB then kn else 64)).map fun (i : Nat) => (a : Int) + i * b
  let exp (off : Nat) : List Nat :=
    if fmtIsBfp fmt then
      (List.range (nb / fmtUnit fmt)).map fun j => bfmtExpBase reg + (off - lo) / fmtUnit fmt + j
    else []
  x.mxGate s [] (
    if !k.owns slot then x.mxRefuse 4
    else if 32 < kn || dfield x.t.v 63 11 != 0 then x.mxRefuse 3
    else if spadSize ≤ a then x.mxRefuse 7
    else if !fillFormat fmt then x.mxRefuse 6
    else if a % fillAlign fmt != 0 || b % (fillAlign fmt : Int) != 0
        || offs.any (fun o => o < lo || (lo + 0x8000 : Int) < o + nb) then x.mxRefuse 7
    else
      let offs := offs.map Int.toNat
      let rs := offs.map (·, nb) ++ (offs.flatMap exp).map (·, 1)
      let s := s.turnFor x.core 2
      match k.rangesRefusal false rs, k.rangesBad rs with
      | some t, _ => .fault s 6 t
      | none, some t => .fault s 7 t
      | none, none =>
        if !s.drained x.core then .stall
        else
        let rows := offs.map fun o =>
          (k.spadRead o nb, (exp o).map (fun e => (k.spad.get 0 e).toNat), o,
            joinTags (k.rangeTag o nb :: (exp o).map fun e => k.rangeTag e 1))
        .done (s.updCtx x.core fun c =>
          (c.countRanges false rs).pushMx (.fill slot roleB kn fmt rows x.trapIll x.ctl)) false)

/-- Fields of Table 5: ASLOT, BSLOT, ACC, ZF. -/
def mmaFields (v : Dword) : Nat × Nat × Nat × Bool := (dfield v 3 0, dfield v 7 4, dfield v 9 8, dfield v 10 10 = 1)

/-- `mx.mma` (R232). -/
def fireMxMma (x : Trig) (s : State) : Fired :=
  let k := s.core x.core
  let (a, b, acc, zf) := mmaFields x.t.v
  x.mxGate s [] (
    if dfield x.t.v 63 11 != 0 then x.mxRefuse 3
    else if !k.owns a || k.roleOf a || !k.owns b || !k.roleOf b then x.mxRefuse 4
    else .done (s.updCtx x.core (·.pushMx (.mma a b acc zf 0 x.ctl))) false)

/-- Fields of a team control: X0, Y0, W, H (Table 6). -/
def teamFields (v : BitVec 19) : Nat × Nat × Nat × Nat :=
  (field v.toNat 5 0, field v.toNat 11 6, field v.toNat 16 12, field v.toNat 18 17)

/-- The issuing member sends its own A tile along the row, and its own B tile along the column. -/
def sendsA (t : Task) (team : BitVec 19) : Bool := t.gx = (teamFields team).1
def sendsB (t : Task) (team : BitVec 19) : Bool := t.gy = (teamFields team).2.1

/-- `mx.mmat` (R235). -/
def fireMxMmat (x : Trig) (s : State) : Fired :=
  let k := s.core x.core
  let t := taskOf s x.core
  let (a, b, acc, zf) := mmaFields x.t.v
  let team := k.ctx.team
  x.mxGate s [] (
    if dfield x.t.v 63 11 != 0 then x.mxRefuse 3
    else if team = 0 then x.mxRefuse 5
    else if (sendsA t team && (!k.owns a || k.roleOf a)) || (sendsB t team && (!k.owns b || !k.roleOf b)) then x.mxRefuse 4
    else .done (s.updCtx x.core fun c =>
      { (c.pushMx (.mmat a b acc zf team c.tstep false none 0 x.ctl)) with tstep := c.tstep + 1 }) false)

/-- `mx.drain` (R236). -/
def fireMxDrain (x : Trig) (s : State) : Fired :=
  let k := s.core x.core
  let a := (x.mxA s).v.toNat
  let b := (x.mxB s).v.toNat
  let form := dfield x.t.v 3 2
  let n := drainRow form
  let rs := (List.range 64).map fun r => (a + r * b, n)
  x.mxGate s [0x37D, 0x37F] (
    if form = 3 || dfield x.t.v 63 5 != 0 then x.mxRefuse 3
    else if a % 64 != 0 || b % 64 != 0 || b < n || spadSize ≤ a || (a + 63 * b + n - 1) / 0x8000 != a / 0x8000 then x.mxRefuse 7
    else
      let s := s.turnFor x.core 2
      match k.rangesRefusal true rs with
      | some t => .fault s 6 t
      | none =>
        if !s.drained x.core then .stall
        else match s.drainReady x.core (dfield x.t.v 1 0) x.ctl with
        | none => .stall
        | some (_, some t) => .trap 7 t
        | some (s, none) =>
        let (id, s) := s.newId
        .done (s.updCtx x.core fun c =>
          ((c.countRanges true rs).await [0x37D, 0x37F] id).pushMx
            (.drain (dfield x.t.v 1 0) form (dfield x.t.v 4 4 = 1) a b id x.ctl (joinTags [x.t.t, x.ctl]))) false)

/-- The reduction target that an address names: core and offset (R237). -/
def bsumTarget (c : Nat) (t : Task) (n : Nat) (a : Dword) : Except (Option Trap) (Nat × Nat) :=
  match decodeAddr c t a with
  | some (some (.spad m off)) =>
    if off % 64 != 0 || off / 0x8000 != (off + 63 + 16 * n) / 0x8000 then .error none else .ok (m, off)
  | some _ => .error none
  | none => if dfield a 63 48 = 2 then .error (some (translationFault rSpace a)) else .error none

/-- `mx.bsum` (R237). The sums are read at the group. -/
def fireMxBsum (x : Trig) (s : State) : Fired :=
  let k := s.core x.core
  let t := taskOf s x.core
  let n := dfield x.t.v 11 0 + 1
  let a := (x.mxA s).v.toNat
  let c := (x.mxC s).v
  let rs := [(a, 8 * n)]
  x.mxGate s [] (
    if dfield x.t.v 63 12 != 0 then x.mxRefuse 3
    else if a % 8 != 0 || spadSize ≤ a || (a + 8 * n - 1) / 0x8000 != a / 0x8000 then x.mxRefuse 7
    else match bsumTarget x.core t n (x.mxB s).v with
      | .error none => x.mxRefuse 7
      | .error (some e) => .trap 6 e
      | .ok (m, off) =>
        let s := s.turnFor x.core 2
        match k.rangesRefusal false rs, k.rangesBad rs with
        | some e, _ => .fault s 6 e
        | none, some e => .fault s 7 e
        | none, none =>
          if !s.drained x.core then .stall
          else
          let (id, s) := s.newId
          let (s, v) := s.stamp x.core (.spad m off)
          let set : BsumSet := {
            id := id, vec := v, sender := x.core, index := t.index, target := m, off := off, exp := c.setWidth 32
            cnt := c.extractLsb' 32 32
            sums := (List.range n).map fun i =>
              (BitVec.ofNat 64 (ofBytes (k.spadRead (a + 8 * i) 8)), k.rangeTag (a + 8 * i) 8) }
          let s := s.updCtx x.core (·.countRanges false rs)
          .done { s with bsums := s.bsums ++ [set] } false)

/-- `mx.zero` (R238). -/
def fireMxZero (x : Trig) (s : State) : Fired :=
  x.mxGate s [] (
    if dfield x.t.v 63 3 != 0 then x.mxRefuse 3
    else
      let as_ := if dfield x.t.v 2 2 = 1 then List.range 4 else [dfield x.t.v 1 0]
      .done (s.updCtx x.core fun c => as_.foldl (fun c i =>
        if c.mxq.isEmpty then c.setAcc i (zeroAcc x.ctl) else c.pushMx (.zero i x.ctl)) c) false)

/-- The team shape is one of R24, inside the gang and one die, and holds the issuer (R234). -/
def teamOk (t : Task) (v : BitVec 19) : Bool :=
  let (x0, y0, w, h) := teamFields v
  let lo := t.member x0 y0
  let hi := t.member (x0 + w - 1) (y0 + h - 1)
  [1, 2, 4, 8, 16].contains w && [1, 2].contains h && x0 + w ≤ t.gw && y0 + h ≤ t.gh && dieOf lo = dieOf hi
    && x0 ≤ t.gx && t.gx < x0 + w && y0 ≤ t.gy && t.gy < y0 + h

/-- `mx.team` (R234). Every `mx.mmat` carries its team and step from its issue, so earlier operations keep theirs. -/
def fireMxTeam (x : Trig) (s : State) : Fired :=
  let v := x.t.v.setWidth 19
  x.mxGate s [] (
    if dfield x.t.v 63 19 != 0 then x.mxRefuse 3
    else if v != 0 && !teamOk (taskOf s x.core) v then x.mxRefuse 5
    else .done (s.updCtx x.core fun c => { c with team := v, tstep := 0 }) false)

/-- `mx.prog` (R239): what a handler sees of the operation and of the weight-driven mode that its trap interrupted. -/
def fireMxProg (x : Trig) (s : State) : Fired :=
  let k := s.core x.core
  let q := if k.ctx.priv then k.image.mxq else []
  let w := if k.ctx.priv then k.image.wd else none
  let out (v : Dword) : Fired :=
    .done (s.updCtx x.core (·.send { due := s.now + coreCycles 1, sw := [(0x37D, { v := v })] })) false
  x.mxGate s [0x37D] (
    if x.t.v = 0 then out (match heldMma q with
      | some (n, acc, kind) => pack [(0, n), (6, 1), (8, acc), (10, kind)]
      | none => 0)
    else if x.t.v = 1 then out (match w with
      | some d => pack [(0, d.block % 2 ^ 48)]
      | none => 0)
    else if x.t.v = 2 then out (match w with
      | some d => pack [(0, d.restart), (32, 1), (33, d.bstk.length)]
      | none => 0)
    else x.mxRefuse 3)

/-! ## The unit's own steps -/

/-- The head is an operation of the kind that passes. -/
def State.mxHead (s : State) (c : Nat) (p : MxOp → Bool) : Bool :=
  match (s.ctx c).mxq with
  | o :: _ => p o
  | [] => false

/-- MX_FILL_COMPLETE: the fill at the head completes (R231). -/
def execMxFillComplete (c : Nat) (s : State) : Host.Outcome State Fault Refusal :=
  if s.mxHead c fun o => match o with
    | .fill _ _ _ _ _ _ _ => true
    | _ => false then .next (s.mxComplete c)
  else .next s

/-- MX_MMA_COMPLETE: the multiply-accumulate at the head has added its 32 K steps (R232, R235). -/
def execMxMmaComplete (c : Nat) (s : State) : Host.Outcome State Fault Refusal :=
  if s.mxHead c fun o => match o with
    | .mma _ _ _ _ _ _ => true
    | .mmat _ _ _ _ _ _ _ _ _ _ => true
    | _ => false then .next (s.mxComplete c)
  else .next s

/-- MX_DRAIN_COMPLETE: the drain at the head has written every byte (R236). -/
def execMxDrainComplete (c : Nat) (s : State) : Host.Outcome State Fault Refusal :=
  if s.mxHead c fun o => match o with
    | .drain _ _ _ _ _ _ _ _ => true
    | _ => false then .next (s.whole fun s => (s.turnFor c 2).mxComplete c)
  else .next s

/-- The tiles that the member sends for its step: A along its row, B along its column (R235). -/
def ownTiles (k : Core) (t : Task) (team : BitVec 19) (step a b : Nat) : List Tile :=
  let (x0, y0, w, h) := teamFields team
  (if sendsA t team then [{ team := team, step := step, roleB := false, tile := k.slot a
                            left := (List.range w).map fun i => t.member (x0 + i) t.gy }] else [])
    ++ if sendsB t team then [{ team := team, step := step, roleB := true, tile := k.slot b
                                left := (List.range h).map fun i => t.member t.gx (y0 + i) }] else []

/-- The oldest tile of a step that core `m` has still to take. -/
def Tile.isFor (m : Nat) (team : BitVec 19) (step : Nat) (roleB : Bool) (e : Tile) : Bool :=
  e.team = team && e.step = step && e.roleB = roleB && e.left.contains m

/-- Core `m` takes its tile: the first that passes loses it as a receiver, and goes once nobody is left. -/
def takeTile (m : Nat) (p : Tile → Bool) : List Tile → List Tile
  | [] => []
  | e :: es =>
    if p e then
      let e := { e with left := e.left.filter (· != m) }
      if e.left.isEmpty then es else e :: es
    else e :: takeTile m p es

/-- MMAT_STEP_START: the team step at the head sends the member's own tiles, and starts once both operands of the
step have reached the member (R235). -/
def execMmatStepStart (c : Nat) (s : State) : Host.Outcome State Fault Refusal :=
  let k := s.core c
  match k.task, k.ctx.mxq with
  | some t, .mmat a b acc zf team step sent none n ctl :: q =>
    if !sent && ((sendsA t team && rowsPending (k.slot a).tags) || (sendsB t team && rowsPending (k.slot b).tags)) then .next s
    else
      let s := if sent then s
        else s.updCtx c fun x => { x with
          tiles := x.tiles ++ ownTiles k t team step a b
          mxq := .mmat a b acc zf team step true none n ctl :: q }
      let (x0, y0, _, _) := teamFields team
      let ca := t.member x0 t.gy
      let cb := t.member t.gx y0
      let pa := Tile.isFor c team step false
      let pb := Tile.isFor c team step true
      match (s.ctx ca).tiles.find? pa, (s.ctx cb).tiles.find? pb with
      | some ta, some tb =>
        let s := s.updCtx ca fun x => { x with tiles := takeTile c pa x.tiles }
        let s := s.updCtx cb fun x => { x with tiles := takeTile c pb x.tiles }
        .next (s.updCtx c fun x => { x with
          mxq := .mmat a b acc zf team step true (some (ta.tile, tb.tile)) n ctl :: q })
      | _, _ => .next s
  | _, _ => .next s

/-! ## Reduction targets (R237, Table 8) -/

/-- A reduction target's header: FIRST, STEP, NSEND, NREC, APPLIED, BAD, DONE. -/
structure BsumHead where
  first : Nat := 0
  step  : Nat := 0
  nsend : Nat := 0
  nrec  : Nat := 0
  applied : Nat := 0
  bad   : Nat := 0
  done  : Bool := false
  /-- Bits [62:32] of header dword 1. -/
  rest  : Nat := 0
  deriving DecidableEq, Repr, Inhabited

def Core.bsumHead (k : Core) (off : Nat) : BsumHead :=
  let x := ofBytes (k.spadRead off 8)
  let y := ofBytes (k.spadRead (off + 8) 8)
  { first := field x 15 0, step := field x 31 16, nsend := field x 47 32, nrec := field x 59 48
    applied := field y 15 0, bad := field y 31 16, rest := field y 62 32, done := field y 63 63 = 1 }

/-- Header dword 1 written back. -/
def Core.putBsumHead (k : Core) (off : Nat) (h : BsumHead) : Core :=
  k.spadWrite (off + 8)
    (bytesOf 8 (h.applied + 2 ^ 16 * h.bad + 2 ^ 32 * h.rest + 2 ^ 63 * (if h.done then 1 else 0)))

/-- The header counts a discarded set, saturating. -/
def Core.bsumBad (k : Core) (off : Nat) : Core :=
  let h := k.bsumHead off
  k.putBsumHead off { h with bad := min 65535 (h.bad + 1) }

/-- The place of a sender in the order, if the header expects it. -/
def BsumHead.place (h : BsumHead) (i : Nat) : Option Nat :=
  if h.step = 0 || i < h.first || (i - h.first) % h.step != 0 || h.nsend ≤ (i - h.first) / h.step then none
  else some ((i - h.first) / h.step)

/-- The target admits the set as its header stands: the set's place in the order. -/
def Core.admits (k : Core) (b : BsumSet) : Option Nat :=
  let h := k.bsumHead b.off
  let n := b.sums.length
  let len := 64 + 16 * n
  if h.done || n != h.nrec + 1 || k.ctx.bufs.any (fun e => e.2.touched b.off len != 0) || inSaveArea b.off len
      || k.rangeBarred k.banks b.off len then none
  else match h.place b.index with
    | some j => if j < h.applied then none else some j
    | none => none

/-- Message k is applied to record k (R48); none where the record's tag finds no entry. -/
def State.bsumRecords (s : State) (c off : Nat) (e c' : Int) : Nat → List (Dword × LTag) → State × Option Trap
  | _, [] => (s, none)
  | i, (v, t) :: r =>
    let k := s.core c
    let o := off + 64 + 16 * i
    let a : BsumAcc := {
      s := toSigned 64 (ofBytes (k.spadRead o 8)), e := toSigned 32 (ofBytes (k.spadRead (o + 8) 4))
      c := ofBytes (k.spadRead (o + 12) 4) }
    let (a, fl) := a.apply v.toInt e c'.toNat
    match s.writeSpad c c o (bytesOf 8 (wrap 64 a.s) ++ bytesOf 4 (wrap 32 a.e) ++ bytesOf 4 a.c) t (spadAddr o) with
    | (s, some tr) => (s, some tr)
    | (s, none) => bsumRecords (s.updCtx c (·.setFlags fl)) c off e c' (i + 1) r

/-- A set whose turn it is is applied. -/
def State.bsumApply (s : State) (b : BsumSet) : State × Option Trap :=
  match s.bsumRecords b.target b.off b.exp.toInt b.cnt.toNat 0 b.sums with
  | (s, some t) => (s, some t)
  | (s, none) => (s.updCore b.target fun k =>
      let h := k.bsumHead b.off
      k.putBsumHead b.off { h with applied := h.applied + 1, done := h.applied + 1 = h.nsend }, none)

/-- Two sets that go to one target. -/
def BsumSet.sameTarget (a b : BsumSet) : Bool := a.target = b.target && a.off = b.off

/-- Sets that a target holds buffered are applied in turn, and those its header no longer admits are discarded. -/
def State.bsumDrain (b : BsumSet) : Nat → State → State × Option Trap
  | 0, s => (s, none)
  | n + 1, s =>
    let k := s.core b.target
    let mine := s.bsumBuf.filter (·.sameTarget b)
    match mine.find? fun x => (k.admits x).isNone, mine.find? fun x => k.admits x = some (k.bsumHead b.off).applied with
    | some x, _ =>
      bsumDrain b n ({ s with bsumBuf := s.bsumBuf.filter (·.id != x.id) }.updCore b.target (·.bsumBad b.off))
    | none, some x =>
      match s.bsumApply x with
      | (s, some t) => (s, some t)
      | (s, none) => bsumDrain b n { s with bsumBuf := s.bsumBuf.filter (·.id != x.id) }
    | none, none => (s, none)

/-- Every write that set `b`, of another die, is to come after has been applied at the target's die (R121). -/
def State.bsumCovered (s : State) (b : BsumSet) : Bool :=
  match b.vec with
  | some v => !s.covers (dieOf b.target) v
  | none => true

/-- Set `b`, the one at position `i`, reaches its target, which applies it in its turn, buffers it or discards it. It takes its place
among the accesses to that scratchpad, as the target's own `mx` unit or as a remote request (R98). -/
def State.bsumArrives (s : State) (i : Nat) (b : BsumSet) : State :=
  let s := if b.sender = b.target then s.turnFor b.target 2 else s.remoteTurn b.target
  let s' := ({ s with bsums := s.bsums.eraseIdx i }).noteVec b.vec (dieOf b.target) (dieOf b.sender)
  let twice := s.bsumBuf.any fun x => x.sameTarget b && x.index = b.index
  if twice || ((s.core b.target).admits b).isNone then s'.updCore b.target (·.bsumBad b.off)
  else match State.bsumDrain b (s.bsumBuf.length + 1) { s' with bsumBuf := s.bsumBuf ++ [b] } with
    | (s'', none) => s''
    | (_, some t) => s.updCtx b.target (·.engineTrap t)

/-- BSUM_SET_ARRIVE: set `i` on its way reaches its target (R48, R237). Where a tag finds no entry nothing is applied, and the target
core takes the trap (R266). -/
def execBsumSetArrive (i : Nat) (s : State) : Host.Outcome State Fault Refusal :=
  match s.bsums[i]? with
  | none => .next s
  | some b =>
    if (s.ctx b.target).xs.trap.isSome || !s.bsumCovered b then .next s
    else .next (s.whole (·.bsumArrives i b))

end Sys2Proof.Machine
end

