-- ==== Sys2Proof/Machine/LabelOps.lean ====
section
/-! DEFINITION. The label unit `lb` (R271 to R281), the census (R270, R280), and the resolution of tags that are still to
come (R267 to R269, R383). -/

namespace Sys2Proof.Machine

/-! ## Operations on a label space -/

/-- What an operation writes, besides CTLAB: port, value and tag. -/
abbrev LWrite := List (Nat × SVal)

/-- The single tag of a join in this space (R256). -/
def LRun.single (x : LRun) (t : LTag) : LRun × Tag :=
  match x.joinAll (normTags t) with
  | (x, some u) => (x, u)
  | (x, none) => (x, 0)

/-- Kind of a label (R277): 0 inline, 1 diagram, 2 tag 0, 3 mucked. -/
def LRun.kind (x : LRun) (u : Tag) : Dword :=
  if u = 0 then 2
  else if u = mucked then 3
  else match (x.entry u).form with
    | .diagram _ => 1
    | _ => 0

/-- Results of a test operation: `.r` and `.f` with one tag. -/
def testWrites (r f : Dword) (t : LTag) : LWrite := [(0x3BD, { v := r, t := t }), (0x3BF, { v := f, t := t })]

/-- The operations that work in the label space: what they write, by trigger index (R271 to R278). -/
def LRun.perform (x : LRun) (o : LbOp) : LRun × LWrite :=
  let a := o.a
  let t := o.t
  let tags := joinTags [a.t, o.ctl]
  match o.op with
  | 0 =>
    match x.intern (minimise x.nogoods [2 ^ dfield t.v 5 0]) with
    | (x, some u) => (x, [(0x3BD, { v := a.v, t := joinTags [a.t, tagOf u, o.ctl] })])
    | (x, none) => (x, [])
  | 1 => (x, [(0x3BD, { v := t.v, t := joinTags [a.t, t.t, o.ctl] })])
  | 2 =>
    let (x, ta) := x.single a.t
    let (x, tt) := x.single t.t
    if x.stuck then (x, []) else
    match x.merge ta tt with
    | (x, some u) => (x, [(0x3BD, { v := t.v, t := joinTags [tagOf u, o.ctl] }),
        (0x3BF, { v := if a.v = t.v then 0 else 1, t := o.ctl })])
    | (x, none) => (x, [])
  | 3 =>
    let (x, u) := x.single (joinTags [t.t, o.ctl])
    if x.stuck then (x, []) else
    let (x, n) := x.contra u
    (x, [(0x3BD, { v := BitVec.ofNat 64 n }), (0x3BE, { v := BitVec.ofNat 64 x.l.epoch })])
  | 4 =>
    let (x, u) := x.single t.t
    let (x, h) := x.holds u (a.v.toNat % 2 ^ x.l.na)
    (x, [(0x3BD, { v := t.v, t := if h then tags else [mucked] }), (0x3BF, { v := if h then 1 else 0, t := tags })])
  | 5 =>
    let (x, u) := x.single t.t
    let (x, h) := x.holds u (a.v.toNat % 2 ^ x.l.na)
    (x, testWrites (if h then 1 else 0) (if h then 1 else 0) tags)
  | 6 =>
    let (x, u) := x.single t.t
    let (x, u) := x.resolve u
    (x, [(0x3BD, { v := u.setWidth 64, t := o.ctl })])
  | 7 => (x, [(0x3BD, { v := a.v, t := joinTags [tagOf (t.v.setWidth 16), o.ctl] })])
  | 8 =>
    let (x, u) := x.single t.t
    let (x, u) := x.resolve u
    let n := if u = 0 then 1 else if u = mucked then 0 else min 0xFFFFFFFF (x.content (x.entry u)).length
    (x, testWrites (BitVec.ofNat 64 n) (x.kind u) o.ctl)
  | 9 =>
    let (x, u) := x.single t.t
    let (x, u) := x.resolve u
    let es := if u = 0 then [0] else if u = mucked then [] else x.content (x.entry u)
    match es[a.v.toNat]? with
    | some e => (x, testWrites (BitVec.ofNat 64 e) (x.kind u) o.ctl)
    | none => (x, testWrites 0 3 o.ctl)
  | 10 =>
    let (x, u) := x.single t.t
    let (x, p) := x.probability u fun i => (o.ws.getD i 0).toNat
    (x, [(0x3BD, { v := BitVec.ofNat 64 p, t := joinTags [a.t, o.wt, o.ctl] })])
  | _ =>
    let (x, u) := x.single t.t
    let (x, u) := x.resolve u
    let e := if u = 0 then 0 else if u = mucked then 2 ^ 64 - 1 else fewest (x.content (x.entry u))
    (x, testWrites (BitVec.ofNat 64 e) (x.kind u) o.ctl)

/-! ## The census (R270) -/

def flightTags (fs : List Flight) : List LTag := fs.flatMap fun f => f.sw.map (·.2.t) ++ f.vw.map (·.2.t)
def queueTags (qs : NMap Queue) : List LTag := qs.flatMap fun e => e.2.ents.map (·.t)
def fileTags (a : NMap SVal) (b : NMap VVal) : List LTag := a.map (·.2.t) ++ b.map (·.2.t)
def clTags (o : Option ClOp) : List LTag := match o with
  | some o => [o.a.t, o.b.t, o.t.t, o.ctl]
  | none => []
def lbTags (l : List LbOp) : List LTag := l.flatMap fun o => [o.a.t, o.t.t, o.ctl, o.wt]
def slotTags (m : NMap OpSlot) : List LTag := m.flatMap fun e => e.2.tags.map (·.2)
def mxTags : MxOp → List LTag
  | .fill _ _ _ _ rows _ ctl => ctl :: rows.map (·.2.2.2)
  | .mma _ _ _ _ _ ctl => [ctl]
  | .mmat _ _ _ _ _ _ _ tiles _ ctl => ctl :: (match tiles with
    | some (a, b) => a.tags.map (·.2) ++ b.tags.map (·.2)
    | none => [])
  | .drain _ _ _ _ _ _ ctl rtag => [ctl, rtag]
  | .zero _ ctl => [ctl]
  | .release _ => []
def copyTags (c : Copy) : List LTag :=
  [c.w0.t, c.w1.t, c.w2.t, c.w3.t, c.ctl] ++ c.runs.flatMap fun r => r.tag :: (match r.src with
    | .bytes bs => bs.map (·.2)
    | _ => [])
def tileTags (l : List Tile) : List LTag := l.flatMap fun e => e.tile.tags.map (·.2)

/-- Tags that a context holds. -/
def Ctx.tags (k : Ctx) : List LTag :=
  fileTags k.sfile k.vfile ++ k.pfile.map (·.2.t) ++ queueTags k.queues ++ flightTags k.flight ++ [k.ctlab]
    ++ k.accs.flatMap (fun e => e.2.tags.map (·.2)) ++ k.mxq.flatMap mxTags ++ tileTags k.tiles
    ++ clTags k.clop ++ lbTags k.lbops ++ k.inbox.map (·.t) ++ k.copies.flatMap copyTags ++ k.streams.map (·.atag)
    ++ k.loads.flatMap fun l => l.atag :: l.pieces.filterMap fun p => p.map fun x => x.tag

def Image.tags (i : Image) : List LTag :=
  fileTags i.sfile i.vfile ++ queueTags i.queues ++ [i.ctlab] ++ clTags i.clop ++ lbTags i.lbops ++ i.streams.map (·.atag)
    ++ i.mxq.flatMap mxTags

def reqTags (r : Req) : List LTag :=
  match r.kind with
  | .store _ t => [t]
  | .atomic _ _ _ vt _ at_ => [vt, at_]
  | .load _ => []

/-- Tags of a snapshot (R357), which a rollback brings back. -/
def Snap.tags (x : Snap) : List LTag :=
  x.ctx.tags ++ x.image.tags ++ slotTags x.slots ++ x.stags.map (fun e => tagOf e.2) ++ x.reqs.flatMap reqTags
    ++ x.replies.map (·.2.2.t) ++ (x.bsums ++ x.bsumBuf).flatMap fun b => b.sums.map (·.2)
def snapTags (x : Option Snap) : List LTag :=
  match x with
  | some x => x.tags
  | none => []

def Saved.tags (v : Saved) : List LTag :=
  v.ctx.tags ++ v.image.tags ++ slotTags v.oslots ++ v.stags.map (fun e => tagOf e.2) ++ v.spill.map (·.t)
    ++ v.held.map (·.tag) ++ snapTags v.snap

def Core.tags (k : Core) : List LTag :=
  k.ctx.tags ++ k.image.tags ++ slotTags k.slots ++ k.stags.map (fun e => tagOf e.2)
    ++ k.areas.flatMap (fun e => match e.2 with
      | some v => v.tags
      | none => [])
    ++ snapTags k.snap

/-- Every tag that the state of partition `p` holds (R270 step 3). -/
def State.tagsOf (s : State) (p : Nat) : List LTag :=
  let q := s.part p
  q.cores.flatMap (fun c => (s.core c).tags)
    ++ (s.mtags.filter fun e => q.holds (paHome (e.1 * 64))).map (fun e => tagOf e.2)
    ++ q.held.map (·.tag)
    ++ q.items.flatMap (fun i => match i.req with
      | some r => reqTags r
      | none => [])
    ++ (s.reqs.filter fun r => q.holds r.core).flatMap reqTags
    ++ (s.replies.filter fun r => q.holds r.1).map (·.2.2.t)
    ++ ((s.bsums ++ s.bsumBuf).filter fun b => q.holds b.target).flatMap (fun b => b.sums.map (·.2))
    ++ (s.msgs.filter fun m => m.task.part = p).map (·.msg.t) ++ q.xforms.flatMap fun x => copyTags x.copy

/-- The indices to mark: those that appear, and the targets of forward entries that are marked. -/
def LSpace.marked (l : LSpace) (ts : List Nat) : List Nat :=
  (List.range l.ents.length).foldl (fun ms _ =>
    ms ++ (ms.filterMap fun i => match (l.ents.get {} i).form with
      | .forward u => if ms.contains u.toNat then none else some u.toNat
      | _ => none)) ts

/-- The sweep of R270, steps 2 to 5, given the tags that appear: `.r` counts the entries freed, `.h` is LIVE. Kept entries keep
their MARK. -/
def LRun.census (x : LRun) (ts : List LTag) : LRun × LWrite :=
  let ms := x.l.marked (ts.flatten.map (·.toNat))
  let dead := x.l.ents.filter fun e => !ms.contains e.1
  let x := { x with l := { x.l with ents := x.l.ents.map fun e => (e.1, { e.2 with mark := true }) } }
  let x := dead.foldl (fun x e => (x.release e.2.form).setEntry e.1 {}) x
  (x, [(0x3BD, { v := BitVec.ofNat 64 dead.length }), (0x3BE, { v := BitVec.ofNat 64 x.l.live })])

/-! ## The unit -/

/-- Ports that an `lb` operation writes (Table 6). -/
def lbPorts (op : Nat) : List Nat :=
  match op with
  | 2 | 4 | 5 | 8 | 9 | 11 => [0x3BD, 0x3BF]
  | 3 | 12 => [0x3BD, 0x3BE]
  | _ => [0x3BD]

/-- An operation in the label space of core `c`: what it writes, or the trap of a full table (R268, R269). Nothing of a
stuck operation is kept but what re-filtering did. -/
def State.lbPerform (s : State) (c : Nat) (o : LbOp) : State × Option Trap × LWrite :=
  let (p, sp) := s.spaceOf c
  s.label p sp [] (·.perform o)

/-- The pairwise steps of a join, in order; true for one off the fast path: the tags other than 0 differ and none is 0xFFFF (R267,
Table 5). -/
def joinSteps : LTag → List LTag → List Bool
  | _, [] => []
  | a, t :: ts => (!(a = [] || t = [] || a = t || isMuck a || isMuck t)) :: joinSteps (joinTags [a, t]) ts

/-- The steps of a join of these tags: one fast step where those other than 0 are all equal, or one is 0xFFFF. -/
def joinPath (ts : List LTag) : List Bool :=
  match ts.filter (· != []) with
  | [] => [false]
  | a :: r => if r.all (· = a) || (a :: r).any isMuck then [false] else joinSteps a r

/-- The resolution of a single tag for a test. -/
def testPath (t : LTag) : List Bool := [!(t = [] || isMuck t)]

/-- The steps of an operation's tag resolution (R267): an insertion, a contra and a count are off the fast path. -/
def LbOp.path (o : LbOp) : List Bool :=
  match o.op with
  | 0 => true :: joinSteps [1] (([o.a.t, o.ctl].filter (· != [])))
  | 1 => joinPath [o.a.t, o.t.t, o.ctl]
  | 2 => joinPath [o.a.t, o.t.t] ++ if o.ctl = [] then [] else joinSteps o.wt [o.ctl]
  | 3 => [true]
  | 7 => joinPath [tagOf (o.t.v.setWidth 16), o.ctl]
  | 10 => [true]
  | _ => testPath o.t.t

/-- Core cycles of the steps: 1 on the fast path; else 3, 8, or as long as the reply takes, a free value (R267, Table 5; log
entry 29). -/
def State.pathTime (s : State) : List Bool → Nat × State
  | [] => (0, s)
  | false :: r => let (n, s) := pathTime s r; (n + 1, s)
  | true :: r =>
    let (x, s) := s.choose
    let (n, s) := pathTime s r
    (n + (if x % 3 = 0 then 3 else if x % 3 = 1 then 8 else 9 + x / 3), s)

/-- What an operation writes lands when its tags are resolved. -/
def State.lbSend (s : State) (c : Nat) (o : LbOp) (ws : LWrite) : State :=
  match s.pathTime o.path with
  | (n, s) => (s.sampled 4 c n).updCtx c (·.send { due := s.now + coreCycles n, sw := ws })

/-- The operation is performed at its group; where a table is full, its ports stay pending and the X stream takes the
trap at its next group boundary (R269). -/
def Trig.lb (x : Trig) (s : State) (o : LbOp) : Fired :=
  match s.lbPerform x.core o with
  | (s, none, ws) => .done (s.lbSend x.core o ws) false
  | (s, some tr, _) =>
    let (id, s) := s.newId
    .done (s.updCtx x.core fun k => { k.await (lbPorts o.op) id with
      lbops := k.lbops ++ [{ o with token := id }], xs := { k.xs with trap := k.xs.trap.orElse fun _ => some tr } }) false

/-- The current label space, or the refusal NOSPACE. -/
def Trig.lspaceOf (x : Trig) (s : State) : Option LSpace :=
  let (p, sp) := s.spaceOf x.core
  if 8 ≤ sp then none else (s.part p).lspaces.get none sp

/-- The merge of two tags in this space (R254). -/
def LRun.merged (x : LRun) (a b : LTag) : LRun × LTag :=
  let (x, ta) := x.single a
  let (x, tb) := x.single b
  match x.merge ta tb with
  | (x, some u) => (x, tagOf u)
  | (x, none) => (x, [])

/-- The tag that the step of `lb.merge` with CTLAB starts from (R267, R272); no other operation has one. -/
def State.mergedTag (s : State) (c op : Nat) (a b : LTag) : LTag :=
  if op = 2 then (s.label (s.spaceOf c).1 (s.spaceOf c).2 [] (·.merged a b)).2.2 else []

/-- An `lb` trigger that needs a space; `bad` says with which REASON it is refused, if at all. -/
def lbOpOf (op : Nat) (bad : LSpace → SVal → Option Nat) (x : Trig) (s : State) : Fired :=
  match x.lspaceOf s with
  | none => .trap 4 (refused 11 x.t.v)
  | some l => match bad l x.t with
    | some r => .trap 4 (refused r x.t.v)
    | none => x.lb s { op := op, a := x.latch s 0x380, t := x.t, ctl := x.ctl, wt := s.mergedTag x.core op (x.latch s 0x380).t x.t.t }

def neverBad (_ : LSpace) (_ : SVal) : Option Nat := none

def fireLbAssume : Trig → State → Fired := lbOpOf 0 fun l t =>
  if dfield t.v 63 6 != 0 || l.na ≤ dfield t.v 5 0 then some 9 else none
def fireLbJoin : Trig → State → Fired := lbOpOf 1 neverBad
def fireLbMerge : Trig → State → Fired := lbOpOf 2 neverBad

/-- `lb.contra` (R273): a full fence over the partition's rectangle (R118). -/
def fireLbContra (x : Trig) (s : State) : Fired :=
  match lbOpOf 3 (fun l _ => if 2 ^ 40 - 1 ≤ l.epoch then some 10 else none) x s with
  | .done s' j => if s.drained x.core then .done (s'.updCore x.core fun k => { k with irrev := true }) j else .stall
  | f => f

def fireLbCommit : Trig → State → Fired := lbOpOf 4 neverBad
def fireLbHolds : Trig → State → Fired := lbOpOf 5 neverBad
def fireLbTag : Trig → State → Fired := lbOpOf 6 neverBad

/-- `lb.retag` (R276): T names 0, 0xFFFF or an entry in use. -/
def fireLbRetag : Trig → State → Fired := lbOpOf 7 fun l t =>
  let g := dfield t.v 15 0
  if dfield t.v 63 16 != 0 then some 9
  else if g = 0 || g = 0xFFFF then none
  else if l.limit < g || (l.ents.get {} g).form = .free then some 9 else none

def fireLbEnvs : Trig → State → Fired := lbOpOf 8 neverBad
def fireLbEnv : Trig → State → Fired := lbOpOf 9 neverBad

/-- `lb.count` (R278): its group issues once the 64 weights at `lb.a` have been read. -/
def fireLbCount (x : Trig) (s : State) : Fired :=
  let a := x.latch s 0x380
  match x.lspaceOf s with
  | none => .trap 4 (refused 11 x.t.v)
  | some _ =>
    if a.v.toNat % 64 != 0 then .trap 4 (refused 9 x.t.v)
    else if !s.drained x.core then .stall
    else match s.place x.core (taskOf s x.core) .read a.v 512 with
      | (s, .error e) => .fault s 6 e
      | (s, .ok ps) => match s.readParts x.core s.nextId ps with
        | (s, .error e) => .fault s (accessRank e) e
        | (s, .ok (bs, ts)) =>
          let ws := (List.range 64).map fun i => BitVec.ofNat 64 (ofBytes ((bs.drop (8 * i)).take 8))
          x.lb s { op := 10, a := a, t := x.t, ctl := x.ctl, ws := ws, wt := ts }

def fireLbMin : Trig → State → Fired := lbOpOf 11 neverBad

/-- `lb.census` (R280): its results are pending until the sweep has ended. -/
def fireLbCensus (x : Trig) (s : State) : Fired :=
  match x.lspaceOf s with
  | none => .trap 4 (refused 11 x.t.v)
  | some _ =>
    if !s.drained x.core then .stall
    else
    let (id, s) := s.newId
    .done (s.updCtx x.core fun k => { k.await (lbPorts 12) id with lbops := k.lbops ++ [{ op := 12, token := id }] }) false

/-- `lb.ctlset` (R264, R279). A join that needs a new entry and finds none leaves CTLAB unresolved (R383). -/
def fireLbCtlset (x : Trig) (s : State) : Fired :=
  if x.muckTrap && isMuck x.t.t then .trap 2 { cause := 11, val := BitVec.ofNat 64 x.port }
  else match s.ctlabOf x.core x.t with
    | (_, some tr, _) => .trap 7 tr
    | (s, none, t) =>
      let (p, sp) := s.spaceOf x.core
      match s.resolveTags p sp t with
      | (s, none, u) =>
        let f : Flight := { due := s.now + coreCycles 1, sw := [(0x3BD, { v := u.setWidth 64 })] }
        .done (s.updCtx x.core fun k => { (k.send f) with ctlab := tagOf u }) false
      | (s, some tr, _) =>
        let (id, s) := s.newId
        .done (s.updCtx x.core fun k => { k.await [0x3BD] id with
          ctlab := t, ctlHalf := .x, lbops := k.lbops ++ [{ op := 13, t := x.t, token := id }]
          xs := { k.xs with trap := k.xs.trap.orElse fun _ => some tr } }) false

/-- `lb.ctlget` (R279). -/
def fireLbCtlget (x : Trig) (s : State) : Fired :=
  if unresolved x.ctl then .stall
  else .done (s.updCtx x.core (·.send
    { due := s.now + coreCycles 1, sw := [(0x3BD, { v := (toTag x.ctl).setWidth 64, t := x.ctl })] })) false

/-- The fields that `lb.space` reads (R281). -/
def spaceField (l : Option LSpace) (lsp t : Nat) : Dword :=
  match l, t with
  | some l, 0 => pack [(0, l.na), (7, if l.incons then 1 else 0), (8, l.dsp), (16, l.limit), (32, lsp)]
  | some l, 1 => BitVec.ofNat 64 l.epoch
  | some l, 2 => BitVec.ofNat 64 l.live
  | some l, _ => pack [(0, l.ngs.length), (63, if hNorm l.ngh.toNat = hFalse then 0 else 1)]
  | none, 0 => pack [(32, lsp)]
  | none, _ => 0

/-- `lb.space` (R281). -/
def fireLbSpace (x : Trig) (s : State) : Fired :=
  if 3 < x.t.v.toNat then .trap 4 (refused 9 x.t.v)
  else
    let v := spaceField (x.lspaceOf s) (s.ctx x.core).lspace.toNat x.t.v.toNat
    .done (s.updCtx x.core (·.send { due := s.now + coreCycles 1, sw := [(0x3BD, { v := v })] })) false

/-- The latches that an `lb` trigger reads (Table 6). -/
def labelLatches (p : Nat) : List Nat :=
  if [0x388, 0x389, 0x38A, 0x38C, 0x38D, 0x38F, 0x391, 0x392].contains p then [0x380] else []

/-! ## LABEL_RESOLVE_REPLY (R267 to R269, R383) -/

/-- A tag that was unresolved at trap entry, at its place: it is resolved again after `ct.eret` (R269, R383). -/
def Core.defers (k : Core) (h : TagHome) (t : LTag) : Bool := k.ctx.priv && k.image.unres.contains (h, t)

/-- The first traps met, by the half whose results they hold up (R269, R383). -/
structure HalfTraps where
  x : Option Trap := none
  a : Option Trap := none
  deriving DecidableEq, Repr, Inhabited

/-- A trap of half `h`, where none was met before. -/
def HalfTraps.add (r : HalfTraps) (h : Half) (t : Trap) : HalfTraps :=
  match h with
  | .x => { r with x := r.x.orElse fun _ => some t }
  | .a => { r with a := r.a.orElse fun _ => some t }

/-- The half that forms the tags of port `p`: the A half those of its registers, latches and results. -/
def portHalf (p : Nat) : Half :=
  if (srcPort p).any (·.1 = .a) || (dstPort p).any (·.1 = .a) then .a else .x

/-- The half that forms the tags of queue `q`: loads and `ax` are the A half's. -/
def queueHalf (q : Nat) : Half := if q < 4 || q = qAx then .a else .x

/-- One tag of core `c`, formed by half `h`, resolved, if it has still to be; the first traps met are kept. -/
def State.resolveOne (s : State) (c : Nat) (h : Half) (tr : HalfTraps) (t : LTag) : State × HalfTraps × LTag :=
  if unresolved t then
    let (p, sp) := s.spaceOf c
    match s.resolveTags p sp t with
    | (s, none, u) => (s, tr, tagOf u)
    | (s, some e, _) => (s, tr.add h e, t)
  else (s, tr, t)

/-- Every unresolved tag of a list of values resolved, but for those that wait. -/
def State.resolveIn {α : Type} (get : α → LTag) (put : α → LTag → α) (waits : α → Bool) (half : α → Half) (c : Nat) (s : State)
    (tr : HalfTraps) : List α → State × HalfTraps × List α
  | [] => (s, tr, [])
  | a :: as =>
    let (s, tr, t) := if waits a then (s, tr, get a) else s.resolveOne c (half a) tr (get a)
    let (s, tr, as) := State.resolveIn get put waits half c s tr as
    (s, tr, put a t :: as)

/-- The same for a store; `home` says where the tag of each key stands. -/
def State.resolveMap {α : Type} (get : α → LTag) (put : α → LTag → α) (home : Nat → TagHome) (c : Nat) (s : State)
    (tr : HalfTraps) (m : NMap α) : State × HalfTraps × NMap α :=
  let half (e : Nat × α) : Half := match home e.1 with
    | .port p => portHalf p
    | _ => .x
  State.resolveIn (fun e => get e.2) (fun e t => (e.1, put e.2 t)) (fun e => (s.core c).defers (home e.1) (get e.2)) half c s tr m

/-- Every unresolved tag of the queues resolved. -/
def State.resolveQueues (c : Nat) (s : State) (tr : HalfTraps) : NMap Queue → State × HalfTraps × NMap Queue
  | [] => (s, tr, [])
  | (q, v) :: qs =>
    let (s, tr, es) := s.resolveIn (·.t) (fun e t => { e with t := t }) (fun _ => false) (fun _ => queueHalf q) c tr v.ents
    let (s, tr, qs) := State.resolveQueues c s tr qs
    (s, tr, (q, { v with ents := es }) :: qs)

/-- Every unresolved row tag of accumulators resolved. -/
def State.resolveAccs (c : Nat) (s : State) (tr : HalfTraps) : NMap Acc → State × HalfTraps × NMap Acc
  | [] => (s, tr, [])
  | (i, v) :: as =>
    let (s, tr, ts) := s.resolveMap (fun t : LTag => t) (fun _ t => t) (.acc i) c tr v.tags
    let (s, tr, as) := State.resolveAccs c s tr as
    (s, tr, (i, { v with tags := ts }) :: as)

/-- Every unresolved row tag of operand slots resolved. -/
def State.resolveSlots (c : Nat) (s : State) (tr : HalfTraps) : NMap OpSlot → State × HalfTraps × NMap OpSlot
  | [] => (s, tr, [])
  | (i, v) :: as =>
    let (s, tr, ts) := s.resolveMap (fun t : LTag => t) (fun _ t => t) (.slot i) c tr v.tags
    let (s, tr, as) := State.resolveSlots c s tr as
    (s, tr, (i, { v with tags := ts }) :: as)

/-- Every tag of core `c` that is still to be resolved is resolved; while a trap waits to be entered, none is (R269). -/
def State.resolveCore (s : State) (c : Nat) : State × HalfTraps :=
  let k := s.core c
  let x := k.ctx
  if x.raised.isSome then (s, {})
  else
    let (s, tr, sf) := s.resolveMap (fun v : SVal => v.t) (fun v t => { v with t := t }) .port c {} x.sfile
    let (s, tr, vf) := s.resolveMap (fun v : VVal => v.t) (fun v t => { v with t := t }) .port c tr x.vfile
    let (s, tr, pf) := s.resolveMap (fun v : PVal => v.t) (fun v t => { v with t := t }) .port c tr x.pfile
    let (s, tr, qs) := s.resolveQueues c tr x.queues
    let (s, tr, cl) := s.resolveOne c x.ctlHalf tr x.ctlab
    let (s, tr, ac) := s.resolveAccs c tr x.accs
    let (s, tr, sl) := s.resolveSlots c tr k.slots
    let (s, tr, ib) := s.resolveIn (fun m : Msg => m.t) (fun m t => { m with t := t }) (fun _ => false) (fun _ => .x) c tr x.inbox
    (s.setCore c { k with slots := sl, ctx := { x with
      sfile := sf, vfile := vf, pfile := pf, queues := qs, ctlab := cl, accs := ac, inbox := ib } }, tr)

/-- The matrix unit has an operation at its head that can go on: one that waits for a tag, for a trap or for its team does not
hold up a census. -/
def Core.mxReady (k : Core) : Bool :=
  match k.ctx.mxq with
  | [] => false
  | .fill _ _ _ _ _ _ _ :: _ => k.ctx.xs.trap.isNone
  | .drain acc _ _ _ _ _ _ _ :: _ => k.ctx.xs.trap.isNone && !rowsPending (k.ctx.acc acc).tags
  | .zero _ _ :: _ => true
  | .release _ :: _ => true
  | .mma a b acc _ _ _ :: _ => !mmaPending (k.slot a) (k.slot b) (k.ctx.acc acc)
  | .mmat _ _ acc _ _ _ _ (some (a, b)) _ _ :: _ => !mmaPending a b (k.ctx.acc acc)
  | .mmat _ _ _ _ _ _ _ none _ _ :: _ => false

/-- The partition's cores have no engine operation and no message under way: a census may sweep (R270 step 1). -/
def State.censusReady (s : State) (p : Nat) : Bool :=
  let q := s.part p
  q.cores.all (fun c => let k := s.ctx c; k.copies.isEmpty && k.clop.isNone && k.flight.isEmpty && !(s.core c).mxReady)
    && s.msgs.all (fun m => m.task.part != p)

/-- The `lb` operation of a core that goes on next: the oldest that is suspended; while a trap waits for the X stream, which an operation
that is still stuck would only raise again, a census (R269, R270). -/
def Ctx.nextLb (k : Ctx) : Option LbOp :=
  if k.raised.isSome then none else if k.xs.trap.isSome then k.lbops.find? (·.op = 12) else k.lbops.head?

/-- Operation `o` of core `c` ends with these writes. -/
def State.lbFinish (s : State) (c : Nat) (o : LbOp) (ws : LWrite) : State :=
  s.updCore c fun k => { k.reply o.token ws with ctx := { (k.reply o.token ws).ctx with
    lbops := (k.reply o.token ws).ctx.lbops.filter (·.token != o.token) } }

/-- A suspended operation of core `c` is performed again, or a census sweeps. -/
def State.lbRetry (s : State) (c : Nat) : State × Option Trap :=
  match (s.ctx c).nextLb with
  | none => (s, none)
  | some o =>
    let finish (s : State) (ws : LWrite) : State := s.lbFinish c o ws
    if o.op = 12 then
      let (p, sp) := s.spaceOf c
      if s.censusReady p then
        let (s, _, ws) := s.label p sp [] (·.census (s.tagsOf p))
        (finish s ws, none)
      else (s, none)
    else if o.op = 13 then
      if unresolved (s.ctx c).ctlab then (s, none)
      else (finish s [(0x3BD, { v := (toTag (s.ctx c).ctlab).setWidth 64 })], none)
    else match s.lbPerform c o with
      | (s, none, ws) => (finish s ws, none)
      | (s, some tr, _) => (s, some tr)

/-- LABEL_RESOLVE_REPLY: what core `c` has still to resolve is resolved; with no free entry the stream whose result it is takes the
trap at its next group boundary (R269). -/
def execLabelResolveReply (c : Nat) (s : State) : Host.Outcome State Fault Refusal :=
  let (s, t1) := s.resolveCore c
  let (s, t2) := s.lbRetry c
  let keep (old new : Option Trap) : Option Trap := old.orElse fun _ => new
  .next (if t1 = {} && t2 = none then s else s.updCtx c fun k => { k with
    xs := { k.xs with trap := keep k.xs.trap (keep t1.x t2) }, as_ := { k.as_ with trap := keep k.as_.trap t1.a } })

end Sys2Proof.Machine
end

