-- ==== Sys2Proof/Machine/ClOps.lean ====
section
/-! DEFINITION. The `cl` port (R292 to R294) and the Carillon's next operation (R291, R293, R297). -/

namespace Sys2Proof.Machine

/-- Operands that a `cl` trigger reads, besides T where it is ignored: (a, b, T) (Table 6). -/
def clReads (op : Nat) : Bool × Bool × Bool :=
  match op with
  | 1 | 2 => (true, true, true)
  | 4 | 5 | 6 | 7 | 12 | 14 => (true, false, true)
  | 13 => (false, false, false)
  | _ => (false, false, true)

/-- Ports that it writes. -/
def clPorts (op : Nat) : List Nat :=
  match op with
  | 8 | 13 => [0x3FD, 0x3FE, 0x3FF]
  | 11 => [0x3FF]
  | _ => [0x3FD, 0x3FF]

/-- A reserved bit of a control operand is set (Table 7). -/
def clArgReserved (op : Nat) (a t : Dword) : Bool :=
  match op with
  | 0 | 11 => dfield t 63 12 != 0
  | 2 => dfield t 63 4 != 0
  | 4 => dfield t 63 13 != 0
  | 6 | 7 => dfield a 63 13 != 0
  | 12 => dfield t 63 3 != 0
  | 14 => dfield a 63 32 != 0
  | _ => false

/-- The control operand of an operation, of `cl.a` and T (Table 7). -/
def clControl (op : Nat) (a t : SVal) : Option SVal :=
  if [0, 2, 4, 11, 12].contains op then some t else if [6, 7, 14].contains op then some a else none

/-- A `cl` trigger is issued to the engine (R292, R294). A mucked control operand exempts it from the checks; any other
mucked operand does not (R384 step 3). -/
def clOp (op : Nat) (x : Trig) (s : State) : Fired :=
  let a := x.latch s 0x3C0
  let b := x.latch s 0x3C1
  let (ra, rb, rt) := clReads op
  let read := (if ra then [a.t] else []) ++ (if rb then [b.t] else []) ++ if rt then [x.t.t] else []
  let h (v : SVal) : Nat := hNorm (v.v.toNat % 2 ^ 32)
  let handles := clHandles op (h a) (h b) (if op = 12 then x.t.v.toNat else h x.t)
  let k := s.ctx x.core
  if k.clop.isSome then .stall
  else if (clControl op a x.t).any (isMuck ·.t) then x.undone s (clPorts op)
  else if clArgReserved op a.v x.t.v then .trap 4 (refused 12 x.t.v)
  else if 8 ≤ x.ddspace || ((s.part (s.partNo x.core)).dspaces.get none x.ddspace).isNone
      || handles.any (fun e => !hConst e && hSp e != x.ddspace) then .trap 4 (refused 13 x.t.v)
  else if anyMuck read then x.undone s (clPorts op)
  else if !s.drained x.core then .stall
  else
    let (id, s) := s.newId
    let o : ClOp := { op := op, a := a, b := b, t := x.t, space := x.ddspace, ddwt := x.ddwt, ctl := x.ctl, token := id
                      began := s.now }
    .done ((s.updCtx x.core fun k => { k.await (clPorts op) id with clop := some o }).updCore x.core fun k =>
      { k with irrev := true }) false

def fireClVar : Trig → State → Fired := clOp 0
def fireClIte : Trig → State → Fired := clOp 1
def fireClApply : Trig → State → Fired := clOp 2
def fireClNot : Trig → State → Fired := clOp 3
def fireClRestrict : Trig → State → Fired := clOp 4
def fireClExists : Trig → State → Fired := clOp 5
def fireClCount : Trig → State → Fired := clOp 6
def fireClWcount : Trig → State → Fired := clOp 7
def fireClSat : Trig → State → Fired := clOp 8
def fireClRef : Trig → State → Fired := clOp 9
def fireClUnref : Trig → State → Fired := clOp 10
def fireClSwap : Trig → State → Fired := clOp 11
def fireClSize : Trig → State → Fired := clOp 12
def fireClGc : Trig → State → Fired := clOp 13
def fireClMincount : Trig → State → Fired := clOp 14

/-- The latches that a `cl` trigger reads. -/
def carillonLatches (p : Nat) : List Nat :=
  let (a, b, _) := clReads (p - 0x3C8)
  (if a then [0x3C0] else []) ++ if b then [0x3C1] else []

/-- The weights of the variables listed, read in turn (R297): (variable, w0, w1), or none where a read faults or is poisoned; and the
join of the tags of the granules that have been read. -/
def State.readWeights (s : State) (c : Nat) (t : Task) (base : Nat) :
    List Nat → State × Option (List (Nat × Nat × Nat)) × LTag
  | [] => (s, some [], [])
  | v :: vs =>
    match s.place c t .read (BitVec.ofNat 64 (base + 16 * v)) 16 with
    | (s, .error _) => (s, none, [])
    | (s, .ok ps) => match s.readParts c s.nextId ps with
      | (s, .error _) => (s, none, [])
      | (s, .ok (bs, tg)) => match readWeights s c t base vs with
        | (s, ws, ts) => (s, ws.map ((v, ofBytes (bs.take 8), ofBytes (bs.drop 8)) :: ·), joinTags [tg, ts])

/-- What a performed operation writes: `.r`, `.h` where its entry has it, and `.f` with status and operation bits. -/
def clWrites (op : Nat) (o : ClOut) (t : LTag) : List (Nat × SVal) :=
  (clPorts op).map fun p => (p, {
    v := BitVec.ofNat 64 (if p = 0x3FD then o.r else if p = 0x3FE then o.h.getD 0 else o.st + 256 * o.bits)
    t := t })

/-- The tag of an operation's results (R294). -/
def ClOp.tag (o : ClOp) (w : LTag) : LTag :=
  let (a, b, t) := clReads o.op
  joinTags ((if a then [o.a.t] else []) ++ (if b then [o.b.t] else []) ++ (if t then [o.t.t] else []) ++ [w, o.ctl])

/-- The weights of a list, by variable. -/
def weightOf (ws : List (Nat × Nat × Nat)) (high : Bool) (v : Nat) : Nat :=
  match ws.find? (·.1 = v) with
  | some (_, w0, w1) => if high then w1 else w0
  | none => 0

/-- The operation of core `c` in space `d`: the state after it, and what it writes, or none where the table is full. -/
def State.clRun (s : State) (c : Nat) (t : Task) (o : ClOp) (d : DSpace) : State × Option (List (Nat × SVal)) :=
  let m : DRun := { d := d, sp := o.space }
  let n := o.a.v.toNat % 8192
  let wsr : State × Option (List (Nat × Nat × Nat)) × LTag :=
    if o.op = 7 && n ≤ d.nv then s.readWeights c t o.ddwt (d.order.take n) else (s, some [], [])
  match wsr with
  | (s, none, wt) =>
    let out := clPerform m o.op o.a.v.toNat o.b.v.toNat o.t.v.toNat (fun _ => 0) fun _ => 0
    (s, some (clWrites o.op (if out.st = stOk then clRefused o.op stFault m else out) (o.tag wt)))
  | (s, some ws, wt) =>
    let out := clPerform m o.op o.a.v.toNat o.b.v.toNat o.t.v.toNat (weightOf ws false) (weightOf ws true)
    let s := s.updPart t.part fun q => { q with dspaces := q.dspaces.set none o.space (some out.m.d) }
    if out.m.full then (s, none) else (s, some (clWrites o.op out (o.tag wt)))

/-- The Carillon performs the operation of core `c` and replies; with its table full it abandons the operation, which the core
issues again after the trap (R291, R293). -/
def State.carillon (s : State) (c : Nat) : State :=
  let k := s.core c
  match k.task, k.ctx.clop with
  | some t, some o =>
    if k.ctx.xs.trap.isSome || k.ctx.raised.isSome then s
    else match (s.part t.part).dspaces.get none o.space with
      | none => s
      | some d => match s.clRun c t o d with
        | (s, some ws) => (s.observe 3 c o.began).updCore c fun k =>
            let k := k.reply o.token ws
            { k with ctx := { k.ctx with clop := none } }
        | (s, none) => s.updCtx c fun k => { k with
            xs := { k.xs with trap := some { cause := 10, val := BitVec.ofNat 64 o.space } } }
  | _, _ => s

/-- CARILLON_OPERATION. -/
def execCarillonOperation (c : Nat) (s : State) : Host.Outcome State Fault Refusal := .next (s.whole (·.carillon c))

end Sys2Proof.Machine
end

