-- ==== Sys2Proof/Machine/Request.lean ====
section
/-! DEFINITION. How requests are served and answered: home ports (R94), gang windows (R86, R98), writes that cross dies
(R121), atomic engines (R102, R103), replies (R92, R186, R192), results in flight (R148), and translation-cache
invalidation (R93). -/

namespace Sys2Proof.Machine

/-! ## Which requests may be served -/

/-- Two places lie in one home or one scratchpad. -/
def samePlace : Loc → Loc → Bool
  | .mem p, .mem q => paHome p = paHome q
  | .spad j _, .spad k _ => j = k
  | _, _ => false

/-- Access `e` comes before `r` in the program of a core that both belong to, and a rule keeps the pair: they go to one home or
scratchpad (R105), both are strong and an observer is inside both scopes (R110), a release fence parts them and `r` writes (R115,
R123), or an engine thread of the core, which sees its accesses in order, is under way (R113, R123). -/
def State.keeps (s : State) (e r : Req) : Bool :=
  e.names.any fun x => r.names.any fun y => x.1 = y.1 && x.2 < y.2
    && (s.threads x.1 || samePlace e.loc r.loc
      || (match e.strong, r.strong with
        | some a, some b => s.scopesMeet x.1 a b
        | _, _ => false)
      || (!r.isLoad && (s.ctx x.1).fences.any fun f => x.2 < f && f ≤ y.2))

/-- Request `i` may be served now: nothing that is kept before it is outstanding, and its stack does not hold it. -/
def State.servable (s : State) (i : Nat) : Option Req :=
  match s.reqs[i]? with
  | none => none
  | some r =>
    if (s.reqs ++ s.unpaired).any (s.keeps · r) then none
    else match r.loc with
      | .mem pa => if s.homeHeld pa then none else some r
      | .spad _ _ => some r

/-- Request `i` leaves the list. -/
def State.dropReq (s : State) (i : Nat) : State := { s with reqs := s.reqs.eraseIdx i }

/-- A store of core `c` is no longer outstanding once none of its parts is under way or refused. -/
def State.storeDone (s : State) (c id : Nat) : State :=
  if s.reqs.any (fun r => r.core = c && r.id = id) || s.refusals.any (fun r => r.1 = c && r.2.1 = id) then s
  else s.updCtx c fun k => { k with stores := k.stores.erase id }

/-- A refusal goes back to the issuing core (R92). -/
def State.refuse (s : State) (c id : Nat) (t : Trap) : State := { s with refusals := s.refusals ++ [(c, id, t)] }

/-- Request `r` is refused to every core that waits for it: a piece of a load fails, and a store or an atomic is reported (R92). -/
def State.refuseReq (s : State) (r : Req) (t : Trap) : State :=
  match r.kind with
  | .load j => s.updCtx r.core (·.setPiece r.id j { fail := some t })
  | .store _ _ => s.refuse r.core r.id t
  | .atomic _ _ _ _ _ _ => r.names.foldl (fun s n => s.refuse n.1 n.2 t) s

/-- Request `r`, which has left the list, ends with the stack-unavailable fault, and so does everything that a rule keeps after it: no
such access is performed (R125), nor is one that its core issues before it has taken the fault. -/
def State.serveGone (s : State) (r : Req) : State :=
  let later := s.reqs.filter (s.keeps r)
  (r :: later).foldl (fun s e => s.refuseReq e (stackTrap e.addr))
    { s with reqs := s.reqs.filter (fun e => !later.contains e), gone := s.gone ++ r :: later }

/-- Request `r` ends with that fault: an access that a rule keeps before it has, and its core has not taken the fault (R125). -/
def State.lost (s : State) (r : Req) : Bool := s.gone.any (s.keeps · r)

/-- The stack of the request's home is unavailable. -/
def State.locGone (s : State) : Loc → Bool
  | .mem pa => s.homeGone pa
  | .spad _ _ => false

/-- The request goes to the home of another core (R94). -/
def Req.remote (r : Req) : Bool :=
  match r.loc with
  | .mem pa => paHome pa != r.core
  | .spad _ _ => false

/-- Request `i` leaves the list, and what it took to be served is observed, where it went to another core's home (R378). -/
def State.takeReq (s : State) (i : Nat) (r : Req) : State :=
  if r.remote then (s.dropReq i).observe 1 r.core r.began else s.dropReq i

/-- A load part or a store part is performed at its place (R94, R101). -/
def State.serve (s : State) (i : Nat) (r : Req) : State :=
  let s := s.takeReq i r
  if s.locGone r.loc || s.lost r then s.serveGone r
  else match r.kind with
  | .load j =>
    let (s, p) := s.readLoc r.core r.key r.loc r.len r.addr
    let (s, p) := s.overlay r.core r.id r.loc p
    s.updCtx r.core (·.setPiece r.id j p)
  | .store bs t => match s.writeLoc r.core r.key r.loc bs t r.addr with
    | (s, none) => s.storeDone r.core r.id
    | (s, some f) => s.refuse r.core r.id f
  | .atomic _ _ _ _ _ _ => s

/-! ## The events of the memory system -/

/-- HOME_REQUEST: a memory port serves request `i` (R94). -/
def execHomeRequest (i : Nat) (s : State) : Host.Outcome State Fault Refusal :=
  match s.servable i with
  | some r => match r.loc with
    | .mem _ => .next (if r.isAtomic || r.vec.isSome then s else s.whole (·.serve i r))
    | .spad _ _ => .next s
  | none => .next s

/-- GANG_WINDOW_REQUEST: request `i` arrives at the target member's scratchpad (R86, R98). -/
def execGangWindowRequest (i : Nat) (s : State) : Host.Outcome State Fault Refusal :=
  match s.servable i with
  | some r => match r.loc with
    | .mem _ => .next s
    | .spad k _ => .next (if r.vec.isSome then s else s.whole fun s => (s.remoteTurn k).serve i r)
  | none => .next s

/-- Every write that request `i`, a write of another die, is to come after has been applied where it goes (R121). -/
def State.covered (s : State) (i : Nat) (r : Req) : Bool :=
  match r.vec with
  | some v => !({ s with reqs := s.reqs.eraseIdx i } : State).covers (locDie r.loc) v
  | none => true

/-- The write of request `r` counts as applied at its die. -/
def State.noteApplied (s : State) (r : Req) : State := s.noteVec r.vec (locDie r.loc) (dieOf r.core)

/-- CROSS_DIE_WRITE_APPLY: a die applies an arriving write once every write that its vector covers has been applied
there (R121). -/
def execCrossDieWriteApply (i : Nat) (s : State) : Host.Outcome State Fault Refusal :=
  match s.servable i with
  | some r =>
    if r.vec.isNone || r.isAtomic || !s.covered i r then .next s
    else .next (s.whole fun s => ((s.placeTurn r.core r.loc).serve i r).noteApplied r)
  | none => .next s

/-! ## Atomic engines -/

/-- The atomic of request `r` at physical address `pa` (R102). An uncorrectable or unauthenticated granule, or a full
label table, refuses it (R100, R266). One that is performed cannot be repeated (R359). DESIGN CHOICE (log entry 67): a protected
member's atomic takes the home's value without what the member has logged for it. -/
def State.performAtomic (s : State) (r : Req) (pa : Nat) : State :=
  match r.kind with
  | .atomic op ty v vt cmp at_ =>
    let w := atWidth ty
    let g := pa / 64
    if s.homeGone pa || s.lost r then s.serveGone r
    else
      let (s, p) := s.readHome r.key pa w r.addr
      match p.fail with
      | some f => s.refuseReq r (atomicFault f r.addr)
      | none => match s.joinFor r.core (joinTags [p.tag, vt]) with
        | (s, some f, _) => s.refuseReq r f
        | (s, none, u) =>
          let m := ofBytes p.bytes
          let s := ((s.memWrite pa (bytesOf w (atNew op ty m v.toNat cmp.toNat))).setMemTag g u).seal r.key g
          let s := r.names.foldl (fun s n => s.updCore n.1 fun k => { k with irrev := true, atomDone := true }) s
          let old : SVal := { v := atOld ty m, t := joinTags [p.tag, at_] }
          { s with replies := s.replies ++ r.names.map fun n => (n.1, n.2, old) }
  | _ => s

/-- Atomics that the engine of cluster `k` could perform now, as positions in the list of requests. -/
def State.atomicsAt (s : State) (k : Nat) : List (Nat × Req) :=
  (List.range s.reqs.length).filterMap fun i => (s.servable i).bind fun r => match r.loc with
    | .mem pa => if r.isAtomic && clusterOf (paHome pa) = k && s.covered i r then some (i, r) else none
    | .spad _ _ => none

/-- Requests from outside cluster `k`, at the positions listed, reach its engine's inbound ports or are still on their way: which port
each enters by, and in which order they come, the routers choose (R9, R103; log entry 2). -/
def State.enterPorts (s : State) (k : Nat) : List Nat → State
  | [] => s
  | i :: is =>
    match s.reqs[i]? with
    | none => enterPorts s k is
    | some r =>
      if clusterOf r.core = k || r.port.isSome then enterPorts s k is
      else
        let (n, s) := s.choose
        if n % 6 = 5 then enterPorts s k is
        else
          let (id, s) := s.newId
          enterPorts { s with reqs := s.reqs.set i { r with port := some (n % 6, id) } } k is

/-- The first source after `last` in ring order among those listed (R103). -/
def nextSource (last : Nat) (l : List Nat) : Nat :=
  ((List.range 21).map fun i => (last + 1 + i) % 21).find? l.contains |>.getD 0

/-- The source of an engine that a request waits at, and its place in that source's queue (R103): cores of the cluster 0 to 15, then the
ports. -/
def Req.source (r : Req) (k : Nat) : Option (Nat × Nat) :=
  if clusterOf r.core = k then some (localIndex r.core, r.id) else r.port.map fun p => (16 + p.1, p.2)

/-- The head of source `src` among the atomics listed. -/
def headOf (k src : Nat) (q : List (Nat × Req)) : Option (Nat × Req) :=
  q.foldl (fun b e => match e.2.source k with
    | some (n, at_) => if n != src then b else match b with
      | some f => if (f.2.source k).any (·.2 ≤ at_) then b else some e
      | none => some e
    | none => b) none

/-- A duplex task whose partners both stand at their trick goes on once its atomics are performed (R116, R361). -/
def State.retryDuplex (s : State) (r : Req) : State :=
  match (s.core r.core).task with
  | some t => if t.duplex then s.tryDuplex t else s
  | none => s

/-- ATOMIC_ENGINE_GRANT: the engine of cluster `k` grants the head of one source in ring order and performs its atomic (R103). -/
def execAtomicEngineGrant (k : Nat) (s : State) : Host.Outcome State Fault Refusal :=
  let s := s.enterPorts k ((s.atomicsAt k).map (·.1))
  let q := s.atomicsAt k
  let sources := q.filterMap fun e => (e.2.source k).map (·.1)
  if sources.isEmpty then .next s
  else
    let src := nextSource (s.cluster k).last sources
    let s := s.updCluster k fun x => { x with last := src }
    match headOf k src q with
    | some (i, r) => match r.loc with
      | .mem pa => .next (s.whole fun s => (((s.dropReq i).performAtomic r pa).noteApplied r).retryDuplex r)
      | .spad _ _ => .next s
    | none => .next s

/-! ## Replies -/

/-- The fault that a piece of load `l` gives: an element of a stream names the element's address, whichever of its granules it
concerns (R188). -/
def Load.fault (l : Load) (t : Trap) : Trap := if l.strm && t.cause != 9 && t.cause != 10 then { t with val := l.addr } else t

/-- The entry that load `l` delivers, once all its pieces have been served (R101, R186). -/
def Load.entry (l : Load) (now : Nat) : Option QEntry :=
  if l.pieces.all Option.isSome then
    let ps : List Piece := l.pieces.filterMap fun x => x
    some (loadEntry l.size l.signed (ps.flatMap (·.bytes)) (joinTags (l.atag :: ps.map fun p => p.tag))
      ((ps.findSome? (·.fail)).map l.fault) now)
  else none

/-- The result of a load enters the member from outside (R367). -/
def State.recordLoad (s : State) (c : Nat) (e : QEntry) : State :=
  if e.poison.isSome then s else s.recordIn c (bytesOf (if e.wide then 64 else 8) e.v.toNat) e.t

/-- LOAD_DATA_RETURN: the oldest load of lq `q` enters its queue (R16, R186). -/
def execLoadDataReturn (c q : Nat) (s : State) : Host.Outcome State Fault Refusal :=
  let k := s.ctx c
  match k.loads.find? (·.q = q) with
  | some l => match l.entry s.now with
    | some e => .next (s.whole fun s => ((s.observe 0 c l.began).recordLoad c e).updCtx c fun k =>
        let k : Ctx := { k.setQueue (qLq q) ((k.queue (qLq q)).push e) with loads := k.loads.filter (·.id != l.id) }
        if e.poison.any fun t => t.cause != 6 || t.mac then k.endStream l.id else k)
    | none => .next s
  | none => .next s

/-- ATOMIC_REPLY: the oldest old value on its way to core `c` lands in `at.r` (R192). -/
def execAtomicReply (c : Nat) (s : State) : Host.Outcome State Fault Refusal :=
  match s.replies.find? (·.1 = c) with
  | some r => .next (s.whole fun s => ({ s with replies := s.replies.erase r }.recordIn c (bytesOf 8 r.2.2.v.toNat) r.2.2.t).updCore c fun k =>
      let k := k.reply r.2.1 [(0x5FD, r.2.2)]
      { k with ctx := { k.ctx with atoms := k.ctx.atoms.erase r.2.1 } })
  | none => .next s

/-- REFUSAL_RETURN: the oldest refusal on its way to core `c` returns; its fault is raised at the A stream's next group.
A refused atomic leaves `at.r` as it was (R92, R100). -/
def execRefusalReturn (c : Nat) (s : State) : Host.Outcome State Fault Refusal :=
  match s.refusals.find? (·.1 = c) with
  | some r =>
    let s : State := { s with refusals := s.refusals.erase r }
    let s := s.updCtx c fun k => { (k.endStream r.2.1).faultA r.2.2 with
      atoms := k.atoms.erase r.2.1, pend := k.pend.filter fun e => !(e.2 = r.2.1 && k.atoms.contains r.2.1) }
    .next (s.storeDone c r.2.1)
  | none => .next s

/-- STREAM_ELEMENT_ISSUE (R188). -/
def execStreamElementIssue (c i : Nat) (s : State) : Host.Outcome State Fault Refusal := .next (s.whole (·.streamElement c i))

/-- RESULT_LAND: every result of core `c` that is due lands (R148, R155). -/
def execResultLand (c : Nat) (s : State) : Host.Outcome State Fault Refusal := .next (s.landDue c)

/-! ## Translation caches (R93) -/

/-- XLINV_WRITE (R93, Table 4). -/
def execXlinvWrite (p : Nat) (v : Dword) (s : State) : Host.Outcome State Fault Refusal := .next (s.partWrite p 0x14 v)

/-- A cached entry is one that the invalidation names. -/
def Tlb.dropped (t : Tlb) (p : Nat) (q : Part) : Bool :=
  t.part = p && (match q.xlKind.toNat with
    | 0 => t.hits p (q.xlVpn.toNat * 2 ^ 16)
    | 1 => dfield t.pte 5 5 = 0
    | _ => true)

/-- XLINV_COMPLETE: every core and cluster cache that covers the partition has invalidated, and BUSY clears (R93). -/
def execXlinvComplete (p : Nat) (s : State) : Host.Outcome State Fault Refusal :=
  let q := s.part p
  if !q.xlBusy then .next s
  else
    let cores := s.cores.foldl (fun m e =>
      m.set {} e.1 { e.2 with tlb := e.2.tlb.filter fun t => !t.dropped p q }) s.cores
    let clusters := s.clusters.foldl (fun m e =>
      m.set {} e.1 { e.2 with tlb := e.2.tlb.filter fun t => !t.dropped p q }) s.clusters
    .next ({ s with cores := cores, clusters := clusters }.updPart p fun x => { x with xlBusy := false })

end Sys2Proof.Machine
end

