-- ==== Sys2Proof/Machine/Copy.lean ====
section
/-! DEFINITION. The copy engine (R305 to R323, R330, R331): acceptance, checks, tensor handles, chunks, conversions
(R52 to R55), packed chains (R319, R320) and status words. -/

namespace Sys2Proof.Machine

/-! ## Fields of the words (Tables 1 to 3) -/

def Copy.cmd (k : Copy) : Nat := dfield k.w0.v 7 0
def Copy.hasHs (k : Copy) : Bool := dfield k.w0.v 8 8 = 1
def Copy.hasHd (k : Copy) : Bool := dfield k.w0.v 9 9 = 1
def Copy.packed (k : Copy) : Bool := dfield k.w0.v 10 10 = 1 || k.cmd = 5
def Copy.skip (k : Copy) : Bool := dfield k.w0.v 11 11 = 1
def Copy.sw (k : Copy) : Bool := dfield k.w0.v 12 12 = 1 || k.cmd = 6
def Copy.aux (k : Copy) : Nat := dfield k.w0.v 31 16
def Copy.count (k : Copy) : Nat := dfield k.w0.v 55 32
def Copy.sreg (k : Copy) : Nat := dfield k.w3.v 4 0
def Copy.nost (k : Copy) : Bool := dfield k.w3.v 5 5 = 1
def Copy.nidx (k : Copy) : Nat := dfield k.w0.v 19 16
def Copy.index (k : Copy) : Nat := dfield k.w3.v 63 16
def Copy.port (k : Copy) : Nat := dfield k.w3.v 19 16
def Copy.sstr (k : Copy) : Int := toSigned 24 (dfield k.w3.v 39 16)
def Copy.dstr (k : Copy) : Int := toSigned 24 (dfield k.w3.v 63 40)
/-- Join of the tags of the words and CTLAB (R312, R317). -/
def Copy.tag (k : Copy) : LTag := joinTags [k.w0.t, k.w1.t, k.w2.t, k.w3.t, k.ctl]
/-- Rows of the commands that have them. -/
def Copy.rows (k : Copy) : Nat := if k.cmd = 1 || k.cmd = 6 then k.aux else if k.cmd = 2 || k.cmd = 3 then k.nidx else 1

/-- Flags that a command permits: HS, HD, PK, SKIP, SW as bits 8 to 12 of word 0 (Table 3). -/
def flagsOf (cmd : Nat) : Nat :=
  match cmd with
  | 0 | 7 => 0x400
  | 1 => 0x1300
  | 2 => 0x1900
  | 3 => 0x200
  | 6 => 0x100
  | _ => 0

/-- Error codes (Table 7). -/
def eCmd : Nat := 16
def eSize : Nat := 17
def eAlign : Nat := 18
def eConv : Nat := 19
def eHandle : Nat := 20
def eIntegrity : Nat := 21
def eBlkFmt : Nat := 22
def eBlkCrc : Nat := 23
def eLabel : Nat := 24
def eLink : Nat := 25
def eStack : Nat := 26

/-- The codes of Table 7 other than 0. -/
def copyCodes : List Nat := (List.range 10).map (· + 1) ++ (List.range 11).map (· + 16)

/-- The error code of a refused access (R318). For a refusal that Table 7 does not list the code is a free value, one of
its codes (log entry 9). -/
def State.copyError (s : State) (t : Trap) : State × Nat :=
  match t.cause.toNat with
  | 6 => (s, eIntegrity)
  | 7 => (s, 10)
  | 9 | 10 => (s, eLabel)
  | 17 => (s, eStack)
  | _ =>
    if (t.cause = 1 || t.cause = 2) && t.reason.toNat ≤ 10 then (s, t.reason.toNat)
    else
      let (n, s) := s.choose
      (s, copyCodes.getD (n % copyCodes.length) eCmd)

/-! ## Accesses of the engine -/

/-- The refusal of a chunk of a task with these BANKS by the scratchpad that holds it (R18, R85, R97). -/
def State.partsRefused (s : State) (banks : BitVec 20) (write : Bool) (ps : List APart) : Option Trap :=
  (mergeParts ps).findSome? fun p => match p.1 with
    | .spad k o => (s.core k).spadRefusal banks o p.2.1 write p.2.2.1
    | .mem _ => none

/-- The chunk counted in the buffers it touches. -/
def State.partsCount (s : State) (write : Bool) (ps : List APart) : State :=
  (mergeParts ps).foldl (fun s p => match p.1 with
    | .spad k o => s.updCtx k (·.bufCount o p.2.1 write)
    | .mem _ => s) s

/-- The first `n` bytes of the parts. -/
def takeParts : List APart → Nat → List APart
  | [], _ => []
  | (l, m, r) :: ps, n => if n = 0 then [] else (l, min m n, r) :: takeParts ps (n - m)

/-- The engine's access takes its place at each scratchpad that it reaches (R98). -/
def State.engineTurn (s : State) (c : Nat) (ps : List APart) : State :=
  ps.foldl (fun s p => match p.1 with
    | .spad k _ => if k = c then s.turnFor k 3 else s.remoteTurn k
    | .mem _ => s) s

/-- The parts read in turn, by command `id` of core `c`: each byte with the tag of its granule. -/
def State.readBytes (s : State) (c id : Nat) : List APart → State × Except Trap (List (Byte × LTag))
  | [] => (s, .ok [])
  | (l, n, a, key) :: ps =>
    let r := match l with
      | .mem pa => s.readHome key pa n a
      | .spad k o => (s, (s.core k).readSpad o n a)
    match r.1.overlay c id l r.2 with
    | (s, { bytes := _, tag := _, fail := some t }) => (s, .error t)
    | (s, { bytes := b, tag := tg, fail := none }) => match readBytes s c id ps with
      | (s, .error t) => (s, .error t)
      | (s, .ok r) => (s, .ok (b.map (·, tg) ++ r))

/-- The parts of an engine's access by core `c` (task `t`), checked. -/
def State.engineParts (s : State) (c : Nat) (t : Task) (kind : AccessKind) (a : Dword) (len : Nat) :
    State × Except Trap (List APart) :=
  match s.place c t kind a len with
  | (s, .error e) => (s, .error e)
  | (s, .ok ps) =>
    let s := s.engineTurn c ps
    match s.partsRefused (s.core c).banks (kind = .write) ps with
    | some e => (s, .error e)
    | none => (s, .ok ps)

/-- An engine's read that no buffer counts. -/
def State.enginePeek (s : State) (c : Nat) (t : Task) (id : Nat) (a : Dword) (len : Nat) :
    State × Except Trap (List (Byte × LTag)) :=
  match s.engineParts c t .read a len with
  | (s, .error e) => (s, .error e)
  | (s, .ok ps) => s.readBytes c id ps

/-- An engine's read, for command `id` of core `c`. -/
def State.engineRead (s : State) (c : Nat) (t : Task) (id : Nat) (a : Dword) (len : Nat) :
    State × Except Trap (List (Byte × LTag)) :=
  match s.engineParts c t .read a len with
  | (s, .error e) => (s, .error e)
  | (s, .ok ps) => match s.readBytes c id ps with
    | (s, .error e) => (s, .error e)
    | (s, .ok r) => (s.partsCount false ps, .ok r)

/-- Writes that go to the log of a protected member instead of their place (R358). -/
def logged (c : Nat) (t : Task) (l : Loc) : Bool := t.isProtected && !ownSpad c l

/-- Parts written in turn; each granule takes the join of its bytes' tags and `more` (R265, R312). Gives the bytes
written, and the fault that ended it. A protected member's writes that leave its scratchpad go to its log (R358). -/
def State.writeBytes (s : State) (c : Nat) (t : Task) (more : LTag) : List APart → List (Byte × LTag) → State × Nat × Option Trap
  | [], _ => (s, 0, none)
  | (l, n, a, key) :: ps, bs =>
    let here := bs.take n
    let tg := joinTags (more :: here.map (·.2))
    let r : State × Option Trap :=
      if logged c t l then
        let (id, s) := s.newId
        (s.logWrite c t { core := c, loc := l, addr := a, bytes := here.map (·.1), tag := tg, id := id, key := key }, none)
      else match l with
        | .mem pa => (s.crossWrite c l).writeHome c key pa (here.map (·.1)) tg a
        | .spad k o => (s.crossWrite c l).writeSpad c k o (here.map (·.1)) tg a
    match r with
    | (s, some e) => (s, 0, some e)
    | (s, none) =>
      let (s, m, e) := writeBytes s c t more ps (bs.drop n)
      (s, n + m, e)

/-- An engine's write: bytes written, which the buffers count (R97), and the fault. -/
def State.engineWrite (s : State) (c : Nat) (t : Task) (a : Dword) (bs : List (Byte × LTag)) (more : LTag) :
    State × Nat × Option Trap :=
  match s.engineParts c t .write a bs.length with
  | (s, .error e) => (s, 0, some e)
  | (s, .ok ps) =>
    let (s, n, e) := s.writeBytes c t more ps bs
    (s.partsCount true ((takeParts ps n).filter fun p => !logged c t p.1), n, e)

/-! ## Acceptance (R308, R309, R323) -/

/-- The d register of SREG. -/
def Copy.dPort (k : Copy) : Nat := 0x90 + k.sreg

/-- The scratchpad that an address names: core and offset. -/
def spadOf (c : Nat) (t : Task) (a : Dword) : Option (Nat × Nat) :=
  match decodeAddr c t a with
  | some (some (.spad k o)) => some (k, o)
  | _ => none

/-- Source and destination addresses of row `r` of a COPY or COPY2D without handles. -/
def Copy.rowAddrs (k : Copy) (r : Nat) : Dword × Dword :=
  if k.cmd = 1 then (k.w1.v + BitVec.ofInt 64 (r * k.sstr), k.w2.v + BitVec.ofInt 64 (r * k.dstr)) else (k.w1.v, k.w2.v)

/-- The format registers that govern each row between banks, as they stand (R310): those of the banks of the row's first
source and first destination byte (log entry 10). -/
def State.rowFormats (s : State) (c : Nat) (t : Task) (k : Copy) : List (Option (Dword × Dword)) :=
  if (k.cmd = 0 && !k.packed) || (k.cmd = 1 && !k.hasHs && !k.hasHd) then
    (List.range k.rows).map fun r =>
      let (a, b) := k.rowAddrs r
      match spadOf c t a, spadOf c t b with
      | some (i, o), some (j, p) => some ((s.core i).bfmtOf (o / 0x8000), (s.core j).bfmtOf (p / 0x8000))
      | _, _ => none
  else []

/-- A command captured by core `x.core`. -/
def Trig.copy (x : Trig) (s : State) (id : Nat) : Copy :=
  let c := s.ctx x.core
  let t := taskOf s x.core
  let k : Copy := { w0 := c.scalar 0x600, w1 := c.scalar 0x601, w2 := c.scalar 0x602, w3 := x.t, rm := vfRm c.vflags,
                    ftz := vfFtz c.vflags, ctl := x.ctl, token := id, began := s.now }
  let regs (a : Dword) : NMap Dword := match spadOf x.core t a with
    | some (j, _) => (s.core j).bfmt
    | none => []
  { k with convs := s.rowFormats x.core t k, bfSrc := regs k.w1.v, bfDst := regs k.w2.v }

/-- `ce.go` and `ce.try`. -/
def copyOp (isTry : Bool) (x : Trig) (s : State) : Fired :=
  let c := s.ctx x.core
  let (id, s') := s.newId
  let k := x.copy s id
  let reply (s : State) (r : Nat) : State :=
    if isTry then x.result s 1 [(0x63D, BitVec.ofNat 64 r)] [k.w0.t, k.w1.t, k.w2.t, k.w3.t] else s
  if !k.nost && c.portPending k.dPort then .stall
  else if 8 ≤ c.copies.length + c.nosts.length then (if isTry then .done (reply s 1) false else .stall)
  else if anyMuck [k.w0.t, k.w1.t, k.w2.t, k.w3.t] then
    let s := if k.nost then s
      else s.updCtx x.core fun c => { (c.setScalar k.dPort { t := [mucked] }) with pend := c.pend.filter fun e => e.1 != k.dPort }
    .done (if isTry then x.muckResult s [0x63D] else s) false
  else
    let s := s'.updCtx x.core fun c =>
      let c := { c with copies := c.copies ++ [k] }
      if k.nost then c else c.await [k.dPort] id
    .done (reply s 0) false

def fireCeGo : Trig → State → Fired := copyOp false
def fireCeTry : Trig → State → Fired := copyOp true

/-- The latches that a `ce` trigger reads. -/
def copyLatches (_ : Nat) : List Nat := [0x600, 0x601, 0x602]

/-! ## The end of a command (R316, R317, R321, R331) -/

/-- USE of the slot granule at physical address `pa`, whose page has key `key`, is written by an atomic of core `c` (R316). -/
def State.putUse (s : State) (c key pa use : Nat) : State :=
  ((s.crossWrite c (.mem pa)).memWrite (pa + 24) (bytesOf 4 use)).seal key (pa / 64)

/-- The second atomic of R316, by core `c`: USE goes down by one, and stays at 0 (R331). The home may refuse it (R372): the error. -/
def State.dropUse (s : State) (c : Nat) (h : Option HSlot) : State × Option Nat :=
  match h with
  | some h =>
    match s.readHome h.key (h.pa + 24) 4 0 with
    | (s, p) => match p.fail with
      | some t => let (s, n) := s.copyError t; (s, some n)
      | none => (if ofBytes p.bytes = 0 then s else s.putUse c h.key h.pa (ofBytes p.bytes - 1), none)
  | none => (s, none)

/-- Both handles of a command are released: the error that its status word gives, that of a refused release where it had none
(R318, R372). -/
def State.dropUses (s : State) (c : Nat) (k : Copy) (err : Nat) : State × Nat :=
  match s.dropUse c k.hs with
  | (s, e1) => match s.dropUse c k.hd with
    | (s, e2) => (s, if err = 0 then (e1.orElse fun _ => e2).getD 0 else err)

/-- The status word (Table 6). -/
def Copy.status (k : Copy) (err : Nat) : Dword :=
  pack [(0, k.dbytes % 2 ^ 24), (24, k.sbytes % 2 ^ 24), (48, k.oor % 16), (52, err), (58, if k.ilt then 1 else 0),
    (59, if k.cfl then 1 else 0)]

/-- The latest write of the command that a log holds, where a trick has not performed it meanwhile (R330, R358). -/
def State.stillLogged (s : State) (c : Nat) (k : Copy) : List Nat :=
  k.logged.toList.filter fun id => (s.part (((s.core c).task.map (·.part)).getD 0)).held.any fun h => h.core = c && h.id = id

/-- The status word of a command lands (R317); it is an input of the member from outside (R367). -/
def State.statusIn (s : State) (c : Nat) (k : Copy) (err : Nat) : State :=
  match s.inputIn c (k.status err) k.tag with
  | (s, v) => s.updCore c (·.reply k.token [(k.dPort, v)])

/-- The head command of core `c` has ended: its handles are released and its status word lands. One without a status word holds
its entry until its last write is performed (R330, R358). -/
def State.copyEnd (s : State) (c : Nat) (k : Copy) (err : Nat) : State :=
  let (s, err) := s.dropUses c k err
  let s := (s.observe 2 c k.began).updCtx c fun x => { x with
    copies := x.copies.tail, nosts := x.nosts ++ if k.nost then s.stillLogged c k else [] }
  if k.nost then s else s.statusIn c k err

/-- The head command of core `c` goes on as `k`; where it has ended, with all its packets acknowledged, it ends. -/
def State.copyPut (s : State) (c : Nat) (k : Copy) : State :=
  match k.done with
  | some e => if k.unacked.isEmpty || e = eLink then s.copyEnd c k e else s.updCtx c fun x => { x with copies := k :: x.copies.tail }
  | none => s.updCtx c fun x => { x with copies := k :: x.copies.tail }

/-! ## Starting a command (R311) -/

/-- The destination addresses of the rows of a swizzled command, its first one at least (R310, R314). -/
def Copy.swzRows (k : Copy) : List Dword :=
  (List.range (max 1 k.rows)).map fun (r : Nat) =>
    k.w2.v + BitVec.ofInt 64 (if k.cmd = 2 then (r : Int) * (k.count : Int) else (r : Int) * k.dstr)

/-- Step 1 of R311: the checks of R306 and R314's conditions on the command: a copy between two banks converts, whichever formats they
hold (R310). -/
def Copy.bad (k : Copy) (c : Nat) (t : Task) : Bool :=
  let flags := dfield k.w0.v 12 8 * 256
  let inSpad (a : Dword) : Bool := (spadOf c t a).isSome
  8 ≤ k.cmd || dfield k.w0.v 15 13 != 0 || dfield k.w0.v 63 56 != 0 || dfield k.w3.v 15 6 != 0 || (k.nost && k.sreg != 0)
    || flags &&& flagsOf k.cmd != flags
    || ((k.cmd = 0 || k.cmd = 4 || k.cmd = 5 || k.cmd = 7) && k.aux != 0)
    || ((k.cmd = 2 || k.cmd = 3) && dfield k.w0.v 31 20 != 0)
    || ((k.cmd = 0 || k.cmd = 4 || k.cmd = 5) && k.index != 0)
    || (k.cmd = 7 && dfield k.w3.v 63 20 != 0)
    || (k.cmd = 2 && !k.hasHs) || (k.cmd = 3 && !k.hasHd)
    || (k.sw && (k.hasHd || !k.swzRows.all inSpad
      || k.convs.any Option.isSome))

/-- The port is down: neither up nor in training (R349, R350). -/
def LinkPort.isDown (p : LinkPort) : Bool := !p.up && p.training.isNone

/-- Step 4: the handle's slot is checked, USE goes up by one, and the slot is captured (R316, R331). -/
def State.takeHandle (s : State) (c : Nat) (t : Task) (h : Dword) : State × Except Nat HSlot :=
  let p := s.part t.part
  let slot := dfield h 23 0
  let va : Dword := BitVec.ofNat 64 (p.thBase.toNat * 64 + 64 * slot)
  let fail (s : State) (e : Trap) : State × Except Nat HSlot :=
    let (s, n) := s.copyError e
    (s, .error n)
  if 2 ^ min p.thLogn.toNat 24 ≤ slot then (s, .error eHandle)
  else match s.locate c t .atomic va with
    | (s, .error e) => fail s e
    | (s, .ok (.spad _ _, _)) => (s, .error eHandle)
    | (s, .ok (.mem pa, key)) =>
      let (s, g) := s.readHome key pa 64 va
      match g.fail with
      | some e => fail s e
      | none =>
        let v := BitVec.ofNat 512 (ofBytes g.bytes)
        let d (i : Nat) : Dword := dwordOf v i
        let use := dfield (d 3) 31 0
        if dfield (d 0) 56 56 = 0 || dfield (d 0) 55 48 != dfield h 31 24 || dfield (d 2) 63 48 != 0
            || dfield (d 3) 63 32 != 0 || (List.range 4).any (fun i => d (4 + i) != 0) || use = 0xFFFFFFFF then
          (s, .error eHandle)
        else
          (s.putUse c key pa (use + 1), .ok {
            pa := pa, key := key, base := dfield (d 0) 47 0, rows := dfield (d 1) 31 0, rbytes := dfield (d 1) 63 32
            stride := toSigned 48 (dfield (d 2) 47 0) })

/-- Row `i` of a handle. -/
def HSlot.row (h : HSlot) (i : Nat) : Dword := BitVec.ofInt 64 (h.base + i * h.stride)

/-- Bytes that `n` source bytes of a row become. -/
def convLen (conv : Option (Dword × Dword)) (n : Nat) : Nat :=
  match conv with
  | some (a, b) =>
    let sf := bfmtFmt a
    let df := bfmtFmt b
    if rawMove sf df then n
    else (n / fmtUnit sf * fmtElems sf + fmtElems df - 1) / fmtElems df * fmtUnit df
  | none => n

/-- R52: the alignment that a copy between banks needs. -/
def convMisaligned (conv : Option (Dword × Dword)) (n : Nat) (a b : Dword) : Bool :=
  match conv with
  | some (x, y) =>
    let sf := bfmtFmt x
    let df := bfmtFmt y
    n % fmtUnit sf != 0 || (fmtIsBfp sf && a.toNat % fmtUnit sf != 0) || (fmtIsBfp df && b.toNat % fmtUnit df != 0)
  | none => false

/-- R53: elements that do not go into RE36. -/
def convRefused (conv : Option (Dword × Dword)) : Bool :=
  match conv with
  | some (x, y) => !rawMove (bfmtFmt x) (bfmtFmt y) && !convertible (bfmtFmt x) (bfmtFmt y)
  | none => false

/-- Step 6 for one row: byte alignment and swizzle (R52, R314). -/
def Copy.rowMisaligned (k : Copy) (r : Run) (a : Dword) : Bool :=
  convMisaligned r.conv k.count a r.dst || (k.sw && r.dst.toNat % 2 ^ 20 % k.count != 0)

def isPow2 (n : Nat) : Bool := n != 0 && 2 ^ n.log2 = n

/-- The indices of a gather or scatter, read in turn (R313): value and tag. -/
def State.readIndices (s : State) (c : Nat) (t : Task) (id a : Nat) : Nat → State × Except Trap (List (Nat × LTag))
  | 0 => (s, .ok [])
  | n + 1 =>
    match s.engineRead c t id (BitVec.ofNat 64 a) 4 with
    | (s, .error e) => (s, .error e)
    | (s, .ok bs) => match readIndices s c t id (a + 4) n with
      | (s, .error e) => (s, .error e)
      | (s, .ok r) => (s, .ok ((ofBytes (bs.map (·.1)), joinTags (bs.map (·.2))) :: r))

/-- The block header at an address of a chain: SLEN, ELEN, METHOD, CRCP, CRC, or none where it breaks R152, R319. -/
def chainHeader (v : Vec) : Option (Nat × Nat × Nat × Bool × Nat) :=
  let d (i : Nat) : Dword := dwordOf v i
  let m := dfield (d 0) 15 8
  let sl := dfield (d 0) 63 32
  let el := dfield (d 1) 31 0
  let crcp := dfield (d 0) 24 24 = 1
  if dfield (d 0) 7 0 != 0xB6 || 4 ≤ m || dfield (d 0) 23 16 != 0 || dfield (d 0) 31 26 != 0 || dfield (d 1) 63 32 != 0
      || (List.range 4).any (fun i => d (2 + i) != 0) || dfield (d 6) 63 32 != 0 || d 7 != 0
      || (!crcp && dfield (d 6) 31 0 != 0)
      || (m = 0 && sl != el) || (m = 1 && sl != (el + 4) / 5) || (m = 2 && sl != (el + 1) / 2) then none
  else some (sl, el, m, crcp, dfield (d 6) 31 0)

/-- The destination accepts a method (R320): its bank at acceptance, or a home, also one that an XCOPY reaches through a port. -/
def Copy.accepts (k : Copy) (c : Nat) (t : Task) (m : Nat) (dst : Dword) : Bool :=
  if m = 0 then true
  else if k.cmd = 5 then false
  else if k.cmd = 7 then false
  else match spadOf c t dst with
    | some (_, o) => dfield (k.bfDst.get bfmtReset (o / 0x8000)) (32 + m) (32 + m) = 1
    | none => false

/-- Bytes that the blocks of a chain put at the destination, as far as their headers can be read (R311 step 5). No buffer counts this
look at the headers. -/
def State.chainTotal (s : State) (c : Nat) (t : Task) (k : Copy) : Nat → Nat → Nat → State × Nat
  | 0, _, acc => (s, acc)
  | n + 1, pos, acc =>
    if k.count ≤ pos then (s, acc)
    else match s.enginePeek c t k.token (k.w1.v + BitVec.ofNat 64 pos) 64 with
      | (s, .error _) => (s, acc)
      | (s, .ok bs) =>
        match chainHeader (BitVec.ofNat 512 (ofBytes (bs.map (·.1)))) with
        | none => (s, acc)
        | some (sl, el, m, _, _) =>
          let here := if k.accepts c t m (k.w2.v + BitVec.ofNat 64 acc) then sl else el
          chainTotal s c t k n (pos + 64 + (sl + 63) / 64 * 64) (acc + here)

/-- The rows of a GATHER or SCATTER: its runs, and the out-of-range indices (R313). -/
def State.indexRuns (s : State) (c : Nat) (t : Task) (k : Copy) (swz : Nat) : State × Except Nat (List Run × Nat) :=
  let n := k.count
  let h := (if k.cmd = 2 then k.hs else k.hd).getD {}
  match s.readIndices c t k.token k.index k.nidx with
  | (s, .error e) =>
    let (s, x) := s.copyError e
    (s, .error x)
  | (s, .ok is) =>
    let runs := is.zipIdx.filterMap fun (i, j) =>
      let near := BitVec.ofNat 64 (j * n)
      if i.1 < h.rows then
        some (if k.cmd = 2 then { src := .addr (h.row i.1), dst := k.w2.v + near, len := n, tag := i.2, swz := swz : Run }
          else { src := .addr (k.w1.v + near), dst := h.row i.1, len := n, tag := i.2 : Run })
      else if k.cmd = 2 && !k.skip then some { src := .zeros, dst := k.w2.v + near, len := n, tag := i.2, swz := swz : Run }
      else none
    (s, .ok (runs, is.countP fun i => h.rows ≤ i.1))

/-- The rows of a command, steps 5 and 6 of R311 and the indices: its runs, and the out-of-range indices. The size counts
before the alignment, and both before any index is read. -/
def State.copyRuns (s : State) (c : Nat) (t : Task) (k : Copy) : State × Except Nat (List Run × Nat) :=
  let n := k.count
  let swz := if k.sw then n else 0
  let handles := [k.hs, k.hd].filterMap fun x => x
  let sizeBad (total : Nat) : Bool :=
    2 ^ 24 ≤ total || handles.any fun h => h.rbytes < n || ((k.cmd = 1 || k.cmd = 6) && h.rows < k.aux)
  let swzBad : Bool := k.sw && (!isPow2 n || n < 16 || 4096 < n)
  if k.packed then
    match s.chainTotal c t k (n / 64 + 1) 0 0 with
    | (s, total) =>
      if 2 ^ 24 ≤ total then (s, .error eSize)
      else if k.w1.v.toNat % 64 != 0 || n % 64 != 0 then (s, .error eAlign)
      else (s, .ok ([], 0))
  else if k.cmd = 2 || k.cmd = 3 then
    if sizeBad (k.nidx * n) then (s, .error eSize)
    else if k.index % 4 != 0 || swzBad || (k.sw && k.w2.v.toNat % 2 ^ 20 % n != 0) then (s, .error eAlign)
    else s.indexRuns c t k swz
  else
    let src (r : Nat) : RunSrc :=
      if k.cmd = 4 then .pattern k.w1.v
      else match k.hs with
        | some h => .addr (h.row r)
        | none => .addr (k.w1.v + BitVec.ofInt 64 (if k.cmd = 1 || k.cmd = 6 then r * k.sstr else 0))
    let dst (r : Nat) : Dword := match k.hd with
      | some h => h.row r
      | none => k.w2.v + BitVec.ofInt 64 (if k.cmd = 1 || k.cmd = 6 then r * k.dstr else 0)
    let runs := (List.range k.rows).map fun r =>
      { src := src r, dst := dst r, len := n, swz := swz, conv := (k.convs.getD r none) : Run }
    let at_ (r : Run) : Dword := match r.src with
      | .addr a => a
      | _ => 0
    if sizeBad (runs.foldl (fun a r => a + convLen r.conv n) 0) then (s, .error eSize)
    else if swzBad || runs.any (fun r => k.rowMisaligned r (at_ r)) then (s, .error eAlign)
    else if runs.any fun r => convRefused r.conv then (s, .error eConv)
    else (s, .ok (runs, 0))

/-- The handle of an endpoint, where the command has one. -/
def State.takeEnd (s : State) (c : Nat) (t : Task) (has : Bool) (h : Dword) : State × Except Nat (Option HSlot) :=
  if !has then (s, .ok none)
  else match s.takeHandle c t h with
    | (s, .error e) => (s, .error e)
    | (s, .ok x) => (s, .ok (some x))

/-- Steps 3 to 6 of R311, once the command's fields are found good: the command as started, or ended at once. -/
def State.copyOpen (s : State) (c : Nat) (t : Task) (k : Copy) : State × Copy :=
  let k := { k with started := true }
  if k.count = 0 || k.rows = 0 then (s, { k with done := some 0 })
  else match s.takeEnd c t k.hasHs k.w1.v with
    | (s, .error e) => (s, { k with done := some e })
    | (s, .ok a) => match s.takeEnd c t k.hasHd k.w2.v with
      | (s, .error e) => (s, { k with hs := a, done := some e })
      | (s, .ok b) =>
        let k := { k with hs := a, hd := b }
        if k.cmd = 7 && (s.port k.port).isDown then (s, { k with done := some eLink })
        else match s.copyRuns c t k with
          | (s, .error e) => (s, { k with done := some e })
          | (s, .ok (runs, oor)) => (s, { k with
              runs := runs, oor := oor, chainLen := if k.packed then k.count else 0
              done := if runs.isEmpty && !k.packed then some 0 else none })

/-- The command's fields end it at once (R311 steps 1 and 2). -/
def Copy.refused (k : Copy) (c : Nat) (t : Task) : Bool :=
  k.bad c t || ((k.cmd = 2 || k.cmd = 3) && 8 < k.nidx) || (k.cmd = 7 && 11 < k.port)

/-- The head command of core `c` is started (R311), once every access of the core before its acceptance is performed (R119). -/
def State.copyStart (s : State) (c : Nat) (t : Task) (k : Copy) : State :=
  if !s.settledBefore c k.token then s
  else if k.refused c t then s.copyPut c { k with started := true, done := some eCmd }
  else match s.copyOpen c t k with
    | (s, k) => (s.updCore c fun x => if k.cmd = 7 then { x with irrev := true } else x).copyPut c k

/-- The head command of core `c`, if it is command `cmd` and has not started, is started. -/
def State.startHead (s : State) (c cmd : Nat) : State :=
  match (s.ctx c).copies.head?, (s.core c).task with
  | some k, some t => if k.cmd = cmd && !k.started then s.copyStart c t k else s
  | _, _ => s

/-! ## Chunks (R312, R314, R319, R320, R350) -/

/-- Swizzled placement of a row of `n` bytes at offset `off` (R314). -/
def swizzle (off n : Nat) (bs : List (Byte × LTag)) : List (Byte × LTag) :=
  let nc := n / 16
  let r := off / n
  (List.range nc).flatMap fun c => (bs.drop (16 * (c ^^^ (r % nc)))).take 16

/-- Where the exponent bytes of `n` blocks of format `fmt` from address `a` on lie, as ranges: those of one bank follow each other from
that bank's own EXPBASE on (R47, R49). DESIGN CHOICE (log entry 63): an EXPBASE that takes them past the end of the scratchpad is added
into the address all the same. -/
def expRanges (regs : NMap Dword) (fmt : Nat) (a : Dword) (n : Nat) : List (Dword × Nat) :=
  let off := a.toNat % 2 ^ 20
  let at_ (o : Nat) : Dword :=
    a - BitVec.ofNat 64 off + BitVec.ofNat 64 (bfmtExpBase (regs.get bfmtReset (o / 0x8000)) + o % 0x8000 / fmtUnit fmt)
  let here := min n ((0x8000 - off % 0x8000) / fmtUnit fmt)
  let next := (off / 0x8000 + 1) * 0x8000
  (if here = 0 then [] else [(at_ off, here)]) ++ if here < n then [(at_ next, n - here)] else []

/-- Elements that one chunk of a converting copy takes: whole granules on both sides. -/
def convElems (df : Nat) : Nat := if fmtUnit df = 8 then 320 else 640

/-- The command ends with the error of a refused access. -/
def State.chunkFail (s : State) (k : Copy) (e : Trap) : State × Copy :=
  let (s, x) := s.copyError e
  (s, { k with done := some x })

/-- The run at the head has gone on by these bytes of its source and of its destination. -/
def Copy.advance (k : Copy) (r : Run) (used made : Nat) : Copy :=
  let r := { r with pos := r.pos + used, dpos := r.dpos + made }
  { k with runs := if r.len ≤ r.pos then k.runs.tail else r :: k.runs.tail }

/-- A chunk's bytes written at their address; what is done is counted, and an error ends the command. -/
def State.chunkOut (s : State) (c : Nat) (t : Task) (k : Copy) (r : Run) (bs : List (Byte × LTag)) (used : Nat) : State × Copy :=
  match s.engineWrite c t (r.dst + BitVec.ofNat 64 r.dpos) bs (joinTags [k.tag, r.tag]) with
  | (s', n, e) =>
    let k := { k with dbytes := k.dbytes + n, logged := if s.nextId < s'.nextId then some (s'.nextId - 1) else k.logged }
    match e with
    | some e => s'.chunkFail k e
    | none => (s', k.advance r used bs.length)

/-- A conversion of a chunk's source bytes: destination bytes with tags, exponent bytes, flags (R52 to R54). -/
def convertChunk (rm : RMode) (ftz : Bool) (sf df : Nat) (bs : List (Byte × LTag)) (exps : List (Byte × LTag)) :
    List (Byte × LTag) × List (Byte × LTag) × FlagBits :=
  let (els, f1) := decodeAll sf ftz (exps.map fun e => e.1.toNat) (bs.map (·.1))
  let (out, es, f2) := encodeAll df rm ftz els
  let n := els.length
  let unitTag (u : Nat) : LTag :=
    joinTags (((bs.drop (u * fmtUnit sf)).take (fmtUnit sf)).map (·.2) ++ ((exps[u]?).map (·.2)).toList)
  let tagAt (i : Nat) : LTag :=
    let lo := i / fmtUnit df * fmtElems df
    let hi := min (lo + fmtElems df) n - 1
    joinTags ((List.range (hi / fmtElems sf - lo / fmtElems sf + 1)).map fun j => unitTag (lo / fmtElems sf + j))
  (out.zipIdx.map fun (b, i) => (b, tagAt i),
    if fmtIsBfp df then es.zipIdx.map fun (e, i) => (BitVec.ofNat 8 e, tagAt (i * fmtUnit df)) else [], f1 ||| f2)

/-- Ranges read in turn. -/
def State.readRanges (s : State) (c : Nat) (t : Task) (id : Nat) : List (Dword × Nat) → State × Except Trap (List (Byte × LTag))
  | [] => (s, .ok [])
  | (a, n) :: rs => match s.engineRead c t id a n with
    | (s, .error e) => (s, .error e)
    | (s, .ok bs) => match readRanges s c t id rs with
      | (s, .error e) => (s, .error e)
      | (s, .ok r) => (s, .ok (bs ++ r))

/-- Bytes written to ranges in turn, up to the first fault. -/
def State.writeRanges (s : State) (c : Nat) (t : Task) (more : LTag) : List (Dword × Nat) → List (Byte × LTag) → State × Option Trap
  | [], _ => (s, none)
  | (a, n) :: rs, bs => match s.engineWrite c t a (bs.take n) more with
    | (s, _, some e) => (s, some e)
    | (s, _, none) => writeRanges s c t more rs (bs.drop n)

/-- A chunk of a row between two banks whose formats differ, or that moves exponents with its blocks. -/
def State.convChunk (s : State) (c : Nat) (t : Task) (k : Copy) (r : Run) (a x y : Dword) : State × Copy :=
  let sf := bfmtFmt x
  let df := bfmtFmt y
  let raw := rawMove sf df
  let src := a + BitVec.ofNat 64 r.pos
  let dst := r.dst + BitVec.ofNat 64 r.dpos
  let n := min (r.len - r.pos) (if raw then 4096 else convElems df / fmtElems sf * fmtUnit sf)
  match s.engineRead c t k.token src n with
  | (s, .error e) => s.chunkFail k e
  | (s, .ok bs) =>
    let k := { k with sbytes := k.sbytes + n }
    match s.readRanges c t k.token (if fmtIsBfp sf then expRanges k.bfSrc sf src (n / fmtUnit sf) else []) with
    | (s, .error e) => s.chunkFail k e
    | (s, .ok es) =>
      let (out, oe, fl) := if raw then (bs, es, 0) else convertChunk (rmode k.rm) k.ftz sf df bs es
      let s := s.updCtx c (·.setFlags fl)
      let k := { k with ilt := k.ilt || fl &&& fILT != 0, cfl := k.cfl || fl != 0 }
      match s.chunkOut c t k r out n with
      | (s, k) =>
        if k.done.isSome then (s, k)
        else match s.writeRanges c t k.tag (expRanges k.bfDst df dst oe.length) oe with
          | (s, none) => (s, k)
          | (s, some e) => s.chunkFail k e

/-- Packets of an XCOPY chunk: at most 2 KiB each (R350). -/
def packetsOf (seq : BitVec 32) (va : Dword) (c : Nat) (nd : Option (Nat × Nat × Nat)) (bs : List Byte) : List Packet :=
  (List.range ((bs.length + 2047) / 2048)).map fun i =>
    { seq := seq + BitVec.ofNat 32 i, va := va + BitVec.ofNat 64 (2048 * i), bytes := (bs.drop (2048 * i)).take 2048, core := c
      node := nd }

/-- A chunk of an XCOPY goes into the port's replay buffer, which holds 256 packets, while the port is up; else it waits (R348,
R350). -/
def State.sendChunk (s : State) (c : Nat) (k : Copy) (r : Run) (bs : List Byte) (used : Nat) : State × Copy :=
  let p := s.port k.port
  let ps := packetsOf p.txSeq (r.dst + BitVec.ofNat 64 r.dpos) c k.node bs
  if !p.up || 256 < p.replay.length + ps.length then ({ s with wait := true }, k)
  else
    (s.updPort k.port fun p =>
      { p with replay := p.replay ++ ps, txSeq := p.txSeq + BitVec.ofNat 32 ps.length, sentAt := s.now },
     { k.advance r used bs.length with unacked := k.unacked ++ ps.map fun q => (q.seq, q.bytes.length) })

/-- The records of a zero-run payload: literal bytes and runs of zeros, or none where it is malformed (R320). -/
def zeroRun : Nat → List (Byte × LTag) → Option (List (Byte × LTag))
  | _, [] => some []
  | n + 1, a :: b :: r =>
    let h := a.1.toNat + 256 * b.1.toNat
    let len := h % 2 ^ 15
    if len = 0 then none
    else if 2 ^ 15 ≤ h then (zeroRun n r).map (List.replicate len (0, joinTags [a.2, b.2]) ++ ·)
    else if r.length < len then none
    else (zeroRun n (r.drop len)).map (r.take len ++ ·)
  | _, _ => none

/-- A payload expanded by its method, cut to ELEN, with whether an illegal T5 code was met (R320). -/
def expandPayload (m el : Nat) (bs : List (Byte × LTag)) : Option (List (Byte × LTag) × Bool) :=
  match m with
  | 0 => some (bs, false)
  | 1 => some ((bs.flatMap fun b => (t5Decode b.1.toNat).map fun d => (BitVec.ofInt 8 d, b.2)).take el,
      bs.any fun b => t5Illegal b.1.toNat)
  | 2 => some ((bs.flatMap fun b => (i4Decode b.1.toNat).map fun d => (BitVec.ofInt 8 d, b.2)).take el, false)
  | _ => (zeroRun bs.length bs).bind fun r => if r.length = el then some (r, false) else none

/-- Source bytes of a chunk of a run: 4,096 bytes on either side, so many whole bytes of a packed block's payload as fill no more (R312;
log entry 32). -/
def Run.chunk (r : Run) : Nat :=
  match r.meth with
  | some (1, _) => 819
  | some (2, _) => 2048
  | _ => 4096

/-- The next chunk of a run: 4,096 bytes, or what is left of it (R312; log entry 32). A packed block's payload is expanded as it goes
(R320). -/
def State.runChunk (s : State) (c : Nat) (t : Task) (k : Copy) (r : Run) : State × Copy :=
  let dst := r.dst + BitVec.ofNat 64 r.dpos
  let n := if r.swz != 0 then r.len else min (r.len - r.pos) r.chunk
  let out (s : State) (k : Copy) (bs : List (Byte × LTag)) : State × Copy :=
    let bs := if r.swz = 0 then bs else swizzle (dst.toNat % 2 ^ 20) r.swz bs
    if k.cmd = 7 then s.sendChunk c k r (bs.map (·.1)) n else s.chunkOut c t k r bs n
  match r.src with
  | .addr a =>
    match s.engineRead c t k.token (a + BitVec.ofNat 64 r.pos) n with
    | (s, .error e) => s.chunkFail k e
    | (s, .ok bs) =>
      let k := { k with sbytes := k.sbytes + n + if r.len ≤ r.pos + n then r.pad else 0 }
      match r.meth.bind fun m => expandPayload m.1 (m.2 - r.dpos) bs with
      | some (bs, ill) => out (s.updCtx c (·.setFlags (flagIf ill fILT))) { k with ilt := k.ilt || ill } bs
      | none => out s k bs
  | .pattern v => out s k ((List.range n).map fun i => (v.extractLsb' (8 * ((r.pos + i) % 8)) 8, k.w1.t))
  | .zeros => out s k (List.replicate n (0, []))
  | .bytes bs => out s k ((bs.drop r.pos).take n)

/-- The next block of a packed chain is checked, and its bytes become a run (R319, R320). Only a block with a CRC or of method 3 has its
payload read before any byte is written. -/
def State.nextBlock (s : State) (c : Nat) (t : Task) (k : Copy) (dpos : Nat) : State × Copy :=
  let a := k.w1.v + BitVec.ofNat 64 k.chain
  match s.engineRead c t k.token a 64 with
  | (s, .error e) => s.chunkFail k e
  | (s, .ok hb) =>
    let k := { k with sbytes := k.sbytes + 64 }
    match chainHeader (BitVec.ofNat 512 (ofBytes (hb.map (·.1)))) with
    | none => (s, { k with done := some eBlkFmt })
    | some (sl, el, m, crcp, crc) =>
      let g := (sl + 63) / 64 * 64
      let dst := k.w2.v + BitVec.ofNat 64 dpos
      let whole := k.accepts c t m dst
      if k.chainLen < k.chain + 64 + g then (s, { k with done := some eBlkFmt })
      else if !crcp && m != 3 then
        (s, { k with
          chain := k.chain + 64 + g
          runs := if sl = 0 then [] else [{ src := .addr (a + 64), dst := dst, len := sl, pad := g - sl
                                            meth := if whole then none else some (m, el) }] })
      else match s.engineRead c t k.token (a + 64) sl with
        | (s, .error e) => s.chunkFail k e
        | (s, .ok bs) =>
          let k := { k with sbytes := k.sbytes + g, chain := k.chain + 64 + g }
          match expandPayload m el bs with
          | none => (s, { k with done := some eBlkFmt })
          | some (out, ill) =>
            if crcp && crc32c (bs.map (·.1)) != crc then (s, { k with done := some eBlkCrc })
            else
              let out := if whole then bs else out
              let ill := ill && !whole
              (s.updCtx c (·.setFlags (flagIf ill fILT)), { k with
                ilt := k.ilt || ill
                runs := if out.isEmpty then [] else
                  [{ src := .bytes out, dst := dst, len := out.length }] })

/-- Bytes of the destination sequence sent so far. -/
def Copy.sentBytes (k : Copy) : Nat := k.dbytes + (k.unacked.map (·.2)).foldl (· + ·) 0

/-- The command has done everything. -/
def Copy.finish (k : Copy) : Copy := if k.runs.isEmpty && k.chainLen ≤ k.chain && k.done.isNone then { k with done := some 0 } else k

/-- One chunk of a started command, which ends once nothing is left. -/
def State.copyChunk (s : State) (c : Nat) (t : Task) (k : Copy) : State × Copy :=
  let out := match k.runs with
    | r :: _ => match r.src, r.conv with
      | .addr a, some (x, y) =>
        if rawMove (bfmtFmt x) (bfmtFmt y) && !(fmtIsBfp (bfmtFmt x) && bfmtFmt x = bfmtFmt y) then s.runChunk c t k r
        else s.convChunk c t k r a x y
      | _, _ => s.runChunk c t k r
    | [] => if k.chain < k.chainLen then s.nextBlock c t k k.sentBytes else (s, k)
  (out.1, out.2.finish)

/-- The command still has something for the engine to do. -/
def Copy.ready (k : Copy) : Bool := k.done.isNone

/-- The queue of core `c` is the next in round robin that is not idle (R321). -/
def State.copyTurn (s : State) (c : Nat) : Bool :=
  let g := clusterOf c
  let busy := (clusterCores g).filter fun m => match (s.ctx m).copies with
    | k :: _ => k.ready
    | [] => false
  let last := (s.cluster g).lastCopy
  let first := (List.range 16).find? fun i => busy.any fun m => localIndex m = (last + 1 + i) % 16
  match first with
  | some i => localIndex c = (last + 1 + i) % 16
  | none => false

/-! ## The engine's steps -/

def execCopy (c : Nat) (s : State) : Host.Outcome State Fault Refusal := .next (s.whole (·.startHead c 0))
def execCopy2d (c : Nat) (s : State) : Host.Outcome State Fault Refusal := .next (s.whole (·.startHead c 1))
def execGather (c : Nat) (s : State) : Host.Outcome State Fault Refusal := .next (s.whole (·.startHead c 2))
def execScatter (c : Nat) (s : State) : Host.Outcome State Fault Refusal := .next (s.whole (·.startHead c 3))
def execFill (c : Nat) (s : State) : Host.Outcome State Fault Refusal := .next (s.whole (·.startHead c 4))
def execExpand (c : Nat) (s : State) : Host.Outcome State Fault Refusal := .next (s.whole (·.startHead c 5))
def execSwz (c : Nat) (s : State) : Host.Outcome State Fault Refusal := .next (s.whole (·.startHead c 6))
def execXcopy (c : Nat) (s : State) : Host.Outcome State Fault Refusal := .next (s.whole (·.startHead c 7))

/-- The engine's turn at the queue of core `c`: one chunk of its head command, or its start (R312, R321). -/
def State.copyStep (s : State) (c : Nat) : State :=
  match (s.ctx c).copies, (s.core c).task with
  | k :: _, some t =>
    if !s.copyTurn c then s
    else if !k.started then s.copyStart c t k
    else match s.copyChunk c t k with
      | (s, k) => (s.updCluster (clusterOf c) fun x => { x with lastCopy := localIndex c }).copyPut c k
  | _, _ => s

/-- COPY_CHUNK: the engine takes one chunk of the head command of core `c`, in its turn; a command that has not started
is started instead (R312, R321). DESIGN CHOICE (log entry 51): a queue whose head has to wait keeps its turn. -/
def execCopyChunk (c : Nat) (s : State) : Host.Outcome State Fault Refusal := .next (s.whole (·.copyStep c))

end Sys2Proof.Machine
end

