-- ==== Sys2Proof/WellFormed.lean ====
section
/-! DEFINITION. When an instruction word is well formed: the checks of the scanner that concern one word (R137).
The checks that concern a group are made when the group issues (Machine/Issue.lean). -/

namespace Sys2Proof

open Machine

/-- The trigger port of a trigger instruction (R146, Tables 2 and 3). -/
def Instr.port : Instr → Option Nat
  | .alAdd _ => some 0x108
  | .alSub _ => some 0x109
  | .alAnd _ => some 0x10A
  | .alOr _ => some 0x10B
  | .alXor _ => some 0x10C
  | .alAndn _ => some 0x10D
  | .alShl _ => some 0x10E
  | .alShr _ => some 0x10F
  | .alSar _ => some 0x110
  | .alRol _ => some 0x111
  | .alMin _ => some 0x112
  | .alMax _ => some 0x113
  | .alMinu _ => some 0x114
  | .alMaxu _ => some 0x115
  | .alSel _ => some 0x116
  | .alClz _ => some 0x117
  | .alCtz _ => some 0x118
  | .alPopc _ => some 0x119
  | .alBswap _ => some 0x11A
  | .alExt _ => some 0x11B
  | .alIns _ => some 0x11C
  | .alSext _ => some 0x11D
  | .alEq _ => some 0x11E
  | .alNe _ => some 0x11F
  | .alLt _ => some 0x120
  | .alLe _ => some 0x121
  | .alLtu _ => some 0x122
  | .alLeu _ => some 0x123
  | .alTst _ => some 0x124
  | .alFadd _ => some 0x125
  | .alFsub _ => some 0x126
  | .alFmul _ => some 0x127
  | .alFma _ => some 0x128
  | .alFmin _ => some 0x129
  | .alFmax _ => some 0x12A
  | .alFeq _ => some 0x12B
  | .alFlt _ => some 0x12C
  | .alFle _ => some 0x12D
  | .alCvt _ => some 0x12E
  | .alFcls _ => some 0x12F
  | .mdMul _ => some 0x188
  | .mdMulu _ => some 0x189
  | .mdMulsu _ => some 0x18A
  | .mdDiv _ => some 0x18B
  | .mdDivu _ => some 0x18C
  | .mdMulw _ => some 0x18D
  | .mdDivw _ => some 0x18E
  | .mdDivuw _ => some 0x18F
  | .vxAdd _ => some 0x210
  | .vxSub _ => some 0x211
  | .vxMul _ => some 0x212
  | .vxFma _ => some 0x213
  | .vxFms _ => some 0x214
  | .vxFnma _ => some 0x215
  | .vxMin _ => some 0x216
  | .vxMax _ => some 0x217
  | .vxAbs _ => some 0x218
  | .vxNeg _ => some 0x219
  | .vxAnd _ => some 0x21A
  | .vxOr _ => some 0x21B
  | .vxXor _ => some 0x21C
  | .vxAndn _ => some 0x21D
  | .vxShl _ => some 0x21E
  | .vxShr _ => some 0x21F
  | .vxSar _ => some 0x220
  | .vxEq _ => some 0x221
  | .vxNe _ => some 0x222
  | .vxLt _ => some 0x223
  | .vxLe _ => some 0x224
  | .vxSel _ => some 0x225
  | .vxPerm _ => some 0x226
  | .vxShuf _ => some 0x227
  | .vxRot _ => some 0x228
  | .vxIota _ => some 0x229
  | .vxRsum _ => some 0x22A
  | .vxRmax _ => some 0x22B
  | .vxRmin _ => some 0x22C
  | .vxRandb _ => some 0x22D
  | .vxRorb _ => some 0x22E
  | .vxRxorb _ => some 0x22F
  | .vxRcp _ => some 0x230
  | .vxRsqrt _ => some 0x231
  | .vxExp2 _ => some 0x232
  | .vxDiv _ => some 0x233
  | .vxSqrt _ => some 0x234
  | .vxCvt _ => some 0x235
  | .vxCvts _ => some 0x236
  | .vxPack _ => some 0x237
  | .vxUnpk _ => some 0x238
  | .vxT5un _ => some 0x239
  | .vxI4un _ => some 0x23A
  | .vxBfpk _ => some 0x23B
  | .vxBfun _ => some 0x23C
  | .vxMulh _ => some 0x23D
  | .vxAvg _ => some 0x23E
  | .vxPopc _ => some 0x23F
  | .vxClz _ => some 0x240
  | .vxIns _ => some 0x241
  | .vxAny _ => some 0x242
  | .vxAll _ => some 0x243
  | .vxBlend _ => some 0x244
  | .vxCls _ => some 0x245
  | .vxDot _ => some 0x246
  | .vxRndi _ => some 0x247
  | .mxClaim _ => some 0x308
  | .mxRelease _ => some 0x309
  | .mxFill _ => some 0x30A
  | .mxMma _ => some 0x30B
  | .mxMmat _ => some 0x30C
  | .mxDrain _ => some 0x30D
  | .mxBsum _ => some 0x30E
  | .mxZero _ => some 0x30F
  | .mxTeam _ => some 0x310
  | .mxProg _ => some 0x311
  | .lbAssume _ => some 0x388
  | .lbJoin _ => some 0x389
  | .lbMerge _ => some 0x38A
  | .lbContra _ => some 0x38B
  | .lbCommit _ => some 0x38C
  | .lbHolds _ => some 0x38D
  | .lbTag _ => some 0x38E
  | .lbRetag _ => some 0x38F
  | .lbEnvs _ => some 0x390
  | .lbEnv _ => some 0x391
  | .lbCount _ => some 0x392
  | .lbMin _ => some 0x393
  | .lbCensus _ => some 0x394
  | .lbCtlset _ => some 0x395
  | .lbCtlget _ => some 0x396
  | .lbSpace _ => some 0x397
  | .clVar _ => some 0x3C8
  | .clIte _ => some 0x3C9
  | .clApply _ => some 0x3CA
  | .clNot _ => some 0x3CB
  | .clRestrict _ => some 0x3CC
  | .clExists _ => some 0x3CD
  | .clCount _ => some 0x3CE
  | .clWcount _ => some 0x3CF
  | .clSat _ => some 0x3D0
  | .clRef _ => some 0x3D1
  | .clUnref _ => some 0x3D2
  | .clSwap _ => some 0x3D3
  | .clSize _ => some 0x3D4
  | .clGc _ => some 0x3D5
  | .clMincount _ => some 0x3D6
  | .msSend _ => some 0x408
  | .msPut _ => some 0x409
  | .msPoll _ => some 0x40A
  | .msChan _ => some 0x40B
  | .ctJmp _ => some 0x448
  | .ctCall _ => some 0x449
  | .ctRet _ => some 0x44A
  | .ctLoop _ => some 0x44B
  | .ctWait _ => some 0x44C
  | .ctFence _ => some 0x44D
  | .ctTrick _ => some 0x44E
  | .ctBar _ => some 0x44F
  | .ctTrigger _ => some 0x450
  | .ctLaunch _ => some 0x451
  | .ctExit _ => some 0x452
  | .ctWdrive _ => some 0x453
  | .ctRsr _ => some 0x454
  | .ctWsr _ => some 0x455
  | .ctEret _ => some 0x456
  | .ctRsrs _ => some 0x457
  | .ctWsrs _ => some 0x458
  | .agLd _ => some 0x508
  | .agLds _ => some 0x509
  | .agSt _ => some 0x50A
  | .agSts _ => some 0x50B
  | .agStd _ => some 0x50C
  | .agStds _ => some 0x50D
  | .agStrm _ => some 0x50E
  | .agStrw _ => some 0x50F
  | .agPf _ => some 0x510
  | .aaAdd _ => some 0x588
  | .aaSub _ => some 0x589
  | .aaAnd _ => some 0x58A
  | .aaOr _ => some 0x58B
  | .aaXor _ => some 0x58C
  | .aaShl _ => some 0x58D
  | .aaShr _ => some 0x58E
  | .aaEq _ => some 0x58F
  | .acJmp _ => some 0x5C8
  | .acCall _ => some 0x5C9
  | .acRet _ => some 0x5CA
  | .acLoop _ => some 0x5CB
  | .acWait _ => some 0x5CC
  | .acRsr _ => some 0x5CD
  | .atAdd _ => some 0x5E8
  | .atFadd _ => some 0x5E9
  | .atMin _ => some 0x5EA
  | .atMax _ => some 0x5EB
  | .atAmax _ => some 0x5EC
  | .atAmaxr _ => some 0x5ED
  | .atAnd _ => some 0x5EE
  | .atOr _ => some 0x5EF
  | .atXor _ => some 0x5F0
  | .atXchg _ => some 0x5F1
  | .atCas _ => some 0x5F2
  | .ceGo _ => some 0x608
  | .ceTry _ => some 0x609
  | .move _ | .queueDrop _ | .limm _ | .sched _ | .modx _ | .brk _ | .nop _ => none
  | .resultLand _ => none
  | .loadDataReturn _ _ => none
  | .atomicReply _ => none
  | .streamElementIssue _ _ => none
  | .homeRequest _ => none
  | .refusalReturn _ => none
  | .atomicEngineGrant _ => none
  | .crossDieWriteApply _ => none
  | .xlinvWrite _ _ => none
  | .xlinvComplete _ => none
  | .bufDeclare _ _ _ => none
  | .bufReset _ _ => none
  | .bufSetfull _ _ => none
  | .bufSetempty _ _ => none
  | .vflagsWrite _ _ => none
  | .bfmtWrite _ _ _ => none
  | .ctlabWrite _ _ _ => none
  | .returnStackPopRead _ _ => none
  | .returnStackInsert _ _ _ => none
  | .registerWrite _ _ _ _ => none
  | .launchRecordStore _ _ _ => none
  | .launchDequeue _ => none
  | .placementAttempt _ => none
  | .reserveProbe _ _ => none
  | .probeResponse _ => none
  | .reserveCommit _ _ => none
  | .grantRelease _ => none
  | .grantLapse _ => none
  | .backoffExpire _ _ _ => none
  | .escalatedPlacement _ => none
  | .taskStart _ _ _ => none
  | .xformNodeStart _ _ => none
  | .eventNodeStart _ => none
  | .subgraphServe _ => none
  | .subgraphAdmit _ => none
  | .memberFinish _ => none
  | .memberRelease _ => none
  | .quantumExpire _ _ _ => none
  | .memberEvict _ => none
  | .trapEntry _ => none
  | .haltTreeStop _ => none
  | .debugHalt _ => none
  | .debugPortAccess _ _ _ _ _ => none
  | .debugResume _ => none
  | .scanSegment _ _ _ _ _ _ _ => none
  | .translatePortable _ _ _ _ => none
  | .copy _ => none
  | .copy2d _ => none
  | .gather _ => none
  | .scatter _ => none
  | .fill _ => none
  | .expand _ => none
  | .swz _ => none
  | .xcopy _ => none
  | .copyChunk _ => none
  | .mxFillComplete _ => none
  | .mxMmaComplete _ => none
  | .mmatStepStart _ => none
  | .mxDrainComplete _ => none
  | .bsumSetArrive _ => none
  | .nopBlock _ => none
  | .mvaccBlock _ => none
  | .mmaccBlock _ => none
  | .biasBlock _ => none
  | .scaleBlock _ => none
  | .actBlock _ => none
  | .loadvBlock _ => none
  | .storeBlock _ => none
  | .sendBlock _ => none
  | .selectBlock _ => none
  | .syncBlock _ => none
  | .exitBlock _ => none
  | .trapbBlock _ => none
  | .blockPayloadGranule _ => none
  | .labelResolveReply _ => none
  | .carillonOperation _ => none
  | .messageArrive _ => none
  | .hostWindowAccess _ _ _ _ _ => none
  | .linkPacketReceive _ _ _ _ _ => none
  | .linkAckReceive _ _ _ => none
  | .linkNakReceive _ _ => none
  | .linkAckTimeout _ => none
  | .laneFailure _ _ => none
  | .linkRetrainComplete _ _ => none
  | .linkTrainRetry _ _ _ => none
  | .lctlReset _ => none
  | .eventRingWrite => none
  | .rollback _ => none
  | .duplexItemArrive _ => none
  | .duplexPairTimeout _ => none
  | .verdict _ _ _ => none
  | .scoreDecay _ => none
  | .quarantine _ => none
  | .layerwarn _ _ => none
  | .stkctlAck _ => none
  | .layerAckTimeout _ => none
  | .layerRemapComplete _ => none
  | .layerAbruptFailure _ _ _ => none
  | .refreshTakeover _ => none
  | .srenter _ _ => none
  | .selfRefreshTimeout _ => none
  | .srexit _ _ => none
  | .fieldTest _ _ => none
  | .resetWipe _ => none
  | .partitionCreate _ _ _ _ _ _ => none
  | .partitionDestroy _ => none
  | .labelSpaceCreate _ _ _ _ _ _ => none
  | .labelSpaceDestroy _ _ => none
  | .diagramSpaceCreate _ _ _ _ _ _ _ _ _ => none
  | .diagramSpaceDestroy _ _ => none
  | .telemetryRecord _ => none
  | .monitorSample _ _ => none
  | .monitorEnable _ _ => none
  | .monitorDump _ => none
  | .bootVerify _ _ => none
  | .quoteRequest _ => none
  | .lifecycleTransition _ _ => none
  | .commitResponse _ => none
  | .gangWindowRequest _ => none
  | .peerReset _ => none
  | .stackReset _ => none
  | .supervisorKill _ _ _ => none
  | .translationCacheInvalidate _ _ => none
  | .dataWindowSetup _ _ _ _ => none
  | .peerInboundBind _ _ => none
  | .sharedKeyGrant _ _ => none
  | .recordReplay _ _ => none

/-- The fields of a trigger instruction. -/
def Instr.trigW : Instr → Option TrigW
  | .alAdd w => some w
  | .alSub w => some w
  | .alAnd w => some w
  | .alOr w => some w
  | .alXor w => some w
  | .alAndn w => some w
  | .alShl w => some w
  | .alShr w => some w
  | .alSar w => some w
  | .alRol w => some w
  | .alMin w => some w
  | .alMax w => some w
  | .alMinu w => some w
  | .alMaxu w => some w
  | .alSel w => some w
  | .alClz w => some w
  | .alCtz w => some w
  | .alPopc w => some w
  | .alBswap w => some w
  | .alExt w => some w
  | .alIns w => some w
  | .alSext w => some w
  | .alEq w => some w
  | .alNe w => some w
  | .alLt w => some w
  | .alLe w => some w
  | .alLtu w => some w
  | .alLeu w => some w
  | .alTst w => some w
  | .alFadd w => some w
  | .alFsub w => some w
  | .alFmul w => some w
  | .alFma w => some w
  | .alFmin w => some w
  | .alFmax w => some w
  | .alFeq w => some w
  | .alFlt w => some w
  | .alFle w => some w
  | .alCvt w => some w
  | .alFcls w => some w
  | .mdMul w => some w
  | .mdMulu w => some w
  | .mdMulsu w => some w
  | .mdDiv w => some w
  | .mdDivu w => some w
  | .mdMulw w => some w
  | .mdDivw w => some w
  | .mdDivuw w => some w
  | .vxAdd w => some w
  | .vxSub w => some w
  | .vxMul w => some w
  | .vxFma w => some w
  | .vxFms w => some w
  | .vxFnma w => some w
  | .vxMin w => some w
  | .vxMax w => some w
  | .vxAbs w => some w
  | .vxNeg w => some w
  | .vxAnd w => some w
  | .vxOr w => some w
  | .vxXor w => some w
  | .vxAndn w => some w
  | .vxShl w => some w
  | .vxShr w => some w
  | .vxSar w => some w
  | .vxEq w => some w
  | .vxNe w => some w
  | .vxLt w => some w
  | .vxLe w => some w
  | .vxSel w => some w
  | .vxPerm w => some w
  | .vxShuf w => some w
  | .vxRot w => some w
  | .vxIota w => some w
  | .vxRsum w => some w
  | .vxRmax w => some w
  | .vxRmin w => some w
  | .vxRandb w => some w
  | .vxRorb w => some w
  | .vxRxorb w => some w
  | .vxRcp w => some w
  | .vxRsqrt w => some w
  | .vxExp2 w => some w
  | .vxDiv w => some w
  | .vxSqrt w => some w
  | .vxCvt w => some w
  | .vxCvts w => some w
  | .vxPack w => some w
  | .vxUnpk w => some w
  | .vxT5un w => some w
  | .vxI4un w => some w
  | .vxBfpk w => some w
  | .vxBfun w => some w
  | .vxMulh w => some w
  | .vxAvg w => some w
  | .vxPopc w => some w
  | .vxClz w => some w
  | .vxIns w => some w
  | .vxAny w => some w
  | .vxAll w => some w
  | .vxBlend w => some w
  | .vxCls w => some w
  | .vxDot w => some w
  | .vxRndi w => some w
  | .mxClaim w => some w
  | .mxRelease w => some w
  | .mxFill w => some w
  | .mxMma w => some w
  | .mxMmat w => some w
  | .mxDrain w => some w
  | .mxBsum w => some w
  | .mxZero w => some w
  | .mxTeam w => some w
  | .mxProg w => some w
  | .lbAssume w => some w
  | .lbJoin w => some w
  | .lbMerge w => some w
  | .lbContra w => some w
  | .lbCommit w => some w
  | .lbHolds w => some w
  | .lbTag w => some w
  | .lbRetag w => some w
  | .lbEnvs w => some w
  | .lbEnv w => some w
  | .lbCount w => some w
  | .lbMin w => some w
  | .lbCensus w => some w
  | .lbCtlset w => some w
  | .lbCtlget w => some w
  | .lbSpace w => some w
  | .clVar w => some w
  | .clIte w => some w
  | .clApply w => some w
  | .clNot w => some w
  | .clRestrict w => some w
  | .clExists w => some w
  | .clCount w => some w
  | .clWcount w => some w
  | .clSat w => some w
  | .clRef w => some w
  | .clUnref w => some w
  | .clSwap w => some w
  | .clSize w => some w
  | .clGc w => some w
  | .clMincount w => some w
  | .msSend w => some w
  | .msPut w => some w
  | .msPoll w => some w
  | .msChan w => some w
  | .ctJmp w => some w
  | .ctCall w => some w
  | .ctRet w => some w
  | .ctLoop w => some w
  | .ctWait w => some w
  | .ctFence w => some w
  | .ctTrick w => some w
  | .ctBar w => some w
  | .ctTrigger w => some w
  | .ctLaunch w => some w
  | .ctExit w => some w
  | .ctWdrive w => some w
  | .ctRsr w => some w
  | .ctWsr w => some w
  | .ctEret w => some w
  | .ctRsrs w => some w
  | .ctWsrs w => some w
  | .agLd w => some w
  | .agLds w => some w
  | .agSt w => some w
  | .agSts w => some w
  | .agStd w => some w
  | .agStds w => some w
  | .agStrm w => some w
  | .agStrw w => some w
  | .agPf w => some w
  | .aaAdd w => some w
  | .aaSub w => some w
  | .aaAnd w => some w
  | .aaOr w => some w
  | .aaXor w => some w
  | .aaShl w => some w
  | .aaShr w => some w
  | .aaEq w => some w
  | .acJmp w => some w
  | .acCall w => some w
  | .acRet w => some w
  | .acLoop w => some w
  | .acWait w => some w
  | .acRsr w => some w
  | .atAdd w => some w
  | .atFadd w => some w
  | .atMin w => some w
  | .atMax w => some w
  | .atAmax w => some w
  | .atAmaxr w => some w
  | .atAnd w => some w
  | .atOr w => some w
  | .atXor w => some w
  | .atXchg w => some w
  | .atCas w => some w
  | .ceGo w => some w
  | .ceTry w => some w
  | .move _ | .queueDrop _ | .limm _ | .sched _ | .modx _ | .brk _ | .nop _ => none
  | .resultLand _ => none
  | .loadDataReturn _ _ => none
  | .atomicReply _ => none
  | .streamElementIssue _ _ => none
  | .homeRequest _ => none
  | .refusalReturn _ => none
  | .atomicEngineGrant _ => none
  | .crossDieWriteApply _ => none
  | .xlinvWrite _ _ => none
  | .xlinvComplete _ => none
  | .bufDeclare _ _ _ => none
  | .bufReset _ _ => none
  | .bufSetfull _ _ => none
  | .bufSetempty _ _ => none
  | .vflagsWrite _ _ => none
  | .bfmtWrite _ _ _ => none
  | .ctlabWrite _ _ _ => none
  | .returnStackPopRead _ _ => none
  | .returnStackInsert _ _ _ => none
  | .registerWrite _ _ _ _ => none
  | .launchRecordStore _ _ _ => none
  | .launchDequeue _ => none
  | .placementAttempt _ => none
  | .reserveProbe _ _ => none
  | .probeResponse _ => none
  | .reserveCommit _ _ => none
  | .grantRelease _ => none
  | .grantLapse _ => none
  | .backoffExpire _ _ _ => none
  | .escalatedPlacement _ => none
  | .taskStart _ _ _ => none
  | .xformNodeStart _ _ => none
  | .eventNodeStart _ => none
  | .subgraphServe _ => none
  | .subgraphAdmit _ => none
  | .memberFinish _ => none
  | .memberRelease _ => none
  | .quantumExpire _ _ _ => none
  | .memberEvict _ => none
  | .trapEntry _ => none
  | .haltTreeStop _ => none
  | .debugHalt _ => none
  | .debugPortAccess _ _ _ _ _ => none
  | .debugResume _ => none
  | .scanSegment _ _ _ _ _ _ _ => none
  | .translatePortable _ _ _ _ => none
  | .copy _ => none
  | .copy2d _ => none
  | .gather _ => none
  | .scatter _ => none
  | .fill _ => none
  | .expand _ => none
  | .swz _ => none
  | .xcopy _ => none
  | .copyChunk _ => none
  | .mxFillComplete _ => none
  | .mxMmaComplete _ => none
  | .mmatStepStart _ => none
  | .mxDrainComplete _ => none
  | .bsumSetArrive _ => none
  | .nopBlock _ => none
  | .mvaccBlock _ => none
  | .mmaccBlock _ => none
  | .biasBlock _ => none
  | .scaleBlock _ => none
  | .actBlock _ => none
  | .loadvBlock _ => none
  | .storeBlock _ => none
  | .sendBlock _ => none
  | .selectBlock _ => none
  | .syncBlock _ => none
  | .exitBlock _ => none
  | .trapbBlock _ => none
  | .blockPayloadGranule _ => none
  | .labelResolveReply _ => none
  | .carillonOperation _ => none
  | .messageArrive _ => none
  | .hostWindowAccess _ _ _ _ _ => none
  | .linkPacketReceive _ _ _ _ _ => none
  | .linkAckReceive _ _ _ => none
  | .linkNakReceive _ _ => none
  | .linkAckTimeout _ => none
  | .laneFailure _ _ => none
  | .linkRetrainComplete _ _ => none
  | .linkTrainRetry _ _ _ => none
  | .lctlReset _ => none
  | .eventRingWrite => none
  | .rollback _ => none
  | .duplexItemArrive _ => none
  | .duplexPairTimeout _ => none
  | .verdict _ _ _ => none
  | .scoreDecay _ => none
  | .quarantine _ => none
  | .layerwarn _ _ => none
  | .stkctlAck _ => none
  | .layerAckTimeout _ => none
  | .layerRemapComplete _ => none
  | .layerAbruptFailure _ _ _ => none
  | .refreshTakeover _ => none
  | .srenter _ _ => none
  | .selfRefreshTimeout _ => none
  | .srexit _ _ => none
  | .fieldTest _ _ => none
  | .resetWipe _ => none
  | .partitionCreate _ _ _ _ _ _ => none
  | .partitionDestroy _ => none
  | .labelSpaceCreate _ _ _ _ _ _ => none
  | .labelSpaceDestroy _ _ => none
  | .diagramSpaceCreate _ _ _ _ _ _ _ _ _ => none
  | .diagramSpaceDestroy _ _ => none
  | .telemetryRecord _ => none
  | .monitorSample _ _ => none
  | .monitorEnable _ _ => none
  | .monitorDump _ => none
  | .bootVerify _ _ => none
  | .quoteRequest _ => none
  | .lifecycleTransition _ _ => none
  | .commitResponse _ => none
  | .gangWindowRequest _ => none
  | .peerReset _ => none
  | .stackReset _ => none
  | .supervisorKill _ _ _ => none
  | .translationCacheInvalidate _ _ => none
  | .dataWindowSetup _ _ _ _ => none
  | .peerInboundBind _ _ => none
  | .sharedKeyGrant _ _ => none
  | .recordReplay _ _ => none

/-- Triggers of `al` (R146). -/
def trigAl1 (w : TrigW) : List Instr :=
  [.alAdd w, .alSub w, .alAnd w, .alOr w, .alXor w, .alAndn w, .alShl w, .alShr w, .alSar w, .alRol w,
   .alMin w, .alMax w, .alMinu w, .alMaxu w, .alSel w, .alClz w, .alCtz w, .alPopc w, .alBswap w, .alExt w,
   .alIns w, .alSext w, .alEq w, .alNe w, .alLt w, .alLe w, .alLtu w, .alLeu w, .alTst w, .alFadd w]

/-- Triggers of `al` (R146). -/
def trigAl2 (w : TrigW) : List Instr :=
  [.alFsub w, .alFmul w, .alFma w, .alFmin w, .alFmax w, .alFeq w, .alFlt w, .alFle w, .alCvt w, .alFcls w]

/-- Triggers of `md` (R146). -/
def trigMd (w : TrigW) : List Instr :=
  [.mdMul w, .mdMulu w, .mdMulsu w, .mdDiv w, .mdDivu w, .mdMulw w, .mdDivw w, .mdDivuw w]

/-- Triggers of `vx` (R146). -/
def trigVx1 (w : TrigW) : List Instr :=
  [.vxAdd w, .vxSub w, .vxMul w, .vxFma w, .vxFms w, .vxFnma w, .vxMin w, .vxMax w, .vxAbs w, .vxNeg w,
   .vxAnd w, .vxOr w, .vxXor w, .vxAndn w, .vxShl w, .vxShr w, .vxSar w, .vxEq w, .vxNe w, .vxLt w, .vxLe w,
   .vxSel w, .vxPerm w, .vxShuf w, .vxRot w, .vxIota w, .vxRsum w, .vxRmax w, .vxRmin w, .vxRandb w]

/-- Triggers of `vx` (R146). -/
def trigVx2 (w : TrigW) : List Instr :=
  [.vxRorb w, .vxRxorb w, .vxRcp w, .vxRsqrt w, .vxExp2 w, .vxDiv w, .vxSqrt w, .vxCvt w, .vxCvts w, .vxPack w,
   .vxUnpk w, .vxT5un w, .vxI4un w, .vxBfpk w, .vxBfun w, .vxMulh w, .vxAvg w, .vxPopc w, .vxClz w, .vxIns w,
   .vxAny w, .vxAll w, .vxBlend w, .vxCls w, .vxDot w, .vxRndi w]

/-- Triggers of `mx` (R146). -/
def trigMx (w : TrigW) : List Instr :=
  [.mxClaim w, .mxRelease w, .mxFill w, .mxMma w, .mxMmat w, .mxDrain w, .mxBsum w, .mxZero w, .mxTeam w,
   .mxProg w]

/-- Triggers of `lb` (R146). -/
def trigLb (w : TrigW) : List Instr :=
  [.lbAssume w, .lbJoin w, .lbMerge w, .lbContra w, .lbCommit w, .lbHolds w, .lbTag w, .lbRetag w, .lbEnvs w,
   .lbEnv w, .lbCount w, .lbMin w, .lbCensus w, .lbCtlset w, .lbCtlget w, .lbSpace w]

/-- Triggers of `cl` (R146). -/
def trigCl (w : TrigW) : List Instr :=
  [.clVar w, .clIte w, .clApply w, .clNot w, .clRestrict w, .clExists w, .clCount w, .clWcount w, .clSat w,
   .clRef w, .clUnref w, .clSwap w, .clSize w, .clGc w, .clMincount w]

/-- Triggers of `ms` (R146). -/
def trigMs (w : TrigW) : List Instr :=
  [.msSend w, .msPut w, .msPoll w, .msChan w]

/-- Triggers of `ct` (R146). -/
def trigCt (w : TrigW) : List Instr :=
  [.ctJmp w, .ctCall w, .ctRet w, .ctLoop w, .ctWait w, .ctFence w, .ctTrick w, .ctBar w, .ctTrigger w,
   .ctLaunch w, .ctExit w, .ctWdrive w, .ctRsr w, .ctWsr w, .ctEret w, .ctRsrs w, .ctWsrs w]

/-- Triggers of `ag` (R146). -/
def trigAg (w : TrigW) : List Instr :=
  [.agLd w, .agLds w, .agSt w, .agSts w, .agStd w, .agStds w, .agStrm w, .agStrw w, .agPf w]

/-- Triggers of `aa` (R146). -/
def trigAa (w : TrigW) : List Instr :=
  [.aaAdd w, .aaSub w, .aaAnd w, .aaOr w, .aaXor w, .aaShl w, .aaShr w, .aaEq w]

/-- Triggers of `ac` (R146). -/
def trigAc (w : TrigW) : List Instr :=
  [.acJmp w, .acCall w, .acRet w, .acLoop w, .acWait w, .acRsr w]

/-- Triggers of `at` (R146). -/
def trigAt (w : TrigW) : List Instr :=
  [.atAdd w, .atFadd w, .atMin w, .atMax w, .atAmax w, .atAmaxr w, .atAnd w, .atOr w, .atXor w, .atXchg w,
   .atCas w]

/-- Triggers of `ce` (R146). -/
def trigCe (w : TrigW) : List Instr :=
  [.ceGo w, .ceTry w]

/-- Each unit's first trigger port, TBASE, and its trigger instructions in the order of their index (R146). -/
def Instr.units (w : TrigW) : List (Nat × List Instr) :=
  [(0x108, trigAl1 w ++ trigAl2 w),
   (0x188, trigMd w),
   (0x210, trigVx1 w ++ trigVx2 w),
   (0x308, trigMx w),
   (0x388, trigLb w),
   (0x3C8, trigCl w),
   (0x408, trigMs w),
   (0x448, trigCt w),
   (0x508, trigAg w),
   (0x588, trigAa w),
   (0x5C8, trigAc w),
   (0x5E8, trigAt w),
   (0x608, trigCe w)]

/-- The trigger instruction at a trigger port: index p − TBASE of its unit (R146). -/
def Instr.ofPort (p : Nat) (w : TrigW) : Option Instr :=
  (Instr.units w).findSome? fun u => if p < u.1 then none else u.2[p - u.1]?

/-- A guard field that makes a word a hint: G = 0 and N = 1 (R126). -/
def hintGuard (g : BitVec 3) (n : Bool) : Bool := g == 0 && n

/-- The half that a port pair leaves to the word: both sides must be usable by one half (R149). -/
def halvesAgree (d s : PHalf) : Bool :=
  (d.allows .x && s.allows .x) || (d.allows .a && s.allows .a)

/-- The source of a move word is a source port of a half that its destination allows, with no reserved MOD, and with
no drop modifier (R129, R137, R149). Immediates have no source (R130). -/
def sourceOk (ph : PHalf) (imm : Bool) (low : BitVec 15) : Bool :=
  if imm then true
  else match srcPort (low.toNat % 2048) with
    | none => false
    | some (sh, c) =>
      halvesAgree ph sh && !modReserved c (low.toNat / 2048) && !(c == .queue && low.toNat / 2048 == 2)

/-- Well-formedness of one instruction word. -/
def Instr.wf (i : Instr) : Bool :=
  match i.port, i.trigW with
  | some p, some w =>
    !hintGuard w.g w.n &&
    (match dstPort p with
     | some (ph, _) => sourceOk ph w.imm w.low
     | none => false)
  | _, _ =>
    match i with
    | .move w =>
      !hintGuard w.g w.n && !isTrigger w.dst.toNat &&
      (match dstPort w.dst.toNat with
       | some (ph, _) => sourceOk ph w.imm w.low
       | none => false)
    | .queueDrop w =>
      !hintGuard w.g w.n &&
      (match srcPort w.src.toNat with
       | some (_, c) => c == .queue
       | none => false)
    | .limm _ | .sched _ | .modx _ | .brk _ | .nop _ => true
    | _ => false

end Sys2Proof
end

