-- ==== Sys2Proof/Decode.lean ====
section
/-! DEFINITION. The decoder of instruction words, total on any bytes and rejecting by name, and the encoder, both
written from Tables 1, 3 and 4 of the instruction-word chapter (R126, R129, R131). -/

namespace Sys2Proof

open Machine

/-- Why bytes decode to no instruction. -/
inductive DecodeError where
  /-- Fewer than four bytes are left. -/
  | truncated
  /-- A hint kind of 101 to 111 (R131, WHY 4). -/
  | reservedHint
  /-- A destination address that names nothing (R149, WHY 1). -/
  | reservedDest
  /-- A source address that names nothing (R149, WHY 1). -/
  | reservedSource
  /-- A MOD that Table 3 of R129 reserves (WHY 5). -/
  | reservedMod
  /-- A drop whose DST is not 0x000 (R129, WHY 16). -/
  | dropDest
  deriving DecidableEq, Repr

/-- The fields of a word (R126, Table 1). -/
def wordS (w : IWord) : Bool := w.getLsbD 31
def wordG (w : IWord) : BitVec 3 := w.extractLsb' 28 3
def wordN (w : IWord) : Bool := w.getLsbD 27
def wordDst (w : IWord) : Port := w.extractLsb' 16 11
def wordI (w : IWord) : Bool := w.getLsbD 15
def wordLow (w : IWord) : BitVec 15 := w.extractLsb' 0 15
/-- KIND and PAY of a hint word (R131, Table 4). -/
def wordKind (w : IWord) : Nat := (w.extractLsb' 24 3).toNat
def wordPay (w : IWord) : BitVec 24 := w.extractLsb' 0 24

/-- Whether `p` is a queue as a source (R145). -/
def isQueueSrc (p : Nat) : Bool :=
  match srcPort p with
  | some (_, c) => c == .queue
  | none => false

/-- A hint word by its KIND (R131, Table 4). -/
def decodeHint (w : IWord) : Except DecodeError Instr :=
  match wordKind w with
  | 0 => .ok (.limm ⟨wordS w, wordPay w⟩)
  | 1 => .ok (.sched ⟨wordS w, wordPay w⟩)
  | 2 => .ok (.modx ⟨wordS w, wordPay w⟩)
  | 3 => .ok (.brk ⟨wordS w, wordPay w⟩)
  | 4 => .ok (.nop ⟨wordS w, wordPay w⟩)
  | _ => .error .reservedHint

/-- What is wrong with the source of a move word, if anything (R129, R149). -/
def sourceError (imm : Bool) (low : BitVec 15) : Option DecodeError :=
  if imm then none
  else match srcPort (low.toNat % 2048) with
    | none => some .reservedSource
    | some (_, c) =>
      if modReserved c (low.toNat / 2048) then some .reservedMod
      else if c == .queue && low.toNat / 2048 == 2 then some .dropDest
      else none

/-- A move word (R126): a drop, a trigger, or a plain move. -/
def decodeMove (w : IWord) : Except DecodeError Instr :=
  let dst := wordDst w
  let low := wordLow w
  if dst == 0 && !wordI w && low.toNat / 2048 == 2 && isQueueSrc (low.toNat % 2048) then
    .ok (.queueDrop ⟨wordS w, wordG w, wordN w, w.extractLsb' 0 11⟩)
  else match sourceError (wordI w) low with
    | some e => .error e
    | none =>
      if (dstPort dst.toNat).isNone then .error .reservedDest
      else match Instr.ofPort dst.toNat ⟨wordS w, wordG w, wordN w, wordI w, low⟩ with
        | some i => .ok i
        | none => .ok (.move ⟨wordS w, wordG w, wordN w, dst, wordI w, low⟩)

/-- The instruction that a word stands for. -/
def decodeWord (w : IWord) : Except DecodeError Instr :=
  if hintGuard (wordG w) (wordN w) then decodeHint w else decodeMove w

/-- Four bytes as a little-endian word (R4, R126). -/
def wordOfBytes (b0 b1 b2 b3 : Byte) : IWord := b3 ++ b2 ++ b1 ++ b0

/-- The instruction at the head of a list of bytes, with the bytes after it. -/
def decode : List Byte → Except DecodeError (Instr × List Byte)
  | b0 :: b1 :: b2 :: b3 :: rest =>
    match decodeWord (wordOfBytes b0 b1 b2 b3) with
    | .ok i => .ok (i, rest)
    | .error e => .error e
  | _ => .error .truncated

/-- A move word from its fields (R126, Table 1). -/
def packMove (s : Bool) (g : BitVec 3) (n : Bool) (dst : Port) (imm : Bool) (low : BitVec 15) : IWord :=
  BitVec.ofBool s ++ g ++ BitVec.ofBool n ++ dst ++ BitVec.ofBool imm ++ low

/-- A hint word from its fields (R131, Table 4). -/
def packHint (s : Bool) (kind : BitVec 3) (pay : BitVec 24) : IWord :=
  BitVec.ofBool s ++ (1#4) ++ kind ++ pay

/-- MOD 2 and a source port: bits [14:0] of a drop (R129). -/
def dropLow (src : Port) : BitVec 15 := (2#4) ++ src

/-- The word of an instruction; none for an event, which has no encoding. -/
def encode (i : Instr) : Option IWord :=
  match i.port, i.trigW with
  | some p, some w => some (packMove w.s w.g w.n (BitVec.ofNat 11 p) w.imm w.low)
  | _, _ =>
    match i with
    | .move w => some (packMove w.s w.g w.n w.dst w.imm w.low)
    | .queueDrop w => some (packMove w.s w.g w.n 0 false (dropLow w.src))
    | .limm w => some (packHint w.s 0 w.pay)
    | .sched w => some (packHint w.s 1 w.pay)
    | .modx w => some (packHint w.s 2 w.pay)
    | .brk w => some (packHint w.s 3 w.pay)
    | .nop w => some (packHint w.s 4 w.pay)
    | _ => none

/-- The bytes of a word, lowest address first (R126). -/
def wordBytes (w : IWord) : List Byte :=
  [w.extractLsb' 0 8, w.extractLsb' 8 8, w.extractLsb' 16 8, w.extractLsb' 24 8]

/-- The instruction that the decoder reads from the first bytes of `w`, as many as `nbits` gives, and zeros after
them up to a word. -/
def decodeTableWord (nbits w : Nat) : Option Instr :=
  let n := w % 2 ^ nbits
  let b (i : Nat) : Byte := BitVec.ofNat 8 (n / 256 ^ i)
  match decode [b 0, b 1, b 2, b 3] with
  | .ok (i, _) => some i
  | .error _ => none

end Sys2Proof
end

