-- ==== Sys2Proof/Machine/Message.lean ====
section
/-! DEFINITION. Messages (R324 to R327): sends, puts, polls and channel reservations, and the arrival of a message. -/

namespace Sys2Proof.Machine

/-! ## Inbound storage (R325) -/

/-- Entries of a channel. -/
def heldOn (l : List Msg) (ch : Nat) : Nat := l.countP (·.chan = ch)

/-- Reservations in all. -/
def totalResv (r : NMap Nat) : Nat := (r.map (·.2)).foldl (· + ·) 0

/-- Use of the shared pool: what each channel holds beyond its reservation. -/
def poolUse (l : List Msg) (r : NMap Nat) : Nat :=
  ((List.range 256).map fun ch => heldOn l ch - r.get 0 ch).foldl (· + ·) 0

/-- A message for channel `ch` is accepted. -/
def hasRoom (l : List Msg) (r : NMap Nat) (ch : Nat) : Bool :=
  heldOn l ch < r.get 0 ch || poolUse l r < 64 - totalResv r

/-- Mail on its way to the member. -/
def State.mailTo (s : State) (t : Task) (gx gy : Nat) : List Msg :=
  (s.msgs.filter fun m => m.task.sameGang t && m.gx = gx && m.gy = gy).map (·.msg)

/-- Room at a member for one more message of a channel, besides what is on its way. -/
def State.boxRoom (s : State) (t : Task) (gx gy ch : Nat) : Bool :=
  match s.box t gx gy with
  | .live m => hasRoom ((s.ctx m).inbox ++ s.mailTo t gx gy) (s.ctx m).resv ch
  | .saved m a => let v := (s.core m).area a; hasRoom (v.spill ++ s.mailTo t gx gy) v.ctx.resv ch
  | .gone => true

/-- Gang-linear index of the sender that the member accepted last. -/
def State.boxLast (s : State) (t : Task) (gx gy : Nat) : Nat :=
  match s.box t gx gy with
  | .live m => (s.ctx m).lastSender
  | .saved m a => ((s.core m).area a).ctx.lastSender
  | .gone => 0

def State.setBoxLast (s : State) (t : Task) (gx gy i : Nat) : State :=
  match s.box t gx gy with
  | .live m => s.updCtx m fun k => { k with lastSender := i }
  | .saved m a => s.updCore m (·.updArea a fun v => { v with ctx := { v.ctx with lastSender := i } })
  | .gone => s

/-- How far after the last sender a sender comes in the receiver's round robin. -/
def turnOf (last i : Nat) : Nat := (i + 2 * numCores - last - 1) % numCores

/-- Another sender waits for room there, can be accepted, and comes before sender `i` (R325). -/
def State.sendBehind (s : State) (c : Nat) (t : Task) (gx gy : Nat) : Bool :=
  let last := s.boxLast t gx gy
  t.members.any fun m =>
    let k := s.core m
    m != c && (match k.task, k.ctx.sendWait with
      | some u, some (x, y, ch) =>
        u.sameGang t && x = gx && y = gy && k.ctx.raised.isNone && !k.ended && s.boxRoom t gx gy ch
          && turnOf last u.index < turnOf last t.index
      | _, _ => false)

/-! ## ms.a (Table 9) -/

def msGx (a : Dword) : Nat := dfield a 5 0
def msGy (a : Dword) : Nat := dfield a 11 6
def msChan (a : Dword) : Nat := dfield a 19 12
/-- Length of a put: 0 means 64. -/
def msLen (a : Dword) : Nat := if dfield a 26 20 = 0 then 64 else dfield a 26 20

/-- A field of `ms.a` is out of range or reserved (R324), its length included (log entry 11). -/
def msBad (t : Task) (a : Dword) : Bool := t.gw ≤ msGx a || t.gh ≤ msGy a || 64 < msLen a || dfield a 63 27 != 0

def msgCtl (v : Dword) : Fired := .trap 4 (refused 14 v)

/-! ## The triggers -/

/-- What a send comes to. -/
inductive SendOut where
  | sent (s : State)
  | wait (s : State)
  | trap (t : Trap)

/-- A send of `v` with tags `tag` by member `c` of `t` to (gx, gy) on channel `ch` (R325). A tag that finds no entry is
its trap (R383). -/
def State.send (s : State) (c : Nat) (t : Task) (gx gy ch : Nat) (v : Dword) (tag : LTag) : SendOut :=
  match s.joinFor c tag with
  | (_, some e, _) => .trap e
  | (s', none, u) =>
    if !s.boxRoom t gx gy ch || s.sendBehind c t gx gy then
      .wait (s.updCtx c fun k => { k with sendWait := some (gx, gy, ch) })
    else
      let s := s'.updCtx c fun k => { k with sendWait := none }
      let s := s.sendItem c t 1 (BitVec.ofNat 64 (gx + 64 * gy + 4096 * ch)) (bytesOf 8 v.toNat) (tagOf u) none none
      match s.box t gx gy with
      | .gone => .sent s
      | _ => .sent { s.setBoxLast t gx gy t.index with
          msgs := s.msgs ++ [{ task := t, gx := gx, gy := gy, msg := { sender := t.index, chan := ch, v := v, t := tagOf u } }] }

/-- `ms.send` (R325). -/
def fireMsSend (x : Trig) (s : State) : Fired :=
  let a := x.latch s 0x400
  let t := taskOf s x.core
  if isMuck a.t then .done s false
  else if msBad t a.v then msgCtl a.v
  else if !s.drained x.core then .stall
  else match s.send x.core t (msGx a.v) (msGy a.v) (msChan a.v) x.t.v (joinTags [x.t.t, a.t, x.ctl]) with
    | .sent s => .done s false
    | .wait s => .hold s
    | .trap e => .trap 7 e

/-- `ms.put` (R327). -/
def fireMsPut (x : Trig) (s : State) : Fired :=
  let a := x.latch s 0x400
  let v := (s.ctx x.core).vector 0x402
  let t := taskOf s x.core
  let n := msLen a.v
  if anyMuck [a.t, x.t.t] then .done s false
  else if msBad t a.v then msgCtl a.v
  else
    let put (l : Loc) (off : Nat) : Fired :=
      if off % 64 + n > 64 then msgCtl a.v
      else
        let (id, s) := s.newId
        let h : Held := { core := x.core, loc := l, addr := x.t.v, bytes := bytesOf n v.v.toNat, put := true, id := id
                          tag := joinTags [v.t, x.t.t, a.t, x.ctl] }
        let s := if t.isProtected && !ownSpad x.core l then s.logWrite x.core t h
          else s.updPart t.part fun p => { p with held := p.held ++ [h] }
        .done (s.addStore x.core id) false
    match decodeAddr x.core t x.t.v with
    | some (some (.spad k off)) => put (.spad k off) off
    | some _ => msgCtl a.v
    | none => if dfield x.t.v 63 48 = 2 then .trap 6 (translationFault rSpace x.t.v) else msgCtl a.v

/-- `ms.poll` (R326). -/
def fireMsPoll (x : Trig) (s : State) : Fired :=
  let k := s.ctx x.core
  let n := if dfield x.t.v 8 8 = 1 then k.inbox.length else heldOn k.inbox (dfield x.t.v 7 0)
  if isMuck x.t.t then x.undone s [0x43D, 0x43F]
  else if dfield x.t.v 63 9 != 0 then msgCtl x.t.v
  else .done (x.result s 1 [(0x43D, BitVec.ofNat 64 n), (0x43F, if n = 0 then 0 else 1)] [x.t.t]) false

/-- `ms.chan` (R325). -/
def fireMsChan (x : Trig) (s : State) : Fired :=
  let k := s.ctx x.core
  let r := k.resv.set 0 (dfield x.t.v 7 0) (dfield x.t.v 14 8)
  if isMuck x.t.t then x.undone s [0x43F]
  else if dfield x.t.v 63 15 != 0 || 64 < dfield x.t.v 14 8 then msgCtl x.t.v
  else if 64 < totalResv r then .done (x.result s 1 [(0x43F, 1)] [x.t.t]) false
  else .done (x.result (s.updCtx x.core fun k => { k with resv := r }) 1 [(0x43F, 0)] [x.t.t]) false

/-- The latches that an `ms` trigger reads. -/
def messageLatches (p : Nat) : List Nat :=
  match p with
  | 0x408 => [0x400]
  | 0x409 => [0x400, 0x402]
  | _ => []

/-! ## Arrival -/

/-- MESSAGE_ARRIVE: message `i` on its way enters its receiver's storage, or its spill ring; messages of one sender on one
channel to one receiver stay in order (R117, R325). -/
def execMessageArrive (i : Nat) (s : State) : Host.Outcome State Fault Refusal :=
  match s.msgs[i]? with
  | none => .next s
  | some m =>
    if (s.msgs.take i).any fun e => e.task.sameGang m.task && e.gx = m.gx && e.gy = m.gy && e.msg.sender = m.msg.sender
        && e.msg.chan = m.msg.chan then .next s
    else
      .next ({ s with msgs := s.msgs.eraseIdx i }.putMail m)

end Sys2Proof.Machine
end

