-- ==== Sys2Proof/Machine/Scalar.lean ====
section
/-! DEFINITION. The scalar units: `al` (R158 to R166), `md` (R167, R168) and `aa` (R184). -/

namespace Sys2Proof.Machine

/-! ## al: integers (R158 to R163) -/

/-- An `al` operation of one cycle on a and T that writes `.r`. -/
def alBin (f : Dword → Dword → Dword) (x : Trig) (s : State) : Fired :=
  let a := x.latch s 0x100
  .done (x.result s 1 [(0x17D, f a.v x.t.v)] [a.t, x.t.t]) false

/-- An `al` operation of one cycle on T alone that writes `.r`. -/
def alUn (f : Dword → Dword) (x : Trig) (s : State) : Fired :=
  .done (x.result s 1 [(0x17D, f x.t.v)] [x.t.t]) false

/-- A compare: `.r` and `.f` (R162). -/
def alCmp (f : Dword → Dword → Bool) (x : Trig) (s : State) : Fired :=
  let a := x.latch s 0x100
  let v := boolWord (f a.v x.t.v)
  .done (x.result s 1 [(0x17D, v), (0x17F, v)] [a.t, x.t.t]) false

/-- `al.add` and `al.sub`: the exact signed result, the result modulo 2^64, carry or borrow; SAT clamps (R158). -/
def alAddSub (exact : Int) (v : Dword) (c : Bool) (x : Trig) (s : State) : Fired :=
  let a := x.latch s 0x100
  let ovf := !fits64 exact
  let r := if x.sat then BitVec.ofInt 64 (satTo true 64 exact).1 else v
  .done (x.result s 1 [(0x17D, r), (0x17F, carryFlags c ovf)] [a.t, x.t.t] (flagIf (x.sat && ovf) fSAT) x.sat) false

def fireAlAdd (x : Trig) (s : State) : Fired :=
  let a := (x.latch s 0x100).v
  alAddSub (a.toInt + x.t.v.toInt) (a + x.t.v) (carryOut a x.t.v) x s
def fireAlSub (x : Trig) (s : State) : Fired :=
  let a := (x.latch s 0x100).v
  alAddSub (a.toInt - x.t.v.toInt) (a - x.t.v) (borrowOut a x.t.v) x s
def fireAlAnd : Trig → State → Fired := alBin fun a t => a &&& t
def fireAlOr : Trig → State → Fired := alBin fun a t => a ||| t
def fireAlXor : Trig → State → Fired := alBin fun a t => a ^^^ t
def fireAlAndn : Trig → State → Fired := alBin fun a t => a &&& ~~~t

/-- The shift amount T[5:0] (R159). -/
def shiftAmount (t : Dword) : Nat := dfield t 5 0

def fireAlShl : Trig → State → Fired := alBin fun a t => a <<< shiftAmount t
def fireAlShr : Trig → State → Fired := alBin fun a t => a >>> shiftAmount t
def fireAlSar : Trig → State → Fired := alBin fun a t => a.sshiftRight (shiftAmount t)
def fireAlRol : Trig → State → Fired := alBin fun a t => a.rotateLeft (shiftAmount t)
def fireAlMin : Trig → State → Fired := alBin fun a t => if a.toInt ≤ t.toInt then a else t
def fireAlMax : Trig → State → Fired := alBin fun a t => if a.toInt ≤ t.toInt then t else a
def fireAlMinu : Trig → State → Fired := alBin fun a t => if a.toNat ≤ t.toNat then a else t
def fireAlMaxu : Trig → State → Fired := alBin fun a t => if a.toNat ≤ t.toNat then t else a

/-- `al.sel`: the latch not selected gives neither value nor tag (R163). -/
def fireAlSel (x : Trig) (s : State) : Fired :=
  let l := x.latch s (if x.t.v = 0 then 0x101 else 0x100)
  .done (x.result s 1 [(0x17D, l.v)] [x.t.t, l.t]) false

def fireAlClz : Trig → State → Fired := alUn fun t => BitVec.ofNat 64 (leadZeros 64 t.toNat)
def fireAlCtz : Trig → State → Fired := alUn fun t => BitVec.ofNat 64 (trailZeros 64 t.toNat)
def fireAlPopc : Trig → State → Fired := alUn fun t => BitVec.ofNat 64 (popCount 64 t.toNat)
def fireAlBswap : Trig → State → Fired := alUn fun t => BitVec.ofNat 64 (ofBytes (bytesOf 8 t.toNat).reverse)

/-- pos and len of a field control (R161). -/
def fieldPos (t : Dword) : Nat := dfield t 5 0
def fieldLen (t : Dword) : Nat :=
  let l := dfield t 14 8
  if l = 0 || 64 < l then 64 else l

def fireAlExt : Trig → State → Fired := alBin fun a t =>
  BitVec.ofNat 64 (a.toNat / 2 ^ fieldPos t % 2 ^ fieldLen t)

/-- `a` with the field replaced by the low bits of `b`; bits past bit 63 are dropped (R161). -/
def insField (a b t : Dword) : Dword :=
  let m : Dword := BitVec.ofNat 64 ((2 ^ fieldLen t - 1) * 2 ^ fieldPos t)
  (a &&& ~~~m) ||| (BitVec.ofNat 64 (b.toNat * 2 ^ fieldPos t) &&& m)

def fireAlIns (x : Trig) (s : State) : Fired :=
  let a := x.latch s 0x100
  let b := x.latch s 0x101
  .done (x.result s 1 [(0x17D, insField a.v b.v x.t.v)] [a.t, b.t, x.t.t]) false

def fireAlSext : Trig → State → Fired := alBin fun a t => BitVec.ofInt 64 (toSigned (fieldPos t + 1) a.toNat)
def fireAlEq : Trig → State → Fired := alCmp fun a t => a == t
def fireAlNe : Trig → State → Fired := alCmp fun a t => a != t
def fireAlLt : Trig → State → Fired := alCmp fun a t => a.toInt < t.toInt
def fireAlLe : Trig → State → Fired := alCmp fun a t => a.toInt ≤ t.toInt
def fireAlLtu : Trig → State → Fired := alCmp fun a t => a.toNat < t.toNat
def fireAlLeu : Trig → State → Fired := alCmp fun a t => a.toNat ≤ t.toNat
def fireAlTst : Trig → State → Fired := alCmp fun a t => a &&& t != 0

/-! ## al: floating point (R164 to R166) -/

/-- The format of `al.c`[2:0]; 3 to 7 name none (R164). -/
def alFormat (c : Dword) : Option Fmt :=
  match dfield c 2 0 with
  | 0 => some fp32
  | 1 => some fp16
  | 2 => some bf16
  | _ => none

/-- A floating operand: the low bits of a value (R164). -/
def Trig.fval (x : Trig) (f : Fmt) (v : Dword) : FVal := fdecode f x.ftz v.toNat

/-- A floating operation of a, perhaps b, and T; a format code of 3 to 7 gives the FP32 NaN with NV (R164). -/
def alFloat (useB : Bool) (op : Fmt → RMode → Bool → FVal → FVal → FVal → Nat × FlagBits) (x : Trig) (s : State) :
    Fired :=
  let a := x.latch s 0x100
  let b := x.latch s 0x101
  let c := x.latch s 0x102
  let (v, fl) := match alFormat c.v with
    | some f => op f (rmode x.rm) x.ftz (x.fval f a.v) (x.fval f b.v) (x.fval f x.t.v)
    | none => (fp32.qnan, fNV)
  .done (x.result s 4 [(0x17D, BitVec.ofNat 64 v)] ([a.t] ++ (if useB then [b.t] else []) ++ [x.t.t, c.t]) fl true) false

def fireAlFadd : Trig → State → Fired := alFloat false fun f rm z a _ t => fadd f rm z a t
def fireAlFsub : Trig → State → Fired := alFloat false fun f rm z a _ t => fadd f rm z a t.neg
def fireAlFmul : Trig → State → Fired := alFloat false fun f rm z a _ t => fmul f rm z a t
def fireAlFma : Trig → State → Fired := alFloat true fun f rm z a b t => ffma f rm z a b t
def fireAlFmin : Trig → State → Fired := alFloat false fun f _ _ a _ t => fminmax f false a t
def fireAlFmax : Trig → State → Fired := alFloat false fun f _ _ a _ t => fminmax f true a t

/-- A floating compare: `.r`, `.f` and NV (R165). `quiet` is feq, which sets NV only for a signalling NaN. -/
def alFcmp (quiet : Bool) (rel : Option Ordering → Bool) (x : Trig) (s : State) : Fired :=
  let a := x.latch s 0x100
  let c := x.latch s 0x102
  let (r, fl) := match alFormat c.v with
    | some f =>
      let u := x.fval f a.v
      let v := x.fval f x.t.v
      (rel (fcompare u v), flagIf (u.isSnan || v.isSnan || (!quiet && (u.isNan || v.isNan))) fNV)
    | none => (false, fNV)
  .done (x.result s 4 [(0x17D, boolWord r), (0x17F, boolWord r)] [a.t, x.t.t, c.t] fl true) false

def fireAlFeq : Trig → State → Fired := alFcmp true fun o => o == some .eq
def fireAlFlt : Trig → State → Fired := alFcmp false fun o => o == some .lt
def fireAlFle : Trig → State → Fired := alFcmp false fun o => o == some .lt || o == some .eq

/-- `al.fcls` (R165): a signalling NaN sets NV, as an operand of any floating operation does (R32). -/
def fireAlFcls (x : Trig) (s : State) : Fired :=
  let c := x.latch s 0x102
  let (v, fl) := match alFormat c.v with
    | some f =>
      let v := fclass f (x.t.v.toNat % 2 ^ f.width)
      (v, flagIf (v = 0x100) fNV)
    | none => (0, fNV)
  .done (x.result s 4 [(0x17D, BitVec.ofNat 64 v)] [x.t.t, c.t] fl true) false

/-- The floating format of a conversion type code (R166). -/
def cvtFormat (k : Nat) : Option Fmt :=
  match k with
  | 0 => some fp32
  | 1 => some fp16
  | 2 => some bf16
  | 3 => some fp64
  | _ => none

/-- The signedness and width of an integer type code (R166). -/
def cvtInt (k : Nat) : Bool × Nat := (k % 2 = 0, if k < 6 then 32 else 64)

/-- The pair is permitted, and no other bit of `al.c` is set (R166). -/
def cvtOk (c : Dword) : Bool :=
  let sk := dfield c 2 0
  let dk := dfield c 6 4
  dfield c 3 3 = 0 && dfield c 63 7 = 0
    && ((sk != 3 && dk != 3) || (sk = 3 && [0, 6, 7].contains dk) || (dk = 3 && [0, 6, 7].contains sk))

/-- `al.cvt`'s value and flags (R166). -/
def alConvert (rm : RMode) (ftz : Bool) (c t : Dword) : Dword × FlagBits :=
  let sk := dfield c 2 0
  let dk := dfield c 6 4
  if !cvtOk c then (0, fNV)
  else
    let v := match cvtFormat sk with
      | some f => fdecode f ftz t.toNat
      | none => let y := readInt (cvtInt sk).1 (cvtInt sk).2 t.toNat; .num (y < 0) y.natAbs 0
    match cvtFormat dk with
    | some f => let (r, fl) := fToF f rm ftz v; (BitVec.ofNat 64 r, fl)
    | none => let (r, fl) := fToInt rm (cvtInt dk).1 (cvtInt dk).2 v; (BitVec.ofInt 64 r, fl)

def fireAlCvt (x : Trig) (s : State) : Fired :=
  let c := x.latch s 0x102
  let (v, fl) := alConvert (rmode x.rm) x.ftz c.v x.t.v
  .done (x.result s 4 [(0x17D, v)] [x.t.t, c.t] fl true) false

/-! ## md (R167, R168) -/

/-- A multiply form: the exact a·T + b, its low and high halves (R167). -/
def mdMul (sa st sb : Bool) (x : Trig) (s : State) : Fired :=
  let a := x.latch s 0x180
  let b := x.latch s 0x181
  let p := readInt sa 64 a.v.toNat * readInt st 64 x.t.v.toNat + readInt sb 64 b.v.toNat
  .done (x.result s 3 [(0x1BD, BitVec.ofInt 64 p), (0x1BE, BitVec.ofInt 64 (p / (2 ^ 64 : Nat)))] [a.t, b.t, x.t.t])
    false

def fireMdMul : Trig → State → Fired := mdMul true true true
def fireMdMulu : Trig → State → Fired := mdMul false false false
def fireMdMulsu : Trig → State → Fired := mdMul true false true

def fireMdMulw (x : Trig) (s : State) : Fired :=
  let a := x.latch s 0x180
  let b := x.latch s 0x181
  .done (x.result s 2 [(0x1BD, BitVec.ofInt 64 (toSigned 32 a.v.toNat * toSigned 32 x.t.v.toNat + b.v.toInt))]
    [a.t, b.t, x.t.t]) false

/-- Quotient rounded toward zero, remainder with the dividend's sign, and status, for operands of `w` bits (R168). -/
def divide (signed : Bool) (w a t : Nat) : Dword × Dword × Dword :=
  let n := readInt signed w a
  let d := readInt signed w t
  let ext (v : Int) : Dword := BitVec.ofInt 64 (toSigned w (wrap w v))
  if d = 0 then (BitVec.ofInt 64 (-1), ext n, 1)
  else if signed && n = -(2 ^ (w - 1) : Nat) && d = -1 then (ext n, 0, 2)
  else (ext (n.tdiv d), ext (n.tmod d), 0)

/-- A divide form. -/
def mdDiv (signed : Bool) (w L : Nat) (x : Trig) (s : State) : Fired :=
  let a := x.latch s 0x180
  let (q, r, f) := divide signed w a.v.toNat x.t.v.toNat
  .done (x.result s L [(0x1BD, q), (0x1BE, r), (0x1BF, f)] [a.t, x.t.t]) false

def fireMdDiv : Trig → State → Fired := mdDiv true 64 20
def fireMdDivu : Trig → State → Fired := mdDiv false 64 20
def fireMdDivw : Trig → State → Fired := mdDiv true 32 12
def fireMdDivuw : Trig → State → Fired := mdDiv false 32 12

/-! ## aa (R184) -/

/-- An `aa` operation of one cycle on a and T that writes `.r`. -/
def aaBin (f : Dword → Dword → Dword) (x : Trig) (s : State) : Fired :=
  let a := x.latch s 0x580
  .done (x.result s 1 [(0x5BD, f a.v x.t.v)] [a.t, x.t.t]) false

def fireAaAdd : Trig → State → Fired := aaBin fun a t => a + t
def fireAaSub : Trig → State → Fired := aaBin fun a t => a - t
def fireAaAnd : Trig → State → Fired := aaBin fun a t => a &&& t
def fireAaOr : Trig → State → Fired := aaBin fun a t => a ||| t
def fireAaXor : Trig → State → Fired := aaBin fun a t => a ^^^ t
def fireAaShl : Trig → State → Fired := aaBin fun a t => a <<< shiftAmount t
def fireAaShr : Trig → State → Fired := aaBin fun a t => a >>> shiftAmount t
def fireAaEq : Trig → State → Fired := aaBin fun a t => boolWord (a == t)

/-- The latches that an `al`, `md` or `aa` trigger reads (Tables of R158 to R168, R184). -/
def scalarLatches (t : Dword) (p : Nat) : List Nat :=
  if p = 0x116 then [if t = 0 then 0x101 else 0x100]
  else if p < 0x117 then [0x100]
  else if p < 0x11B then []
  else if p = 0x11C then [0x100, 0x101]
  else if p < 0x125 then [0x100]
  else if p = 0x128 then [0x100, 0x101, 0x102]
  else if p < 0x12E then [0x100, 0x102]
  else if p < 0x130 then [0x102]
  else if p < 0x190 then (if p ≤ 0x18A || p = 0x18D then [0x180, 0x181] else [0x180])
  else [0x580]

end Sys2Proof.Machine
end

