-- ==== Sys2Proof/Machine/Vector.lean ====
section
/-! DEFINITION. The vector unit `vx` (R195 to R223). -/

namespace Sys2Proof.Machine

/-! ## The type control (R196) -/

/-- An element type of codes 0 to 10 (R196, Table 3). -/
inductive Elem where
  | int (signed : Bool) (w : Nat)
  | flt (f : Fmt)
  deriving DecidableEq, Repr, Inhabited

def elemType (k : Nat) : Elem :=
  match k with
  | 8 => .flt fp32
  | 9 => .flt fp16
  | 10 => .flt bf16
  | _ => .int (k % 2 = 0) (8 * 2 ^ (k / 2))

def Elem.w : Elem → Nat
  | .int _ w => w
  | .flt f => f.width

/-- Elements of a type in a vector. -/
def Elem.n (e : Elem) : Nat := 512 / e.w

def Elem.isFlt : Elem → Bool
  | .flt _ => true
  | .int _ _ => false

/-- What a `vx` trigger has in hand. -/
structure VxIn where
  ty  : Dword := 0
  a   : Vec := 0
  b   : Vec := 0
  c   : Vec := 0
  m   : Vec := 0
  t   : Vec := 0
  rm  : RMode := .rne
  ftz : Bool := false
  sat : Bool := false
  deriving DecidableEq, Repr

def VxIn.et (v : VxIn) : Nat := dfield v.ty 3 0
def VxIn.et2 (v : VxIn) : Nat := dfield v.ty 7 4
def VxIn.msk (v : VxIn) : Nat := dfield v.ty 9 8
def VxIn.idx (v : VxIn) : Nat := dfield v.ty 21 16
def VxIn.sel (v : VxIn) : Nat := dfield v.ty 26 24
/-- The element type ET. -/
def VxIn.e (v : VxIn) : Elem := elemType v.et
/-- The element type ET2. -/
def VxIn.e2 (v : VxIn) : Elem := elemType v.et2

/-- No reserved field is set, and MK is not 3 (R196, Table 2). -/
def vxTyOk (ty : Dword) : Bool :=
  dfield ty 15 10 = 0 && dfield ty 23 22 = 0 && dfield ty 63 27 = 0 && dfield ty 9 8 != 3

/-- Element i is active (R197). -/
def VxIn.active (v : VxIn) (i : Nat) : Bool := v.msk = 0 || v.m.toNat / 2 ^ i % 2 = 1

/-- The element-wise loop of R197 over `n` elements of `w` bits, placed from element `base` on; `old` supplies the
elements outside. Gives the vector and the flags of active elements. -/
def VxIn.mapAt (v : VxIn) (w n base : Nat) (old : Vec) (f : Nat → Nat × FlagBits) : Vec × FlagBits :=
  let rs := (List.range n).map fun i =>
    if v.active i then f i
    else if v.msk = 1 then (0, 0)
    else (elem w v.c (base + i), 0)
  (vecOf w (512 / w) fun j => if base ≤ j && j < base + n then (rs.getD (j - base) (0, 0)).1 else elem w old j,
    rs.foldl (fun a r => a ||| r.2) 0)

/-- The loop over all elements. -/
def VxIn.map (v : VxIn) (w : Nat) (f : Nat → Nat × FlagBits) : Vec × FlagBits := v.mapAt w (512 / w) 0 0 f

/-- A `vx` trigger (R195, R196, R199): `reads` are the latches it reads besides `vx.ty`, `ports` the result ports it
writes, `perm` the check of its type control, `lat` its latency, `fp` whether it counts as floating or conversion
(R35), and `op` its results, in the order of `ports`, with flags. -/
def vxRun (reads : VxIn → List Nat) (ports : List Nat) (perm : VxIn → Bool) (lat : VxIn → Nat) (fp : VxIn → Bool)
    (op : VxIn → List Vec × FlagBits) (x : Trig) (s : State) : Fired :=
  let k := s.ctx x.core
  let ty := k.scalar 0x204
  let v : VxIn := { ty := ty.v, a := (k.vector 0x200).v, b := (k.vector 0x201).v, c := (k.vector 0x202).v,
                    m := (k.vector 0x203).v, t := x.tv.v, rm := rmode x.rm, ftz := x.ftz, sat := x.sat }
  if isMuck ty.t || (v.msk != 0 && isMuck (k.vector 0x203).t) then
    .done (s.updCtx x.core (·.send { due := s.now + coreCycles (lat v),
                                     vw := ports.map fun p => (p, { v := 0, t := [mucked] }) })) false
  else if !vxTyOk ty.v || !perm v then .trap 4 (refused 2 ty.v)
  else
    let (rs, fl) := op v
    let tags := (reads v).map (fun p => (k.vector p).t) ++ [x.tv.t, ty.t]
      ++ (if v.msk != 0 then [(k.vector 0x203).t] else []) ++ (if v.msk = 2 then [(k.vector 0x202).t] else [])
    .done (x.resultV s (lat v) (ports.zip rs) tags fl (fp v)) false

def pR : Nat := 0x2FD
def pH : Nat := 0x2FE
def pF : Nat := 0x2FF

/-- ET is one of 0 to 10. -/
def etAny (v : VxIn) : Bool := v.et ≤ 10
/-- ET is an integer type. -/
def etInt (v : VxIn) : Bool := v.et ≤ 7

/-- Latency `i` for integers and 4 for floating types (R195, Table 1). -/
def latIF (i : Nat) (v : VxIn) : Nat := if v.e.isFlt then 4 else i

/-- ET is floating, or the saturating form is selected. -/
def vxFlags (v : VxIn) : Bool := v.e.isFlt || v.sat

/-- An integer result: wrapped, or clamped with SAT (R29, R201). -/
def intElem (signed : Bool) (w : Nat) (sat : Bool) (r : Int) : Nat × FlagBits :=
  if sat then let (y, c) := satTo signed w r; (wrap w y, flagIf c fSAT) else (wrap w r, 0)

/-- An element-wise operation: `fi` on exact integers, `ff` on floating values. -/
def VxIn.arith (v : VxIn) (fi : Int → Int → Int → Int) (ff : Fmt → FVal → FVal → FVal → Nat × FlagBits) :
    List Vec × FlagBits :=
  let (r, fl) := match v.e with
    | .int sg w => v.map w fun i =>
        intElem sg w v.sat (fi (readInt sg w (elem w v.a i)) (readInt sg w (elem w v.b i)) (readInt sg w (elem w v.t i)))
    | .flt f => v.map f.width fun i =>
        ff f (fdecode f v.ftz (elem f.width v.a i)) (fdecode f v.ftz (elem f.width v.b i))
          (fdecode f v.ftz (elem f.width v.t i))
  ([r], fl)

def rdAT (_ : VxIn) : List Nat := [0x200]
def rdABT (_ : VxIn) : List Nat := [0x200, 0x201]
def rdBT (_ : VxIn) : List Nat := [0x201]
def rdT (_ : VxIn) : List Nat := []

/-! ## Arithmetic (R201 to R206) -/

def fireVxAdd : Trig → State → Fired := vxRun rdAT [pR] etAny (latIF 1) vxFlags fun v =>
  v.arith (fun a _ t => a + t) fun f a _ t => fadd f v.rm v.ftz a t
def fireVxSub : Trig → State → Fired := vxRun rdAT [pR] etAny (latIF 1) vxFlags fun v =>
  v.arith (fun a _ t => a - t) fun f a _ t => fadd f v.rm v.ftz a t.neg
def fireVxMul : Trig → State → Fired := vxRun rdAT [pR] etAny (latIF 2) vxFlags fun v =>
  v.arith (fun a _ t => a * t) fun f a _ t => fmul f v.rm v.ftz a t
def fireVxFma : Trig → State → Fired := vxRun rdABT [pR] etAny (latIF 2) vxFlags fun v =>
  v.arith (fun a b t => a * b + t) fun f a b t => ffma f v.rm v.ftz a b t
def fireVxFms : Trig → State → Fired := vxRun rdABT [pR] etAny (latIF 2) vxFlags fun v =>
  v.arith (fun a b t => a * b - t) fun f a b t => ffma f v.rm v.ftz a b t.neg
def fireVxFnma : Trig → State → Fired := vxRun rdABT [pR] etAny (latIF 2) vxFlags fun v =>
  v.arith (fun a b t => -(a * b) + t) fun f a b t => ffma f v.rm v.ftz a.neg b t
def fireVxMin : Trig → State → Fired := vxRun rdAT [pR] etAny (latIF 1) vxFlags fun v =>
  v.arith (fun a _ t => min a t) fun f a _ t => fminmax f false a t
def fireVxMax : Trig → State → Fired := vxRun rdAT [pR] etAny (latIF 1) vxFlags fun v =>
  v.arith (fun a _ t => max a t) fun f a _ t => fminmax f true a t

/-- The sign cleared or inverted, a NaN canonical (R204). -/
def fsign (f : Fmt) (neg : Bool) (x : FVal) : Nat × FlagBits :=
  match x with
  | .nan s => nanOut f s
  | .inf n => ((fencode f false (.inf (neg && !n))).1, 0)
  | .num n m e => ((fencode f false (.num (neg && !n) m e)).1, 0)

def fireVxAbs : Trig → State → Fired := vxRun rdT [pR] etAny (latIF 1) vxFlags fun v =>
  v.arith (fun _ _ t => if t < 0 then -t else t) fun f _ _ t => fsign f false t
def fireVxNeg : Trig → State → Fired := vxRun rdT [pR] etAny (latIF 1) vxFlags fun v =>
  v.arith (fun _ _ t => -t) fun f _ _ t => fsign f true t

/-- An element-wise operation on integers that does not saturate. -/
def VxIn.intMap (v : VxIn) (fi : Bool → Nat → Int → Int → Int) : List Vec × FlagBits :=
  match v.e with
  | .int sg w => ([(v.map w fun i =>
      (wrap w (fi sg w (readInt sg w (elem w v.a i)) (readInt sg w (elem w v.t i))), 0)).1], 0)
  | .flt _ => ([0], 0)

def noFp (_ : VxIn) : Bool := false
def isFp (_ : VxIn) : Bool := true

def fireVxMulh : Trig → State → Fired := vxRun rdAT [pR] etInt (fun _ => 2) noFp fun v =>
  v.intMap fun _ w a t => a * t / (2 ^ w : Nat)
def fireVxAvg : Trig → State → Fired := vxRun rdAT [pR] etInt (fun _ => 1) noFp fun v =>
  v.intMap fun _ _ a t => (a + t + 1) / 2

/-- A floating operation of T, and of a where it reads it, for the formats that `perm` allows. -/
def VxIn.fltMap (v : VxIn) (ff : Fmt → FVal → FVal → Nat × FlagBits) : List Vec × FlagBits :=
  match v.e with
  | .flt f =>
    let (r, fl) := v.map f.width fun i =>
      ff f (fdecode f v.ftz (elem f.width v.a i)) (fdecode f v.ftz (elem f.width v.t i))
    ([r], fl)
  | .int _ _ => ([0], 0)

/-- ET is 8 to 10. -/
def etFlt (v : VxIn) : Bool := 8 ≤ v.et && v.et ≤ 10
/-- ET is FP32. -/
def etFp32 (v : VxIn) : Bool := v.et = 8

def fireVxRndi : Trig → State → Fired := vxRun rdT [pR] etFlt (fun _ => 4) isFp fun v =>
  v.fltMap fun f _ t => frndi f v.rm v.ftz t

/-! ## Logic, shifts and counts (R207 to R209) -/

/-- A bitwise operation, masked by element. -/
def VxIn.bits (v : VxIn) (r : Vec) : List Vec × FlagBits :=
  ([(v.map v.e.w fun i => (elem v.e.w r i, 0)).1], 0)

def fireVxAnd : Trig → State → Fired := vxRun rdAT [pR] etAny (fun _ => 1) noFp fun v => v.bits (v.a &&& v.t)
def fireVxOr : Trig → State → Fired := vxRun rdAT [pR] etAny (fun _ => 1) noFp fun v => v.bits (v.a ||| v.t)
def fireVxXor : Trig → State → Fired := vxRun rdAT [pR] etAny (fun _ => 1) noFp fun v => v.bits (v.a ^^^ v.t)
def fireVxAndn : Trig → State → Fired := vxRun rdAT [pR] etAny (fun _ => 1) noFp fun v => v.bits (v.a &&& ~~~v.t)
def fireVxBlend : Trig → State → Fired := vxRun rdABT [pR] etAny (fun _ => 1) noFp fun v =>
  v.bits ((v.a &&& v.t) ||| (v.b &&& ~~~v.t))

/-- An element-wise operation on the bits of a and T. -/
def VxIn.rawMap (v : VxIn) (f : Nat → Nat → Nat → Nat) : List Vec × FlagBits :=
  let w := v.e.w
  ([(v.map w fun i => (f w (elem w v.a i) (elem w v.t i), 0)).1], 0)

def fireVxShl : Trig → State → Fired := vxRun rdAT [pR] etInt (fun _ => 1) noFp fun v =>
  v.rawMap fun w a t => if t < w then a * 2 ^ t else 0
def fireVxShr : Trig → State → Fired := vxRun rdAT [pR] etInt (fun _ => 1) noFp fun v =>
  v.rawMap fun w a t => if t < w then a / 2 ^ t else 0
def fireVxSar : Trig → State → Fired := vxRun rdAT [pR] etInt (fun _ => 1) noFp fun v =>
  v.rawMap fun w a t => wrap w (toSigned w a / (2 ^ (min t w) : Nat))
def fireVxPopc : Trig → State → Fired := vxRun rdT [pR] etInt (fun _ => 1) noFp fun v =>
  v.rawMap fun w _ t => popCount w t
def fireVxClz : Trig → State → Fired := vxRun rdT [pR] etInt (fun _ => 1) noFp fun v =>
  v.rawMap fun w _ t => leadZeros w t
def fireVxCls : Trig → State → Fired := vxRun rdT [pR] etInt (fun _ => 1) noFp fun v =>
  v.rawMap fun w _ t => leadZeros w (if 2 ^ (w - 1) ≤ t then 2 ^ w - 1 - t else t) - 1

/-! ## Compares, select and tests (R210 to R212) -/

/-- A compare: the mask in `.r`, the relations in `.f` (R210). `quiet` is eq and ne. -/
def VxIn.compare (v : VxIn) (quiet : Bool) (rel : Ordering → Bool) : List Vec × FlagBits :=
  let w := v.e.w
  let one (i : Nat) : Bool × FlagBits := match v.e with
    | .int sg w => (rel (Ord.compare (readInt sg w (elem w v.a i)) (readInt sg w (elem w v.t i))), 0)
    | .flt f =>
      let a := fdecode f v.ftz (elem w v.a i)
      let t := fdecode f v.ftz (elem w v.t i)
      (((fcompare a t).map rel).getD false,
        flagIf (a.isSnan || t.isSnan || (!quiet && (a.isNan || t.isNan))) fNV)
  let (r, fl) := v.map w fun i => let (b, g) := one i; (if b then 2 ^ w - 1 else 0, g)
  let f := ofElems 1 ((List.range v.e.n).map fun i => if v.active i && (one i).1 then 1 else 0)
  ([r, BitVec.ofNat 512 f], fl)

def fireVxEq : Trig → State → Fired := vxRun rdAT [pR, pF] etAny (latIF 1) vxFlags fun v =>
  v.compare true (· == .eq)
def fireVxNe : Trig → State → Fired := vxRun rdAT [pR, pF] etAny (latIF 1) vxFlags fun v =>
  v.compare true (· != .eq)
def fireVxLt : Trig → State → Fired := vxRun rdAT [pR, pF] etAny (latIF 1) vxFlags fun v =>
  v.compare false (· == .lt)
def fireVxLe : Trig → State → Fired := vxRun rdAT [pR, pF] etAny (latIF 1) vxFlags fun v =>
  v.compare false (· != .gt)

def fireVxSel : Trig → State → Fired := vxRun rdABT [pR] etAny (fun _ => 1) noFp fun v =>
  let w := v.e.w
  ([(v.map w fun i => (if v.t.toNat / 2 ^ i % 2 = 1 then elem w v.a i else elem w v.b i, 0)).1], 0)

/-- A test of the mask bits of T: lane 0 of `.r` and `.f` (R212). -/
def VxIn.test (v : VxIn) (all : Bool) : List Vec × FlagBits :=
  let act := (List.range v.e.n).filter v.active
  let bit (i : Nat) : Bool := v.t.toNat / 2 ^ i % 2 = 1
  let r : Vec := if (if all then act.all bit else act.any bit) then 1 else 0
  ([r, r], 0)

def fireVxAny : Trig → State → Fired := vxRun rdT [pR, pF] etAny (fun _ => 1) noFp fun v => v.test false
def fireVxAll : Trig → State → Fired := vxRun rdT [pR, pF] etAny (fun _ => 1) noFp fun v => v.test true

/-! ## Permutation (R213) -/

/-- An element-wise permutation: element i of the result. -/
def VxIn.permute (v : VxIn) (f : Nat → Nat → Nat → Nat) : List Vec × FlagBits :=
  let w := v.e.w
  ([(v.map w fun i => (f w v.e.n i, 0)).1], 0)

def fireVxPerm : Trig → State → Fired := vxRun rdAT [pR] etAny (fun _ => 2) noFp fun v =>
  v.permute fun w n i => elem w v.a (elem w v.t i % n)
def fireVxShuf : Trig → State → Fired := vxRun rdABT [pR] etAny (fun _ => 2) noFp fun v =>
  v.permute fun w n i =>
    let k := elem w v.t i % (2 * n)
    if k < n then elem w v.a k else elem w v.b (k - n)
def fireVxRot : Trig → State → Fired := vxRun rdAT [pR] etAny (fun _ => 2) noFp fun v =>
  v.permute fun w n i => elem w v.a ((i + elem w v.t 0) % n)
def fireVxIota : Trig → State → Fired := vxRun rdT [pR] etInt (fun _ => 1) noFp fun v =>
  v.permute fun w _ i => elem w v.t 0 + i
def fireVxIns : Trig → State → Fired := vxRun rdAT [pR] (fun v => etAny v && v.idx < v.e.n) (fun _ => 1) noFp fun v =>
  v.permute fun w _ i => if i = v.idx then elem w v.t 0 else elem w v.a i

/-! ## Reductions (R38, R214) -/

/-- One level of the tree of R38. -/
def pairUp (op : Nat → Nat → Nat × FlagBits) : List Nat → List Nat × FlagBits
  | x :: y :: r =>
    let (z, f) := op x y
    let (zs, g) := pairUp op r
    (z :: zs, f ||| g)
  | r => (r, 0)

/-- The tree of R38: `n` levels. -/
def treeFold (op : Nat → Nat → Nat × FlagBits) : Nat → List Nat → Nat × FlagBits
  | 0, l => (l.headD 0, 0)
  | n + 1, l =>
    let (l', f) := pairUp op l
    let (r, g) := treeFold op n l'
    (r, f ||| g)

/-- A reduction of T: inactive elements are first replaced by the identity (R214). -/
def VxIn.reduce (v : VxIn) (ident : Nat) (op : Nat → Nat → Nat × FlagBits) : List Vec × FlagBits :=
  let w := v.e.w
  let l := (List.range v.e.n).map fun i => if v.active i then elem w v.t i else ident
  let (r, fl) := treeFold op v.e.n.log2 l
  ([BitVec.ofNat 512 r], fl)

def fireVxRsum : Trig → State → Fired := vxRun rdT [pR] etAny (fun _ => 5) vxFlags fun v =>
  match v.e with
  | .int sg w => v.reduce 0 fun x y => intElem sg w v.sat (readInt sg w x + readInt sg w y)
  | .flt f => v.reduce f.signBit fun x y => fadd f v.rm v.ftz (fdecode f v.ftz x) (fdecode f v.ftz y)

/-- The smallest or largest value of a type: the identity of rmax and rmin. -/
def Elem.extreme (e : Elem) (isMax : Bool) : Nat :=
  match e with
  | .int sg w => wrap w (if isMax then (rangeOf sg w).1 else (rangeOf sg w).2)
  | .flt f => withSign f isMax f.infBits

/-- rmax and rmin (R214). -/
def VxIn.reduceExt (v : VxIn) (isMax : Bool) : List Vec × FlagBits :=
  v.reduce (v.e.extreme isMax) fun x y => match v.e with
    | .int sg w =>
      let a := readInt sg w x
      let b := readInt sg w y
      (wrap w (if isMax then max a b else min a b), 0)
    | .flt f => fminmax f isMax (fdecode f v.ftz x) (fdecode f v.ftz y)

def fireVxRmax : Trig → State → Fired := vxRun rdT [pR] etAny (fun _ => 5) vxFlags fun v => v.reduceExt true
def fireVxRmin : Trig → State → Fired := vxRun rdT [pR] etAny (fun _ => 5) vxFlags fun v => v.reduceExt false
def fireVxRandb : Trig → State → Fired := vxRun rdT [pR] etInt (fun _ => 5) noFp fun v =>
  v.reduce (2 ^ v.e.w - 1) fun x y => (x &&& y, 0)
def fireVxRorb : Trig → State → Fired := vxRun rdT [pR] etInt (fun _ => 5) noFp fun v =>
  v.reduce 0 fun x y => (x ||| y, 0)
def fireVxRxorb : Trig → State → Fired := vxRun rdT [pR] etInt (fun _ => 5) noFp fun v =>
  v.reduce 0 fun x y => (x ^^^ y, 0)

/-! ## Floating functions (R215, R216) -/

def fireVxRcp : Trig → State → Fired := vxRun rdT [pR] etFp32 (fun _ => 8) isFp fun v =>
  v.fltMap fun f _ t => frcp f v.rm v.ftz t
def fireVxRsqrt : Trig → State → Fired := vxRun rdT [pR] etFp32 (fun _ => 8) isFp fun v =>
  v.fltMap fun f _ t => frsqrt f v.rm v.ftz t
def fireVxExp2 : Trig → State → Fired := vxRun rdT [pR] etFp32 (fun _ => 8) isFp fun v =>
  v.fltMap fun f _ t => fexp2 f v.rm v.ftz t
def fireVxDiv : Trig → State → Fired := vxRun rdAT [pR] etFlt (fun _ => 12) isFp fun v =>
  v.fltMap fun f a t => fdiv f v.rm v.ftz a t
def fireVxSqrt : Trig → State → Fired := vxRun rdT [pR] etFlt (fun _ => 12) isFp fun v =>
  v.fltMap fun f _ t => fsqrt f v.rm v.ftz t

/-! ## Conversions (R217 to R222) -/

/-- The exact value of an element. -/
def Elem.value (e : Elem) (ftz : Bool) (x : Nat) : FVal :=
  match e with
  | .int sg w => intVal (readInt sg w x)
  | .flt f => fdecode f ftz x

/-- A value encoded into an element (R53, Table 12). -/
def Elem.encode (e : Elem) (rm : RMode) (ftz : Bool) (x : FVal) : Nat × FlagBits :=
  match e with
  | .int sg w => let (y, fl) := fToInt rm sg w x; (wrap w y, fl)
  | .flt f => fToF f rm ftz x

/-- Conversion of T·2^k (R217, R218). -/
def VxIn.convert (v : VxIn) (k : Int) : List Vec × FlagBits :=
  let ws := v.e.w
  let wd := v.e2.w
  let conv (x : Nat) : Nat × FlagBits := v.e2.encode v.rm v.ftz ((v.e.value v.ftz x).scale (-k))
  if ws ≤ wd then
    let (r, fl) := v.map wd fun i => conv (elem ws v.t (v.sel * v.e2.n + i))
    ([r], fl)
  else
    let (r, fl) := v.mapAt wd v.e.n (v.sel * v.e.n) v.a fun i => conv (elem ws v.t i)
    ([r], fl)

/-- ET and ET2 are 0 to 10, and SEL names a part (R217). -/
def cvtPerm (v : VxIn) : Bool :=
  v.et ≤ 10 && v.et2 ≤ 10 && v.sel < max (v.e2.w / v.e.w) (v.e.w / v.e2.w)

def fireVxCvt : Trig → State → Fired := vxRun rdAT [pR] cvtPerm (fun _ => 4) isFp fun v => v.convert 0

/-- Past ±4000 a scale gives what ±4000 gives: every value of the types overflows or vanishes. -/
def fireVxCvts : Trig → State → Fired := vxRun rdABT [pR] cvtPerm (fun _ => 4) isFp fun v =>
  v.convert (clamp (-4000) 4000 (toSigned 32 (elem 32 v.b 0)))

/-- ET2 is an integer type of width `w` (R219). -/
def et2Int (v : VxIn) (w : Nat) : Bool := v.et2 ≤ 7 && v.e2.w = w

def fireVxPack : Trig → State → Fired :=
  vxRun rdAT [pR] (fun v => 2 ≤ v.et && v.et ≤ 7 && et2Int v (v.e.w / 2)) (fun _ => 2) isFp fun v =>
    let n := v.e.n
    let (r, fl) := v.map v.e2.w fun i =>
      v.e2.encode v.rm v.ftz (v.e.value false (if i < n then elem v.e.w v.a i else elem v.e.w v.t (i - n)))
    ([r], fl)

def fireVxUnpk : Trig → State → Fired :=
  vxRun rdT [pR] (fun v => v.et ≤ 5 && et2Int v (2 * v.e.w) && v.sel ≤ 1) (fun _ => 2) noFp fun v =>
    ([(v.map v.e2.w fun i => match v.e with
        | .int sg w => (wrap v.e2.w (readInt sg w (elem w v.t (v.sel * v.e2.n + i))), 0)
        | .flt _ => (0, 0)).1], 0)

/-- ET2 is I8, I16 or I32 (R220). -/
def unPerm (v : VxIn) : Bool := [0, 2, 4].contains v.et2

/-- The bytes, by ascending index, of the codes that supply active elements and are illegal (R220). -/
def VxIn.illegalCodes (v : VxIn) : List Nat :=
  (((List.range v.e2.n).filter v.active).map fun j => elem 8 v.t (v.idx + j / 5)).filter t5Illegal

def vxT5un : Trig → State → Fired :=
  vxRun rdT [pR] (fun v => unPerm v && v.idx + (v.e2.n + 4) / 5 ≤ 64) (fun _ => 2) isFp fun v =>
    let w := v.e2.w
    let (r, fl) := v.map w fun j =>
      let b := elem 8 v.t (v.idx + j / 5)
      (wrap w ((t5Decode b).getD (j % 5) 0), flagIf (t5Illegal b) fILT)
    ([r], fl)

/-- `vx.t5un`: with TRAPILL = 1 an illegal code traps at the group (R46, R220). -/
def fireVxT5un (x : Trig) (s : State) : Fired :=
  match vxT5un x s with
  | .done s' j =>
    let k := s.ctx x.core
    let v : VxIn := { ty := (k.scalar 0x204).v, m := (k.vector 0x203).v, t := x.tv.v }
    let muck := isMuck (k.scalar 0x204).t || (v.msk != 0 && isMuck (k.vector 0x203).t)
    match v.illegalCodes with
    | b :: _ => if x.trapIll && !muck then .trap 7 { cause := 12, val := BitVec.ofNat 64 b } else .done s' j
    | [] => .done s' j
  | r => r

def fireVxI4un : Trig → State → Fired :=
  vxRun rdT [pR] (fun v => unPerm v && v.idx + v.e2.n / 2 ≤ 64) (fun _ => 2) noFp fun v =>
    let w := v.e2.w
    ([(v.map w fun j => (wrap w ((i4Decode (elem 8 v.t (v.idx + j / 2))).getD (j % 2) 0), 0)).1], 0)

/-- `vx.bfpk` reads a only with ET = FP32 (R221). -/
def rdBfpk (v : VxIn) : List Nat := if v.et = 8 then [0x200] else []

def fireVxBfpk : Trig → State → Fired :=
  vxRun rdBfpk [pR, pH] (fun v => etFlt v && (v.et2 = 11 || v.et2 = 12)) (fun _ => 4) isFp fun v =>
    let w := v.e.w
    let xs := (List.range 32).map fun i =>
      if !v.active i then FVal.num false 0 0
      else v.e.value v.ftz (if v.et = 8 then (if i < 16 then elem w v.a i else elem w v.t (i - 16)) else elem w v.t i)
    let twelve := v.et2 = 12
    let (e, ms, fl) := encodeBlock twelve v.rm xs
    let w2 := if twelve then 16 else 8
    ([BitVec.ofNat 512 (ofElems w2 (ms.map (wrap w2))), BitVec.ofNat 512 e], fl)

/-- Mantissa i of the block in T, and whether its container is illegal (R222). -/
def VxIn.mantissa (v : VxIn) (i : Nat) : Int × Bool :=
  if v.et = 11 then (toSigned 8 (elem 8 v.t i), false) else bfp12Decode (elem 16 v.t i)

def fireVxBfun : Trig → State → Fired :=
  vxRun rdBT [pR] (fun v => (v.et = 11 || v.et = 12) && 8 ≤ v.et2 && v.et2 ≤ 10
      && (if v.et2 = 8 then v.sel ≤ 1 else v.sel = 0)) (fun _ => 4) isFp fun v =>
    let e := elem 8 v.b 0
    let (r, fl) := v.map v.e2.w fun i =>
      let (m, bad) := v.mantissa (if v.et2 = 8 then v.sel * 16 + i else i)
      let (y, g) := v.e2.encode v.rm v.ftz (.num (m < 0) m.natAbs ((e : Int) - 127))
      (y, g ||| flagIf bad fILC)
    ([r], fl)

/-! ## Dot product (R223) -/

/-- The exact sum of values, rounded once. -/
def sumExact (f : Fmt) (rm : RMode) (ftz : Bool) (xs : List (Option FVal)) : Nat × FlagBits :=
  let vs := xs.filterMap id
  let snan := vs.any (·.isSnan)
  let infs := vs.filterMap fun v => match v with
    | .inf n => some n
    | _ => none
  if xs.any (·.isNone) then nanOut f true
  else if vs.any (·.isNan) then nanOut f snan
  else if infs.contains true && infs.contains false then nanOut f true
  else match infs with
    | n :: _ => (withSign f n f.infBits, 0)
    | [] =>
      let q := vs.foldl (fun q v => match v with
        | .num _ _ e => min q e
        | _ => q) (0 : Int)
      let sum := vs.foldl (fun a v => match v with
        | .num n m e => a + scaled n m e q
        | _ => a) (0 : Int)
      let zeros := vs.all fun v => match v with
        | .num _ m _ => m = 0
        | _ => false
      if sum = 0 then
        (withSign f (if zeros && vs.all (·.isNeg) then true
          else if zeros && vs.all (!·.isNeg) then false else rm == .rdn) 0, 0)
      else fround f rm ftz (sum < 0) sum.natAbs q

def fireVxDot : Trig → State → Fired :=
  vxRun rdABT [pR] (fun v => v.et ≤ 3 || v.et = 9 || v.et = 10) (fun _ => 4) vxFlags fun v =>
    let w := v.e.w
    let r := 32 / w
    let (y, fl) := v.map 32 fun i => match v.e with
      | .int sg w =>
        intElem sg 32 v.sat ((List.range r).foldl (fun a k =>
          a + readInt sg w (elem w v.a (r * i + k)) * readInt sg w (elem w v.t (r * i + k))) (readInt sg 32 (elem 32 v.b i)))
      | .flt f =>
        sumExact fp32 v.rm v.ftz (some (fdecode fp32 v.ftz (elem 32 v.b i)) :: (List.range 2).map fun k =>
          mulExact (fdecode f v.ftz (elem w v.a (2 * i + k))) (fdecode f v.ftz (elem w v.t (2 * i + k))))
    ([y], fl)

/-- The vector latches that a `vx` trigger reads, `vx.m` and `vx.c` by MK (R195). -/
def vectorLatches (ty : Dword) (p : Nat) : List Nat :=
  let mk := dfield ty 9 8
  let i := p - 0x210
  let base :=
    if (3 ≤ i && i ≤ 5) || i = 21 || i = 23 || i = 38 || i = 52 || i = 54 then [0x200, 0x201]
    else if i ≤ 2 || i = 6 || i = 7 || (10 ≤ i && i ≤ 20) || i = 22 || i = 24 || i = 35 || i = 37 || i = 39
        || (i = 43 && dfield ty 3 0 = 8) || i = 45 || i = 46 || i = 49 then [0x200]
    else if i = 44 then [0x201]
    else []
  base ++ [0x204] ++ (if mk != 0 then [0x203] else []) ++ (if mk = 2 then [0x202] else [])

end Sys2Proof.Machine
end

