-- ==== Sys2Proof/Machine/Weights.lean ====
section
/-! DEFINITION. Weight-driven mode (R240 to R248): `ct.wdrive`, the checks of a block header, the effects of the blocks,
and their successors. -/

namespace Sys2Proof.Machine

/-! ## Entering and leaving the mode (R240) -/

/-- `ct.wdrive` (R240). -/
def fireCtWdrive (x : Trig) (s : State) : Fired :=
  if isMuck x.t.t then x.undone s [0x4BD]
  else if (taskOf s x.core).follow then .trap 4 (refused 8 x.t.v)
  else if x.t.v.toNat % 64 != 0 then
    .done (s.updCtx x.core (·.send { due := s.now + coreCycles 1, sw := [(0x4BD, { v := pack [(32, 3)] })] })) false
  else
    if !s.drained x.core then .stall
    else
    let (id, s) := s.newId
    .done (s.updCtx x.core fun k => { k.await [0x4BD] id with wd := some { block := x.t.v.toNat, token := id } }) false

/-- The mode ends: `ct.r` receives the exit status, and both streams go on (Table 9). -/
def State.wdEnd (s : State) (c : Nat) (w : WDrive) (how code : Nat) : State :=
  let s := s.updCore c (·.reply w.token [(0x4BD, { v := pack [(0, code), (32, how)], t := if how = 2 then [mucked] else [] })])
  s.updCtx c fun k => { k with
    wd := none
    xs := { k.xs with ready := s.now + coreCycles 1 }, as_ := { k.as_ with ready := s.now + coreCycles 1 } }

/-! ## The header (R241, Tables 10 and 11) -/

/-- A header's fields. -/
structure Hdr where
  meth : Nat := 0
  op   : Nat := 0
  crcp : Bool := false
  zf   : Bool := false
  slen : Nat := 0
  elen : Nat := 0
  dkind : Nat := 0
  dx   : Nat := 0
  dy   : Nat := 0
  num  : Nat := 0
  off  : Nat := 0
  abase : Nat := 0
  acnt : Nat := 0
  afmt : Nat := 0
  akind : Nat := 0
  bslot : Nat := 0
  ncol : Nat := 0
  /-- Dword 3 as SYNC, EXIT and TRAPB read it. -/
  arg  : Dword := 0
  skind : Nat := 0
  soff : Int := 0
  sreg : Nat := 0
  vsel : Bool := false
  slane : Nat := 0
  rep  : Nat := 0
  crc  : Nat := 0
  deriving DecidableEq, Repr, Inhabited

def hdrOf (v : Vec) : Hdr :=
  let d (i : Nat) : Dword := dwordOf v i
  { meth := dfield (d 0) 15 8, op := dfield (d 0) 23 16, crcp := dfield (d 0) 24 24 = 1, zf := dfield (d 0) 25 25 = 1
    slen := dfield (d 0) 63 32, elen := dfield (d 1) 31 0, dkind := dfield (d 2) 2 0, dx := dfield (d 2) 15 8
    dy := dfield (d 2) 23 16, num := dfield (d 2) 31 24, off := dfield (d 2) 51 32, abase := dfield (d 3) 5 0
    acnt := dfield (d 3) 14 8, afmt := dfield (d 3) 19 16, akind := dfield (d 3) 23 20, bslot := dfield (d 3) 27 24
    ncol := dfield (d 3) 47 32, arg := d 3, skind := dfield (d 4) 2 0, soff := toSigned 32 (dfield (d 4) 63 32)
    sreg := dfield (d 5) 5 0, vsel := dfield (d 5) 6 6 = 1, slane := dfield (d 5) 11 8, rep := dfield (d 5) 47 16
    crc := dfield (d 6) 31 0 }

/-- Opcodes (R151). -/
def oNop : Nat := 0
def oMvacc : Nat := 1
def oMmacc : Nat := 2
def oBias : Nat := 3
def oScale : Nat := 4
def oAct : Nat := 5
def oLoadv : Nat := 6
def oStore : Nat := 7
def oSend : Nat := 8
def oSelect : Nat := 9
def oSync : Nat := 10
def oExit : Nat := 11
def oTrapb : Nat := 12

/-- A reserved bit is set (Table 10). -/
def hdrReserved (v : Vec) : Bool :=
  let d (i : Nat) : Dword := dwordOf v i
  let op := dfield (d 0) 23 16
  dfield (d 0) 31 26 != 0 || dfield (d 1) 63 32 != 0 || dfield (d 2) 7 3 != 0 || dfield (d 2) 63 52 != 0
    || (if op = oSync then dfield (d 3) 63 40 != 0
        else if op = oExit then dfield (d 3) 63 32 != 0
        else if op = oTrapb then dfield (d 3) 63 24 != 0
        else dfield (d 3) 7 6 != 0 || dfield (d 3) 15 15 != 0 || dfield (d 3) 31 28 != 0 || dfield (d 3) 63 48 != 0)
    || dfield (d 4) 31 3 != 0 || dfield (d 5) 7 7 != 0 || dfield (d 5) 15 12 != 0 || dfield (d 5) 63 48 != 0
    || dfield (d 6) 63 32 != 0 || d 7 != 0

/-- A field that the opcode does not use is set (R242, R247). -/
def Hdr.unused (h : Hdr) : Bool :=
  let is (l : List Nat) : Bool := l.contains h.op
  (h.zf && !is [oMvacc, oMmacc]) || ((h.dx != 0 || h.dy != 0) && h.op != oSend)
    || (h.num != 0 && !is [oMvacc, oMmacc, oBias, oScale, oAct, oLoadv, oStore, oSend])
    || (h.off != 0 && !is [oMvacc, oBias, oScale, oAct, oLoadv, oStore])
    || (!is [oSync, oExit, oTrapb]
        && ((h.abase != 0 && !is [oMvacc, oMmacc, oStore, oSend]) || (h.op = oMmacc && 16 ≤ h.abase)
          || (h.acnt != 0 && !is [oMvacc, oStore, oSend]) || (h.afmt != 0 && !is [oMvacc, oAct, oStore, oSend])
          || (h.akind != 0 && h.op != oAct) || (h.bslot != 0 && h.op != oMmacc)
          || (h.ncol != 0 && !is [oMvacc, oAct, oStore, oSend])))
    || ((h.sreg != 0 || h.vsel || h.slane != 0) && h.op != oSelect) || (h.rep != 0 && h.op != oMvacc)
    || (h.crc != 0 && !h.crcp)

/-- Check 7: lengths and method (R242). -/
def Hdr.lengthsBad (h : Hdr) : Bool :=
  (h.meth = 0 && h.slen != h.elen) || (h.meth = 1 && h.slen != (h.elen + 4) / 5)
    || (h.meth = 2 && h.slen != (h.elen + 1) / 2)
    || (h.crcp && 65536 < h.slen)
    || (h.meth != 0 && !(h.op = oNop || h.op = oLoadv || (h.meth ≤ 2 && (h.op = oMvacc || h.op = oMmacc))))
    || (h.slen != 0 && [oAct, oStore, oSend, oSync, oExit, oTrapb].contains h.op)
    || (h.op = oMvacc && h.elen % h.ncol != 0)
    || (h.op = oMmacc && (h.elen % 64 != 0 || 2048 < h.elen))
    || ((h.op = oBias || h.op = oScale) && h.slen % 4 != 0)

/-- DKIND of an opcode (Table 11). -/
def dkindOf (op : Nat) : Nat :=
  if [oMvacc, oBias, oScale, oAct, oLoadv].contains op then 1 else if op = oStore then 2 else if op = oSend then 3 else 0

/-- Bytes of an element of type AFMT. -/
def afmtBytes (f : Nat) : Nat := (elemType f).w / 8

/-- A v span of `n` elements of `w` bits from element `pos` of v(first) lies below VREGS. -/
def Core.spanOk (k : Core) (first w pos n : Nat) : Bool := n = 0 || first + (pos + n - 1) * w / 512 < k.vregs.toNat

/-- Rows of an MVACC. -/
def Hdr.rows (h : Hdr) : Nat := h.elen / h.ncol

/-- Check 8: operand fields in range (R244, R247). -/
def Hdr.routeBad (h : Hdr) (k : Core) (t : Task) : Bool :=
  let n := k.vregs.toNat
  let acntBad : Bool := h.acnt = 0 || 64 < h.acnt
  h.dkind != dkindOf h.op ||
    (if h.op = oMvacc then
      !(h.afmt = 0 || h.afmt = 2 || h.afmt = 4) || acntBad || 64 * h.acnt < h.ncol * afmtBytes h.afmt
        || n < h.abase + h.acnt * (h.rep + 1) || !k.spanOk (h.num + h.rep) 32 h.off h.rows
    else if h.op = oMmacc then
      4 ≤ h.num || h.bslot = h.abase || !k.owns h.abase || k.roleOf h.abase || !k.owns h.bslot
    else if h.op = oBias || h.op = oScale then !k.spanOk h.num 32 h.off (h.slen / 4)
    else if h.op = oAct then
      !(h.afmt = 4 || h.afmt = 8) || 2 < h.akind || (h.akind = 2 && h.afmt != 4) || !k.spanOk h.num 32 h.off h.ncol
    else if h.op = oLoadv then !k.spanOk h.num 8 h.off h.elen
    else if h.op = oStore || h.op = oSend then
      let b := k.ctx.bufs.get {} h.num
      10 < h.afmt || acntBad || 64 * h.acnt < h.ncol * afmtBytes h.afmt || n < h.abase + h.acnt
        || (if h.op = oSend then t.gw ≤ h.dx || t.gh ≤ h.dy
            else 32 ≤ h.num || b.len = 0 || b.len.toNat < h.off + h.ncol * afmtBytes h.afmt)
    else h.op = oSelect && h.vsel && n ≤ h.sreg)

/-- A block-format fault (R244). -/
def blockFault (reason va : Nat) : Trap := { cause := 4, reason := BitVec.ofNat 8 reason, val := BitVec.ofNat 64 va }

/-- Checks 3 to 9 of Table 12 on a header at `va`; the opcode is known from check 6 on. -/
def hdrCheck (k : Core) (t : Task) (va : Nat) (v : Vec) : Option Trap :=
  let h := hdrOf v
  if dfield (dwordOf v 0) 7 0 != 0xB6 then some (blockFault 1 va)
  else if 4 ≤ h.meth then some (blockFault 2 va)
  else if 12 < h.op then some (blockFault 3 va)
  else if hdrReserved v || h.unused then some (blockFault 4 va)
  else if h.lengthsBad then some (blockFault 5 va)
  else if h.routeBad k t then some (blockFault 6 va)
  else if 4 < h.skind || (h.skind = 4) != (h.op = oSelect) then some (blockFault 7 va)
  else none

/-! ## Granules -/

/-- A granule of a block at `va`; the address reported for poison is the header's, `hva` (R241, R244 checks 1, 2, 14, 15). -/
def State.blockRead (s : State) (c : Nat) (t : Task) (hva va : Nat) : State × Except Trap (Vec × LTag) :=
  match s.engineParts c t .block (BitVec.ofNat 64 va) 64 with
  | (s, .error e) => (s, .error e)
  | (s, .ok ps) => match s.readBytes c s.nextId ps with
    | (s, .error e) => (s, .error (if e.cause = 6 then { e with val := BitVec.ofNat 64 hva } else e))
    | (s, .ok bs) => (s, .ok (BitVec.ofNat 512 (ofBytes (bs.map (·.1))), joinTags (bs.map (·.2))))

/-- Granules `i` to `i + n - 1` of the payload. -/
def State.payloadRead (s : State) (c : Nat) (t : Task) (hva : Nat) : Nat → Nat → State × Except Trap (List (Vec × LTag))
  | _, 0 => (s, .ok [])
  | i, n + 1 =>
    match s.blockRead c t hva (hva + 64 + 64 * i) with
    | (s, .error e) => (s, .error e)
    | (s, .ok g) => match payloadRead s c t hva (i + 1) n with
      | (s, .error e) => (s, .error e)
      | (s, .ok r) => (s, .ok (g :: r))

/-- Bytes of granules, each with its tag, cut to `n`. -/
def payloadBytes (n : Nat) (gs : List (Vec × LTag)) : List (Byte × LTag) :=
  (gs.flatMap fun g => (bytesOf 64 g.1.toNat).map (·, g.2)).take n

/-- Payload granules. -/
def Hdr.grans (h : Hdr) : Nat := (h.slen + 63) / 64

/-- A payload that is fetched and checked and never applied: that of a NOP, and the successor table of a SELECT (R241, R242). -/
def Hdr.unapplied (h : Hdr) : Bool := h.op = oNop || h.op = oSelect

/-- Applied whole (R245), or not at all. -/
def Hdr.whole (h : Hdr) : Bool := h.op = oMmacc || (h.op = oLoadv && h.meth = 3) || h.unapplied

/-- Granule indices that the block goes through (R242, R245): a block that is applied whole is applied once, even where it has no
payload. -/
def Hdr.total (h : Hdr) : Nat :=
  if h.whole then max 1 h.grans else if h.op = oMvacc then h.grans * (h.rep + 1) else h.grans

/-- Weights or elements of payload bytes, with whether an illegal T5 code was met (R242). -/
def Hdr.elements (h : Hdr) (bs : List Byte) : List Int × Bool :=
  match h.meth with
  | 1 => (bs.flatMap fun b => t5Decode b.toNat, bs.any fun b => t5Illegal b.toNat)
  | 2 => (bs.flatMap fun b => i4Decode b.toNat, false)
  | _ => (bs.map (·.toInt), false)

/-- Elements of a payload byte. -/
def Hdr.perByte (h : Hdr) : Nat := if h.meth = 1 then 5 else if h.meth = 2 then 2 else 1

/-! ## Vector spans -/

def vPort (i : Nat) : Nat := 0x40 + i

/-- Element `pos` of `w` bits of the span from v(first). -/
def Ctx.lane (k : Ctx) (first w pos : Nat) : Nat := elem w (k.vector (vPort (first + pos * w / 512))).v (pos % (512 / w))

/-- A vector with element `i` of `w` bits replaced. -/
def setElem (w : Nat) (v : Vec) (i x : Nat) : Vec :=
  BitVec.ofNat 512 (v.toNat - elem w v i * 2 ^ (w * i) + x % 2 ^ w * 2 ^ (w * i))

def Ctx.setLane (k : Ctx) (first w pos x : Nat) : Ctx :=
  let p := vPort (first + pos * w / 512)
  let v := k.vector p
  k.setVector p { v with v := setElem w v.v (pos % (512 / w)) x }

/-- Registers of a span. -/
def spanRegs (first w pos n : Nat) : List Nat :=
  if n = 0 then [] else (List.range ((pos + n - 1) * w / 512 - pos * w / 512 + 1)).map fun i => vPort (first + pos * w / 512 + i)

def Ctx.portTags (k : Ctx) (ps : List Nat) : List LTag := ps.map fun p => (k.vector p).t

/-- Registers that a block writes take the join of their tags with `more` and CTLAB (R242). -/
def Ctx.tagRegs (k : Ctx) (ps : List Nat) (more : List LTag) : Ctx :=
  ps.foldl (fun k p =>
    let v := k.vector p
    k.setVector p { v with t := joinTags (v.t :: k.ctlab :: more) }) k

/-- Any of these registers is still to come, or its tag unresolved. -/
def Ctx.anyPending (k : Ctx) (ps : List Nat) : Bool := ps.any k.portPending

/-! ## Effects granule by granule -/

/-- Registers that execution `e` of an MVACC reads, and those it writes. -/
def Hdr.mvSrc (h : Hdr) (e : Nat) : List Nat := spanRegs (h.abase + e * h.acnt) (8 * afmtBytes h.afmt) 0 h.ncol
def Hdr.mvDst (h : Hdr) (e : Nat) : List Nat := spanRegs (h.num + e) 32 h.off h.rows

/-- ZF: the destination lanes of an execution are zeroed first. -/
def Ctx.mvZero (k : Ctx) (h : Hdr) (e : Nat) : Ctx :=
  (List.range h.rows).foldl (fun k i => k.setLane (h.num + e) 32 (h.off + i) 0) k

/-- Weights from element `k0` on are applied (R242). -/
def Ctx.mvApply (k : Ctx) (h : Hdr) (e k0 : Nat) (ws : List Int) : Ctx :=
  let w := 8 * afmtBytes h.afmt
  ((ws.take (h.elen - k0)).zipIdx k0).foldl (fun k (x, n) =>
    let lane := h.off + n / h.ncol
    let y := toSigned w (k.lane (h.abase + e * h.acnt) w (n % h.ncol))
    k.setLane (h.num + e) 32 lane (wrap 32 ((k.lane (h.num + e) 32 lane : Int) + x * y))) k

/-- One granule of a BIAS: I32 values are added to lanes. -/
def Ctx.biasApply (k : Ctx) (h : Hdr) (g : Nat) (vs : List Nat) : Ctx :=
  (vs.zipIdx (h.off + 16 * g)).foldl (fun k (x, lane) => k.setLane h.num 32 lane (k.lane h.num 32 lane + x)) k

/-- One granule of a SCALE: I32 lanes times FP32 values. DESIGN CHOICE (log entry 49): FTZ applies, as to an FP32 operation of
`vx` (R34). -/
def Ctx.scaleApply (k : Ctx) (h : Hdr) (g : Nat) (vs : List Nat) : Ctx :=
  let rm := rmode (vfRm k.vflags)
  let ftz := vfFtz k.vflags
  (vs.zipIdx (h.off + 16 * g)).foldl (fun k (x, lane) =>
    let (r, fl) := fmul fp32 rm ftz (intVal (toSigned 32 (k.lane h.num 32 lane))) (fdecode fp32 ftz x)
    (k.setLane h.num 32 lane r).setFlags fl) k

/-- Bytes of a LOADV from expanded byte `k0` on. -/
def Ctx.loadvApply (k : Ctx) (h : Hdr) (k0 : Nat) (bs : List Int) : Ctx :=
  ((bs.take (h.elen - k0)).zipIdx (h.off + k0)).foldl (fun k (x, pos) => k.setLane h.num 8 pos (wrap 8 x)) k

/-- Granule index `i` of the block is applied: payload granule `g` with its tag (R242, R245). -/
def Ctx.granApply (k : Ctx) (h : Hdr) (i : Nat) (g : Vec × LTag) : Ctx :=
  let p := i % h.grans
  let bs := (bytesOf 64 g.1.toNat).take (h.slen - 64 * p)
  let (els, ill) := h.elements bs
  let words := (pieces 4 bs).map ofBytes
  let k0 := 64 * p * h.perByte
  let lanes := spanRegs h.num 32 h.off (h.slen / 4)
  if h.op = oMvacc then
    let e := i / h.grans
    let src := k.portTags (h.mvSrc e)
    let k := if h.zf && p = 0 then k.mvZero h e else k
    ((k.mvApply h e k0 els).tagRegs (h.mvDst e) (g.2 :: src)).setFlags (flagIf ill fILT)
  else if h.op = oBias then (k.biasApply h p words).tagRegs lanes [g.2]
  else if h.op = oScale then (k.scaleApply h p words).tagRegs lanes [g.2]
  else if h.op != oLoadv then k
  else ((k.loadvApply h k0 els).tagRegs (spanRegs h.num 8 h.off h.elen) [g.2]).setFlags (flagIf ill fILT)

/-- The first illegal T5 code of granule `p`, where TRAPILL traps (R46). -/
def Hdr.illegal (h : Hdr) (k : Ctx) (bs : List Byte) : Option Trap :=
  if h.meth = 1 && vfTrapIll k.vflags && h.op != oNop then
    (bs.find? fun b => t5Illegal b.toNat).map fun b => { cause := 12, val := BitVec.ofNat 64 b.toNat }
  else none

/-- An MMACC whose payload has been read: slot BSLOT takes the tile, and ASLOT times BSLOT is accumulated (R242). -/
def Core.mmacc (k : Core) (h : Hdr) (bs : List (Byte × LTag)) : Core :=
  let (els, ill) := h.elements (bs.map (·.1))
  let rows := (List.range (h.elen / 64)).map fun r =>
    let lo := 64 * r / h.perByte
    let hi := (64 * r + 63) / h.perByte
    (((els.drop (64 * r)).take 64).map fun x => (x, 0), joinTags (((bs.drop lo).take (hi + 1 - lo)).map (·.2)))
  let tile := (tileOf true false rows k.ctx.ctlab).1
  let k := k.setSlot h.bslot tile
  let acc := (k.ctx.acc h.num).multiply (k.slot h.abase) tile h.zf 0 32 k.ctx.ctlab
  { k with ctx := (k.ctx.setAcc h.num acc).setFlags (flagIf ill fILT) }

/-! ## Effects of blocks without payload -/

/-- One lane of an ACT (Table 11). -/
def actLane (h : Hdr) (x : Nat) : Nat × FlagBits :=
  if h.akind = 0 then (x, 0)
  else if h.afmt = 8 then
    let v := fdecode fp32 false x
    if v.isNan then (fp32.qnan, flagIf v.isSnan fNV) else (if v.isNeg then 0 else x, 0)
  else if h.akind = 1 then (if toSigned 32 x < 0 then 0 else x, 0)
  else
    let (v, c) := satTo true 8 (toSigned 32 x)
    (wrap 32 v, flagIf c fSAT)

def Ctx.actApply (k : Ctx) (h : Hdr) : Ctx :=
  ((List.range h.ncol).foldl (fun k i =>
    let (r, fl) := actLane h (k.lane h.num 32 (h.off + i))
    (k.setLane h.num 32 (h.off + i) r).setFlags fl) k).tagRegs (spanRegs h.num 32 h.off h.ncol) []

/-- Source registers of a STORE or SEND, and its bytes with the tags of their registers. -/
def Hdr.srcRegs (h : Hdr) : List Nat := spanRegs h.abase (8 * afmtBytes h.afmt) 0 h.ncol
def Ctx.srcBytes (k : Ctx) (h : Hdr) : List (Byte × LTag) :=
  (h.srcRegs.flatMap fun p => (bytesOf 64 (k.vector p).v.toNat).map (·, (k.vector p).t)).take (h.ncol * afmtBytes h.afmt)

/-- Dword `i` of a SEND, zero-padded, with its tag. -/
def Ctx.sendDword (k : Ctx) (h : Hdr) (i : Nat) : Dword × LTag :=
  let bs := ((k.srcBytes h).drop (8 * i)).take 8
  (BitVec.ofNat 64 (ofBytes (bs.map (·.1))), joinTags (k.ctlab :: bs.map (·.2)))

/-- Dwords of a SEND. -/
def Hdr.dwords (h : Hdr) : Nat := (h.ncol * afmtBytes h.afmt + 7) / 8

/-! ## Successors (R243) -/

/-- Address `n` granules from a header. -/
def WDrive.rel (w : WDrive) (n : Int) : Nat := (((w.block : Int) + 64 * n) % (2 ^ 64 : Nat)).toNat

/-- The next block. -/
def WDrive.next (w : WDrive) (va : Nat) (bstk : List Nat) : WDrive :=
  { w with block := va, restart := 0, bstk := bstk, phase := .header, sent := 0 }

/-- A trap of the sequencer (R244): the mode is saved with the X stream stopped after its `ct.wdrive`. -/
def State.wdTrap (s : State) (c : Nat) (t : Trap) : State := s.raise c .x t

/-- Select value and port: a scalar register, or a lane of a vector register. -/
def Ctx.selectValue (k : Ctx) (h : Hdr) : Nat × LTag × Nat :=
  if h.vsel then (elem 32 (k.vector (vPort h.sreg)).v h.slane, (k.vector (vPort h.sreg)).t, vPort h.sreg)
  else ((k.scalar h.sreg).v.toNat % 2 ^ 32, (k.scalar h.sreg).t, h.sreg)

/-- A SELECT's successor. -/
def State.wdSelect (s : State) (c : Nat) (t : Task) (w : WDrive) (h : Hdr) : State :=
  let k := s.ctx c
  let (x, tag, port) := k.selectValue h
  let (p, sp) := s.spaceOf c
  if k.portPending port then s
  else match s.hiddenTag p sp (toTag tag) with
    | (s, some e, _) => s.wdTrap c e
    | (s, none, hid) =>
      if isMuck tag || hid then
        if k.trapMuck then s.wdTrap c { cause := 11, val := BitVec.ofNat 64 port } else s.wdEnd c w 2 0
      else
        let v := toSigned 32 x
        if v < 0 || (h.slen / 4 : Nat) ≤ v then s.wdTrap c (blockFault 10 w.block)
        else match s.blockRead c t w.block (w.block + 64 + v.toNat * 4 / 64 * 64) with
          | (s, .error e) => s.wdTrap c e
          | (s, .ok (g, _)) => s.updCtx c fun k => { (k.joinCtl .x [tag]) with
              wd := some (w.next (w.rel (toSigned 32 (elem 32 g (v.toNat % 16)))) w.bstk) }

/-- The successor of the current block is taken (R243; checks 10 to 12 of R244). -/
def State.wdSuccessor (s : State) (c : Nat) (t : Task) (w : WDrive) (h : Hdr) : State :=
  let s := s.updCtx c fun k => { k with wd := some { w with phase := .successor } }
  let after := w.rel (h.grans + 1)
  let go (va : Nat) (st : List Nat) : State := s.updCtx c fun k => { k with wd := some (w.next va st) }
  match h.skind with
  | 0 => go (if h.soff = 0 then after else w.rel h.soff) w.bstk
  | 1 => s.wdEnd c w 1 0
  | 2 => if 4 ≤ w.bstk.length then s.wdTrap c (blockFault 8 w.block) else go (w.rel h.soff) (after :: w.bstk)
  | 3 => match w.bstk with
    | [] => s.wdTrap c (blockFault 9 w.block)
    | r :: rs => go r rs
  | _ => s.wdSelect c t { w with phase := .successor } h

/-! ## The sequencer -/

/-- The sequencer of core `c` may make a step: its task runs in the mode, no trap is raised, and no census holds the partition at a
granule boundary (R270). -/
def State.wdReady (s : State) (c : Nat) : Option (Task × WDrive) :=
  let k := s.core c
  if k.ctx.raised.isSome || k.ended || k.halted || k.leaving || k.poisoned.isSome then none
  else match k.task, k.ctx.wd with
    | some t, some w => if s.censusWaits t.part then none else some (t, w)
    | _, _ => none

/-- A trap that an engine left for the next boundary is raised there (R383). -/
def State.wdBoundary (s : State) (c : Nat) : Option State :=
  (s.ctx c).xs.trap.map fun t => (s.updCtx c fun k => { k with xs := { k.xs with trap := none } }).wdTrap c t

/-- A STORE: its elements go to the buffer as writes (R97, R242). -/
def State.wdStore (s : State) (c : Nat) (t : Task) (w : WDrive) (h : Hdr) : State :=
  let k := s.ctx c
  let bs := k.srcBytes h
  let off := (k.bufs.get {} h.num).base.toNat + h.off
  let done (s : State) : State := s.wdSuccessor c t w h
  let s := s.turnFor c 1
  if k.anyPending h.srcRegs then s
  else if bs.isEmpty then done s
  else match (s.core c).spadRefusal (s.core c).banks off bs.length true (BitVec.ofNat 64 w.block) with
    | some e => s.wdTrap c e
    | none =>
      let ps := (partsOf (spadAddr off) bs.length).map fun p => (Loc.spad c (p.1.toNat % 2 ^ 20), p.2, p.1, 0)
      match s.writeBytes c t k.ctlab ps bs with
      | (s, n, e) =>
        let s := s.updCtx c (·.bufCount off n true)
        match e with
        | some e => s.wdTrap c (if e.cause = 9 || e.cause = 10 then e else { e with val := BitVec.ofNat 64 w.block })
        | none => done s

/-- The next dword of a SEND (R242). -/
def State.wdSend (s : State) (c : Nat) (t : Task) (w : WDrive) (h : Hdr) : State :=
  let k := s.ctx c
  if k.anyPending h.srcRegs then s
  else if h.dwords ≤ w.sent then s.wdSuccessor c t w h
  else
    let (v, tag) := k.sendDword h w.sent
    match s.send c t h.dx h.dy h.num v tag with
    | .wait s => s
    | .trap e => s.wdTrap c e
    | .sent s =>
      let w := { w with sent := w.sent + 1 }
      let s := s.updCtx c fun k => { k with wd := some w }
      if h.dwords ≤ w.sent then s.wdSuccessor c t w h else s

/-- A SYNC arrives (R242, R174, R175); it goes on once the member is released. -/
def State.wdSync (s : State) (c : Nat) (t : Task) (w : WDrive) (h : Hdr) : State :=
  let v : Dword := h.arg &&& BitVec.ofNat 64 (2 ^ 40 - 1)
  if (s.ctx c).barrierBusy then s.wdTrap c (refused 15 v)
  else match s.barRect c t v with
    | none => s.wdTrap c (scopeFault v)
    | some r =>
      if s.reqs.any (·.isOf c) || (dfield v 3 0 != 2 && s.unpaired.any (·.isOf c)) || s.refusalDue c then s
      else match r with
        | none => s.wdSuccessor c t w h
        | some r =>
          (s.updCtx c fun k => { k with wd := some { w with phase := .sync } }).arrive c t
            (if dfield v 3 0 = 2 then none else some r) true

/-- The successor decision of a call or return fails (R244 checks 10 and 11). -/
def WDrive.stuck (w : WDrive) (h : Hdr) : Bool := (h.skind = 2 && 4 ≤ w.bstk.length) || (h.skind = 3 && w.bstk.isEmpty)

/-- The block's effect begins: its header is good and the payload's checks have passed. -/
def State.wdOpen (s : State) (c : Nat) (t : Task) (w : WDrive) (h : Hdr) : State :=
  let k := s.ctx c
  if h.op = oAct then
    if k.anyPending (spanRegs h.num 32 h.off h.ncol) then s else (s.updCtx c (·.actApply h)).wdSuccessor c t w h
  else if h.op = oStore then s.wdStore c t w h
  else if h.op = oSend then s.wdSend c t w h
  else if h.op = oSync then s.wdSync c t w h
  else if h.op = oExit then s.wdEnd c w 0 (dfield h.arg 31 0)
  else if h.op = oTrapb then
    (if w.stuck h then s.updCtx c fun k => { k with wd := some { w with phase := .successor } } else s.wdSuccessor c t w h).wdTrap c
      { cause := 15, val := BitVec.ofNat 64 (dfield h.arg 23 0) }
  else if h.total ≤ w.restart then s.wdSuccessor c t w h
  else s

/-- A header at the current address is read, and block `op` begins (R244 checks 1 to 9 and 13). A header that gives no
opcode fails in any of the blocks' steps. -/
def State.wdHeader (s : State) (c : Nat) (t : Task) (w : WDrive) (op : Nat) : State :=
  match s.blockRead c t w.block w.block with
  | (s, .error e) => s.wdTrap c e
  | (s', .ok (v, _)) =>
    let h := hdrOf v
    if h.op ≤ 12 && h.op != op then s
    else match hdrCheck (s.core c) t w.block v with
      | some e => s'.wdTrap c e
      | none =>
        let w := { w with hdr := v, phase := .payload }
        let put (s : State) : State := s.updCtx c fun k => { k with wd := some w }
        if h.crcp then
          match s'.payloadRead c t w.block 0 h.grans with
          | (s, .error e) => s.wdTrap c e
          | (s, .ok gs) =>
            let bs := payloadBytes h.slen gs
            if h.op = oLoadv && h.meth = 3 && (expandPayload 3 h.elen bs).isNone then s.wdTrap c (blockFault 5 w.block)
            else if crc32c (bs.map (·.1)) != h.crc then s.wdTrap c { cause := 5, val := BitVec.ofNat 64 w.block }
            else (put s).wdOpen c t w h
        else (put s').wdOpen c t w h

/-- The step of block `op`: the block begins, sends its next dword, is released, or takes its successor again after a
trap. -/
def State.wdBlock (s : State) (c op : Nat) : State :=
  match s.wdReady c with
  | none => s
  | some (t, w) =>
    match s.wdBoundary c with
    | some s => s
    | none =>
      let h := hdrOf w.hdr
      match w.phase with
      | .header => s.wdHeader c t w op
      | .payload => if h.op = op then s.wdOpen c t w h else s
      | .successor => if h.op = op then s.wdSuccessor c t w h else s
      | .sync => if h.op = op && (s.ctx c).arrived.isNone then s.wdSuccessor c t w h else s

/-- An MMACC, or a LOADV of zero-run data, is applied whole (R245). A payload that is not applied is read whole and leaves the
restart granule 0, as none of its granules is ever applied (log entry 33). -/
def State.wdWhole (s : State) (c : Nat) (t : Task) (w : WDrive) (h : Hdr) : State :=
  let k := s.core c
  if h.op = oMmacc && (!k.ctx.mxq.isEmpty || mmaPending (k.slot h.abase) {} (k.ctx.acc h.num)) then s
  else match s.payloadRead c t w.block 0 h.grans with
    | (s, .error e) => s.wdTrap c e
    | (s, .ok gs) =>
      let bs := payloadBytes h.slen gs
      if h.unapplied then s.wdSuccessor c t w h
      else match h.illegal k.ctx (bs.map (·.1)) with
      | some e => s.wdTrap c e
      | none =>
        let w := { w with restart := h.total }
        if h.op = oMmacc then (s.updCore c (·.mmacc h bs)).wdSuccessor c t w h
        else match expandPayload 3 h.elen bs with
          | none => s.wdTrap c (blockFault 5 w.block)
          | some (out, _) => (s.updCtx c fun k =>
              (k.loadvApply h 0 (out.map (·.1.toInt))).tagRegs (spanRegs h.num 8 h.off h.elen) (gs.map (·.2))).wdSuccessor c t w h

/-- The next payload granule (R245). -/
def State.wdGranule (s : State) (c : Nat) (t : Task) (w : WDrive) (h : Hdr) : State :=
  let p := w.restart % h.grans
  if h.op = oMvacc && (s.ctx c).anyPending (h.mvSrc (w.restart / h.grans)) then s
  else match s.blockRead c t w.block (w.block + 64 + 64 * p) with
    | (s, .error e) => s.wdTrap c e
    | (s, .ok g) =>
      match h.illegal (s.ctx c) ((bytesOf 64 g.1.toNat).take (h.slen - 64 * p)) with
      | some e => s.wdTrap c e
      | none =>
        let s := s.updCtx c (·.granApply h w.restart g)
        let w := { w with restart := w.restart + 1 }
        if h.total ≤ w.restart then s.wdSuccessor c t w h else s.updCtx c fun k => { k with wd := some w }

/-- The next step through the payload of the current block (R245). -/
def State.wdPayload (s : State) (c : Nat) : State :=
  match s.wdReady c with
  | none => s
  | some (t, w) =>
    let h := hdrOf w.hdr
    match s.wdBoundary c with
    | some s => s
    | none =>
      if w.phase != .payload || h.total ≤ w.restart then s
      else if h.whole then s.wdWhole c t w h
      else s.wdGranule c t w h

/-- BLOCK_PAYLOAD_GRANULE: the next payload granule of the current block is applied (R245). -/
def execBlockPayloadGranule (c : Nat) (s : State) : Host.Outcome State Fault Refusal := .next (s.whole (·.wdPayload c))

def execNopBlock (c : Nat) (s : State) : Host.Outcome State Fault Refusal := .next (s.whole (·.wdBlock c oNop))
def execMvaccBlock (c : Nat) (s : State) : Host.Outcome State Fault Refusal := .next (s.whole (·.wdBlock c oMvacc))
def execMmaccBlock (c : Nat) (s : State) : Host.Outcome State Fault Refusal := .next (s.whole (·.wdBlock c oMmacc))
def execBiasBlock (c : Nat) (s : State) : Host.Outcome State Fault Refusal := .next (s.whole (·.wdBlock c oBias))
def execScaleBlock (c : Nat) (s : State) : Host.Outcome State Fault Refusal := .next (s.whole (·.wdBlock c oScale))
def execActBlock (c : Nat) (s : State) : Host.Outcome State Fault Refusal := .next (s.whole (·.wdBlock c oAct))
def execLoadvBlock (c : Nat) (s : State) : Host.Outcome State Fault Refusal := .next (s.whole (·.wdBlock c oLoadv))
def execStoreBlock (c : Nat) (s : State) : Host.Outcome State Fault Refusal := .next (s.whole (·.wdBlock c oStore))
def execSendBlock (c : Nat) (s : State) : Host.Outcome State Fault Refusal := .next (s.whole (·.wdBlock c oSend))
def execSelectBlock (c : Nat) (s : State) : Host.Outcome State Fault Refusal := .next (s.whole (·.wdBlock c oSelect))
def execSyncBlock (c : Nat) (s : State) : Host.Outcome State Fault Refusal := .next (s.whole (·.wdBlock c oSync))
def execExitBlock (c : Nat) (s : State) : Host.Outcome State Fault Refusal := .next (s.whole (·.wdBlock c oExit))
def execTrapbBlock (c : Nat) (s : State) : Host.Outcome State Fault Refusal := .next (s.whole (·.wdBlock c oTrapb))

end Sys2Proof.Machine
end

