-- ==== Sys2Proof/Machine/Issue.lean ====
section
/-! DEFINITION. Issue of a group (R82, R136): guards (R127, R262), readiness (R82), the trigger table, the order of
refusals (R384), the group's end with CTLAB (R263) and hardware loops (R171), follow-mode rows (R25 to R28), and what one
instruction word does: it joins its half's open group, and a word with S = 1 issues the group. -/

namespace Sys2Proof.Machine

/-! ## Trigger tables -/

/-- Triggers of `al`, `md` and `aa`. -/
def fireScalar (x : Trig) (s : State) : Fired :=
  match x.port with
  | 0x108 => fireAlAdd x s
  | 0x109 => fireAlSub x s
  | 0x10A => fireAlAnd x s
  | 0x10B => fireAlOr x s
  | 0x10C => fireAlXor x s
  | 0x10D => fireAlAndn x s
  | 0x10E => fireAlShl x s
  | 0x10F => fireAlShr x s
  | 0x110 => fireAlSar x s
  | 0x111 => fireAlRol x s
  | 0x112 => fireAlMin x s
  | 0x113 => fireAlMax x s
  | 0x114 => fireAlMinu x s
  | 0x115 => fireAlMaxu x s
  | 0x116 => fireAlSel x s
  | 0x117 => fireAlClz x s
  | 0x118 => fireAlCtz x s
  | 0x119 => fireAlPopc x s
  | 0x11A => fireAlBswap x s
  | 0x11B => fireAlExt x s
  | 0x11C => fireAlIns x s
  | 0x11D => fireAlSext x s
  | 0x11E => fireAlEq x s
  | 0x11F => fireAlNe x s
  | 0x120 => fireAlLt x s
  | 0x121 => fireAlLe x s
  | 0x122 => fireAlLtu x s
  | 0x123 => fireAlLeu x s
  | 0x124 => fireAlTst x s
  | 0x125 => fireAlFadd x s
  | 0x126 => fireAlFsub x s
  | 0x127 => fireAlFmul x s
  | 0x128 => fireAlFma x s
  | 0x129 => fireAlFmin x s
  | 0x12A => fireAlFmax x s
  | 0x12B => fireAlFeq x s
  | 0x12C => fireAlFlt x s
  | 0x12D => fireAlFle x s
  | 0x12E => fireAlCvt x s
  | 0x12F => fireAlFcls x s
  | 0x188 => fireMdMul x s
  | 0x189 => fireMdMulu x s
  | 0x18A => fireMdMulsu x s
  | 0x18B => fireMdDiv x s
  | 0x18C => fireMdDivu x s
  | 0x18D => fireMdMulw x s
  | 0x18E => fireMdDivw x s
  | 0x18F => fireMdDivuw x s
  | 0x588 => fireAaAdd x s
  | 0x589 => fireAaSub x s
  | 0x58A => fireAaAnd x s
  | 0x58B => fireAaOr x s
  | 0x58C => fireAaXor x s
  | 0x58D => fireAaShl x s
  | 0x58E => fireAaShr x s
  | 0x58F => fireAaEq x s
  | _ => .done s false

/-- Triggers of `vx`. -/
def fireVector (x : Trig) (s : State) : Fired :=
  match x.port with
  | 0x210 => fireVxAdd x s
  | 0x211 => fireVxSub x s
  | 0x212 => fireVxMul x s
  | 0x213 => fireVxFma x s
  | 0x214 => fireVxFms x s
  | 0x215 => fireVxFnma x s
  | 0x216 => fireVxMin x s
  | 0x217 => fireVxMax x s
  | 0x218 => fireVxAbs x s
  | 0x219 => fireVxNeg x s
  | 0x21A => fireVxAnd x s
  | 0x21B => fireVxOr x s
  | 0x21C => fireVxXor x s
  | 0x21D => fireVxAndn x s
  | 0x21E => fireVxShl x s
  | 0x21F => fireVxShr x s
  | 0x220 => fireVxSar x s
  | 0x221 => fireVxEq x s
  | 0x222 => fireVxNe x s
  | 0x223 => fireVxLt x s
  | 0x224 => fireVxLe x s
  | 0x225 => fireVxSel x s
  | 0x226 => fireVxPerm x s
  | 0x227 => fireVxShuf x s
  | 0x228 => fireVxRot x s
  | 0x229 => fireVxIota x s
  | 0x22A => fireVxRsum x s
  | 0x22B => fireVxRmax x s
  | 0x22C => fireVxRmin x s
  | 0x22D => fireVxRandb x s
  | 0x22E => fireVxRorb x s
  | 0x22F => fireVxRxorb x s
  | 0x230 => fireVxRcp x s
  | 0x231 => fireVxRsqrt x s
  | 0x232 => fireVxExp2 x s
  | 0x233 => fireVxDiv x s
  | 0x234 => fireVxSqrt x s
  | 0x235 => fireVxCvt x s
  | 0x236 => fireVxCvts x s
  | 0x237 => fireVxPack x s
  | 0x238 => fireVxUnpk x s
  | 0x239 => fireVxT5un x s
  | 0x23A => fireVxI4un x s
  | 0x23B => fireVxBfpk x s
  | 0x23C => fireVxBfun x s
  | 0x23D => fireVxMulh x s
  | 0x23E => fireVxAvg x s
  | 0x23F => fireVxPopc x s
  | 0x240 => fireVxClz x s
  | 0x241 => fireVxIns x s
  | 0x242 => fireVxAny x s
  | 0x243 => fireVxAll x s
  | 0x244 => fireVxBlend x s
  | 0x245 => fireVxCls x s
  | 0x246 => fireVxDot x s
  | 0x247 => fireVxRndi x s
  | _ => .done s false

/-- Triggers of `mx`. -/
def fireMatrix (x : Trig) (s : State) : Fired :=
  match x.port with
  | 0x308 => fireMxClaim x s
  | 0x309 => fireMxRelease x s
  | 0x30A => fireMxFill x s
  | 0x30B => fireMxMma x s
  | 0x30C => fireMxMmat x s
  | 0x30D => fireMxDrain x s
  | 0x30E => fireMxBsum x s
  | 0x30F => fireMxZero x s
  | 0x310 => fireMxTeam x s
  | 0x311 => fireMxProg x s
  | _ => .done s false

/-- Triggers of `lb` and `cl`. -/
def fireLabel (x : Trig) (s : State) : Fired :=
  match x.port with
  | 0x388 => fireLbAssume x s
  | 0x389 => fireLbJoin x s
  | 0x38A => fireLbMerge x s
  | 0x38B => fireLbContra x s
  | 0x38C => fireLbCommit x s
  | 0x38D => fireLbHolds x s
  | 0x38E => fireLbTag x s
  | 0x38F => fireLbRetag x s
  | 0x390 => fireLbEnvs x s
  | 0x391 => fireLbEnv x s
  | 0x392 => fireLbCount x s
  | 0x393 => fireLbMin x s
  | 0x394 => fireLbCensus x s
  | 0x395 => fireLbCtlset x s
  | 0x396 => fireLbCtlget x s
  | 0x397 => fireLbSpace x s
  | 0x3C8 => fireClVar x s
  | 0x3C9 => fireClIte x s
  | 0x3CA => fireClApply x s
  | 0x3CB => fireClNot x s
  | 0x3CC => fireClRestrict x s
  | 0x3CD => fireClExists x s
  | 0x3CE => fireClCount x s
  | 0x3CF => fireClWcount x s
  | 0x3D0 => fireClSat x s
  | 0x3D1 => fireClRef x s
  | 0x3D2 => fireClUnref x s
  | 0x3D3 => fireClSwap x s
  | 0x3D4 => fireClSize x s
  | 0x3D5 => fireClGc x s
  | 0x3D6 => fireClMincount x s
  | _ => .done s false

/-- Triggers of `ms` and `ce`. -/
def fireMessage (x : Trig) (s : State) : Fired :=
  match x.port with
  | 0x408 => fireMsSend x s
  | 0x409 => fireMsPut x s
  | 0x40A => fireMsPoll x s
  | 0x40B => fireMsChan x s
  | 0x608 => fireCeGo x s
  | 0x609 => fireCeTry x s
  | _ => .done s false

/-- Triggers of `ct` and `ac`. -/
def fireControl (x : Trig) (s : State) : Fired :=
  match x.port with
  | 0x448 => fireCtJmp x s
  | 0x449 => fireCtCall x s
  | 0x44A => fireCtRet x s
  | 0x44B => fireCtLoop x s
  | 0x44C => fireCtWait x s
  | 0x44D => fireCtFence x s
  | 0x44E => fireCtTrick x s
  | 0x44F => fireCtBar x s
  | 0x450 => fireCtTrigger x s
  | 0x451 => fireCtLaunch x s
  | 0x452 => fireCtExit x s
  | 0x453 => fireCtWdrive x s
  | 0x454 => fireCtRsr x s
  | 0x455 => fireCtWsr x s
  | 0x456 => fireCtEret x s
  | 0x457 => fireCtRsrs x s
  | 0x458 => fireCtWsrs x s
  | 0x5C8 => fireAcJmp x s
  | 0x5C9 => fireAcCall x s
  | 0x5CA => fireAcRet x s
  | 0x5CB => fireAcLoop x s
  | 0x5CC => fireAcWait x s
  | 0x5CD => fireAcRsr x s
  | _ => .done s false

/-- Triggers of `ag` and `at`. -/
def fireAccess (x : Trig) (s : State) : Fired :=
  match x.port with
  | 0x508 => fireAgLd x s
  | 0x509 => fireAgLds x s
  | 0x50A => fireAgSt x s
  | 0x50B => fireAgSts x s
  | 0x50C => fireAgStd x s
  | 0x50D => fireAgStds x s
  | 0x50E => fireAgStrm x s
  | 0x50F => fireAgStrw x s
  | 0x510 => fireAgPf x s
  | 0x5E8 => fireAtAdd x s
  | 0x5E9 => fireAtFadd x s
  | 0x5EA => fireAtMin x s
  | 0x5EB => fireAtMax x s
  | 0x5EC => fireAtAmax x s
  | 0x5ED => fireAtAmaxr x s
  | 0x5EE => fireAtAnd x s
  | 0x5EF => fireAtOr x s
  | 0x5F0 => fireAtXor x s
  | 0x5F1 => fireAtXchg x s
  | 0x5F2 => fireAtCas x s
  | _ => .done s false

/-- The operation of a trigger port (R146, Tables 2 and 3). -/
def fire (x : Trig) (s : State) : Fired :=
  if x.port < 0x200 then fireScalar x s
  else if x.port < 0x300 then fireVector x s
  else if x.port < 0x380 then fireMatrix x s
  else if x.port < 0x400 then fireLabel x s
  else if x.port < 0x440 then fireMessage x s
  else if x.port < 0x500 then fireControl x s
  else if x.port < 0x580 then fireAccess x s
  else if x.port < 0x5C0 then fireScalar x s
  else if x.port < 0x5E0 then fireControl x s
  else if x.port < 0x600 then fireAccess x s
  else fireMessage x s

/-- The operand latches that a trigger reads, with T and `vx.ty` at hand. -/
def latchesRead (t ty : Dword) (p : Nat) : List Nat :=
  if p < 0x200 then scalarLatches t p
  else if p < 0x300 then vectorLatches ty p
  else if p < 0x380 then matrixLatches p
  else if p < 0x3C0 then labelLatches p
  else if p < 0x400 then carillonLatches p
  else if p < 0x440 then messageLatches p
  else if p < 0x500 then controlLatches p
  else if p < 0x580 then accessLatches p
  else if p < 0x5C0 then scalarLatches t p
  else if p < 0x5E0 then controlLatches p
  else if p < 0x600 then accessLatches p
  else copyLatches p

/-! ## Guards (R127, R262) -/

/-- What a guard comes to. -/
inductive Guard where
  /-- The predicate is pending: the group holds. -/
  | pending
  /-- Resolving its tag is refused. -/
  | trap (t : Trap)
  /-- The move is performed or suppressed, and the tag that the guard brings. -/
  | open_ (performed hidden : Bool) (t : LTag)
  deriving DecidableEq, Repr

/-- The guard of a move on core `c`. -/
def State.guard (s : State) (c : Nat) (m : Move) : State × Guard :=
  if m.g = 0 then (s, .open_ true false [])
  else
    let k := s.ctx c
    let p := 0x80 + m.g
    if k.portPending p then (s, .pending)
    else
      let q := k.pred p
      let (part, sp) := s.spaceOf c
      match s.hiddenTag part sp (toTag q.t) with
      | (s, some tr, _) => (s, .trap tr)
      | (s, none, true) => (s, .open_ false true [])
      | (s, none, false) => (s, .open_ (q.v != m.neg) false q.t)

/-- The value of a guarded move, whose tag is joined with its guard's: where the two hold nowhere together it carries 0xFFFF
(R255, R262). -/
def State.guarded (s : State) (c : Nat) (v : Val) (g : LTag) : State × Option Trap × Val :=
  if unresolved (joinTags [v.tag, g]) then
    let (p, sp) := s.spaceOf c
    match s.label p sp true (·.emptyJoin [0] (joinTags [v.tag, g])) with
    | (s, some tr, _) => (s, some tr, v)
    | (s, none, e) => (s, none, if e then v.muck else v)
  else (s, none, v)

/-! ## One member of a row -/

/-- The trap of mucked consumption (R179, CAUSE 11): the port of the consuming move. -/
def muckTrap (m : Move) : Trap := { cause := 11, val := BitVec.ofNat 64 m.dst }

/-- A cause of refusal: its step of R384, the place of its word in the group, and its trap. -/
abbrev Cause := Nat × Nat × Trap

/-- The cause that R384 takes: the first step, and within a step the first word. -/
def firstCause : List Cause → Option Cause
  | [] => none
  | e :: es =>
    match firstCause es with
    | none => some e
    | some f => if f.1 < e.1 || (f.1 = e.1 && f.2.1 < e.2.1) then some f else some e

/-- A move that is performed: its place, the value at its source, and its guard's tag. -/
structure Live where
  idx : Nat
  mv  : Move
  val : Val
  g   : LTag
  deriving DecidableEq, Repr, Inhabited

/-- What has been gathered of a group on one member, before anything is performed. -/
structure Gather where
  stall  : Bool := false
  live   : List Live := []
  /-- Tags that the guards join into CTLAB (R262). -/
  gtags  : List LTag := []
  /-- Guard tags that a transfer forwards along its row, whether it is performed or suppressed (R26). -/
  fwd    : List LTag := []
  causes : List Cause := []
  deriving DecidableEq, Repr, Inhabited

/-- The poison that a move consumes (R92): a drop reads no entry. -/
def Live.poison (l : Live) : Option Trap :=
  match l.val with
  | .q e => if l.mv.isDrop then none else e.poison
  | _ => none

/-- The source and the destination of a performed move are ready (R82): a push needs room, and a register that awaits an
engine's status word is not written before it (R309). -/
def Ctx.moveReady (k : Ctx) (now : Nat) (m : Move) : Bool :=
  m.isDrop || (k.dstReady now m.dst && !(0x90 ≤ m.dst && m.dst ≤ 0xAF && k.pend.any (·.1 = m.dst)))

/-- The tag of the predicate that guards a move, where the move is a transfer of control (R26). -/
def Move.forwards (m : Move) (g : LTag) : List LTag := if !m.isDrop && isTransfer m.dst then [g] else []

/-- The value enters the member from outside: `ms.in`, `id.x` and `id.y` (R367). -/
def isInput (p : Nat) : Bool := p = 0x43C || p = 0xC8 || p = 0xC9

/-- The source of a move is an input of the member. -/
def Move.isInput (m : Move) : Bool := match m.src with
  | .imm _ => false
  | .port p _ => Machine.isInput p

/-- What source port `p` gives in a group, of which `n` inputs have been read before it: on a replay, what the ring serves (R367). -/
def State.sourceAt (s : State) (c : Nat) (t : Task) (n p : Nat) : Option Val :=
  match if isInput p then (s.core c).served n else none with
  | some v => some (.s v)
  | none => readPort c s.now t (s.ctx c) p

/-- One more move of the group; its guard and its source are read as they stood before the group (R136). -/
def State.gatherMove (s : State) (c : Nat) (t : Task) (trapMuck : Bool) (a : Gather) (i : Nat) (m : Move) :
    State × Gather :=
  match s.guard c m with
  | (s, .pending) => (s, { a with stall := true })
  | (s, .trap tr) => (s, { a with causes := a.causes ++ [(7, i, tr)] })
  | (s, .open_ false hidden g) =>
    (s, { a with
      gtags := a.gtags ++ [g], fwd := a.fwd ++ m.forwards g
      causes := a.causes ++ if hidden && trapMuck then [(2, i, muckTrap m)] else [] })
  | (s, .open_ true _ g) =>
    let v := match m.src with
      | .imm v => some (.s { v := v })
      | .port p _ => s.sourceAt c t (a.live.countP (·.mv.isInput)) p
    match v with
    | none => (s, { a with stall := true })
    | some v => match s.guarded c v g with
      | (s, some tr, _) => (s, { a with causes := a.causes ++ [(7, i, tr)] })
      | (s, none, v) =>
        let l : Live := { idx := i, mv := m, val := v, g := g }
        (s, { a with
          stall := a.stall || !(s.ctx c).moveReady s.now m
          live := a.live ++ [l]
          gtags := a.gtags ++ [g], fwd := a.fwd ++ m.forwards g
          causes := a.causes ++ (l.poison.map fun tr => (7, i, tr)).toList })

/-- The moves of the group in turn, numbered from `i`. -/
def State.gatherAll (s : State) (c : Nat) (t : Task) (trapMuck : Bool) (a : Gather) (i : Nat) :
    List Move → State × Gather
  | [] => (s, a)
  | m :: ms =>
    let (s, a) := s.gatherMove c t trapMuck a i m
    gatherAll s c t trapMuck a (i + 1) ms

/-- A performed trigger. -/
def Live.isTrig (l : Live) : Bool := !l.mv.isDrop && isTrigger l.mv.dst

/-- The heads that the performed moves pop are removed. -/
def Ctx.popAll (k : Ctx) (now : Nat) (ls : List Live) : Ctx :=
  (ls.filterMap (·.mv.pops)).foldl (fun k p => k.popSource now p) k

/-- The performed moves that are no triggers write their destinations. -/
def Ctx.writeAll (k : Ctx) (now : Nat) (ls : List Live) : Ctx :=
  (ls.filter fun l => !l.mv.isDrop && !l.isTrig).foldl (fun k l => k.write now l.mv l.val l.g) k

/-- What trigger `l` has in hand: its value in the class of its port, with its guard's tag (R262), and the registers as
they stood before the group. -/
def Live.trig (l : Live) (k : Ctx) (c : Nat) (h : Half) (pc next : Nat) : Trig :=
  let t := l.mv.toScalar l.val
  let tv := l.mv.toVector l.val
  { core := c, half := h, port := l.mv.dst
    t := { t with t := joinTags [t.t, l.g] }
    tv := { tv with t := joinTags [tv.t, l.g] }
    rm := effectiveRm l.mv.mx k.vflags, sat := l.mv.mx.sat
    ftz := vfFtz k.vflags, trapIll := vfTrapIll k.vflags
    ctl := k.ctlab, lspace := k.lspace.toNat, ddspace := k.ddspace.toNat, ddwt := k.ddwt.toNat * 64
    muckTrap := k.trapMuck, pc := pc, next := next }

/-- The tag of a latch, of either class. -/
def Ctx.latchTag (k : Ctx) (p : Nat) : LTag := joinTags [(k.scalar p).t, (k.vector p).t]

/-- Latches that trigger `x` reads, in the context `k` that its group's writes leave. -/
def Trig.latches (x : Trig) (k : Ctx) : List Nat := latchesRead x.t.v (k.scalar 0x204).v x.port

/-- The trigger reads its own T: `cl.gc` and `at.amaxr` ignore it (R302, R192). -/
def readsT (p : Nat) : Bool := p != 0x3D5 && p != 0x5ED

/-- Latches whose mucked value is no consumption: the data that `ag.std` and `ag.stds` store (R261). -/
def storeData (p : Nat) : List Nat := if p = 0x50C || p = 0x50D then [0x501] else []

/-- The trigger consumes a mucked value: `lb` triggers consume nothing (R261). -/
def Trig.consumesMuck (x : Trig) (k : Ctx) : Bool :=
  !(0x380 ≤ x.port && x.port < 0x3C0)
    && (readsT x.port && isMuck x.t.t || (x.latches k).any fun p => !(storeData x.port).contains p && isMuck (k.latchTag p))

/-- Every latch that the trigger reads is ready (R82, R153): a latch that its own group writes is at hand. -/
def Trig.latchesReady (x : Trig) (k : Ctx) (written : List Nat) : Bool :=
  (x.latches k).all fun p => written.contains p || !k.portPending p

/-- What has come of the triggers of a group so far. -/
structure Run6 where
  s      : State
  stall  : Bool := false
  /-- Set where a sender waits for room, which the device keeps (R325). -/
  wait   : Option (Nat × Nat × Nat) := none
  jump   : Bool := false
  causes : List Cause := []

/-- One trigger starts (R136). Where it consumes a mucked value under TRAPMUCK, only its privilege trap comes before that
trap (R384 steps 1 and 2). -/
def Run6.step (r : Run6) (l : Live) (x : Trig) (written : List Nat) : Run6 :=
  let k := r.s.ctx x.core
  let r := if x.latchesReady k written then r else { r with stall := true }
  if x.muckTrap && x.consumesMuck k then
    let first : List Cause := match fire x r.s with
      | .trap 1 t => [(1, l.idx, t)]
      | _ => []
    { r with causes := r.causes ++ first ++ [(2, l.idx, muckTrap l.mv)] }
  else match fire x r.s with
    | .done s j => if s.wait then { r with stall := true } else { r with s := s, jump := r.jump || j }
    | .stall => { r with stall := true }
    | .hold s => { r with stall := true, wait := (s.ctx x.core).sendWait }
    | .trap n t => { r with causes := r.causes ++ [(n, l.idx, t)] }

/-- Waits, fences and reads of system registers: they ask how the core stood before the group (R35, R172, R173). -/
def asksFirst (p : Nat) : Bool := [0x44C, 0x44D, 0x454, 0x457, 0x5CC, 0x5CD].contains p

/-- Triggers in the order in which they start: those that ask how the core stands first, those that transfer control or
change the member's own standing last. -/
def trigOrder (ls : List Live) : List Live :=
  let late (l : Live) : Bool := (0x440 ≤ l.mv.dst && l.mv.dst < 0x500) || (0x5C0 ≤ l.mv.dst && l.mv.dst < 0x5E0)
  let ts := ls.filter (·.isTrig)
  let rest := ts.filter fun l => !asksFirst l.mv.dst
  ts.filter (fun l => asksFirst l.mv.dst) ++ (rest.filter (!late ·) ++ rest.filter late)

/-- Tags that a performed transfer joins into CTLAB (R154, R262): its guard's, its target's and, for a loop start, its end
offset's. -/
def transferTags (k : Ctx) (xs : List (Live × Trig)) : List LTag :=
  (xs.filter fun e => isTransfer e.2.port).flatMap fun e =>
    let ts := [e.2.t.t] ++ if e.2.port = 0x44B || e.2.port = 0x5CB then [(k.scalar e.2.ctlA).t] else []
    if anyMuck ts then [e.1.g] else e.1.g :: ts

/-- What the group of a trick or barrier pushes into `xa` is marked: its popper's later accesses come after the release
(R106). -/
def Ctx.markSync (k : Ctx) (ls : List Live) : Ctx :=
  let has (p : Nat) : Bool := ls.any fun l => !l.mv.isDrop && l.mv.dst = p
  if (has 0x44E || has 0x44F) && has 0x8C then
    let q := k.queue qXa
    k.setQueue qXa { q with ents := q.ents.mapIdx fun i e => if i + 1 = q.ents.length then { e with sync := true } else e }
  else k

/-- Popping such an entry while the arrival is outstanding holds the A stream's later accesses back (R106, R329). -/
def Ctx.noteSync (k : Ctx) (now : Nat) (ls : List Live) : Ctx :=
  if ls.any fun l => match l.val with
      | .q e => e.sync && l.mv.pops = some 0x8C && e.since ≤ now
      | _ => false
  then { k with arrived := k.arrived.map fun a => { a with hold := true } } else k

/-- Accesses and forks of the A stream wait for the member's release (R106, R329). -/
def Ctx.accessHeld (k : Ctx) : Bool := k.arrived.any (·.hold)

/-- Triggers that access memory or fork a thread: `ag`, `at` and `ce`. -/
def isAccess (p : Nat) : Bool := (0x500 ≤ p && p < 0x580) || (0x5E0 ≤ p && p < 0x640)

/-- What a group comes to on one member. -/
inductive Member where
  | stall (s : State)
  | trap (t : Trap)
  /-- Performed; a taken transfer; tags forwarded along the row (R26). -/
  | done (s : State) (jump : Bool) (fwd : List LTag)

/-- The leader of the row has returned from its handler in this group, and the follower `c` has still to (R28). -/
def State.returns (s : State) (c : Nat) (follower : Bool) : Bool :=
  follower && (s.ctx c).priv && !(s.ctx ((taskOf s c).member 0 (taskOf s c).gy)).priv

/-- The inputs among the moves of a group are served or recorded in turn (R367). -/
def State.noteInputs (s : State) (c : Nat) : List Live → State
  | [] => s
  | l :: ls =>
    let v := l.mv.toScalar l.val
    noteInputs (s.inputIn c v.v v.t).1 c ls

/-- Those among the performed moves, where the member is recorded or replayed. -/
def Core.inputs (k : Core) (ls : List Live) : List Live := if k.record.isSome then ls.filter (·.mv.isInput) else []

/-- A group on member `c`. A follower leaves out the program-counter ports and joins what its leader forwards (R26); it
returns from its handler with its leader, once the group's other moves are performed. -/
def State.member (s : State) (c : Nat) (h : Half) (moves : List Move) (pc next : Nat) (follower : Bool)
    (fwd : List LTag) : Member :=
  let t := taskOf s c
  let k0 := s.ctx c
  let ms := if follower then moves.filter fun m => m.isDrop || !isPcPort m.dst else moves
  let (s', a) := s.gatherAll c t k0.trapMuck {} 0 ms
  let k := ((((s'.ctx c).popAll s.now a.live).noteSync s.now a.live).writeAll s.now a.live).markSync a.live
  let s1 := s'.updCtx c fun _ => k
  let xs := (trigOrder a.live).map fun l => (l, l.trig k0 c h pc next)
  let written := (a.live.filter fun l => !l.mv.isDrop).map (·.mv.dst)
  let r : Run6 := if a.stall || (k0.accessHeld && xs.any fun e => isAccess e.2.port) then { s := s1, stall := true }
    else xs.foldl (fun (r : Run6) e => r.step e.1 e.2 written) { s := s1 }
  if r.stall then
    .stall (match r.wait with
      | some w => s.updCtx c fun k => { k with sendWait := some w }
      | none => s)
  else match firstCause (a.causes ++ r.causes) with
    | some e => .trap e.2.2
    | none =>
      let ins := (s.core c).inputs a.live
      let s2 := r.s.noteInputs c ins
      if !ins.isEmpty && s2.wait then .stall s
      else
        let s2 := if s.returns c follower then s2.updCore c (·.leaveTrap s.now) else s2
        let tt := transferTags k xs
        .done (s2.updCtx c (·.joinCtl h (a.gtags ++ tt ++ fwd))) r.jump a.fwd

/-! ## The row (R25 to R28) -/

/-- What has come of a group along its row. -/
structure Along where
  s     : State
  stall : Bool := false
  jump  : Bool := false
  fwd   : List LTag := []
  traps : List (Nat × Trap) := []
  /-- States that members keep while they hold. -/
  waits : List (Nat × Option (Nat × Nat × Nat)) := []

/-- One more member of the row, a follower at the time at which it executes the group (R25). -/
def Along.step (a : Along) (c : Nat) (h : Half) (moves : List Move) (pc next : Nat) (follower : Bool) : Along :=
  let now := a.s.now
  match (if follower then { a.s with now := a.s.clock c } else a.s).member c h moves pc next follower a.fwd with
  | .stall s => { a with stall := true, waits := a.waits ++ [(c, (s.ctx c).sendWait)] }
  | .trap t => { a with traps := a.traps ++ [(c, t)] }
  | .done s j f =>
    { a with s := if follower then { s with now := now } else s, jump := a.jump || j, fwd := if follower then a.fwd else f }

/-- The members that perform a group of core `c`: the row, without those that have finished or ended. -/
def State.rowLive (s : State) (c : Nat) (h : Half) : List Nat :=
  (s.row c).filter fun m => (s.core m).task.isSome && !(s.core m).ended && !((s.ctx m).stream h).exited

/-- The stream stands again before the group that it was fetching. -/
def Stream.rewind (m : Stream) : Stream := { m with pc := m.start, open_ := [] }

/-- The test at the end of a pass, of the loops that end in the group [start, next) (R171): where the stream goes on, and
its stack. DESIGN CHOICE (log entry 68): an entry with CNT = 0, which only RSX or RSA can insert, is popped as one with CNT = 1. -/
def loopEnd (start next : Nat) : List RsEntry → Option (BitVec 17) × List RsEntry
  | .loop b e n :: r =>
    if start ≤ e.toNat && e.toNat < next then
      if 1 < n.toNat then (some b, .loop b e (n - 1) :: r) else loopEnd start next r
    else (none, .loop b e n :: r)
  | r => (none, r)

/-- A stream after a group that took no transfer: the test of its loops, then the next group one core cycle later (R82,
R171). -/
def Stream.advance (m : Stream) (next now : Nat) : Stream :=
  let (j, st) := loopEnd m.start.toNat next m.stack
  { (m.goOn ((j.map (·.toNat)).getD next) (now + coreCycles 1)) with stack := st }

/-- The followers of the row stand where their leader stands. -/
def State.alignRow (s : State) (c : Nat) (h : Half) : State :=
  let m := (s.ctx c).stream h
  ((s.row c).filter (· != c)).foldl (fun s f => s.updCtx f fun k => k.updStream h fun x =>
    { x with pc := m.pc, start := m.start, open_ := [], ready := m.ready, past := m.past }) s

/-- The breakpoint trap of a BRK (R134, R179). -/
def breakTrap (pay : BitVec 24) : Trap := { cause := 15, val := pay.setWidth 64 }

/-- The group of half `h` of core `c` whose words are `p`, from `pc` up to `next`, issues as one step (R82, R136). -/
def State.issue (s : State) (c : Nat) (h : Half) (p : Parse) (pc next : Nat) : State :=
  let ms := s.rowLive c h
  let a := ms.foldl (fun (a : Along) m => a.step m h p.moves pc next (m != c)) { s := s }
  let back (s : State) : State := (s.updCtx c fun k => k.updStream h (·.rewind)).alignRow c h
  if a.stall then
    back (a.waits.foldl (fun s w => s.updCtx w.1 fun k => { k with sendWait := w.2 }) s)
  else if !a.traps.isEmpty then (back s).raiseRow (s.row c) h a.traps
  else
    let s := if a.jump then a.s else a.s.updCtx c fun k => k.updStream h (·.advance next s.now)
    let s := s.alignRow c h
    match p.brk with
    | some pay => s.raiseRow (s.row c) h (ms.map fun m => (m, breakTrap pay))
    | none => s

/-! ## Words -/

/-- The privilege of the segment that a half runs in (R150). -/
def Core.segPriv (k : Core) (h : Half) : Nat := (k.ctx.segOf h).priv

/-- One word of half `h` of core `c`: it joins the group being fetched; with S = 1 the group issues (R135, R136). Words
that break a rule of the scanner were never made executable (R137). -/
def State.word (s : State) (last : Bool) (w : Slot) : Host.Outcome State Fault Refusal :=
  let c := s.curCore
  let h := s.curHalf
  let m := (s.ctx c).stream h
  let ws := m.open_ ++ [w]
  if last then
    let p := parseGroup ws
    if groupOk h ((s.core c).segPriv h) ws.length p then .next (s.issue c h p m.start.toNat (m.pc.toNat + 4))
    else .refused .unscanned
  else .next (s.updCtx c fun k => k.updStream h fun m => { m with pc := m.pc + 4, open_ := ws })

/-- A trigger word (R126, R146). -/
def State.trigWord (s : State) (p : Port) (w : TrigW) : Host.Outcome State Fault Refusal :=
  s.word w.s (.move w.g w.n p w.imm w.low)

/-- A hint word (R131). -/
def State.hintWord (s : State) (kind : BitVec 3) (w : HintW) : Host.Outcome State Fault Refusal :=
  s.word w.s (.hint kind w.pay)

end Sys2Proof.Machine
end

