-- ==== Sys2Proof/Machine/Words.lean ====
section
/-! DEFINITION. What each instruction word does: moves, drops and hints (R126 to R134), and the triggers of the thirteen
units (R146, Tables 2 and 3). A trigger word carries its port; the operation itself is the unit's, started when the group
issues (Issue.lean). -/

namespace Sys2Proof.Machine

open Host

/-- MOVE (R126, R128 to R130). -/
def execMove (w : MoveW) (s : State) : Outcome State Fault Refusal := s.word w.s (.move w.g w.n w.dst w.imm w.low)

/-- QUEUE_DROP: a move with MOD 2, whose DST is 0x000 (R129). -/
def execQueueDrop (w : DropW) (s : State) : Outcome State Fault Refusal := s.word w.s (.move w.g w.n 0 false (2#4 ++ w.src))

/-- LIMM: 24 more immediate bits (R132). -/
def execLimm (w : HintW) (s : State) : Outcome State Fault Refusal := s.hintWord 0 w

/-- SCHED: a hint without effect (R134). -/
def execSched (w : HintW) (s : State) : Outcome State Fault Refusal := s.hintWord 1 w

/-- MODX: modifies the next move (R133). -/
def execModx (w : HintW) (s : State) : Outcome State Fault Refusal := s.hintWord 2 w

/-- BRK: the breakpoint trap after its group (R134). -/
def execBrk (w : HintW) (s : State) : Outcome State Fault Refusal := s.hintWord 3 w

/-- NOP: nothing (R134). -/
def execNop (w : HintW) (s : State) : Outcome State Fault Refusal := s.hintWord 4 w

/-- `al.add` (R158). -/
def execAlAdd (w : TrigW) (s : State) : Outcome State Fault Refusal := s.trigWord 0x108 w

/-- `al.sub` (R158). -/
def execAlSub (w : TrigW) (s : State) : Outcome State Fault Refusal := s.trigWord 0x109 w

/-- `al.and` (R158). -/
def execAlAnd (w : TrigW) (s : State) : Outcome State Fault Refusal := s.trigWord 0x10A w

/-- `al.or` (R158). -/
def execAlOr (w : TrigW) (s : State) : Outcome State Fault Refusal := s.trigWord 0x10B w

/-- `al.xor` (R158). -/
def execAlXor (w : TrigW) (s : State) : Outcome State Fault Refusal := s.trigWord 0x10C w

/-- `al.andn` (R158). -/
def execAlAndn (w : TrigW) (s : State) : Outcome State Fault Refusal := s.trigWord 0x10D w

/-- `al.shl` (R159). -/
def execAlShl (w : TrigW) (s : State) : Outcome State Fault Refusal := s.trigWord 0x10E w

/-- `al.shr` (R159). -/
def execAlShr (w : TrigW) (s : State) : Outcome State Fault Refusal := s.trigWord 0x10F w

/-- `al.sar` (R159). -/
def execAlSar (w : TrigW) (s : State) : Outcome State Fault Refusal := s.trigWord 0x110 w

/-- `al.rol` (R159). -/
def execAlRol (w : TrigW) (s : State) : Outcome State Fault Refusal := s.trigWord 0x111 w

/-- `al.min` (R158). -/
def execAlMin (w : TrigW) (s : State) : Outcome State Fault Refusal := s.trigWord 0x112 w

/-- `al.max` (R158). -/
def execAlMax (w : TrigW) (s : State) : Outcome State Fault Refusal := s.trigWord 0x113 w

/-- `al.minu` (R158). -/
def execAlMinu (w : TrigW) (s : State) : Outcome State Fault Refusal := s.trigWord 0x114 w

/-- `al.maxu` (R158). -/
def execAlMaxu (w : TrigW) (s : State) : Outcome State Fault Refusal := s.trigWord 0x115 w

/-- `al.sel` (R163). -/
def execAlSel (w : TrigW) (s : State) : Outcome State Fault Refusal := s.trigWord 0x116 w

/-- `al.clz` (R160). -/
def execAlClz (w : TrigW) (s : State) : Outcome State Fault Refusal := s.trigWord 0x117 w

/-- `al.ctz` (R160). -/
def execAlCtz (w : TrigW) (s : State) : Outcome State Fault Refusal := s.trigWord 0x118 w

/-- `al.popc` (R160). -/
def execAlPopc (w : TrigW) (s : State) : Outcome State Fault Refusal := s.trigWord 0x119 w

/-- `al.bswap` (R160). -/
def execAlBswap (w : TrigW) (s : State) : Outcome State Fault Refusal := s.trigWord 0x11A w

/-- `al.ext` (R161). -/
def execAlExt (w : TrigW) (s : State) : Outcome State Fault Refusal := s.trigWord 0x11B w

/-- `al.ins` (R161). -/
def execAlIns (w : TrigW) (s : State) : Outcome State Fault Refusal := s.trigWord 0x11C w

/-- `al.sext` (R161). -/
def execAlSext (w : TrigW) (s : State) : Outcome State Fault Refusal := s.trigWord 0x11D w

/-- `al.eq` (R162). -/
def execAlEq (w : TrigW) (s : State) : Outcome State Fault Refusal := s.trigWord 0x11E w

/-- `al.ne` (R162). -/
def execAlNe (w : TrigW) (s : State) : Outcome State Fault Refusal := s.trigWord 0x11F w

/-- `al.lt` (R162). -/
def execAlLt (w : TrigW) (s : State) : Outcome State Fault Refusal := s.trigWord 0x120 w

/-- `al.le` (R162). -/
def execAlLe (w : TrigW) (s : State) : Outcome State Fault Refusal := s.trigWord 0x121 w

/-- `al.ltu` (R162). -/
def execAlLtu (w : TrigW) (s : State) : Outcome State Fault Refusal := s.trigWord 0x122 w

/-- `al.leu` (R162). -/
def execAlLeu (w : TrigW) (s : State) : Outcome State Fault Refusal := s.trigWord 0x123 w

/-- `al.tst` (R162). -/
def execAlTst (w : TrigW) (s : State) : Outcome State Fault Refusal := s.trigWord 0x124 w

/-- `al.fadd` (R164). -/
def execAlFadd (w : TrigW) (s : State) : Outcome State Fault Refusal := s.trigWord 0x125 w

/-- `al.fsub` (R164). -/
def execAlFsub (w : TrigW) (s : State) : Outcome State Fault Refusal := s.trigWord 0x126 w

/-- `al.fmul` (R164). -/
def execAlFmul (w : TrigW) (s : State) : Outcome State Fault Refusal := s.trigWord 0x127 w

/-- `al.fma` (R164). -/
def execAlFma (w : TrigW) (s : State) : Outcome State Fault Refusal := s.trigWord 0x128 w

/-- `al.fmin` (R164). -/
def execAlFmin (w : TrigW) (s : State) : Outcome State Fault Refusal := s.trigWord 0x129 w

/-- `al.fmax` (R164). -/
def execAlFmax (w : TrigW) (s : State) : Outcome State Fault Refusal := s.trigWord 0x12A w

/-- `al.feq` (R165). -/
def execAlFeq (w : TrigW) (s : State) : Outcome State Fault Refusal := s.trigWord 0x12B w

/-- `al.flt` (R165). -/
def execAlFlt (w : TrigW) (s : State) : Outcome State Fault Refusal := s.trigWord 0x12C w

/-- `al.fle` (R165). -/
def execAlFle (w : TrigW) (s : State) : Outcome State Fault Refusal := s.trigWord 0x12D w

/-- `al.cvt` (R166). -/
def execAlCvt (w : TrigW) (s : State) : Outcome State Fault Refusal := s.trigWord 0x12E w

/-- `al.fcls` (R165). -/
def execAlFcls (w : TrigW) (s : State) : Outcome State Fault Refusal := s.trigWord 0x12F w

/-- `md.mul` (R167). -/
def execMdMul (w : TrigW) (s : State) : Outcome State Fault Refusal := s.trigWord 0x188 w

/-- `md.mulu` (R167). -/
def execMdMulu (w : TrigW) (s : State) : Outcome State Fault Refusal := s.trigWord 0x189 w

/-- `md.mulsu` (R167). -/
def execMdMulsu (w : TrigW) (s : State) : Outcome State Fault Refusal := s.trigWord 0x18A w

/-- `md.div` (R168). -/
def execMdDiv (w : TrigW) (s : State) : Outcome State Fault Refusal := s.trigWord 0x18B w

/-- `md.divu` (R168). -/
def execMdDivu (w : TrigW) (s : State) : Outcome State Fault Refusal := s.trigWord 0x18C w

/-- `md.mulw` (R167). -/
def execMdMulw (w : TrigW) (s : State) : Outcome State Fault Refusal := s.trigWord 0x18D w

/-- `md.divw` (R168). -/
def execMdDivw (w : TrigW) (s : State) : Outcome State Fault Refusal := s.trigWord 0x18E w

/-- `md.divuw` (R168). -/
def execMdDivuw (w : TrigW) (s : State) : Outcome State Fault Refusal := s.trigWord 0x18F w

/-- `vx.add` (R201). -/
def execVxAdd (w : TrigW) (s : State) : Outcome State Fault Refusal := s.trigWord 0x210 w

/-- `vx.sub` (R201). -/
def execVxSub (w : TrigW) (s : State) : Outcome State Fault Refusal := s.trigWord 0x211 w

/-- `vx.mul` (R201). -/
def execVxMul (w : TrigW) (s : State) : Outcome State Fault Refusal := s.trigWord 0x212 w

/-- `vx.fma` (R202). -/
def execVxFma (w : TrigW) (s : State) : Outcome State Fault Refusal := s.trigWord 0x213 w

/-- `vx.fms` (R202). -/
def execVxFms (w : TrigW) (s : State) : Outcome State Fault Refusal := s.trigWord 0x214 w

/-- `vx.fnma` (R202). -/
def execVxFnma (w : TrigW) (s : State) : Outcome State Fault Refusal := s.trigWord 0x215 w

/-- `vx.min` (R203). -/
def execVxMin (w : TrigW) (s : State) : Outcome State Fault Refusal := s.trigWord 0x216 w

/-- `vx.max` (R203). -/
def execVxMax (w : TrigW) (s : State) : Outcome State Fault Refusal := s.trigWord 0x217 w

/-- `vx.abs` (R204). -/
def execVxAbs (w : TrigW) (s : State) : Outcome State Fault Refusal := s.trigWord 0x218 w

/-- `vx.neg` (R204). -/
def execVxNeg (w : TrigW) (s : State) : Outcome State Fault Refusal := s.trigWord 0x219 w

/-- `vx.and` (R207). -/
def execVxAnd (w : TrigW) (s : State) : Outcome State Fault Refusal := s.trigWord 0x21A w

/-- `vx.or` (R207). -/
def execVxOr (w : TrigW) (s : State) : Outcome State Fault Refusal := s.trigWord 0x21B w

/-- `vx.xor` (R207). -/
def execVxXor (w : TrigW) (s : State) : Outcome State Fault Refusal := s.trigWord 0x21C w

/-- `vx.andn` (R207). -/
def execVxAndn (w : TrigW) (s : State) : Outcome State Fault Refusal := s.trigWord 0x21D w

/-- `vx.shl` (R208). -/
def execVxShl (w : TrigW) (s : State) : Outcome State Fault Refusal := s.trigWord 0x21E w

/-- `vx.shr` (R208). -/
def execVxShr (w : TrigW) (s : State) : Outcome State Fault Refusal := s.trigWord 0x21F w

/-- `vx.sar` (R208). -/
def execVxSar (w : TrigW) (s : State) : Outcome State Fault Refusal := s.trigWord 0x220 w

/-- `vx.eq` (R210). -/
def execVxEq (w : TrigW) (s : State) : Outcome State Fault Refusal := s.trigWord 0x221 w

/-- `vx.ne` (R210). -/
def execVxNe (w : TrigW) (s : State) : Outcome State Fault Refusal := s.trigWord 0x222 w

/-- `vx.lt` (R210). -/
def execVxLt (w : TrigW) (s : State) : Outcome State Fault Refusal := s.trigWord 0x223 w

/-- `vx.le` (R210). -/
def execVxLe (w : TrigW) (s : State) : Outcome State Fault Refusal := s.trigWord 0x224 w

/-- `vx.sel` (R211). -/
def execVxSel (w : TrigW) (s : State) : Outcome State Fault Refusal := s.trigWord 0x225 w

/-- `vx.perm` (R213). -/
def execVxPerm (w : TrigW) (s : State) : Outcome State Fault Refusal := s.trigWord 0x226 w

/-- `vx.shuf` (R213). -/
def execVxShuf (w : TrigW) (s : State) : Outcome State Fault Refusal := s.trigWord 0x227 w

/-- `vx.rot` (R213). -/
def execVxRot (w : TrigW) (s : State) : Outcome State Fault Refusal := s.trigWord 0x228 w

/-- `vx.iota` (R213). -/
def execVxIota (w : TrigW) (s : State) : Outcome State Fault Refusal := s.trigWord 0x229 w

/-- `vx.rsum` (R214). -/
def execVxRsum (w : TrigW) (s : State) : Outcome State Fault Refusal := s.trigWord 0x22A w

/-- `vx.rmax` (R214). -/
def execVxRmax (w : TrigW) (s : State) : Outcome State Fault Refusal := s.trigWord 0x22B w

/-- `vx.rmin` (R214). -/
def execVxRmin (w : TrigW) (s : State) : Outcome State Fault Refusal := s.trigWord 0x22C w

/-- `vx.randb` (R214). -/
def execVxRandb (w : TrigW) (s : State) : Outcome State Fault Refusal := s.trigWord 0x22D w

/-- `vx.rorb` (R214). -/
def execVxRorb (w : TrigW) (s : State) : Outcome State Fault Refusal := s.trigWord 0x22E w

/-- `vx.rxorb` (R214). -/
def execVxRxorb (w : TrigW) (s : State) : Outcome State Fault Refusal := s.trigWord 0x22F w

/-- `vx.rcp` (R215). -/
def execVxRcp (w : TrigW) (s : State) : Outcome State Fault Refusal := s.trigWord 0x230 w

/-- `vx.rsqrt` (R215). -/
def execVxRsqrt (w : TrigW) (s : State) : Outcome State Fault Refusal := s.trigWord 0x231 w

/-- `vx.exp2` (R215). -/
def execVxExp2 (w : TrigW) (s : State) : Outcome State Fault Refusal := s.trigWord 0x232 w

/-- `vx.div` (R216). -/
def execVxDiv (w : TrigW) (s : State) : Outcome State Fault Refusal := s.trigWord 0x233 w

/-- `vx.sqrt` (R216). -/
def execVxSqrt (w : TrigW) (s : State) : Outcome State Fault Refusal := s.trigWord 0x234 w

/-- `vx.cvt` (R217). -/
def execVxCvt (w : TrigW) (s : State) : Outcome State Fault Refusal := s.trigWord 0x235 w

/-- `vx.cvts` (R218). -/
def execVxCvts (w : TrigW) (s : State) : Outcome State Fault Refusal := s.trigWord 0x236 w

/-- `vx.pack` (R219). -/
def execVxPack (w : TrigW) (s : State) : Outcome State Fault Refusal := s.trigWord 0x237 w

/-- `vx.unpk` (R219). -/
def execVxUnpk (w : TrigW) (s : State) : Outcome State Fault Refusal := s.trigWord 0x238 w

/-- `vx.t5un` (R220). -/
def execVxT5un (w : TrigW) (s : State) : Outcome State Fault Refusal := s.trigWord 0x239 w

/-- `vx.i4un` (R220). -/
def execVxI4un (w : TrigW) (s : State) : Outcome State Fault Refusal := s.trigWord 0x23A w

/-- `vx.bfpk` (R221). -/
def execVxBfpk (w : TrigW) (s : State) : Outcome State Fault Refusal := s.trigWord 0x23B w

/-- `vx.bfun` (R222). -/
def execVxBfun (w : TrigW) (s : State) : Outcome State Fault Refusal := s.trigWord 0x23C w

/-- `vx.mulh` (R205). -/
def execVxMulh (w : TrigW) (s : State) : Outcome State Fault Refusal := s.trigWord 0x23D w

/-- `vx.avg` (R205). -/
def execVxAvg (w : TrigW) (s : State) : Outcome State Fault Refusal := s.trigWord 0x23E w

/-- `vx.popc` (R209). -/
def execVxPopc (w : TrigW) (s : State) : Outcome State Fault Refusal := s.trigWord 0x23F w

/-- `vx.clz` (R209). -/
def execVxClz (w : TrigW) (s : State) : Outcome State Fault Refusal := s.trigWord 0x240 w

/-- `vx.ins` (R213). -/
def execVxIns (w : TrigW) (s : State) : Outcome State Fault Refusal := s.trigWord 0x241 w

/-- `vx.any` (R212). -/
def execVxAny (w : TrigW) (s : State) : Outcome State Fault Refusal := s.trigWord 0x242 w

/-- `vx.all` (R212). -/
def execVxAll (w : TrigW) (s : State) : Outcome State Fault Refusal := s.trigWord 0x243 w

/-- `vx.blend` (R207). -/
def execVxBlend (w : TrigW) (s : State) : Outcome State Fault Refusal := s.trigWord 0x244 w

/-- `vx.cls` (R209). -/
def execVxCls (w : TrigW) (s : State) : Outcome State Fault Refusal := s.trigWord 0x245 w

/-- `vx.dot` (R223). -/
def execVxDot (w : TrigW) (s : State) : Outcome State Fault Refusal := s.trigWord 0x246 w

/-- `vx.rndi` (R206). -/
def execVxRndi (w : TrigW) (s : State) : Outcome State Fault Refusal := s.trigWord 0x247 w

/-- `mx.claim` (R229). -/
def execMxClaim (w : TrigW) (s : State) : Outcome State Fault Refusal := s.trigWord 0x308 w

/-- `mx.release` (R230). -/
def execMxRelease (w : TrigW) (s : State) : Outcome State Fault Refusal := s.trigWord 0x309 w

/-- `mx.fill` (R231). -/
def execMxFill (w : TrigW) (s : State) : Outcome State Fault Refusal := s.trigWord 0x30A w

/-- `mx.mma` (R232). -/
def execMxMma (w : TrigW) (s : State) : Outcome State Fault Refusal := s.trigWord 0x30B w

/-- `mx.mmat` (R235). -/
def execMxMmat (w : TrigW) (s : State) : Outcome State Fault Refusal := s.trigWord 0x30C w

/-- `mx.drain` (R236). -/
def execMxDrain (w : TrigW) (s : State) : Outcome State Fault Refusal := s.trigWord 0x30D w

/-- `mx.bsum` (R237). -/
def execMxBsum (w : TrigW) (s : State) : Outcome State Fault Refusal := s.trigWord 0x30E w

/-- `mx.zero` (R238). -/
def execMxZero (w : TrigW) (s : State) : Outcome State Fault Refusal := s.trigWord 0x30F w

/-- `mx.team` (R234). -/
def execMxTeam (w : TrigW) (s : State) : Outcome State Fault Refusal := s.trigWord 0x310 w

/-- `mx.prog` (R239). -/
def execMxProg (w : TrigW) (s : State) : Outcome State Fault Refusal := s.trigWord 0x311 w

/-- `lb.assume` (R271). -/
def execLbAssume (w : TrigW) (s : State) : Outcome State Fault Refusal := s.trigWord 0x388 w

/-- `lb.join` (R272). -/
def execLbJoin (w : TrigW) (s : State) : Outcome State Fault Refusal := s.trigWord 0x389 w

/-- `lb.merge` (R272). -/
def execLbMerge (w : TrigW) (s : State) : Outcome State Fault Refusal := s.trigWord 0x38A w

/-- `lb.contra` (R273). -/
def execLbContra (w : TrigW) (s : State) : Outcome State Fault Refusal := s.trigWord 0x38B w

/-- `lb.commit` (R274). -/
def execLbCommit (w : TrigW) (s : State) : Outcome State Fault Refusal := s.trigWord 0x38C w

/-- `lb.holds` (R274). -/
def execLbHolds (w : TrigW) (s : State) : Outcome State Fault Refusal := s.trigWord 0x38D w

/-- `lb.tag` (R275). -/
def execLbTag (w : TrigW) (s : State) : Outcome State Fault Refusal := s.trigWord 0x38E w

/-- `lb.retag` (R276). -/
def execLbRetag (w : TrigW) (s : State) : Outcome State Fault Refusal := s.trigWord 0x38F w

/-- `lb.envs` (R277). -/
def execLbEnvs (w : TrigW) (s : State) : Outcome State Fault Refusal := s.trigWord 0x390 w

/-- `lb.env` (R277). -/
def execLbEnv (w : TrigW) (s : State) : Outcome State Fault Refusal := s.trigWord 0x391 w

/-- `lb.count` (R278). -/
def execLbCount (w : TrigW) (s : State) : Outcome State Fault Refusal := s.trigWord 0x392 w

/-- `lb.min` (R277). -/
def execLbMin (w : TrigW) (s : State) : Outcome State Fault Refusal := s.trigWord 0x393 w

/-- `lb.census` (R280). -/
def execLbCensus (w : TrigW) (s : State) : Outcome State Fault Refusal := s.trigWord 0x394 w

/-- `lb.ctlset` (R279). -/
def execLbCtlset (w : TrigW) (s : State) : Outcome State Fault Refusal := s.trigWord 0x395 w

/-- `lb.ctlget` (R279). -/
def execLbCtlget (w : TrigW) (s : State) : Outcome State Fault Refusal := s.trigWord 0x396 w

/-- `lb.space` (R281). -/
def execLbSpace (w : TrigW) (s : State) : Outcome State Fault Refusal := s.trigWord 0x397 w

/-- `cl.var` (R295). -/
def execClVar (w : TrigW) (s : State) : Outcome State Fault Refusal := s.trigWord 0x3C8 w

/-- `cl.ite` (R295). -/
def execClIte (w : TrigW) (s : State) : Outcome State Fault Refusal := s.trigWord 0x3C9 w

/-- `cl.apply` (R295). -/
def execClApply (w : TrigW) (s : State) : Outcome State Fault Refusal := s.trigWord 0x3CA w

/-- `cl.not` (R295). -/
def execClNot (w : TrigW) (s : State) : Outcome State Fault Refusal := s.trigWord 0x3CB w

/-- `cl.restrict` (R295). -/
def execClRestrict (w : TrigW) (s : State) : Outcome State Fault Refusal := s.trigWord 0x3CC w

/-- `cl.exists` (R295). -/
def execClExists (w : TrigW) (s : State) : Outcome State Fault Refusal := s.trigWord 0x3CD w

/-- `cl.count` (R296). -/
def execClCount (w : TrigW) (s : State) : Outcome State Fault Refusal := s.trigWord 0x3CE w

/-- `cl.wcount` (R297). -/
def execClWcount (w : TrigW) (s : State) : Outcome State Fault Refusal := s.trigWord 0x3CF w

/-- `cl.sat` (R298). -/
def execClSat (w : TrigW) (s : State) : Outcome State Fault Refusal := s.trigWord 0x3D0 w

/-- `cl.ref` (R301). -/
def execClRef (w : TrigW) (s : State) : Outcome State Fault Refusal := s.trigWord 0x3D1 w

/-- `cl.unref` (R301). -/
def execClUnref (w : TrigW) (s : State) : Outcome State Fault Refusal := s.trigWord 0x3D2 w

/-- `cl.swap` (R303). -/
def execClSwap (w : TrigW) (s : State) : Outcome State Fault Refusal := s.trigWord 0x3D3 w

/-- `cl.size` (R300). -/
def execClSize (w : TrigW) (s : State) : Outcome State Fault Refusal := s.trigWord 0x3D4 w

/-- `cl.gc` (R302). -/
def execClGc (w : TrigW) (s : State) : Outcome State Fault Refusal := s.trigWord 0x3D5 w

/-- `cl.mincount` (R299). -/
def execClMincount (w : TrigW) (s : State) : Outcome State Fault Refusal := s.trigWord 0x3D6 w

/-- `ms.send` (R325). -/
def execMsSend (w : TrigW) (s : State) : Outcome State Fault Refusal := s.trigWord 0x408 w

/-- `ms.put` (R327). -/
def execMsPut (w : TrigW) (s : State) : Outcome State Fault Refusal := s.trigWord 0x409 w

/-- `ms.poll` (R326). -/
def execMsPoll (w : TrigW) (s : State) : Outcome State Fault Refusal := s.trigWord 0x40A w

/-- `ms.chan` (R325). -/
def execMsChan (w : TrigW) (s : State) : Outcome State Fault Refusal := s.trigWord 0x40B w

/-- `ct.jmp` (R169). -/
def execCtJmp (w : TrigW) (s : State) : Outcome State Fault Refusal := s.trigWord 0x448 w

/-- `ct.call` (R169). -/
def execCtCall (w : TrigW) (s : State) : Outcome State Fault Refusal := s.trigWord 0x449 w

/-- `ct.ret` (R169). -/
def execCtRet (w : TrigW) (s : State) : Outcome State Fault Refusal := s.trigWord 0x44A w

/-- `ct.loop` (R171). -/
def execCtLoop (w : TrigW) (s : State) : Outcome State Fault Refusal := s.trigWord 0x44B w

/-- `ct.wait` (R172). -/
def execCtWait (w : TrigW) (s : State) : Outcome State Fault Refusal := s.trigWord 0x44C w

/-- `ct.fence` (R173). -/
def execCtFence (w : TrigW) (s : State) : Outcome State Fault Refusal := s.trigWord 0x44D w

/-- `ct.trick` (R174). -/
def execCtTrick (w : TrigW) (s : State) : Outcome State Fault Refusal := s.trigWord 0x44E w

/-- `ct.bar` (R175). -/
def execCtBar (w : TrigW) (s : State) : Outcome State Fault Refusal := s.trigWord 0x44F w

/-- `ct.trigger` (R75). -/
def execCtTrigger (w : TrigW) (s : State) : Outcome State Fault Refusal := s.trigWord 0x450 w

/-- `ct.launch` (R176). -/
def execCtLaunch (w : TrigW) (s : State) : Outcome State Fault Refusal := s.trigWord 0x451 w

/-- `ct.exit` (R177). -/
def execCtExit (w : TrigW) (s : State) : Outcome State Fault Refusal := s.trigWord 0x452 w

/-- `ct.wdrive` (R240). -/
def execCtWdrive (w : TrigW) (s : State) : Outcome State Fault Refusal := s.trigWord 0x453 w

/-- `ct.rsr` (R178). -/
def execCtRsr (w : TrigW) (s : State) : Outcome State Fault Refusal := s.trigWord 0x454 w

/-- `ct.wsr` (R178). -/
def execCtWsr (w : TrigW) (s : State) : Outcome State Fault Refusal := s.trigWord 0x455 w

/-- `ct.eret` (R182). -/
def execCtEret (w : TrigW) (s : State) : Outcome State Fault Refusal := s.trigWord 0x456 w

/-- `ct.rsrs` (R178). -/
def execCtRsrs (w : TrigW) (s : State) : Outcome State Fault Refusal := s.trigWord 0x457 w

/-- `ct.wsrs` (R178). -/
def execCtWsrs (w : TrigW) (s : State) : Outcome State Fault Refusal := s.trigWord 0x458 w

/-- `ag.ld` (R186). -/
def execAgLd (w : TrigW) (s : State) : Outcome State Fault Refusal := s.trigWord 0x508 w

/-- `ag.lds` (R186). -/
def execAgLds (w : TrigW) (s : State) : Outcome State Fault Refusal := s.trigWord 0x509 w

/-- `ag.st` (R187). -/
def execAgSt (w : TrigW) (s : State) : Outcome State Fault Refusal := s.trigWord 0x50A w

/-- `ag.sts` (R187). -/
def execAgSts (w : TrigW) (s : State) : Outcome State Fault Refusal := s.trigWord 0x50B w

/-- `ag.std` (R187). -/
def execAgStd (w : TrigW) (s : State) : Outcome State Fault Refusal := s.trigWord 0x50C w

/-- `ag.stds` (R187). -/
def execAgStds (w : TrigW) (s : State) : Outcome State Fault Refusal := s.trigWord 0x50D w

/-- `ag.strm` (R188). -/
def execAgStrm (w : TrigW) (s : State) : Outcome State Fault Refusal := s.trigWord 0x50E w

/-- `ag.strw` (R188). -/
def execAgStrw (w : TrigW) (s : State) : Outcome State Fault Refusal := s.trigWord 0x50F w

/-- `ag.pf` (R189). -/
def execAgPf (w : TrigW) (s : State) : Outcome State Fault Refusal := s.trigWord 0x510 w

/-- `aa.add` (R184). -/
def execAaAdd (w : TrigW) (s : State) : Outcome State Fault Refusal := s.trigWord 0x588 w

/-- `aa.sub` (R184). -/
def execAaSub (w : TrigW) (s : State) : Outcome State Fault Refusal := s.trigWord 0x589 w

/-- `aa.and` (R184). -/
def execAaAnd (w : TrigW) (s : State) : Outcome State Fault Refusal := s.trigWord 0x58A w

/-- `aa.or` (R184). -/
def execAaOr (w : TrigW) (s : State) : Outcome State Fault Refusal := s.trigWord 0x58B w

/-- `aa.xor` (R184). -/
def execAaXor (w : TrigW) (s : State) : Outcome State Fault Refusal := s.trigWord 0x58C w

/-- `aa.shl` (R184). -/
def execAaShl (w : TrigW) (s : State) : Outcome State Fault Refusal := s.trigWord 0x58D w

/-- `aa.shr` (R184). -/
def execAaShr (w : TrigW) (s : State) : Outcome State Fault Refusal := s.trigWord 0x58E w

/-- `aa.eq` (R184). -/
def execAaEq (w : TrigW) (s : State) : Outcome State Fault Refusal := s.trigWord 0x58F w

/-- `ac.jmp` (R183). -/
def execAcJmp (w : TrigW) (s : State) : Outcome State Fault Refusal := s.trigWord 0x5C8 w

/-- `ac.call` (R183). -/
def execAcCall (w : TrigW) (s : State) : Outcome State Fault Refusal := s.trigWord 0x5C9 w

/-- `ac.ret` (R183). -/
def execAcRet (w : TrigW) (s : State) : Outcome State Fault Refusal := s.trigWord 0x5CA w

/-- `ac.loop` (R183). -/
def execAcLoop (w : TrigW) (s : State) : Outcome State Fault Refusal := s.trigWord 0x5CB w

/-- `ac.wait` (R183). -/
def execAcWait (w : TrigW) (s : State) : Outcome State Fault Refusal := s.trigWord 0x5CC w

/-- `ac.rsr` (R183). -/
def execAcRsr (w : TrigW) (s : State) : Outcome State Fault Refusal := s.trigWord 0x5CD w

/-- `at.add` (R192). -/
def execAtAdd (w : TrigW) (s : State) : Outcome State Fault Refusal := s.trigWord 0x5E8 w

/-- `at.fadd` (R192). -/
def execAtFadd (w : TrigW) (s : State) : Outcome State Fault Refusal := s.trigWord 0x5E9 w

/-- `at.min` (R192). -/
def execAtMin (w : TrigW) (s : State) : Outcome State Fault Refusal := s.trigWord 0x5EA w

/-- `at.max` (R192). -/
def execAtMax (w : TrigW) (s : State) : Outcome State Fault Refusal := s.trigWord 0x5EB w

/-- `at.amax` (R192). -/
def execAtAmax (w : TrigW) (s : State) : Outcome State Fault Refusal := s.trigWord 0x5EC w

/-- `at.amaxr` (R192). -/
def execAtAmaxr (w : TrigW) (s : State) : Outcome State Fault Refusal := s.trigWord 0x5ED w

/-- `at.and` (R192). -/
def execAtAnd (w : TrigW) (s : State) : Outcome State Fault Refusal := s.trigWord 0x5EE w

/-- `at.or` (R192). -/
def execAtOr (w : TrigW) (s : State) : Outcome State Fault Refusal := s.trigWord 0x5EF w

/-- `at.xor` (R192). -/
def execAtXor (w : TrigW) (s : State) : Outcome State Fault Refusal := s.trigWord 0x5F0 w

/-- `at.xchg` (R192). -/
def execAtXchg (w : TrigW) (s : State) : Outcome State Fault Refusal := s.trigWord 0x5F1 w

/-- `at.cas` (R192). -/
def execAtCas (w : TrigW) (s : State) : Outcome State Fault Refusal := s.trigWord 0x5F2 w

/-- `ce.go` (R308). -/
def execCeGo (w : TrigW) (s : State) : Outcome State Fault Refusal := s.trigWord 0x608 w

/-- `ce.try` (R308). -/
def execCeTry (w : TrigW) (s : State) : Outcome State Fault Refusal := s.trigWord 0x609 w

end Sys2Proof.Machine
end

