-- ==== Sys2Proof/Machine/Fetch.lean ====
section
/-! DEFINITION. When a stream may fetch (R82, R169, R174, R180, R240, R270), what it fetches (R126), and the machine that a
single instruction word is placed in. -/

namespace Sys2Proof.Machine

/-- The arrival stops the X stream: a handler's streams wait only for an arrival that the handler made (R174). -/
def Arrival.stops (a : Arrival) (priv : Bool) : Bool := a.handler || !priv

/-- Member `c` may issue in half `h`: its task runs, nothing has stopped it, and the two streams are not given over to
weight-driven mode (R240), to a wait for release (R174), or to a census (R270). -/
def State.mayIssue (s : State) (c : Nat) (h : Half) : Bool :=
  let k := s.core c
  match k.task with
  | none => false
  | some t =>
    !k.halted && !k.ended && !k.leaving && k.poisoned.isNone && k.ctx.raised.isNone && k.ctx.wd.isNone && !s.censusWaits t.part
      && (h = .a || k.ctx.arrived.all fun a => !a.stops k.ctx.priv)

/-- Traps that wait for the next group boundary of half `h`, along the row of `c` (R28, R92, R269): an A stream that has
stopped takes its trap at its stopping point. -/
def State.boundaryTraps (s : State) (c : Nat) (h : Half) : List (Nat × Trap) :=
  (s.row c).filterMap fun m =>
    let k := s.core m
    let r := k.ctx.stream h
    if k.task.isNone || k.halted || k.ended || k.poisoned.isSome || k.ctx.raised.isSome
        || (h = .x && k.ctx.wd.isSome) then none
    else r.trap.map fun t => (m, t)

/-- The traps are no longer kept for a boundary; a further refusal takes the place of each (R92). -/
def State.dropTraps (s : State) (h : Half) (ts : List (Nat × Trap)) : State :=
  ts.foldl (fun s e => s.updCtx e.1 fun k => k.updStream h fun m => { m with trap := m.more.head?, more := m.more.tail }) s

/-- What a fetch comes to. -/
inductive Fetched where
  /-- Nothing, or a trap. -/
  | quiet (s : State)
  /-- A word, for its half to execute. -/
  | word (i : Instr) (s : State)
  /-- A word with a reserved encoding, which no scanned segment holds (R137). -/
  | bad

/-- The row of core `c` may issue in half `h` at this cycle. -/
def State.rowReady (s : State) (c : Nat) (h : Half) : Bool :=
  let m := (s.ctx c).stream h
  !(taskOf s c).isFollower && !m.exited && m.ready ≤ s.now
    && (s.row c).all fun f => ((s.ctx f).stream h).exited || s.mayIssue f h

/-- Half `h` of core `c` fetches its next word. A trap that waits for a group boundary is raised first, before the group
whose words are being fetched issues; a stream that stands outside its segment takes the TARGET fault (R169). -/
def State.fetch (s : State) (c : Nat) (h : Half) : Fetched :=
  let s := (s.row c).foldl State.landDue s
  let m := (s.ctx c).stream h
  let ts := s.boundaryTraps c h
  if !ts.isEmpty then .quiet ((s.dropTraps h ts).raiseRow (s.row c) h ts)
  else if !s.rowReady c h then .quiet s
  else
    let g := (s.ctx c).segOf h
    let pc := if m.past then 0x20000 else m.pc.toNat
    if !(g.lo ≤ pc && pc < g.hi) then
      .quiet ((s.updCtx c fun k => k.updStream h (·.rewind)).raise c h (targetFault (BitVec.ofNat 64 pc)))
    else match decodeWord ((s.core c).istore.get 0 (pc / 4)) with
      | .ok i => .word i { s with curCore := c, curHalf := h }
      | .error _ => .bad

/-- An instruction word, and no step of the device's agents. -/
def isWord (i : Instr) : Bool := (encode i).isSome

/-- The half that a word belongs to: that of its destination, else that of its source, else X (R145). -/
def halfOf (i : Instr) : Half :=
  let dst (p : Nat) : Option PHalf := (dstPort p).map (·.1)
  let src (imm : Bool) (low : BitVec 15) : Option PHalf := if imm then none else (srcPort (low.toNat % 2048)).map (·.1)
  match i.port, i with
  | some p, _ => if dst p = some .a then .a else .x
  | none, .move w => if dst w.dst.toNat = some .a || src w.imm w.low = some .a then .a else .x
  | none, .queueDrop w => if (srcPort w.src.toNat).map (·.1) = some .a then .a else .x
  | none, _ => .x

/-- A core that runs a task of its own from offset 0 of its instruction store, in a segment of supervisor privilege, in
half `h`, with word `w` there; every other register stays. -/
def Core.placed (k : Core) (h : Half) (w : IWord) : Core :=
  let seg : CodeSeg := { lo := 0, hi := 0x20000, priv := 1 }
  let fresh (m : Stream) : Stream :=
    { m with pc := 0, start := 0, open_ := [], ready := 0, seg := seg, hseg := seg, exited := false, trap := none, more := [], past := false }
  { k with
    task := some { part := 0 }, halted := false, ended := false, poisoned := none
    istore := k.istore.set 0 0 w
    ctx := (({ k.ctx with raised := none, arrived := none, wd := none, lbops := [] } : Ctx).updStream h fresh) }

/-- `s` with word `w` where core 0 fetches next in half `h`: partition 0, of one cluster, holds the core. -/
def State.placed (s : State) (h : Half) (w : IWord) : State :=
  let s := match s.parts.get none 0 with
    | some p => s.setPart 0 (some { p with x0 := 0, y0 := 0, w := max 4 p.w, h := max 4 p.h })
    | none => s.setPart 0 (some { w := 4, h := 4 })
  let s := (rectCores 0 0 4 4).foldl (fun s c => s.updCtx c fun k => { k with lbops := [] }) s
  { s.updCore 0 (·.placed h w) with agenda := [.fetch 0 h] }

end Sys2Proof.Machine
end

