-- ==== Sys2Proof/Machine/Scan.lean ====
section
/-! DEFINITION. The scanner (R137): what a cluster controller checks of a code segment when it is registered executable,
word by word and group by group (R131 to R136, R149, R150, R23, R333). -/

namespace Sys2Proof.Machine

/-- A violation: offset in the segment, and WHY (R137, Table 6). -/
abbrev Viol := Nat × Nat

/-- The violation reported: the first offset, and there the lowest code (R137). -/
def firstViol : List Viol → Option Viol
  | [] => none
  | e :: es => match firstViol es with
    | none => some e
    | some f => if e.1 < f.1 || (e.1 = f.1 && e.2 ≤ f.2) then some e else some f

/-- What a segment is registered as: its half, privilege, declared vector need and declared profiles. -/
structure ScanArg where
  half : Half
  priv : Nat
  need : Nat
  /-- Bits 0 to 5: base, vec, mat, lab, dia, eng (R333, Table 1). -/
  prof : BitVec 6

/-- The profile of a port, by its bit; none for a port of no unit (R333, Table 1). -/
def portProfile (p : Nat) : Option Nat :=
  if p = 0x453 then some 2
  else (unitOf p).map fun u =>
    if u = uVx then 1 else if u = uMx then 2 else if u = uLb then 3 else if u = uCl then 4 else if u = uCe then 5 else 0

/-- Codes that a port gives as a source or a destination: reserved, wrong half, vector register above need, profile not
declared. -/
def ScanArg.port (a : ScanArg) (p : Nat) (what : Option (PHalf × Cls)) : List Nat :=
  match what with
  | none => [1]
  | some (ph, _) =>
    (if ph.allows a.half then [] else [2])
    ++ (if 0x40 ≤ p && p < 0x80 && a.need ≤ p - 0x40 then [14] else [])
    ++ (match portProfile p with
      | some b => if a.prof.toNat / 2 ^ b % 2 = 1 then [] else [18]
      | none => [])

/-- Codes that a move gives by itself (R126 to R130, R149, R150). A drop's DST names no port. -/
def ScanArg.move (a : ScanArg) (m : Move) : List Nat :=
  (match m.src with
    | .imm _ => []
    | .port p _ => a.port p (srcPort p))
  ++ (if m.modOk then [] else [5])
  ++ if m.isDrop then (if m.dst = 0 then [] else [16])
    else a.port m.dst (dstPort m.dst) ++ (if isPrivPort m.dst && a.priv = 0 then [3] else [])

/-- The scan of a group so far. -/
structure GroupScan where
  n     : Nat := 0
  lims  : List (Nat × BitVec 24) := []
  modx  : Option (Nat × BitVec 24) := none
  dsts  : List Nat := []
  trigs : List Nat := []
  pops  : List Nat := []
  bad   : List Viol := []

/-- Hints that wait for a move are orphans (R131). -/
def GroupScan.orphans (g : GroupScan) : List Viol :=
  g.lims.map (fun e => (e.1, 7)) ++ (g.modx.map fun e => (e.1, 7)).toList

/-- A hint word at offset `o` (R131 to R134). -/
def GroupScan.hint (g : GroupScan) (o : Nat) (w : IWord) : GroupScan :=
  match wordKind w with
  | 0 => { g with
      lims := g.lims ++ [(o, wordPay w)]
      bad := g.bad ++ if 3 ≤ g.lims.length then [(o, 8)] else [] }
  | 2 => { g with
      modx := g.modx.orElse fun _ => some (o, wordPay w)
      bad := g.bad ++ (if g.modx.isSome then [(o, 8)] else []) ++ if (modxOf (wordPay w)).isNone then [(o, 6)] else [] }
  | k => { g with
      lims := [], modx := none
      bad := g.bad ++ g.orphans ++ if 5 ≤ k then [(o, 4)] else [] }

/-- A move word at offset `o`, with the hints before it. -/
def GroupScan.move (g : GroupScan) (a : ScanArg) (o : Nat) (w : IWord) : GroupScan :=
  let mx := ((g.modx.bind fun e => modxOf e.2)).getD {}
  let m : Move := {
    g := (wordG w).toNat, neg := wordN w, dst := (wordDst w).toNat
    src := if wordI w then .imm (immValue (g.lims.map (·.2)) (wordLow w))
      else .port (field (wordLow w).toNat 10 0) (field (wordLow w).toNat 14 11)
    mx := mx }
  let dst := if m.isDrop then [] else [m.dst]
  let twice (xs ys : List Nat) (why : Nat) : List Viol := if xs.any ys.contains then [(o, why)] else []
  { g with
    lims := [], modx := none
    dsts := dst ++ g.dsts, trigs := m.trigUnit.toList ++ g.trigs, pops := m.pops.toList ++ g.pops
    bad := g.bad ++ (a.move m).map (fun c => (o, c))
      ++ (if wordI w then
            match g.lims with
            | [f, _, _] => if f.2.toNat ≤ 1 then [] else [(f.1, 8)]
            | _ => []
          else g.lims.map fun e => (e.1, 7))
      ++ (match g.modx with
        | some e => if m.modxOk then [] else [(e.1, 6)]
        | none => [])
      ++ twice dst g.dsts 10 ++ twice m.trigUnit.toList g.trigs 11 ++ twice m.pops.toList g.pops 12 }

/-- One more word of a group: the limit of R135, and what the word itself gives. -/
def GroupScan.word (g : GroupScan) (a : ScanArg) (o : Nat) (w : IWord) : GroupScan :=
  let limit := match a.half with
    | .x => 4
    | .a => 2
  let g := { g with n := g.n + 1, bad := g.bad ++ if limit ≤ g.n then [(o, 9)] else [] }
  if hintGuard (wordG w) (wordN w) then g.hint o w else g.move a o w

/-- The scan of the words from offset `o` on: the violations. With `cut`, the segment goes on past the last of them, so that an
open group is no violation. -/
def scanWords (a : ScanArg) (cut : Bool) (g : GroupScan) (o : Nat) : List IWord → List Viol
  | [] => if cut then g.bad else g.bad ++ g.orphans
  | w :: ws =>
    let g := g.word a o w
    if wordS w then g.bad ++ g.orphans ++ scanWords a cut {} (o + 4) ws
    else if ws.isEmpty && !cut then g.bad ++ g.orphans ++ [(o, 13)]
    else scanWords a cut g (o + 4) ws

end Sys2Proof.Machine
end

