-- ==== Sys2Proof/Machine/Kenique.lean ====
section
/-! DEFINITION. Kenique portable code: its words (R141), its operations and how their operands map onto native ports (R142, R156,
R200, R224, R294, R305, R324), what makes `knqx` refuse it (R142, R143, R149, R333), and the translation of programs that fit the
registers (R144, R328, R341; log entries 59 and 60). -/

namespace Sys2Proof.Machine

/-! ## Operations (R142, Table 10) -/

/-- What the extension word of an operation holds, and the latch that it supplies (R141). -/
inductive PExt where
  | none
  /-- A word that the operation does not use, which is zero. -/
  | unused
  /-- A third source register. -/
  | reg (latch : Nat)
  /-- A 32-bit immediate. -/
  | imm (latch : Nat)
  deriving DecidableEq, Repr

/-- How the operands of a portable operation map onto native ports: the trigger; the latch that VA supplies; whether VB supplies T;
the extension word; the latch that VD's old value supplies; the result port that VD receives; the one that VD + 1 receives where it
is declared of that type; whether a VD declared p receives bit 0 of `.f`; the profile. -/
structure POp where
  unit : UnitRange
  trig : Nat
  a    : Option Nat
  t    : Bool
  ext  : PExt := .none
  old  : Option Nat := none
  r    : Option Nat := none
  next : Option (Nat × VType) := none
  flag : Bool := false
  prof : Nat := 0
  deriving DecidableEq, Repr

/-- Classes of Table 10: OPN base, class size, unit and profile. -/
def portableClasses : List (Nat × Nat × UnitRange × Nat) :=
  [(0x00, 48, uAl, 0), (0x30, 8, uMd, 0), (0x38, 64, uVx, 1), (0x78, 16, uMx, 2), (0x88, 16, uLb, 3), (0x98, 16, uCl, 4),
   (0xA8, 8, uMs, 0), (0xB0, 24, uCt, 0), (0xC8, 8, uAc, 0), (0xD0, 16, uAg, 0), (0xE0, 8, uAa, 0), (0xE8, 12, uAt, 0),
   (0xF4, 4, uCe, 5)]

def alPortable (i : Nat) (o : POp) : POp :=
  { o with
    a := if (15 ≤ i && i ≤ 18) || 38 ≤ i then none else some 0x100
    ext := if i = 14 || i = 20 || i = 32 then .reg 0x101 else if i = 38 then .imm 0x102 else .none
    r := some uAl.r }

def mdPortable (i : Nat) (o : POp) : POp :=
  { o with a := some 0x180, r := some uMd.r, next := if i = 5 then none else some (uMd.h, .s) }

/-- Entries of `vx` that read b (R202, R211, R213, R218, R222, R223, R207). -/
def vxReadsB (i : Nat) : Bool := (3 ≤ i && i ≤ 5) || [21, 23, 38, 44, 52, 54].contains i

/-- Entries of `vx` that read a. Those that read it for some types only are among them. -/
def vxReadsA (i : Nat) : Bool :=
  i ≤ 7 || (10 ≤ i && i ≤ 24) || [35, 37, 38, 39, 43, 45, 46, 49, 52, 54].contains i

def vxPortable (i : Nat) (o : POp) : POp :=
  { o with
    a := if vxReadsA i then some 0x200 else none
    ext := .imm 0x204
    old := if vxReadsB i then some 0x201 else none
    r := some uVx.r
    next := if i = 43 then some (uVx.h, .v) else none
    flag := (17 ≤ i && i ≤ 20) || i = 50 || i = 51 }

/-- Entries of `mx` that read a and b (R231, R236, R237). -/
def mxReadsAB (i : Nat) : Bool := i = 2 || i = 5 || i = 6

def mxPortable (i : Nat) (o : POp) : POp :=
  { o with
    a := if mxReadsAB i then some 0x300 else none
    ext := if mxReadsAB i then .reg 0x301 else .unused
    old := if i = 6 then some 0x302 else none
    r := if i = 0 || i = 5 || i = 9 then some uMx.r else none
    next := if i = 0 || i = 1 || i = 5 then some (uMx.f, .s) else none }

def lbPortable (i : Nat) (o : POp) : POp :=
  { o with
    a := if [0, 1, 2, 4, 5, 7, 9, 10].contains i then some 0x380 else none
    t := i != 12 && i != 14
    r := some uLb.r }

def clPortable (i : Nat) (o : POp) : POp :=
  { o with
    a := if [1, 2, 4, 5, 6, 7, 12, 14].contains i then some 0x3C0 else none
    t := i != 13
    ext := if i = 1 || i = 2 then .reg 0x3C1 else .none
    r := if i = 11 then none else some uCl.r
    next := some (uCl.f, .s) }

def msPortable (i : Nat) (o : POp) : POp :=
  { o with
    a := if i ≤ 1 then some 0x400 else none
    ext := if i = 1 then .reg 0x402 else .none
    r := if i = 2 then some uMs.r else none }

def ctPortable (i : Nat) (o : POp) : POp :=
  { o with
    a := if i = 3 || i = 5 || i = 13 then some 0x440 else none
    t := i != 2 && i != 6 && i != 8 && i != 10
    r := if i = 9 || i = 11 || i = 12 then some uCt.r else none
    prof := if i = 11 then 2 else 0 }

def acPortable (i : Nat) (o : POp) : POp :=
  { o with a := if i = 3 then some 0x5C0 else none, t := i != 2, r := if i = 5 then some uAc.r else none }

def atPortable (i : Nat) (o : POp) : POp := { o with a := some 0x5E0, t := i != 5, r := some uAt.r }

/-- The operation at index `i` of unit `u`. -/
def portableAt (u : UnitRange) (prof i : Nat) : POp :=
  let o : POp := { unit := u, trig := u.tbase + i, a := none, t := true, prof := prof }
  if u = uAl then alPortable i o
  else if u = uMd then mdPortable i o
  else if u = uVx then vxPortable i o
  else if u = uMx then mxPortable i o
  else if u = uLb then lbPortable i o
  else if u = uCl then clPortable i o
  else if u = uMs then msPortable i o
  else if u = uCt then ctPortable i o
  else if u = uAc then acPortable i o
  else if u = uAg then { o with a := some 0x500 }
  else if u = uAa then { o with a := some 0x580, r := some uAa.r }
  else if u = uAt then atPortable i o
  else { o with a := some 0x600, ext := .reg 0x601, old := some 0x602, r := some 0x90 }

/-- What OPN names: a native trigger, or none where `knqx` refuses it: past the last trigger of its unit, a privileged trigger, or
`ce.try` (R142, R149, R305). -/
def portableOp (opn : Nat) : Option POp :=
  (portableClasses.find? fun e => e.1 ≤ opn && opn < e.1 + e.2.1).bind fun e =>
    let i := opn - e.1
    if e.2.2.1.nTrig ≤ i || isPrivPort (e.2.2.1.tbase + i) || opn = 0xF5 then none else some (portableAt e.2.2.1 e.2.2.2 i)

/-! ## Words (R141, Table 9) -/

/-- A portable instruction. -/
inductive PInstr where
  /-- A native operation, with its extension word where it has one. -/
  | op (o : POp) (vd va vb : Nat) (ext : BitVec 32)
  | move (vd va : Nat)
  | li (vd : Nat) (v : Dword)
  | chsend (chan va : Nat)
  | chrecv (vd chan : Nat)
  deriving DecidableEq, Repr

def pOpn (w : IWord) : Nat := (w.extractLsb' 24 8).toNat
def pVd (w : IWord) : Nat := (w.extractLsb' 16 8).toNat
def pVa (w : IWord) : Nat := (w.extractLsb' 8 8).toNat
def pVb (w : IWord) : Nat := (w.extractLsb' 0 8).toNat

/-- The operation uses VD: as a destination or as a source. -/
def POp.usesVd (o : POp) : Bool := o.r.isSome || o.next.isSome || o.old.isSome

/-- Fields that the operation does not use are zero, a third source fills bits [7:0] of its word, and `vx` has MK = 0 (R141,
R200). -/
def POp.fieldsOk (o : POp) (vd va vb : Nat) (ext : BitVec 32) : Bool :=
  (o.usesVd || vd = 0) && (o.a.isSome || va = 0) && (o.t || vb = 0)
    && (match o.ext with
      | .reg _ => ext.toNat < 256
      | .imm _ => true
      | _ => ext = 0)
    && (o.unit != uVx || (ext.extractLsb' 8 2).toNat = 0)

/-- The instruction at the head of `ws` and the words that it takes; none where it is refused (R141, R142). -/
def decodePortable : List IWord → Option (PInstr × Nat)
  | [] => none
  | w :: ws =>
    let d := pVd w
    let a := pVa w
    let b := pVb w
    match pOpn w with
    | 0xF8 => if b = 0 then some (.move d a, 1) else none
    | 0xF9 => match ws with
      | lo :: hi :: _ => if a = 0 && b = 0 then some (.li d (hi ++ lo), 3) else none
      | _ => none
    | 0xFA => if b = 0 then some (.chsend d a, 1) else none
    | 0xFB => if b = 0 then some (.chrecv d a, 1) else none
    | opn => (portableOp opn).bind fun o => match o.ext, ws with
      | .none, _ => if o.fieldsOk d a b 0 then some (.op o d a b 0, 1) else none
      | _, e :: _ => if o.fieldsOk d a b e then some (.op o d a b e, 2) else none
      | _, [] => none

/-! ## Declarations and types (R143) -/

/-- Declared types so far, by register. -/
abbrev VTypes := NMap (Option VType)

def VTypes.is (m : VTypes) (n : Nat) (t : VType) : Bool := m.get none n = some t

/-- The type of a register that stands for a port of this class. -/
def clsType : Cls → VType
  | .vector => .v
  | .pred => .p
  | _ => .s

/-- The type of a register that a latch or a trigger of a unit takes, or a result port gives. -/
def portType (p : Nat) : VType := match unitOf p with
  | some u => clsType (unitCls u p)
  | none => .s

/-- VD takes the operation's result, under its declared type. -/
def POp.vdOk (o : POp) (m : VTypes) (vd : Nat) : Bool :=
  (o.r.all fun p => m.is vd (portType p) || (o.flag && m.is vd .p)) && o.old.all fun p => m.is vd (portType p)

/-- The registers that an instruction of virtual core `j` uses are declared, with the types that it uses them in; its channels are
declared, with this virtual core at the end it uses (R143; log entry 59). A MOVE joins any two types, as a native move does. -/
def PInstr.ok (i : PInstr) (m : VTypes) (chans : List PChan) (j : Nat) : Bool :=
  let any (n : Nat) : Bool := (m.get none n).isSome
  match i with
  | .move d a => any d && any a
  | .li d _ => m.is d .s
  | .chsend c a => m.is a .s && (chans[c]?).any (·.src = j)
  | .chrecv d c => m.is d .s && (chans[c]?).any (·.dst = j)
  | .op o d a b e =>
    (o.a.all fun p => m.is a (portType p)) && (!o.t || m.is b (portType o.trig))
      && (match o.ext with
        | .reg p => m.is (e.extractLsb' 0 8).toNat (portType p)
        | _ => true)
      && o.vdOk m d

/-- The profile of an instruction (R333, Table 1). -/
def PInstr.prof : PInstr → Nat
  | .op o _ _ _ _ => o.prof
  | _ => 0

/-- A placed instruction: the word that it starts at, and its length in words. -/
structure PPlaced where
  at_ : Nat
  len : Nat
  i   : PInstr
  deriving DecidableEq, Repr

/-- At most `n` words at the head of a list of items, up to the next declaration. -/
def headWords : Nat → List PItem → List IWord
  | n + 1, .word w :: is => w :: headWords n is
  | _, _ => []

/-- A program as read: the next word, the types declared, and the instructions, last first. -/
structure PRead where
  at_   : Nat
  types : VTypes := []
  prog  : List PPlaced := []
  deriving DecidableEq, Repr

/-- The instructions of virtual core `j` from word `r.at_` on; the word of the first translation error (R142, R143, R333). `skip`
counts the extension words to pass. A declaration of a declared register is an error (log entry 59). -/
def readItems (chans : List PChan) (vers : Dword) (j : Nat) (r : PRead) : Nat → List PItem → Except Nat PRead
  | _, [] => .ok r
  | skip, .vreg n t :: is =>
    if skip != 0 || 256 ≤ n || (r.types.get none n).isSome then .error r.at_
    else readItems chans vers j { r with types := r.types.set none n (some t) } 0 is
  | k + 1, .word _ :: is => readItems chans vers j { r with at_ := r.at_ + 1 } k is
  | 0, .word w :: is =>
    match decodePortable (w :: headWords 2 is) with
    | none => .error r.at_
    | some (i, n) =>
      if i.ok r.types chans j && dfield vers (8 * i.prof + 7) (8 * i.prof) != 0 then
        readItems chans vers j { r with at_ := r.at_ + 1, prog := { at_ := r.at_, len := n, i := i } :: r.prog } (n - 1) is
      else .error r.at_

/-- A virtual core as read: its place, its first word, the word past its last, its types and its program in order. -/
structure VProg where
  gx    : Nat
  gy    : Nat
  lo    : Nat
  hi    : Nat
  types : VTypes
  prog  : List PPlaced
  deriving DecidableEq, Repr

/-- The virtual cores from number `j` and word `at_` on. No two stand at one gang position (R143). -/
def readCores (o : PObject) (vers : Dword) (j at_ : Nat) : List VCore → Except Nat (List VProg)
  | [] => .ok []
  | c :: cs =>
    if (o.vcores.take j).any fun d => d.gx = c.gx && d.gy = c.gy then .error at_
    else match readItems o.chans vers j { at_ := at_ } 0 c.items with
      | .error e => .error e
      | .ok r => match readCores o vers (j + 1) r.at_ cs with
        | .error e => .error e
        | .ok ps => .ok ({ gx := c.gx, gy := c.gy, lo := at_, hi := r.at_, types := r.types, prog := r.prog.reverse } :: ps)

/-- The program of a portable object; or the byte offset of the word at which `knqx` refuses it, 0 for a bad channel (R142, R143,
R333). -/
def readPortable (o : PObject) (vers : Dword) : Except Nat (List VProg) :=
  if o.chans.any fun c => o.vcores.length ≤ c.src || o.vcores.length ≤ c.dst || c.depth = 0 || 256 < c.depth then .error 0
  else match readCores o vers 0 0 o.vcores with
    | .error e => .error (4 * e)
    | .ok ps => .ok ps

/-- Every virtual core stands inside a gang of `w` × `h` (R144). -/
def gangHolds (ps : List VProg) (w h : Nat) : Bool := ps.all fun p => p.gx < w && p.gy < h

/-! ## Channels (R328) -/

/-- Entries that the receiver reserves for a channel; the rest lies in receiver scratchpad. -/
def chanReserve (c : PChan) : Nat := min c.depth 64

/-- The channel plan of a receiver: (channel number, entries reserved, entries in scratchpad), where reservations of more than 64 in
all leave their excess in scratchpad too. The channel number is the portable one (log entry 60). -/
def channelPlan (chans : List PChan) (j : Nat) : List (Nat × Nat × Nat) :=
  (chans.zipIdx.foldl (fun (acc : Nat × List (Nat × Nat × Nat)) e =>
    if e.1.dst = j then
      let n := min (chanReserve e.1) (64 - acc.1)
      (acc.1 + n, (e.2, n, e.1.depth - n) :: acc.2)
    else acc) (0, [])).2.reverse

/-! ## Native moves -/

/-- A native move that the translator writes. -/
structure NMove where
  dst  : Nat
  src  : Nat ⊕ Dword
  mod  : Nat := 0
  pred : Nat := 0
  deriving DecidableEq, Repr

def mv (src dst : Nat) : NMove := { dst := dst, src := .inl src }
def mvImm (v : Dword) (dst : Nat) : NMove := { dst := dst, src := .inr v }

/-- LIMM words that an immediate needs (R132). -/
def limmCount (v : Dword) : Nat :=
  if (v.setWidth 15).signExtend 64 = v then 0 else if (v.setWidth 39).signExtend 64 = v then 1 else 3

/-- The payload of LIMM `k`, counted from the last, of a wide immediate (R132). -/
def limmPay (v : Dword) (k : Nat) : BitVec 24 := (v >>> (15 + 24 * k)).setWidth 24

/-- A move's words, the last without S (R126, R131, R132). -/
def NMove.words (m : NMove) : List IWord :=
  let base : IWord := BitVec.ofNat 32 (m.pred * 2 ^ 28 + m.dst * 2 ^ 16)
  match m.src with
  | .inl p => [base ||| BitVec.ofNat 32 (m.mod * 2 ^ 11 + p)]
  | .inr v => ((List.range (limmCount v)).reverse.map fun k => 0x08000000#32 ||| (limmPay v k).setWidth 32)
      ++ [base ||| 0x8000#32 ||| (v.setWidth 15).setWidth 32]

/-- A group's words: S in its last (R135). -/
def groupOf (ms : List NMove) : List IWord :=
  let ws := ms.flatMap NMove.words
  ws.dropLast ++ (ws.getLast?.map fun w => w ||| 0x80000000#32).toList

/-- A one-word NOP group (R134). -/
def nopGroup : IWord := 0x8C000000#32

/-! ## The translation of an instruction (R144, R156, R200, R224, R294, R305, R324, R328) -/

/-- Where the translator puts things: registers by virtual number, and the native offset of the virtual core's first word. -/
structure PPlan where
  types : VTypes
  regs  : NMap Nat
  vc    : VProg
  base  : Nat
  chans : List PChan
  cores : List VProg
  deriving DecidableEq, Repr

def PPlan.reg (k : PPlan) (n : Nat) : Nat := k.regs.get 0 n

/-- Native words of one portable word. -/
def slotWords : Nat := 16

/-- Groups that leave in `al.r` the native offset, plus `d`, of the portable byte offset in port `src`. An offset outside the virtual
core's program, or between words, becomes one past every segment, which a transfer refuses (R169). -/
def PPlan.target (k : PPlan) (src d : Nat) : List (List NMove) :=
  [[mv src 0x100, mvImm (BitVec.ofNat 64 (4 * k.vc.lo)) 0x109],
   [mv 0x17D 0x100, mvImm 62 0x111],
   [mv 0x17D 0x100, mvImm (BitVec.ofNat 64 (k.vc.hi - k.vc.lo)) 0x122],
   [mvImm 6 0x10E],
   [mv 0x17D 0x100, mvImm (BitVec.ofNat 64 (2 ^ 30)) 0x101, mv 0x17F 0x116],
   [mv 0x17D 0x100, mvImm (BitVec.ofNat 64 (k.base + d)) 0x108]]

/-- Moves of results into VD and VD + 1. -/
def PPlan.results (k : PPlan) (o : POp) (vd : Nat) : List (List NMove) :=
  let first := match o.r with
    | some p => if o.flag && k.types.is vd .p then [mv uVx.f (k.reg vd)] else [mv p (k.reg vd)]
    | none => []
  let second := match o.next with
    | some (p, t) => if k.types.is (vd + 1) t then [mv p (k.reg (vd + 1))] else []
    | none => []
  if first.isEmpty && second.isEmpty then [] else [first ++ second]

/-- The groups of an X-half operation. A floating operation of `al` works in FP32 (R156). Every `mx` operation consumes a, b and c
(R226), so the latches that a portable one does not supply are 0. -/
def PPlan.xOp (k : PPlan) (o : POp) (vd va vb : Nat) (e : BitVec 32) : List (List NMove) :=
  let t := if o.t then k.reg vb else 0xC0
  let i := o.trig - o.unit.tbase
  if o.unit = uCt && i ≤ 1 then k.target t 0 ++ [[mv 0x17D o.trig]]
  else if o.unit = uCt && i = 3 then
    k.target (k.reg va) (4 * (slotWords - 1)) ++ [[mv 0x17D 0x440, mv t o.trig]]
  else
    let latches := (o.a.map fun p => mv (k.reg va) p).toList
      ++ (o.old.map fun p => mv (k.reg vd) p).toList
      ++ (match o.ext with
        | .reg p => [mv (k.reg (e.extractLsb' 0 8).toNat) p]
        | .imm p => [mvImm (if o.unit = uVx then e.setWidth 64 else e.signExtend 64) p]
        | _ => [])
      ++ (if o.unit = uMx then (if o.a.isSome then [] else [mvImm 0 0x300, mvImm 0 0x301])
          ++ (if o.old.isSome then [] else [mvImm 0 0x302]) else [])
      ++ if o.unit = uAl && 29 ≤ i && i != 38 then [mvImm 0 0x102] else []
    latches.map (fun m => [m]) ++ [[mv t o.trig]] ++ k.results o vd

/-- The operands of an A-half operation, which its X groups send and its A routine takes: the source register and the latch. -/
def PPlan.aOperands (k : PPlan) (o : POp) (vd va : Nat) (e : BitVec 32) : List (Nat × Nat) :=
  (o.a.map fun p => (k.reg va, p)).toList ++ (o.old.map fun p => (k.reg vd, p)).toList
    ++ match o.ext with
      | .reg p => [(k.reg (e.extractLsb' 0 8).toNat, p)]
      | _ => []

/-- The X groups of an A-half operation whose A routine stands at `rt`: they send its address and its operands, and take its
result, or the token that says that it was issued. -/
def PPlan.aOpX (k : PPlan) (rt : Nat) (o : POp) (vd va vb : Nat) (e : BitVec 32) : List (List NMove) :=
  [[mvImm (BitVec.ofNat 64 rt) 0x8C]] ++ (k.aOperands o vd va e).map (fun x => [mv x.1 0x8C])
    ++ [[mv (if o.t then k.reg vb else 0xC0) 0x8C]]
    ++ [[match o.r with
      | some _ => mv 0xB0 (k.reg vd)
      | none => { dst := 0, src := .inl 0xB0, mod := 2 }]]

/-- The A routine of an A-half operation; the server stands at `srv`. -/
def PPlan.aOpA (k : PPlan) (srv : Nat) (o : POp) (vd va : Nat) (e : BitVec 32) : List (List NMove) :=
  (k.aOperands o vd va e).map (fun x => [mv 0x8C x.2])
    ++ [[mv 0x8C o.trig], [mv (o.r.getD 0xC0) 0xB0], [mvImm (BitVec.ofNat 64 srv) 0x5C8]]

/-- The operation is an operation of the A half. -/
def POp.isA (o : POp) : Bool := o.unit.half = .a

/-- The member that receives channel `c`, in the form of `ms.a` (R324, Table 9). -/
def PPlan.sendControl (k : PPlan) (c : Nat) : Dword :=
  let d := (k.chans[c]?).bind fun x => k.cores[x.dst]?
  match d with
  | some p => pack [(0, p.gx), (6, p.gy), (12, c)]
  | none => 0

/-- The X groups of an instruction; `rt` is where its A routine would stand. -/
def PPlan.xGroups (k : PPlan) (rt : Nat) : PInstr → List (List NMove)
  | .move d a => [[mv (k.reg a) (k.reg d)]]
  | .li d v => [[mvImm v (k.reg d)]]
  | .chsend c a => [[mvImm (k.sendControl c) 0x400], [mv (k.reg a) 0x408]]
  | .chrecv d c => [[mvImm (BitVec.ofNat 64 c) 0x401], [mv 0x43C (k.reg d)]]
  | .op o d a b e => if o.isA then k.aOpX rt o d a b e else k.xOp o d a b e

/-- The A groups of an instruction. -/
def PPlan.aGroups (k : PPlan) (srv : Nat) : PInstr → List (List NMove)
  | .op o d a _ e => if o.isA then k.aOpA srv o d a e else []
  | _ => []

/-- `ws` filled to `n` words by NOP groups before them. -/
def padded (n : Nat) (ws : List IWord) : List IWord := List.replicate (n - ws.length) nopGroup ++ ws

/-! ## The translation of a program (R144, R341) -/

/-- Registers of a type, in order of their numbers. -/
def VTypes.ofType (m : VTypes) (t : VType) : List Nat := m.filterMap fun e => if e.2 = some t then some e.1 else none

/-- The native registers: s1 on, v0 on and p1 on, which the task starts with at 0 (R66, R143). -/
def registersOf (m : VTypes) : NMap Nat :=
  let place (first : Nat) (m' : NMap Nat) (ns : List Nat) : NMap Nat :=
    ns.zipIdx.foldl (fun a e => a.set 0 e.1 (first + e.2)) m'
  place 0x81 (place 0x40 (place 1 [] (m.ofType .s)) (m.ofType .v)) (m.ofType .p)

/-- The program can be laid out by this translator: its registers fit, no channel leaves entries in scratchpad, and no instruction
transfers control of the A stream (log entry 60). -/
def simpleProgram (chans : List PChan) (ps : List VProg) : Bool :=
  ps.zipIdx.all fun e =>
    (e.1.types.ofType .s).length ≤ 63 && (e.1.types.ofType .v).length ≤ 64 && (e.1.types.ofType .p).length ≤ 7
      && ((channelPlan chans e.2).all fun c => c.2.2 = 0)
      && e.1.prog.all fun x => match x.i with
        | .op o _ _ _ _ => o.unit != uAc || 4 ≤ o.trig - o.unit.tbase
        | _ => true

/-- Feature bits that an instruction needs (R337, Table 3). -/
def PInstr.features : PInstr → List Nat
  | .op o _ _ _ _ => o.prof :: (if o.trig = 0x453 then [6] else if o.trig = 0x310 || o.trig = 0x30C then [7] else [])
  | _ => [0]

/-- Groups before a virtual core's program: p1 is given back at 0, the entries of its channels are reserved, and the gang's barrier
comes before the first channel move (R328). -/
def entryGroups (chans : List PChan) (j : Nat) : List (List NMove) :=
  [[mvImm 0 0x81]] ++ (channelPlan chans j).map (fun c => [mvImm (pack [(0, c.1), (8, c.2.1)]) 0x40B]) ++ [[mvImm 2 0x44F]]

/-- The words of a list of groups. -/
def groupWords (gs : List (List NMove)) : List IWord := gs.flatMap groupOf

/-- The entry of every member: it goes to the stub of its virtual core by its gang position; a member with none arrives at the
barrier and exits. `stubs` are the native offsets. -/
def dispatchWords (ps : List VProg) (stubs : List Nat) : List IWord :=
  groupWords [[mv 0xCB 0x100, mvImm 6 0x10E], [mv 0x17D 0x100, mv 0xCA 0x10B], [mv 0x17D 0x100]]
    ++ (ps.zip stubs).flatMap (fun e =>
      groupWords [[mvImm (BitVec.ofNat 64 (e.1.gx + 64 * e.1.gy)) 0x11E], [mv 0x17F 0x81]]
        ++ padded 2 (groupOf [{ dst := 0x448, src := .inr (BitVec.ofNat 64 e.2), pred := 1 }]))
    ++ groupWords [[mvImm 2 0x44F], [mv 0xC0 0x452]]

/-- Words of a stub: room for 64 channels, two words each, and its three other groups. -/
def stubWords : Nat := 132

/-- Words of a virtual core's body: a slot for each portable word, and the jump that running past its end comes to (R169). -/
def VProg.bodyWords (p : VProg) : Nat := slotWords * (p.hi - p.lo) + 1

/-- Native word at which each virtual core's stub starts, from `w` on. -/
def stubStarts (w : Nat) : List VProg → List Nat
  | [] => []
  | p :: ps => w :: stubStarts (w + stubWords + p.bodyWords) ps

/-- A routines of a program, with the word each starts at and the place of its instruction: from A word `w` on. -/
def aRoutines (k : PPlan) (srv : Nat) (w : Nat) : List PPlaced → List (Nat × Nat × List IWord)
  | [] => []
  | x :: xs =>
    let ws := groupWords (k.aGroups srv x.i)
    if ws.isEmpty then aRoutines k srv w xs else (x.at_, w, ws) :: aRoutines k srv (w + ws.length) xs

/-- The body of a virtual core: each instruction's groups end the slot of its first word, and NOPs fill the slots of its extension
words. -/
def PPlan.body (k : PPlan) (rts : List (Nat × Nat × List IWord)) : List IWord :=
  k.vc.prog.flatMap (fun x =>
    let rt := match rts.find? fun r => r.1 = x.at_ with
      | some r => 4 * r.2.1
      | none => 0
    padded slotWords (groupWords (k.xGroups rt x.i)) ++ List.replicate (slotWords * (x.len - 1)) nopGroup)
    ++ groupOf [mvImm (BitVec.allOnes 64) 0x448]

/-- The image of a program that the translator lays out itself, on a device of features `eff` and counts `counts` (R341): X code from
offset 0, where every member enters, then the A server and its routines. The A stream takes an address from `xa` and goes there.
None for a program that it leaves to the firmware (log entry 60). -/
def translateProgram (chans : List PChan) (ps : List VProg) (eff counts : Dword) : Option Translated :=
  let instrs := ps.flatMap fun p => p.prog.map (·.i)
  if !simpleProgram chans ps || instrs.any fun i => i.features.any fun f => !eff.getLsbD f then none
  else
    let head := (dispatchWords ps (ps.map fun _ => 0)).length
    let stubs := stubStarts head ps
    let xLen := ps.foldl (fun n p => n + stubWords + p.bodyWords) head
    let srv := 4 * xLen
    let plans : List PPlan := (ps.zip stubs).map fun e =>
      { types := e.1.types, regs := registersOf e.1.types, vc := e.1, base := 4 * (e.2 + stubWords), chans := chans, cores := ps }
    let parts := (plans.zipIdx.foldl (fun (acc : Nat × List IWord × List IWord) e =>
      let rts := aRoutines e.1 srv acc.1 e.1.vc.prog
      let aws := rts.flatMap (·.2.2)
      (acc.1 + aws.length, acc.2.1 ++ padded stubWords (groupWords (entryGroups chans e.2)) ++ e.1.body rts,
        acc.2.2 ++ aws)) (xLen + 1, [], []))
    let count (t : VType) : Nat := (ps.map fun p => (p.types.ofType t).length).foldl max 0
    let memory := instrs.any fun i => match i with
      | .op o _ _ _ _ => o.unit = uMx || o.unit = uAg || o.unit = uCe || o.trig = 0x409
      | _ => false
    let words := dispatchWords ps (stubs.map (4 * ·)) ++ parts.2.1 ++ groupOf [mv 0x8C 0x5C8] ++ parts.2.2
    some {
      words := words, xLen := xLen, xEnt := 0, aEnt := srv
      nv := (count .v + 15) / 16 * 16, ns := 1 + count .s, nd := 1
      nslot := if instrs.any fun i => i.prof = 2 then dfield counts 39 35 else 0
      banks := if memory then 0xFFFFF else 0, bufs := [], cores := ps.map fun p => (p.gx, p.gy) }

/-- Feature bits that a native word needs (R337, Table 3). -/
def wordFeatures (w : IWord) : List Nat :=
  if hintGuard (wordG w) (wordN w) then []
  else
    let d := (wordDst w).toNat
    (portProfile d).toList ++ (if d = 0x453 then [6] else if d = 0x310 || d = 0x30C then [7] else [])

/-- The image uses no feature outside EFF (R341). -/
def Translated.within (t : Translated) (eff : Dword) : Bool := t.words.all fun w => (wordFeatures w).all eff.getLsbD

/-- A translated image passes the scan of its two segments (R137, R341), under its own vector need (R23). -/
def Translated.scanned (t : Translated) (vers : Dword) : Bool :=
  let arg (h : Half) : ScanArg := { half := h, priv := 0, need := t.nv, prof := declaredProfiles vers }
  (scanWords (arg .x) false {} 0 (t.words.take t.xLen) ++ scanWords (arg .a) false {} 0 (t.words.drop t.xLen)).isEmpty

/-- What the translation of an object comes to (R141 to R144, R341). -/
inductive Xlation where
  | image (t : Translated)
  /-- `knqx` refuses the word at this byte offset. -/
  | refused (off : Nat)
  /-- The node fails with RESOURCES. -/
  | noFit
  /-- The image that the translator gave does not pass the scan. -/
  | unscanned
  deriving DecidableEq, Repr

/-- The translation of object `o` for a gang of `w` × `h`. Where the translator here lays out no image, `img` is the one that the
firmware gives (log entry 60). -/
def translateObject (o : PObject) (vers eff counts : Dword) (w h : Nat) (img : Option Translated) : Xlation :=
  match readPortable o vers with
  | .error e => .refused e
  | .ok ps =>
    if !gangHolds ps w h then .noFit
    else match (translateProgram o.chans ps eff counts).orElse fun _ => img with
      | none => .noFit
      | some t =>
        let t : Translated := { t with
          cores := ps.map fun p => (p.gx, p.gy), gw := o.gw, gh := o.gh, bufs := o.bufs, lsps := o.lsps }
        if !Translated.scanned t vers then .unscanned else if Translated.within t eff then .image t else .noFit

end Sys2Proof.Machine
end

