-- ==== Sys2Proof/Machine/Place.lean ====
section
/-! DEFINITION. Placement of TASK nodes: the two-phase reservation with its timers (R68), escalation (R70), selection again
after a change of the feature vector (R340), and translation (R341 to R343). -/

namespace Sys2Proof.Machine

/-! ## Candidates (R68) -/

/-- The cores of a gang's rectangle. -/
def Gang.cores (g : Gang) : List Nat := rectCores g.ox g.oy g.gw g.gh

/-- A core runs nothing: no member of a live gang, finished or not, is on it (R68, R332). -/
def Core.idle (k : Core) : Bool := k.task.isNone && k.finished.isNone

/-- Origins in the order in which they are visited: from the cursor on, then from the partition's origin (R68). -/
def Part.visit (p : Part) (w h : Nat) : List (Nat × Nat) :=
  let os := p.originsOf w h
  let past (o : Nat × Nat) : Bool := p.curY < o.2 || (p.curY = o.2 && p.curX ≤ o.1)
  os.filter past ++ os.filter (!past ·)

/-- No core of the rectangle holds an evicted context in a bank that the node names (R68). -/
def State.banksFree (s : State) (g : Gang) (banks : BitVec 20) : Bool :=
  g.cores.all fun c => ((s.core c).heldBanks &&& banks) = 0

/-- The earliest rectangle that satisfies `ok`, those with free banks before all others (R68). -/
def State.firstRect (s : State) (p : Part) (w h : Nat) (banks : BitVec 20) (ok : Gang → Bool) : Option Gang :=
  let gs := ((p.visit w h).map fun o => ({ ox := o.1, oy := o.2, gw := w, gh := h } : Gang)).filter ok
  (gs.find? fun g => s.banksFree g banks).orElse fun _ => gs.head?

/-- The rectangles that the dealer probes for a node: one; for a duplex node two that share no cluster (R360); for a
tiebreak one that shares none with either partner (R362). -/
def State.candidates (s : State) (p : Nat) (nd : Node) : Option (List Gang) :=
  let q := s.part p
  let w := recGw nd.record
  let h := recGh nd.record
  let banks := (nd.img.map (·.banks)).getD 0
  let all : List Gang := (q.originsOf w h).map fun o => { ox := o.1, oy := o.2, gw := w, gh := h }
  if nd.tiebreak then (s.firstRect q w h banks fun g => nd.gangs.all (clusterApart g)).map ([·])
  else if recDuplex nd.record then
    (s.firstRect q w h banks fun g => all.any (clusterApart g)).bind fun a =>
      (s.firstRect q w h banks (clusterApart a)).map fun b => [a, b]
  else (s.firstRect q w h banks fun _ => true).map ([·])

/-- The node's context lies in a save area of core `c`. -/
def Core.areaOf (k : Core) (p i n : Nat) : Option (Nat × Saved) :=
  (k.areas.filterMap fun e => e.2.map fun v => (e.1, v)).find? fun e =>
    e.2.task.part = p && e.2.task.inst = i && e.2.task.node = n

/-- The context in area `a` has ended: the area is free again, and so are the slots that the context held in place (R80,
R99). -/
def Core.dropArea (k : Core) (a : Nat) : Core :=
  { ((List.range 16).foldl (fun k i => if (k.slot i).owner = .held a then k.setSlot i {} else k) k) with
    areas := k.areas.set none a none }

/-- The evicted contexts of a node have ended. -/
def State.dropAreas (s : State) (p i n : Nat) : State :=
  ((s.node p i n).oldPlaces.foldl (fun s e => s.updCore e.1 (·.dropArea e.2)) s).updNode p i n fun x =>
    { x with oldPlaces := [] }

/-- The lowest free save area (R80). -/
def Core.freeArea (k : Core) : Option Nat := (List.range 4).find? fun a => (k.areas.get none a).isNone

/-- Core `c` grants a probe for the node (R68). DESIGN CHOICE (log entry 50): a core that the debug port has halted refuses. -/
def State.grants (s : State) (c p i n : Nat) (g : Img) : Bool :=
  let k := s.core c
  k.idle && !k.halted && k.resv = .idle && (k.hold = none || k.hold = some (p, i, n)) && k.meets g
    && (k.freeArea.isSome || (k.areaOf p i n).isSome)

/-! ## Failure, back-off and escalation -/

/-- The cursor after a failure at `g` (R68). -/
def Part.advance (p : Part) (g : Gang) : Part :=
  if g.ox + g.gw < p.x0 + p.w then { p with curX := g.ox + g.gw, curY := g.oy }
  else if g.oy + 1 < p.y0 + p.h then { p with curX := p.x0, curY := g.oy + 1 }
  else { p with curX := p.x0, curY := p.y0 }

/-- Back-off after failure `n` at origin (x, y) (R68, Table 4). -/
def backoffOf (n x y : Nat) : Nat := min (64 * 2 ^ (n - 1)) 16384 + (5 * x + 3 * y) % 64

/-- Busy cores of a rectangle (R70). -/
def State.busy (s : State) (g : Gang) : Nat := g.cores.countP fun c => !(s.core c).idle

/-- The list of rectangles with the fewest busy cores, the first in raster order of equals (R70). -/
def State.leastBusy (s : State) (gs : List (List Gang)) : Option (List Gang) :=
  let n (g : List Gang) : Nat := (g.map s.busy).foldl (· + ·) 0
  gs.foldl (fun b g => match b with
    | some f => if n g < n f then some g else b
    | none => some g) none

/-- The regions among which an escalated node's is chosen (R70): rectangles whose cores meet its needs. -/
def State.regionsFor (s : State) (p : Nat) (nd : Node) : List (List Gang) :=
  let q := s.part p
  let fits (g : Gang) : Bool := match nd.img with
    | some i => g.cores.all fun c => (s.core c).meets i
    | none => false
  let all := ((q.originsOf (recGw nd.record) (recGh nd.record)).map fun o =>
    ({ ox := o.1, oy := o.2, gw := recGw nd.record, gh := recGh nd.record } : Gang)).filter fits
  if nd.tiebreak then (all.filter fun g => (nd.gangs.take 2).all (clusterApart g)).map ([·])
  else if recDuplex nd.record then all.flatMap fun a => (all.filter (clusterApart a)).map fun b => [a, b]
  else all.map ([·])

/-- A node is escalated: its region is chosen and held (R70). -/
def State.escalate (s : State) (p i n : Nat) : State :=
  let nd := s.node p i n
  match s.leastBusy (s.regionsFor p nd) with
  | none => s
  | some gs =>
    let s := (s.updPart p fun q => { q with escalated := some (i, n) }).updNode p i n fun x =>
      { x with escalated := true, backoff := none, gangs := if x.tiebreak then x.gangs ++ gs else gs }
    gs.foldl (fun s g => g.cores.foldl (fun s c => s.updCore c fun k => { k with hold := some (p, i, n) }) s) s

/-- The node that comes first in the order among those that have failed eight times and are not escalated (R70). -/
def State.waitingForRegion (s : State) (p : Nat) : Option (Nat × Nat) :=
  let all := (s.part p).insts.flatMap fun e => match e.2 with
    | some x => if x.done then [] else x.nodes.filterMap fun m =>
        if 8 ≤ m.2.failures then (s.rank p e.1 m.1 { m.2 with backoff := none }).map fun r => (r, e.1, m.1) else none
    | none => []
  (all.foldl (fun b e => match b with
    | some f => if lexLt e.1 f.1 then some e else b
    | none => some e) none).map (·.2)

/-- A failed attempt is counted, and with no node escalated the first that waits for a region is (R68, R70). DESIGN CHOICE (log
entry 50): the first rectangle of a duplex attempt gives the jitter and moves the cursor. -/
def State.failAttempt (s : State) (p : Nat) (a : Attempt) : State :=
  let g := a.gangs.headD {}
  let s := s.updPart p fun q => { (q.advance g) with attempt := none }
  let f := (s.node p a.inst a.node).failures + 1
  let s := s.updNode p a.inst a.node fun x => { x with failures := f, backoff := some (s.now + backoffOf f g.ox g.oy) }
  match (s.part p).escalated, s.waitingForRegion p with
  | none, some (i, n) => s.escalate p i n
  | _, _ => s

/-! ## The reservation (R68) -/

/-- The node takes its place on these rectangles, whose cores stay reserved until they start. -/
def State.settlePlace (s : State) (p i n : Nat) (gs : List Gang) : State :=
  s.updNode p i n fun x =>
    if x.tiebreak then { x with gangs := x.gangs.take 2 ++ gs }
    else { x with phase := .starting, gangs := gs }

/-- The selection that the node rests on is to be made again: the DFV or FEATMASK has changed since, and no member has issued
(R340). -/
def State.staleSel (s : State) (p : Nat) (nd : Node) : Bool :=
  nd.selKey != (s.part p).selKey && !nd.issued && nd.phase != .running

/-- The node is selected again, with one value of FEATMASK throughout (R338, R340). -/
def State.reselect (s : State) (p i n : Nat) : State :=
  let (s, js) := s.selectNode p i n
  s.settle p jobFuel js

/-- No rectangle can ever hold the node with image `g`: an evicted node, or one whose image is a translation, fails; a native image
gives way to the portable code (R69, R339 to R341). -/
def State.neverFits (s : State) (p i n : Nat) (g : Img) : State :=
  let nd := s.node p i n
  if nd.issued || !g.words.isEmpty then (s.dropAreas p i n).endNode p i n cResources
  else
    let (s, js) := s.takeSel p i n nd.record true
    s.settle p jobFuel js

/-- PLACEMENT_ATTEMPT: the next node is a TASK; it is selected again where that is due (R340), and its candidate is
probed. -/
def State.attempt (s : State) (p : Nat) : State :=
  if (s.part p).attempt.isSome then s
  else match s.nextOfKind p 0 with
    | none => s
    | some (i, n) =>
      let nd := s.node p i n
      if s.staleSel p nd then s.reselect p i n
      else match nd.img with
        | none => s
        | some g =>
          if !nd.tiebreak && !s.placeable p nd.record g then s.neverFits p i n g
          else match s.candidates p nd with
            | none => s
            | some gs =>
              s.updPart p fun q => { q with attempt := some {
                inst := i, node := n, gangs := gs, cores := (gs.flatMap (·.cores)).map fun c => (c, Reply.probed) } }

/-- A core's reply in the attempt becomes `r`. -/
def Attempt.setReply (a : Attempt) (c : Nat) (r : Reply) : Attempt :=
  { a with cores := a.cores.map fun e => if e.1 = c then (c, r) else e }

def State.setReply (s : State) (p c : Nat) (r : Reply) : State :=
  s.updPart p fun q => { q with attempt := q.attempt.map (·.setReply c r) }

/-- RESERVE_PROBE (R68). -/
def State.probe (s : State) (p c : Nat) : State :=
  match (s.part p).attempt with
  | none => s
  | some a =>
    if !a.cores.contains (c, Reply.probed) then s
    else match (s.node p a.inst a.node).img with
      | none => s.setReply p c .refused
      | some g =>
        if s.grants c p a.inst a.node g then
          (s.updCore c fun k => { k with resv := .granted p s.now }).setReply p c .granted
        else s.setReply p c .refused

/-- PROBE_RESPONSE: with every reply in, the dealer commits, or the attempt fails (R68). -/
def State.probed (s : State) (p : Nat) : State :=
  match (s.part p).attempt with
  | none => s
  | some a =>
    if a.commit || a.cores.any (·.2 = .probed) then s
    else if a.cores.all (·.2 = .granted) then
      s.updPart p fun q => { q with attempt := some { a with commit := true, cores := a.cores.map fun e => (e.1, Reply.asked) } }
    else s.failAttempt p a

/-- RESERVE_COMMIT: a grant that is still live is committed (R68, Table 4). -/
def State.commit (s : State) (p c : Nat) : State :=
  match (s.part p).attempt with
  | none => s
  | some a =>
    if !a.cores.contains (c, Reply.asked) then s
    else match (s.core c).resv with
      | .granted q since =>
        if q = p && s.now ≤ since + 256 then
          (s.updCore c fun k => { k with resv := .committed p }).setReply p c .acked
        else s.setReply p c .denied
      | _ => s.setReply p c .denied

/-- COMMIT_RESPONSE: with every reply in, the gang starts, or the attempt fails (R68). -/
def State.committed (s : State) (p : Nat) : State :=
  match (s.part p).attempt with
  | none => s
  | some a =>
    if !a.commit || a.cores.any (·.2 = .asked) then s
    else if a.cores.all (·.2 = .acked) then
      (s.updPart p fun q => { q with attempt := none }).settlePlace p a.inst a.node a.gangs
    else s.failAttempt p a

/-- A reservation of core `c` is still wanted: by the attempt under way, or by a gang that is to start. -/
def State.wanted (s : State) (p c : Nat) : Bool :=
  (match (s.part p).attempt with
    | some a => a.cores.any fun e => e.1 = c && e.2 != .refused
    | none => false)
  || (s.part p).insts.any fun e => match e.2 with
    | some x => x.nodes.any fun m => (m.2.phase = .starting || m.2.tiebreak) && m.2.gangs.any fun g => g.cores.contains c
    | none => false

/-- GRANT_RELEASE: a grant or commit of an attempt that failed is released (R68). -/
def State.releaseGrant (s : State) (c : Nat) : State :=
  match (s.core c).resv with
  | .idle => s
  | .granted p _ => if s.wanted p c then s else s.updCore c fun k => { k with resv := .idle }
  | .committed p => if s.wanted p c then s else s.updCore c fun k => { k with resv := .idle }

/-- GRANT_LAPSE: a grant that was not committed lapses after 256 mesh cycles (R68, Table 4). -/
def State.lapse (s : State) (c : Nat) : State :=
  match (s.core c).resv with
  | .granted _ since => if since + 256 ≤ s.now then s.updCore c fun k => { k with resv := .idle } else s
  | _ => s

/-- BACKOFF_EXPIRE (R68). -/
def State.backoffOver (s : State) (p i n : Nat) : State :=
  match (s.node p i n).backoff with
  | some t => if t ≤ s.now then s.updNode p i n fun x => { x with backoff := none } else s
  | none => s

/-- Every core of the region meets the needs of the node's image (R70). -/
def State.regionMeets (s : State) (nd : Node) (cs : List Nat) : Bool :=
  match nd.img with
  | some g => cs.all fun c => (s.core c).meets g
  | none => false

/-- The region held for a node serves it no longer, and it waits for another: its image or a core of the region has changed. -/
def State.loseRegion (s : State) (p i n : Nat) : State :=
  (s.freeRegion p i n).updNode p i n fun x => { x with escalated := false, gangs := if x.tiebreak then x.gangs.take 2 else x.gangs }

/-- ESCALATED_PLACEMENT: the escalated node takes its region once every held core is idle and has a save area for it (R68,
R70; log entry 50); with no node escalated, the next that waits is (R70). It is selected again first where that is due (R340).
DESIGN CHOICE (log entry 50): a held core that the debug port has halted is waited for, as an ordinary probe of it is refused. -/
def State.placeEscalated (s : State) (p : Nat) : State :=
  match (s.part p).escalated with
  | none => match s.waitingForRegion p with
    | some (i, n) => if (s.part p).attempt.any fun a => a.inst = i && a.node = n then s else s.escalate p i n
    | none => s
  | some (i, n) =>
    let nd := s.node p i n
    let gs := if nd.tiebreak then nd.gangs.drop 2 else nd.gangs
    let cs := gs.flatMap (·.cores)
    if s.staleSel p nd then (s.loseRegion p i n).reselect p i n
    else if !s.regionMeets nd cs then s.loseRegion p i n
    else if cs.all fun c => (s.core c).idle && !(s.core c).halted && (s.core c).resv = .idle
        && ((s.core c).freeArea.isSome || ((s.core c).areaOf p i n).isSome) then
      let s := cs.foldl (fun s c => s.updCore c fun k => { k with hold := none, resv := .committed p }) s
      (s.updPart p fun q => { q with escalated := none }).settlePlace p i n gs
    else s

/-! ## Translation (R341 to R343) -/

/-- The translated image fits the record's gang and the partition: the counts of the DFV, the instruction store and some rectangle
(R144, R341). -/
def State.translationFits (s : State) (p : Nat) (r : Vec) (t : Translated) : Bool :=
  let d := (s.part p).dfv2
  t.words.length ≤ 32768 && (t.cores.all fun c => c.1 < recGw r && c.2 < recGh r)
    && t.nv ≤ dfield d 6 0 && t.ns ≤ dfield d 22 16 && t.nd ≤ dfield d 29 23 && t.nslot ≤ dfield d 39 35
    && s.placeable p r (translatedImg t) && !(s.part p).overlapsHandler (translatedImg t)

/-- The node takes a translated image, where it fits (R341), unless its declaration block breaks R335 (R336). -/
def State.takeTranslation (s : State) (p i n : Nat) (key : Nat) (t : Translated) : State :=
  if !declFits (s.part p) (s.node p i n).record (Translated.decl t) then s.endNode p i n cFormat
  else if s.translationFits p (s.node p i n).record t then
    s.updNode p i n fun x => { x with img := some (translatedImg t), selKey := key, phase := .ready }
  else s.endNode p i n cResources

/-- TRANSLATE_PORTABLE: the node that waits takes the cached image of its key, or the one that `knqx` makes of the portable code and
the cache then keeps (R336, R341 to R343). Where the DFV or FEATMASK has changed since its selection, it is selected again instead, native
images among the rest (R338, R340). Refused code fails it with FORMAT, and the offset of the refused word is reported (R142).
`img` is what the firmware makes of a program that the translator here does not lay out (log entry 60). -/
def State.translateNode (s : State) (p i n : Nat) (img : Option Translated) : State :=
  let nd := s.node p i n
  if nd.phase != .translating then s
  else if nd.selKey != (s.part p).selKey then s.reselect p i n
  else
    let key := (s.part p).selKey
    match s.select p nd.record true with
    | (s, .translate va len vers) =>
      match s.devRead p (BitVec.ofNat 64 va) len with
      | (s, .error _) => s.endNode p i n cFormat
      | (s, .ok code) =>
        let q := s.part p
        let k := q.xlKey code
        match (q.xcache.find? fun e => e.1 = k).map (·.2) with
        | some t => s.takeTranslation p i n key t
        | none => match Config.portableObject code with
          | none => s.endNode p i n cFormat
          | some o =>
            match translateObject o vers q.eff q.dfv2 (recGw nd.record) (recGh nd.record) img with
            | .image t => (s.updPart p fun q => { q with xcache := (k, t) :: q.xcache }).takeTranslation p i n key t
            | .refused off => (s.updPart p fun q => { q with xlErrors := q.xlErrors ++ [(i, n, off)] }).endNode p i n cFormat
            | .noFit => s.endNode p i n cResources
            | .unscanned => s.endNode p i n cFormat
    | (s, .fail c) => s.endNode p i n c
    | (s, .image _) => s

/-- TRANSLATION_CACHE_INVALIDATE: the entry of a key is dropped (R342). -/
def State.dropTranslation (s : State) (p : Nat) (key : BitVec 384) : State :=
  s.updPart p fun q => { q with xcache := q.xcache.filter (·.1 != key) }

/-! ## The rows -/

def execPlacementAttempt (part : Nat) (s : State) : Host.Outcome State Fault Refusal := .next (s.whole (·.attempt part))
def execReserveProbe (part core : Nat) (s : State) : Host.Outcome State Fault Refusal := .next (s.probe part core)
def execProbeResponse (part : Nat) (s : State) : Host.Outcome State Fault Refusal := .next (s.probed part)
def execReserveCommit (part core : Nat) (s : State) : Host.Outcome State Fault Refusal := .next (s.commit part core)
def execCommitResponse (part : Nat) (s : State) : Host.Outcome State Fault Refusal := .next (s.committed part)
def execGrantRelease (core : Nat) (s : State) : Host.Outcome State Fault Refusal := .next (s.releaseGrant core)
def execGrantLapse (core : Nat) (s : State) : Host.Outcome State Fault Refusal := .next (s.lapse core)
def execBackoffExpire (part inst node : Nat) (s : State) : Host.Outcome State Fault Refusal :=
  .next (s.backoffOver part inst node)
def execEscalatedPlacement (part : Nat) (s : State) : Host.Outcome State Fault Refusal := .next (s.placeEscalated part)
def execTranslatePortable (part inst node : Nat) (img : Option Translated) (s : State) : Host.Outcome State Fault Refusal :=
  .next (s.whole (·.translateNode part inst node img))
def execTranslationCacheInvalidate (part : Nat) (key : BitVec 384) (s : State) : Host.Outcome State Fault Refusal :=
  .next (s.dropTranslation part key)

end Sys2Proof.Machine
end

