-- ==== Sys2Proof/Machine/Members.lean ====
section
/-! DEFINITION. What happens to the members of a placed gang: start and loading (R66, R72, R81), release and finish (R74,
R177), eviction (R76 to R80), trap entry (R180), and the end of a task (R386). -/

namespace Sys2Proof.Machine

/-! ## Loading (R72) -/

/-- `f 0` to `f (n - 1)` at keys `base` on, in place of what was there. -/
def NMap.splice {α : Type} [DecidableEq α] (d : α) (m : NMap α) (base n : Nat) (f : Nat → α) : NMap α :=
  m.filter (·.1 < base) ++ NMap.ofFn d base n f ++ m.filter (base + n ≤ ·.1)

/-- Where code lies, whatever else its pages permit. -/
def State.codePlaces (s : State) (p : Nat) : List (Dword × Nat) → State × Option (List DevPart)
  | [] => (s, some [])
  | (a, n) :: ps =>
    match s.walk (s.part p) (a.toNat % 2 ^ 48) a with
    | (s, .error _) => (s, none)
    | (s, .ok (e, big)) => match codePlaces s p ps with
      | (s, none) => (s, none)
      | (s, some r) => (s, some ((leafPa e (a.toNat % pageSize big), n, a, keyId p (dfield e 10 9)) :: r))

/-- `n` bytes of code at virtual address `va`: the cluster controller reads pages that were scanned (R137). -/
def State.codeBytes (s : State) (p va n : Nat) : State × Option (List Byte) :=
  match s.codePlaces p (partsOf (BitVec.ofNat 64 va) n) with
  | (s, none) => (s, none)
  | (s, some ps) => match s.devBytes ps with
    | (s, .ok bs) => (s, some bs)
    | (s, .error _) => (s, none)

/-- Little-endian words of a list of bytes (R126). -/
def wordsOf (n : Nat) (bs : List Byte) : List IWord :=
  (List.range (n / 4)).map fun i => BitVec.ofNat 32 (ofBytes ((bs.drop (4 * i)).take 4))

/-- The words that the cluster controllers load for a node: (offset in words, words), the image first and then the
handlers; none where they cannot be read. -/
def State.loadList (s : State) (p : Nat) (g : Img) : State × Option (List (Nat × List IWord)) :=
  let first : State × Option (List IWord) :=
    if g.words.isEmpty then
      match s.codeBytes p g.va g.len with
      | (s, some bs) => (s, some (wordsOf g.len bs))
      | (s, none) => (s, none)
    else (s, some g.words)
  match first with
  | (s, none) => (s, none)
  | (s, some ws) =>
    ((s.part p).handlersOf g).foldl (fun (acc : State × Option (List (Nat × List IWord))) h =>
      match acc with
      | (s, none) => (s, none)
      | (s, some l) => match s.codeBytes p h.va h.len with
        | (s, some bs) => (s, some (l ++ [(h.place / 4, wordsOf h.len bs)]))
        | (s, none) => (s, none)) (s, some [(0, ws)])

/-- The words written into a core's instruction store. -/
def Core.load (k : Core) (l : List (Nat × List IWord)) : Core :=
  { k with istore := l.foldl (fun m e => NMap.splice 0 m e.1 e.2.length fun i => e.2.getD i 0) k.istore }

/-! ## Banks and slots of evicted contexts (R79) -/

/-- Bit `b` of a bank or slot mask. -/
def maskHas (m b : Nat) : Bool := m / 2 ^ b % 2 = 1

/-- The contents of the banks of mask `m`, by offset. -/
def bankCells {α : Type} (unit m : Nat) (x : NMap α) : NMap α := x.filter fun e => maskHas m (e.1 / unit)

/-- The entries of `x` over those of `m`. -/
def NMap.over {α : Type} [DecidableEq α] (d : α) (m x : NMap α) : NMap α := x.foldr (fun e m => m.set d e.1 e.2) m

/-- Banks `m` of the context in area `a` are saved to it (R79, Table 8). -/
def Core.saveBanks (k : Core) (a m : Nat) : Core :=
  match k.areas.get none a with
  | none => k
  | some v =>
    let n := m &&& (v.banks &&& ~~~v.bankSaved).toNat
    let v' : Saved := { v with
      bankSaved := v.bankSaved ||| BitVec.ofNat 20 n
      spad := (bankCells 0x8000 n k.spad).foldl (fun m e => m.set 0 e.1 e.2) v.spad
      stags := (bankCells 0x200 n k.stags).foldl (fun m e => m.set 0 e.1 e.2) v.stags }
    { k with areas := k.areas.set none a (some v') }

/-- Banks of mask `m` hold zero data with tag 0. -/
def Core.zeroBanks (k : Core) (m : Nat) : Core :=
  { k with
    spad := k.spad.filter fun e => !maskHas m (e.1 / 0x8000)
    stags := k.stags.filter fun e => !maskHas m (e.1 / 0x200)
    sbad := k.sbad.filter fun e => !maskHas m (e.1 / 0x200) }

/-- Banks that other contexts hold in place and an incoming task names are saved, then zeroed (R72, R79). -/
def Core.clearBanks (k : Core) (banks : BitVec 20) (own : Option Nat) : Core :=
  let others := (List.range 4).filter fun a => own != some a
  let held := others.foldl (fun m a => match k.areas.get none a with
    | some v => m ||| (v.banks &&& ~~~v.bankSaved &&& banks).toNat
    | none => m) 0
  (others.foldl (fun k a => k.saveBanks a banks.toNat) k).zeroBanks held

/-- The context in area `a` is saved whole: nothing of it stays in place (R79, R81). DESIGN CHOICE (log entry 50): the bank keeps
its contents until a task that names it starts. -/
def Core.saveWhole (k : Core) (a : Nat) : Core :=
  let k := k.saveBanks a 0xFFFFF
  (List.range 16).foldl (fun k i => match (k.slot i).owner with
    | .held b => if a = b then (k.saveSlot i).setSlot i {} else k
    | _ => k) k

/-- The context holds something in place. -/
def Saved.inPlace (v : Saved) : Bool := (v.banks &&& ~~~v.bankSaved) != 0 || (v.slots &&& ~~~v.slotSaved) != 0

/-! ## Start (R66, R72, R81) -/

/-- The task of the member at (gx, gy) of a gang. -/
def memberTask (p i n : Nat) (nd : Node) (g : Gang) (partner gx gy : Nat) : Task :=
  let r := nd.record
  { part := p, inst := i, node := n, gx := gx, gy := gy, gw := g.gw, gh := g.gh, ox := g.ox, oy := g.oy
    follow := recFollow r, stag := recStag r, rollback := recRollback r, duplex := recDuplex r, partner := partner
    nslot := (nd.img.map (·.nslot)).getD 0, banks := (nd.img.map (·.banks)).getD 0 }

/-- The context of a member at task start (R66). -/
def freshCtx (r : Vec) (g : Img) (now : Nat) : Ctx :=
  let v : SVal := { v := recParam r }
  let set (m : NMap SVal) (p : Nat) : NMap SVal := m.set {} p v
  { sfile := set (set [] 0) 0x90
    lspace := BitVec.ofNat 8 (recLsp r), ddspace := BitVec.ofNat 8 (recDds r)
    xs := { pc := BitVec.ofNat 17 g.xent, start := BitVec.ofNat 17 g.xent, ready := now, seg := g.xseg }
    as_ := { pc := BitVec.ofNat 17 g.aent, start := BitVec.ofNat 17 g.aent, ready := now, seg := g.aseg } }

/-- What every start sets on a core. -/
def Core.begin (k : Core) (t : Task) (rec : Bool) : Core :=
  { k with
    task := some t, finished := none, ended := false, evict := false, leaving := false, poisoned := none, irrev := false, atomDone := false, snap := none, copied := []
    resv := .idle, hash := 0, items := 0, sent := 0, rcvd := 0, record := if rec then some {} else none }

/-- The buffer declarations of the image, in order; the first that is refused is a trap of the X stream's first group
(R95, R96). -/
def State.declareBufs (s : State) (c : Nat) : Nat → List Dword → State
  | _, [] => s
  | i, b :: bs =>
    match s.bufDeclareOp c i b with
    | (s, none) => declareBufs s c (i + 1) bs
    | (s, some t) => declareBufs (s.updCtx c fun k => { k with xs := { k.xs with trap := k.xs.trap.orElse fun _ => some t } })
        c (i + 1) bs

/-- A member starts afresh (R66, R72). Followers of a follow-mode row are not loaded (R25). -/
def State.startMember (s : State) (c : Nat) (t : Task) (r : Vec) (g : Img) (l : List (Nat × List IWord)) : State :=
  let rec_ := (s.part t.part).recEn
  let s := s.updCore c fun k =>
    let k := k.clearBanks g.banks none
    let k := if t.isFollower then k else k.load l
    { (k.begin t rec_) with ctx := freshCtx r g s.now }
  ((s.putAreas c).declareBufs c 0 g.bufs).takeSnap c

/-- A context comes back on core `c` (R81): from area `own` of that core, with what it holds in place there, or copied from
another core, saved whole. DESIGN CHOICE (log entry 65): where another evicted context holds in place a slot that comes back, that one is
saved first. -/
def Core.resume (k : Core) (own : Option Nat) (v : Saved) (t : Task) (now : Nat) : Core :=
  let k := k.clearBanks v.banks own
  let saved := v.bankSaved.toNat
  let k := k.zeroBanks saved
  let k : Core := { k with
    spad := k.spad.over 0 v.spad
    stags := k.stags.over 0 v.stags }
  let k := (List.range 16).foldl (fun k i =>
    if maskHas v.slotSaved.toNat i then (k.saveSlot i).setSlot i { (v.oslots.get ({} : OpSlot) i) with owner := .task }
    else if maskHas v.slots.toNat i then k.setSlot i { (k.slot i) with owner := .task }
    else k) k
  let x := v.ctx
  { (k.begin t false) with
    areas := own.elim k.areas (k.areas.set none · none), bfmt := v.bfmt, image := v.image, record := k.record
    snap := v.snap, irrev := v.irrev, atomDone := v.atomDone, hash := v.hash, items := v.items
    ctx := { x with inbox := v.spill, xs := { x.xs with ready := now }, as_ := { x.as_ with ready := now } } }

/-- The core that stands where core `m` of the old rectangle stood. -/
def moved (old new : Task) (m : Nat) : Nat := coreAt (new.ox + (coreX m - old.ox)) (new.oy + (coreY m - old.oy))

/-- Tiles that the context keeps for its team, for the team's new cores. -/
def Ctx.moveTiles (k : Ctx) (old new : Task) : Ctx :=
  { k with tiles := k.tiles.map fun t => { t with left := t.left.map (moved old new) } }

/-- A held write at the gang's new place (R81, R327). -/
def Held.moveTo (h : Held) (old new : Task) (c : Nat) : Held :=
  { h with core := c, loc := match h.loc with
      | .spad k o => .spad (moved old new k) o
      | .mem pa => .mem pa }

/-- Core `k`, which runs task `t`, stands as snapshot `z` has it: every register, its slots, and the scratchpad but for banks that other
contexts hold (R357). -/
def Core.loadSnap (k : Core) (z : Snap) (t : Task) : Core :=
  let m := (~~~k.heldBanks ||| t.banks).toNat
  let k := k.zeroBanks m
  let k := (List.range 16).foldl (fun k i =>
    let o := z.slots.get ({} : OpSlot) i
    if o.owner = .task then (k.saveSlot i).setSlot i o
    else if (k.slot i).owner = .task then k.setSlot i {} else k) k
  { k with
    ctx := z.ctx, image := z.image, bfmt := z.bfmt
    spad := k.spad.over 0 (bankCells 0x8000 m z.spad)
    stags := k.stags.over 0 (bankCells 0x200 m z.stags)
    sbad := k.sbad.over false (bankCells 0x200 m z.sbad)
    trapCause := z.trapCause, trapVal := z.trapVal, xpcSave := z.xpcSave, apcSave := z.apcSave, tvec := z.tvec }

/-- A request of a snapshot, at the place that the gang has now. -/
def Req.moveTo (r : Req) (old new : Task) (c : Nat) : Req :=
  { r with core := c, loc := match r.loc with
      | .spad k o => .spad (moved old new k) o
      | .mem pa => .mem pa }

/-- A snapshot for the member as task `t` on core `c`: what it had under way is under way there (R81, R362). -/
def Snap.moveTo (z : Snap) (t : Task) (c : Nat) : Snap :=
  { z with
    task := t
    reqs := z.reqs.map (·.moveTo z.task t c), replies := z.replies.map fun r => (c, r.2)
    bsums := z.bsums.map fun b => { b with sender := c, target := moved z.task t b.target }
    bsumBuf := z.bsumBuf.map fun b => { b with sender := moved z.task t b.sender, target := c } }

/-- What the member of snapshot `z` had under way goes on (R357). -/
def State.loadTraffic (s : State) (z : Snap) : State :=
  { s with
    reqs := s.reqs ++ z.reqs, replies := s.replies ++ z.replies, bsums := s.bsums ++ z.bsums, bsumBuf := s.bsumBuf ++ z.bsumBuf }

/-- The member of core `c` in the gang of `t` is restored from its snapshot, and repeats the superstep (R359). A core that the debug
port had halted is halted anew there (R193). -/
def State.restoreMember (s : State) (t : Task) (c : Nat) : State :=
  let k := s.core c
  match k.snap, k.task.orElse fun _ => k.finished with
  | some z, some u =>
    if !u.sameGang t then s
    else
      let again := k.haltReq || k.halted
      let z := z.moveTo u c
      let k' := k.loadSnap z u
      let s := s.setCore c { k' with
        snap := some z, task := some u, finished := none, poisoned := none, leaving := false, hash := 0, items := 0, irrev := false, atomDone := false
        halted := false, haltReq := again
        ctx := { k'.ctx with raised := if again then some { trap := some debugTrap } else k'.ctx.raised } }
      let s := if k.task.isNone && t.partner != 2 then
          s.updNode t.part t.inst t.node fun n => { n with
            finCount := n.finCount - 1, trigCount := if z.ctx.triggered then n.trigCount else n.trigCount - 1 }
        else s
      s.loadTraffic z
  | _, _ => s

/-- The context that core `c` resumes, out of area `a` of core `old`: on another core it is first saved whole, and the area is
free again (R81). -/
def State.takeOut (s : State) (c old a : Nat) : State × Option Saved :=
  if old = c then (s, (s.core old).areas.get none a)
  else
    let s := (s.updCore old (·.saveWhole a)).putAreas old
    (s.updCore old fun k => { k with areas := k.areas.set none a none }, (s.core old).areas.get none a)

/-- The member is resumed on core `c` with context `v`, which lay in area `a` of core `old` (R81). -/
def State.resumeMember (s : State) (c : Nat) (t : Task) (l : List (Nat × List IWord)) (old a : Nat) (v : Saved) : State :=
  let s := s.updPart t.part fun q => { q with held := q.held ++ v.held.map (·.moveTo v.task t c) }
  let s := s.updCore c fun k => (if t.isFollower then k else k.load l).resume (if old = c then some a else none)
    { v with ctx := v.ctx.moveTiles v.task t } t s.now
  let s := s.putAreas c
  let s := if v.undone then s.restoreMember t c else s
  match (s.ctx c).arrived with
  | some r => if r.release.isSome then s else s.tryRelease t r.rect
  | none => s

/-- A member that had finished before its gang was evicted stands finished on core `c`, with its scratchpad and its descriptors
(R81, R332). -/
def State.resumeFinished (s : State) (c : Nat) (t : Task) (old a : Nat) (v : Saved) : State :=
  State.putAreas (s.updCore c fun k =>
    { (k.resume (if old = c then some a else none) v t s.now) with
      task := none, finished := some t }) c

/-- The members of a gang: cores with their positions. -/
def Gang.members (g : Gang) : List (Nat × Nat × Nat) :=
  (List.range (g.gw * g.gh)).map fun k => (coreAt (g.ox + k % g.gw) (g.oy + k / g.gw), k % g.gw, k / g.gw)

/-- The gangs of a node with their partner numbers. -/
def Node.parties (nd : Node) : List (Nat × Gang) := nd.gangs.mapIdx fun i g => (i, g)

/-- Every core of the rectangles is committed to partition `p` and idle. DESIGN CHOICE (log entry 50): where the debug port has
halted one since its commit, the start waits until it is resumed. -/
def State.allCommitted (s : State) (p : Nat) (gs : List Gang) : Bool :=
  gs.all fun g => g.cores.all fun c => (s.core c).resv = .committed p && (s.core c).idle && !(s.core c).halted

/-- The members of a node's gangs: core, partner and position. -/
def Node.places (nd : Node) : List (Nat × Nat × Gang × Nat × Nat) :=
  nd.parties.flatMap fun e => e.2.members.map fun m => (m.1, e.1, e.2, m.2.1, m.2.2)

/-- The gang starts, or resumes, on its committed cores: every context leaves its area before any is resumed (R81). -/
def State.startGang (s : State) (p i n : Nat) (nd : Node) (g : Img) : State :=
  match s.loadList p g with
  | (s, none) =>
    let s := nd.gangs.foldl (fun s x => x.cores.foldl (fun s c => s.updCore c fun k => { k with resv := .idle }) s) s
    (s.dropAreas p i n).endNode p i n cFormat
  | (s, some l) =>
    let resumed := !nd.oldPlaces.isEmpty
    let out : State × List (Nat × Task × Option (Nat × Nat × Saved)) := nd.places.foldl (fun a m =>
      let (c, q, x, gx, gy) := m
      let t := memberTask p i n nd x q gx gy
      match a.1.oldPlace nd q gx gy with
      | some (old, k) => match a.1.takeOut c old k with
        | (s, v) => (s, a.2 ++ [(c, t, v.map fun v => (old, k, v))])
      | none => (a.1, a.2 ++ [(c, t, none)])) (s, [])
    let s := out.1.updNode p i n fun x => { x with
      phase := .running, quantumAt := s.now, startAt := s.now, evictReq := false, failures := 0, backoff := none
      escalated := false, oldPlaces := [] }
    let s := out.2.foldl (fun s m =>
      let (c, t, v) := m
      match v with
      | some (old, a, v) => if v.fin && !v.undone then s.resumeFinished c t old a v else s.resumeMember c t l old a v
      | none => s.startMember c t nd.record g l) s
    if resumed then nd.parties.foldl (fun s e => s.recheck (memberTask p i n nd e.2 e.1 0 0)) s else s

/-- The tiebreak rectangle is loaded with the snapshot of P0 and runs the superstep once (R362). -/
def State.startTiebreak (s : State) (p i n : Nat) (nd : Node) (g : Img) : State :=
  match nd.gangs, s.loadList p g with
  | [p0, _, t2], (s, some l) =>
    t2.members.foldl (fun s m =>
      let (c, gx, gy) := m
      let t := memberTask p i n nd t2 2 gx gy
      match (s.core (coreAt (p0.ox + gx) (p0.oy + gy))).snap with
      | some z =>
        let z := z.moveTo t c
        let s := s.updCore c fun k =>
          let k := k.clearBanks g.banks none
          let k := if t.isFollower then k else k.load l
          { (k.begin t false).loadSnap z t with snap := some z }
        ((s.putAreas c).putSnap c).loadTraffic z
      | none => s.updCore c fun k => { k with finished := some t, resv := .idle, hash := 0, items := 0 }) s
  | _, (s, _) => s

/-- TASK_START (R68 step 3, R72, R81, R362). -/
def State.taskStart (s : State) (p i n : Nat) : State :=
  let nd := s.node p i n
  match nd.img with
  | none => s
  | some g =>
    if nd.phase = .starting && s.allCommitted p nd.gangs then s.startGang p i n nd g
    else if nd.phase = .running && nd.tiebreak && nd.ending.isNone && nd.gangs.length = 3 && s.allCommitted p (nd.gangs.drop 2) then
      s.startTiebreak p i n nd g
    else s

/-! ## Release (R74, R174) -/

/-- A release trap of core `c`: the fault of a `ms.put` that was dropped (R97, R266). The X stream of a halted core, or of one
whose handler runs beside the arrival, takes it once it is back (R174). -/
def State.raiseRelease (s : State) (c : Nat) (own : Bool) (t : Trap) : State :=
  let k := s.core c
  let keep (o : Option Trap) : Option Trap := o.orElse fun _ => some t
  if k.halted || (k.ctx.priv && !own) then s.updCore c fun k => { k with image := { k.image with xtrap := keep k.image.xtrap } }
  else if k.ctx.raised.isSome then s.updCtx c fun x => { x with xs := { x.xs with trap := keep x.xs.trap } }
  else s.raise c .x t

/-- MEMBER_RELEASE: at its time a member is released, unless it is being evicted, which takes the release with it (R76), and the fault of a `ms.put` that was dropped is raised (R97, R266). -/
def State.releaseMember (s : State) (c : Nat) : State :=
  let k := s.core c
  match k.task, k.ctx.arrived with
  | some _, some a =>
    match a.release with
    | none => s
    | some r =>
      if s.now < r || k.ended || k.leaving then s
      else
        let s := ((s.observe 5 c a.began).updCtx c fun x => { x with arrived := none }).updCore c fun x =>
          if (k.image.arrival k.ctx).isSome && (k.halted || k.ctx.priv) then { x with image := { x.image with released := true } } else x
        match k.ctx.putTrap with
        | some t =>
          if a.rect.isNone then (s.updCtx c fun x => { x with putTrap := none }).raiseRelease c a.handler t else s
        | none => s
  | _, _ => s

/-! ## Finish (R66, R177) -/

/-- The operand slots that the task owns are free again (R99). -/
def Core.freeSlots (k : Core) : Core :=
  (List.range 16).foldl (fun k i => if (k.slot i).owner = .task then k.setSlot i {} else k) k

/-- What a gang held for its next trick is dropped, as is what it sent and nobody has received. -/
def State.dropTraffic (s : State) (t : Task) : State :=
  let s := s.updPart t.part fun q => { q with
    held := q.held.filter fun h => !(s.core h.core).inGang t
    items := q.items.filter fun e => !(e.inst = t.inst && e.node = t.node) }
  { s with msgs := s.msgs.filter fun m => !m.task.sameGang t }

/-- The gang's run is entered in the list of every cluster that it touched (R366). -/
def State.logGang (s : State) (p i n : Nat) (nd : Node) : State :=
  let cs := nd.gangs.flatMap (·.cores)
  let sent := (cs.map fun c => (s.core c).sent).foldl (· + ·) 0
  let rcvd := (cs.map fun c => (s.core c).rcvd).foldl (· + ·) 0
  ((cs.map clusterOf).eraseDups).foldl (fun s k => s.updCluster k fun x =>
    if x.gangs.length < 1024 then { x with gangs := x.gangs ++ [[p, i, n, nd.startAt, s.now, sent, rcvd]] }
    else { x with gangOvf := true }) s

/-- Every member has finished or stopped: the node finishes, and its cores are free (R66, R332, R386). A member that is evicted
when its task is ended has nothing left to stop. -/
def State.completeNode (s : State) (t : Task) : State :=
  let nd := s.node t.part t.inst t.node
  let away := nd.oldPlaces.countP fun e => !((s.core e.1).area e.2).fin
  if nd.code.isSome || nd.finCount + (if nd.ending.isSome then away else 0) < nd.memberCount then s
  else
    let s := s.logGang t.part t.inst t.node nd
    let s := nd.parties.foldl (fun s e => s.dropTraffic { t with partner := e.1 }) s
    let s := (nd.gangs.flatMap (·.cores)).foldl (fun s c => s.updCore c fun k =>
      { k with finished := none, snap := none, record := none, task := match k.task with
          | some u => if u.part = t.part && u.inst = t.inst && u.node = t.node then none else some u
          | none => none }) s
    (s.dropAreas t.part t.inst t.node).endNode t.part t.inst t.node (nd.ending.getD cDone)

/-- Core `m` runs a member of the node of `t`, of whichever partner. -/
def State.runsNode (s : State) (t : Task) (m : Nat) : Bool :=
  ((s.core m).task.map fun u => u.part = t.part && u.inst = t.inst && u.node = t.node).getD false

/-- The wake condition: an arrival that has its time of release stands; of the others, a SYNC block arrives again (R76). -/
def Ctx.forResume (k : Ctx) : Ctx :=
  let k := k.landAll
  let again := k.arrived.filter fun a => !a.sync || a.release.isSome
  { k with
    xs := k.xs.rewind, as_ := k.as_.rewind, inbox := [], arrived := again
    wd := k.wd.map fun w => if w.phase = .sync && again.isNone then { w with phase := .header } else w.stopped }

/-- The context is written to save area `a` (R78 step 5, R80), its banks and slots staying in place (R79). -/
def Core.evictTo (k : Core) (a : Nat) (t : Task) (order : Nat) (held : List Held) : Core :=
  let slots := (List.range 16).foldl (fun m i => if (k.slot i).owner = .task then m + 2 ^ i else m) 0
  let v : Saved := { task := t, ctx := k.ctx.forResume, order := order, banks := t.banks, slots := BitVec.ofNat 16 slots
                     image := k.image, spill := k.ctx.inbox, bfmt := k.bfmt
                     held := held, snap := k.snap, irrev := k.irrev, atomDone := k.atomDone, hash := k.hash, items := k.items, fin := k.task.isNone }
  let k := (List.range 16).foldl (fun k i => if maskHas slots i then k.setSlot i { (k.slot i) with owner := .held a } else k) k
  { k with areas := k.areas.set none a (some v), task := none, finished := none, evict := false, leaving := false, snap := none,
           ctx := {} }

/-- Contexts that hold something in place, oldest first (R79). -/
def Core.inPlaceAreas (k : Core) : List (Nat × Nat) :=
  let l := k.areas.filterMap fun e => e.2.bind fun v => if v.inPlace then some (v.order, e.1) else none
  l.filter (fun e => l.all fun f => e.1 ≤ f.1) ++ l.filter (fun e => !l.all fun f => e.1 ≤ f.1)

/-- One member is evicted, or what a finished one keeps is put away with its gang (R78, R79, R332): where that makes a third context that holds something in place, the oldest is saved
whole. -/
def State.evictMember (s : State) (c : Nat) (t : Task) : State :=
  let s := State.mxStop c ((s.ctx c).mxq.length) s
  let a := ((s.core c).freeArea).getD 0
  let s := s.updCore c fun k =>
    let holds := t.banks != 0 || (List.range 16).any fun i => (k.slot i).owner = .task
    match k.inPlaceAreas with
    | (_, b) :: _ :: _ => if holds then k.saveWhole b else k
    | _ => k
  let log := (s.part t.part).held.filter (·.core = c)
  let s := s.updPart t.part fun q => { q with held := q.held.filter (·.core != c) }
  let s := { s.updCore c (·.evictTo a t s.evictions log) with evictions := s.evictions + 1, gone := s.gone.filter (·.core != c) }
  let s := s.putAreas c
  s.updNode t.part t.inst t.node fun n => { n with oldPlaces := n.oldPlaces ++ [(c, a)] }

/-- Once no member of a gang that is being evicted runs any more, the node returns to the ready order (R77). -/
def State.evicted (s : State) (t : Task) : State :=
  let nd := s.node t.part t.inst t.node
  let cs := nd.gangs.flatMap (·.cores)
  if nd.phase != .running || nd.oldPlaces.isEmpty || cs.any (s.runsNode t) then s
  else
    let s := s.logGang t.part t.inst t.node nd
    let s := cs.foldl (fun s c => match (s.core c).finished with
      | some u => if u.part = t.part && u.inst = t.inst && u.node = t.node then s.evictMember c u else s
      | none => s) s
    s.updNode t.part t.inst t.node fun n => { n with
      phase := .evicted, readyAt := s.now, evictReq := false, issued := true }

/-- Core `c` leaves its task: its member has finished or stopped. -/
def State.leave (s : State) (c : Nat) (t : Task) : State :=
  let s := { s.updCore c fun k => ({ (k.freeSlots) with task := none, finished := some t, ended := false }).rest with
    gone := s.gone.filter (·.core != c) }
  let s := if t.partner = 2 then s
    else s.updNode t.part t.inst t.node fun n => { n with finCount := n.finCount + 1 }
  ((s.recheck t).completeNode t).evicted t

/-- The member has exited and nothing of it is outstanding (R172, R177). -/
def State.memberDone (s : State) (c : Nat) : Bool :=
  let k := s.ctx c
  k.xs.exited && k.raised.isNone && k.as_.trap.isNone && s.counts c = (0, 0, 0, 0)

/-- MEMBER_FINISH (R66, R75, R177). A member that has exited and still holds deliveries stands at the next trick, which performs
them once the others do too (log entry 38). -/
def State.finishMember (s : State) (c : Nat) : State :=
  let k := s.core c
  match k.task with
  | none => s
  | some t =>
    if k.ended || k.halted || k.poisoned.isSome then s
    else if s.exitsHeld c then s.tryRelease t none
    else if !s.memberDone c then s
    else
      let s := s.updCtx c fun x => { x with pend := [], flight := [], streams := [], loads := [], arrived := none
                                            as_ := { x.as_ with exited := true } }
      (s.countTrigger c t).leave c t

/-! ## Eviction (R76 to R80) -/

/-- The leader of the row of core `c`: the core itself outside follow mode (R25). -/
def State.leader (s : State) (c : Nat) : Nat := (s.row c).headD c

/-- The words of the group at which half `h` of core `c` stands, as far as its leader's instruction store holds them: followers
fetch nothing (R25). -/
def State.groupAt (s : State) (c : Nat) (h : Half) : List Slot :=
  let k := s.core (s.leader c)
  let slot (w : IWord) : Slot :=
    if hintGuard (wordG w) (wordN w) then .hint (w.extractLsb' 24 3) (wordPay w)
    else .move (wordG w) (wordN w) (wordDst w) (wordI w) (wordLow w)
  let rec go : Nat → Nat → List Slot
    | 0, _ => []
    | n + 1, o =>
      let w := k.istore.get 0 (o / 4)
      if wordS w then [slot w] else slot w :: go n (o + 4)
  go maxGroup (k.ctx.stream h).start.toNat

/-- The state at the time at which core `c` executes its groups (R25). -/
def State.atClock (s : State) (c : Nat) : State := { s with now := s.clock c }

/-- A load of queue `q` of core `c` is under way to a place beyond the core: another core's home or scratchpad (R76, R94). -/
def State.remoteLoad (s : State) (c q : Nat) : Bool :=
  (s.ctx c).loads.any fun l => l.q = q && s.reqs.any fun r => r.core = c && r.id = l.id && r.isLoad && (match r.loc with
    | .mem pa => paHome pa != c
    | .spad k _ => k != c)

/-- A move that is performed waits at a blocking point of Table 6 (R76): a pop of an empty load queue with a load of it
outstanding beyond the core, `ms.in` with nothing to take, a counted wait that does not hold, or a `cl` trigger or result while
a `cl` operation is under way (R292). -/
def State.moveBlocks (s : State) (c : Nat) (h : Half) (m : Move) : Bool :=
  match s.guard c m with
  | (s, .open_ true _ _) =>
    let k := s.ctx c
    (match m.src with
      | .port p _ =>
        if 0x88 ≤ p && p ≤ 0x8B then (k.queue (qLq (p - 0x88))).ents.isEmpty && s.remoteLoad c (qLq (p - 0x88))
        else if 0x3FD ≤ p && p ≤ 0x3FF then k.clop.isSome && k.portPending p
        else p = 0x43C && !k.portPending 0x401 && k.inSelect.isNone
      | .imm _ => false)
    || (k.clop.isSome && 0x3C8 ≤ m.dst && m.dst ≤ 0x3D6)
    || ((m.dst = 0x44C || m.dst = 0x5CC) && (
      let v := match m.src with
        | .imm v => some (.s { v := v })
        | .port p _ => readPort c s.now (taskOf s c) k p
      match v with
      | some v => (match waitOp { core := c, half := h, port := m.dst, t := m.toScalar v } s with
        | .stall => true
        | _ => false)
      | none => false))
  | _ => false

/-- A multiply of the team waits for its operands, and the X stream waits on an interlock (R76, R235). -/
def State.teamWaits (s : State) (c : Nat) : Bool :=
  (match (s.ctx c).mxq with
    | .mmat _ _ _ _ _ _ _ none _ _ :: _ => true
    | _ => false)
  && (match s.member c .x (parseGroup (s.groupAt c .x)).moves (s.ctx c).xs.start.toNat 0 (s.leader c != c) [] with
    | .stall _ => true
    | _ => false)

/-- Member `c` runs its task's own code, and nothing has stopped it (R193, R270, R386; log entry 37). The partners of a duplex
task that await their verdict are halted (R362), and so are at no blocking point; their tiebreak runs its one superstep (DEDUCED, log
entry 62). -/
def State.standing (s : State) (c : Nat) : Bool :=
  let k := s.core c
  match k.task with
  | some t => !k.halted && !k.ended && k.poisoned.isNone && k.ctx.raised.isNone && !k.ctx.priv && !s.censusWaits t.part
    && !(s.node t.part t.inst t.node).tiebreak
  | none => false

/-- Member `c` is at a blocking point (R76, Table 6). In weight-driven mode only a SYNC block is one (R246). -/
def State.atBlock (s : State) (c : Nat) : Bool :=
  let k := s.ctx c
  let z := s.atClock c
  s.standing c && (k.arrived.any (·.release.isNone)
    || (k.wd.isNone && (k.sendWait.isSome || z.teamWaits c
      || (!k.xs.exited && (parseGroup (s.groupAt c .x)).moves.any (z.moveBlocks c .x))
      || (!k.as_.exited && (parseGroup (s.groupAt c .a)).moves.any (z.moveBlocks c .a)))))

/-- Steps 1 to 4 of R78 are done: the loads have returned, no request or block sum is under way but for writes in the log of a
protected member (R358), the command that the engine serves stands at the end of a chunk (R322), and a save area is free. -/
def State.evictable (s : State) (c : Nat) : Bool :=
  let k := s.ctx c
  s.quiet c && s.refusals.all (·.1 != c) && k.copies.all (fun x => x.unacked.isEmpty || x.done = some eLink)
    && s.bsums.all (fun b => b.sender != c && b.target != c) && s.bsumBuf.all (·.target != c)
    && ((s.core c).freeArea).isSome

/-- The members that are evicted together with `c`: in follow mode the whole gang (R28). -/
def State.evictSet (s : State) (c : Nat) (t : Task) : List Nat :=
  if t.follow then t.members.filter fun m => (s.core m).task.isSome else [c]

/-- MEMBER_EVICT: a member whose eviction is requested stops at a blocking point, in follow mode once every row has a member at
one; what it has in flight comes to its end, and its context is saved (R28, R77, R78). -/
def State.evictAt (s : State) (c : Nat) : State :=
  match (s.core c).task with
  | none => s
  | some t =>
    let ms := s.evictSet c t
    if !(s.core c).evict then s
    else if !ms.all s.standing then
      ms.foldl (fun s m => s.updCore m fun k => { k with leaving := false }) s
    else if !(s.core c).leaving then
      let rows := ms.map (fun m => (taskOf s m).row m)
      if rows.all fun r => r.any s.atBlock then ms.foldl (fun s m => s.updCore m fun k => { k with leaving := true }) s
      else s
    else if ms.all s.evictable then (ms.foldl (fun s m => s.evictMember m (taskOf s m)) s).evicted t
    else s

/-- The node waits for a place for its tiebreak rectangle, which counts as a ready node of effective class 0 (R362). -/
def Node.waitsTiebreak (nd : Node) : Bool := nd.phase = .running && nd.tiebreak && nd.gangs.length = 2 && nd.ending.isNone

/-- A ready node of the partition, a tiebreak among them, asks for the place of a gang of class `prio` (R77, R362). -/
def State.presses (s : State) (p prio : Nat) : Bool :=
  (s.part p).insts.any fun e => match e.2 with
    | some x => !x.done && x.nodes.any fun m => 1 ≤ m.2.failures
        && (((m.2.phase = .ready || m.2.phase = .evicted)
              && effClass (recPrio m.2.record) (s.now - m.2.readyAt) ≤ prio)
            || m.2.waitsTiebreak)
    | none => false

/-- QUANTUM_EXPIRE (R77). A quarantined core's gang goes on (R363). A duplex gang that awaits its verdict is asked too, and
leaves after it (`standing`). -/
def State.quantumOver (s : State) (p i n : Nat) : State :=
  let nd := s.node p i n
  let q := (s.part p).quantum.toNat
  if nd.phase = .running && !nd.evictReq && q != 0 && nd.quantumAt + 4096 * q ≤ s.now
      && s.presses p (recPrio nd.record) then
    let s := s.updNode p i n fun x => { x with evictReq := true }
    (nd.gangs.flatMap (·.cores)).foldl (fun s c => s.updCore c fun k =>
      if k.task.isSome then { k with evict := true } else k) s
  else s

/-! ## Trap entry (R180) -/

/-- The segment of a handler that holds an offset of the instruction store (R169, R180, log entry 13). -/
def State.handlerSeg (s : State) (c : Nat) (t : Task) (h : Half) (pc : BitVec 17) : CodeSeg :=
  let hs := (s.part t.part).handlersOf ((s.node t.part t.inst t.node).img.getD {})
  let _ := c
  ((hs.find? fun g => g.half = h && g.place ≤ pc.toNat && pc.toNat < g.place + g.len).map fun g =>
    ({ lo := g.place, hi := g.place + g.len, priv := g.priv } : CodeSeg)).getD {}

/-- The segments in which a handler's streams run. -/
def State.setHandlerSegs (s : State) (c : Nat) (t : Task) : State :=
  s.updCtx c fun k => { k with
    xs := { k.xs with hseg := s.handlerSeg c t .x k.xs.pc }
    as_ := { k.as_ with hseg := s.handlerSeg c t .a k.as_.pc } }

/-- TRAP_ENTRY: steps 3 to 6 of R180 on a member whose streams have stopped. -/
def State.enterTrap (s : State) (c : Nat) : State :=
  match (s.core c).task with
  | none => s
  | some t =>
    if (s.ctx c).raised.isNone || !s.quiet c || (s.core c).ended || (s.core c).halted then s
    else
      let priv := (s.ctx c).priv
      let s := (State.mxStop c ((s.ctx c).mxq.length) s).trapEntry c
      if !priv && (s.ctx c).priv && !(s.core c).halted then s.setHandlerSegs c t else s

/-- A halt that is requested of core `c` is taken as far as it can be: a core that runs nothing halts, and a member raises it unless
a trap stands before it or it waits for a rollback (R193). -/
def State.haltNow (s : State) (c : Nat) : State :=
  let k := s.core c
  if !k.haltReq || k.halted || k.ended then s
  else if k.task.isNone then s.setCore c k.enterHalt
  else if k.poisoned.isSome then s
  else match k.ctx.raised with
    | some r => if r.trap = some debugTrap then s.enterTrap c else s
    | none => (s.updCtx c fun x => { x with raised := some { trap := some debugTrap } }).enterTrap c

/-! ## The end of a task (R62, R386) -/

/-- SUPERVISOR_KILL: a running task ends with KILLED; an evicted one, placed again or not, has no member to stop (R62, R80). -/
def State.killTask (s : State) (p i n : Nat) : State :=
  let nd := s.node p i n
  if nd.phase = .running then s.endTask { part := p, inst := i, node := n } cKilled
  else if nd.phase = .evicted || (nd.phase = .starting && nd.issued) then
    (s.dropAreas p i n).endNode p i n cKilled
  else s

/-- The member stops at a group boundary: what it has in flight and its pending results are discarded, but for stores
and copies (R386). -/
def Ctx.stop (k : Ctx) : Ctx :=
  { k with
    xs := { k.xs.rewind with exited := true, trap := none }, as_ := { k.as_.rewind with exited := true, trap := none, more := [] }
    flight := [], pend := [], loads := [], streams := [], mxq := [], wd := none, clop := none, lbops := []
    arrived := none, sendWait := none, raised := none, atoms := [], tiles := [], putTrap := none }

/-- What a stopped member has issued and its gang still holds: its stores are performed, those that equal partners both made by
the first; `ms.put` data, which only a trick delivers, is not (R73, R386; log entry 53). -/
def State.flushHeld (s : State) (c : Nat) (t : Task) : State :=
  let outward (h : Held) : Bool := match h.loc with
    | .spad _ _ => false
    | .mem _ => true
  ((s.part t.part).held.filter (·.core = c)).foldl
    (fun s h => if h.put || t.partner = 2 || (t.partner = 1 && outward h) then s.dropOne h else s.deliverOne h)
    (s.updPart t.part fun q => { q with held := q.held.filter (·.core != c) })

/-- The end of its task has reached the member: it stops (R386). -/
def State.stopMember (s : State) (c : Nat) (t : Task) : State :=
  let s := (s.flushHeld c t).updCore c fun k => { k with
    ended := true, leaving := false, rcvd := k.rcvd + 1, poisoned := none, ctx := k.ctx.stop }
  { s with
    reqs := s.reqs.filter fun r => r.core != c || (match r.kind with
      | .store _ _ => true
      | _ => false)
    gone := s.gone.filter (·.core != c), bsums := s.bsums.filter (·.sender != c), bsumBuf := s.bsumBuf.filter (·.target != c) }

/-- HALT_TREE_STOP: the end of its task reaches a member, which stops, and leaves once its stores are performed and its
copies have written their status (R386). A refusal that returns to it raises nothing. -/
def State.haltStop (s : State) (c : Nat) : State :=
  let k := s.core c
  match k.task with
  | none => s
  | some t =>
    if (s.node t.part t.inst t.node).ending.isNone then s
    else
      let s := if k.ended then s.flushHeld c t else s.stopMember c t
      let s := { s with refusals := s.refusals.filter (·.1 != c) }
      let s := s.updCtx c fun x => { x with stores := x.stores.filter fun id => s.reqs.any fun r => r.core = c && r.id = id }
      if (s.ctx c).stores.isEmpty && (s.ctx c).copies.isEmpty then s.leave c t else s

/-! ## The rows -/

def execTaskStart (part inst node : Nat) (s : State) : Host.Outcome State Fault Refusal :=
  .next (s.whole (·.taskStart part inst node))
def execMemberRelease (core : Nat) (s : State) : Host.Outcome State Fault Refusal := .next (s.whole (·.releaseMember core))
def execMemberFinish (core : Nat) (s : State) : Host.Outcome State Fault Refusal := .next (s.whole (·.finishMember core))
def execQuantumExpire (part inst node : Nat) (s : State) : Host.Outcome State Fault Refusal :=
  .next (s.quantumOver part inst node)
def execMemberEvict (core : Nat) (s : State) : Host.Outcome State Fault Refusal := .next (s.evictAt core)
def execTrapEntry (core : Nat) (s : State) : Host.Outcome State Fault Refusal := .next ((s.enterTrap core).haltNow core)
def execSupervisorKill (part inst node : Nat) (s : State) : Host.Outcome State Fault Refusal :=
  .next (s.whole (·.killTask part inst node))
def execHaltTreeStop (core : Nat) (s : State) : Host.Outcome State Fault Refusal := .next (s.whole (·.haltStop core))

end Sys2Proof.Machine
end

