-- ==== Sys2Proof/Machine/Debug.lean ====
section
/-! DEFINITION. The debug port (R193, R194): halting a core, reading and writing what a halted core holds, and resuming
it. -/

namespace Sys2Proof.Machine

/-! ## Halt (R193) -/

/-- DEBUG_HALT: the port, where it is open (R382), stops both streams of core `c`; once nothing is outstanding the core
halts, here or at a TRAP_ENTRY step. A trap already raised is entered first, and the halt follows it; a member whose task ends
leaves it first. -/
def State.debugHalt (s : State) (c : Nat) : State :=
  let k := s.core c
  if !s.life.benchOpen || k.halted then s
  else (s.updCore c fun k => { k with haltReq := true }).haltNow c

/-! ## Access (R194) -/

/-- The class of a register s, v, d or p (R146, Table 1). -/
def regCls (p : Nat) : Option Cls :=
  if p < 0x40 || (0x90 ≤ p && p ≤ 0xAF) then some .scalar
  else if p < 0x80 then some .vector
  else if 0x81 ≤ p && p ≤ 0x87 then some .pred
  else none

/-- The class of an operand latch or result port. -/
def latchCls (p : Nat) : Option Cls :=
  match unitOf p with
  | some u => if u.isOp p || u.isRes p then some (unitCls u p) else none
  | none => none

/-- A register takes a value and a tag; what is still on its way to it stays on its way. -/
def Ctx.debugReg (k : Ctx) (p : Nat) (v : Vec) (t : Tag) : Ctx :=
  match regCls p with
  | some .scalar => k.setScalar p { v := v.setWidth 64, t := tagOf t }
  | some .vector => k.setVector p { v := v, t := tagOf t }
  | some .pred => k.setPred p { v := v.getLsbD 0, t := tagOf t }
  | _ => k

/-- The image of a latch or result port takes a value and a tag. -/
def Image.setLatch (i : Image) (p : Nat) (v : Vec) (t : Tag) : Image :=
  match latchCls p with
  | some .vector => { i with vfile := i.vfile.set {} p { v := v, t := tagOf t } }
  | some _ => { i with sfile := i.sfile.set {} p { v := v.setWidth 64, t := tagOf t } }
  | none => i

/-- The value of an entry of the width that it has. -/
def QEntry.write (e : QEntry) (v : Vec) (t : Tag) : QEntry :=
  { e with v := if e.wide then v else (v.setWidth 64 : Dword).setWidth 512, t := tagOf t }

/-- A queue image changes; queues are numbered as in Table 17 (R181). -/
def Image.updQueue (i : Image) (q : Nat) (f : Queue → Queue) : Image :=
  if q < 10 then { i with queues := i.queues.set {} q (f (i.queues.get {} q)) } else i

/-- The entry that the port appends: narrow on `xa` and `ax`, and else as wide as its value needs. -/
def debugEntry (q : Nat) (v : Vec) (t : Tag) (now : Nat) : QEntry :=
  let wide := q < 8 && 2 ^ 64 ≤ v.toNat
  { wide := wide, v := if wide then v else (v.setWidth 64 : Dword).setWidth 512, t := tagOf t, since := now }

/-- Entry `e`, counted from the oldest, of a return stack takes the value. -/
def Stream.setEntry (m : Stream) (e : Nat) (v : Dword) : Stream :=
  { m with stack := (m.stack.reverse.set e (.ofWord v)).reverse }

/-- What a write of an item of core `c` changes: that item only. -/
def State.debugWrite (s : State) (c : Nat) (item : DebugItem) (v : Vec) (t : Tag) : State :=
  let img (f : Image → Image) : State := s.updCore c fun k => { k with image := f k.image }
  let w : Dword := v.setWidth 64
  match item with
  | .reg p => s.updCtx c (·.debugReg p v t)
  | .sys n =>
    match s.sysWrite c n { v := w, t := tagOf t } with
    | (s, none) => s
    | (_, some _) => s
  | .latch p => img (·.setLatch p v t)
  | .entry q e => img (·.updQueue q fun x => { x with ents := x.ents.modify e (·.write v t) })
  | .removeHead q => img (·.updQueue q fun x => match x.ents with
    | [] => x
    | _ :: r => { x with ents := r, head := (x.head + 1) % queueDepth q })
  | .append q => img (·.updQueue q fun x =>
    if x.ents.length < queueDepth q then { x with ents := x.ents ++ [debugEntry q v t s.now] } else x)
  | .ctlab => img fun i => { i with ctlab := tagOf (w.setWidth 16) }
  | .pcSave .x => img fun i => { i with xpc := pcField w 0 }
  | .pcSave .a => img fun i => { i with apc := pcField w 0 }
  | .stack h e => s.updCtx c fun k => k.updStream h (·.setEntry e w)
  | .pending _ => s
  | .label _ _ => s
  | .diagram _ _ => s

/-- The debugger takes a value. -/
def State.debugOut (s : State) (v : Vec) (t : LTag) : State := { s with dbgVal := v, dbgTag := toTag t }

/-- A register s, v, d or p as the port reads it. -/
def Ctx.debugVal (k : Ctx) (p : Nat) : Vec × LTag :=
  match regCls p with
  | some .scalar => ((k.scalar p).v.setWidth 512, (k.scalar p).t)
  | some .vector => ((k.vector p).v, (k.vector p).t)
  | some .pred => (if (k.pred p).v then 1 else 0, (k.pred p).t)
  | _ => (0, [])

/-- The image of a latch or result port as the port reads it. -/
def Image.latchVal (i : Image) (p : Nat) : Vec × LTag :=
  match latchCls p with
  | some .vector => ((i.vfile.get {} p).v, (i.vfile.get {} p).t)
  | some _ => ((i.sfile.get {} p).v.setWidth 512, (i.sfile.get {} p).t)
  | none => (0, [])

/-- Port `p` is pending: it awaits its value, or its tag waits for a label entry; a latch or a queue stands in the image, a register
in the context (R153, R181, R267, Table 15). -/
def Core.pends (k : Core) (p : Nat) : Bool :=
  k.image.pend.any (·.1 = p) || k.image.unresolvedPorts.contains p || (!isLatch p && k.ctx.portPending p)

/-- A read gives the item's value and tag to the debugger and leaves the rest of the machine as it is, but for what a read of the
register itself does (R178: RSX and RSA). -/
def State.debugRead (s : State) (c : Nat) (item : DebugItem) : State :=
  let k := s.core c
  let i := k.image
  let q (w : Dword) : State := s.debugOut (w.setWidth 512) []
  match item with
  | .reg p => s.debugOut (k.ctx.debugVal p).1 (k.ctx.debugVal p).2
  | .sys n => match s.sysRead c n with
    | (s, w) => s.debugOut (w.setWidth 512) []
  | .latch p => s.debugOut (i.latchVal p).1 (i.latchVal p).2
  | .entry n e => match (i.queues.get {} n).ents[e]? with
    | some x => s.debugOut x.v x.t
    | none => s.debugOut 0 []
  | .removeHead _ => s
  | .append _ => s
  | .ctlab => q ((toTag i.ctlab).setWidth 64)
  | .pcSave .x => q (i.xpc.setWidth 64)
  | .pcSave .a => q (i.apc.setWidth 64)
  | .stack h e => q ((((k.ctx.stream h).stack.reverse[e]?).map RsEntry.word).getD 0)
  | .pending p => q (if k.pends p then 1 else 0)
  | .label sp n => match k.task.bind fun t => (s.part t.part).lspaces.get none sp with
    | some l => q (l.dword n)
    | none => s
  | .diagram sp n => match k.task.bind fun t => (s.part t.part).dspaces.get none sp with
    | some d => q (d.dword n)
    | none => s

/-- The port reaches core `c`: it is open (R382), and the core is halted. -/
def State.debugOpen (s : State) (c : Nat) : Bool := s.life.benchOpen && (s.core c).halted

/-! ## The rows -/

def execDebugHalt (core : Nat) (s : State) : Host.Outcome State Fault Refusal := .next (s.debugHalt core)
/-- DEBUG_PORT_ACCESS (R194). -/
def execDebugPortAccess (core : Nat) (item : DebugItem) (write : Bool) (v : Vec) (t : Tag) (s : State) :
    Host.Outcome State Fault Refusal :=
  .next (if !s.debugOpen core then s else if write then s.debugWrite core item v t else s.debugRead core item)
/-- DEBUG_RESUME (R194). -/
def execDebugResume (core : Nat) (s : State) : Host.Outcome State Fault Refusal :=
  .next (if s.debugOpen core then s.updCore core (·.leaveHalt s.now) else s)

end Sys2Proof.Machine
end

