-- ==== Sys2Proof/Machine/Engine.lean ====
section
/-! DEFINITION. XFORM nodes (R56): engine commands run without a gang. The layout of the command that OBJ points at is not in
the manual (log entry 5); the engines of the partition's origin core run it, a chunk a step. -/

namespace Sys2Proof.Machine

/-- The task under which an engine accesses memory for a node: that of the partition's origin core. -/
def Part.engineTask (q : Part) (p i n : Nat) : Task := { part := p, inst := i, node := n, ox := q.x0, oy := q.y0 }

/-- An engine command of a node names no scratchpad: each address in it is virtual. -/
def Copy.virtualOnly (k : Copy) : Bool :=
  (k.cmd = 4 || k.hasHs || dfield k.w1.v 63 48 = 0) && (k.hasHd || dfield k.w2.v 63 48 = 0)

/-- A diagram operation (R291, R295 to R303). UNSAT and ZERO are results; the other statuses are command errors. -/
def State.xformDiagram (s : State) (c : Nat) (t : Task) (op space : Nat) (a b v : Dword) : State × Bool :=
  let h (x : Dword) : Nat := hNorm (x.toNat % 2 ^ 32)
  let handles := clHandles op (h a) (h b) (if op = 12 then v.toNat else h v)
  match (s.part t.part).dspaces.get none space with
  | none => (s, false)
  | some d =>
    if 15 ≤ op || 8 ≤ space || clArgReserved op a v || handles.any (fun e => !hConst e && hSp e != space) then (s, false)
    else match s.clRun c t { op := op, a := { v := a }, b := { v := b }, t := { v := v }, space := space } d with
      | (s, none) => (s, false)
      | (s, some ws) =>
        let st := ((ws.find? (·.1 = 0x3FF)).map fun e => e.2.v.toNat % 256).getD 0
        (s, st = stOk || st = stUnsat || st = stZero)

/-- What an engine does for a node of the partition with origin `c`: tags join in the label space that the record names, and no
core's VFLAGS take its flags (R56, R58). -/
def State.asEngine {α : Type} (s : State) (c lsp : Nat) (f : State → State × α) : State × α :=
  let old := s.ctx c
  match f (s.updCtx c fun k => { k with lspace := BitVec.ofNat 8 lsp }) with
  | (s, x) => (s.updCtx c fun k => { k with lspace := old.lspace, vflags := old.vflags }, x)

/-- The node's command ends with DONE or ENGINE (R62). -/
def State.xformEnd (s : State) (p i n : Nat) (ok : Bool) : State :=
  (s.updPart p fun q => { q with xforms := q.xforms.filter fun x => !(x.inst = i && x.node = n) }).endNode p i n
    (if ok then cDone else cEngine)

/-- The copy command of a node ends, its handles released (R316). -/
def State.xformCopyEnd (s : State) (p i n : Nat) (k : Copy) : State :=
  match s.dropUses (s.part p).origin k (k.done.getD 0) with
  | (s, e) => s.xformEnd p i n (e = 0)

/-- The command of a node starts: a diagram operation is performed; a copy command is checked and opened (R311), and a census
waits (R270). -/
def State.xformBegin (s : State) (p i n : Nat) (cmd : XformCmd) : State :=
  let c := (s.part p).origin
  let t := (s.part p).engineTask p i n
  let lsp := recLsp (s.node p i n).record
  let run (s : State) (k : Copy) : State :=
    (s.updNode p i n fun d => { d with phase := .engine }).updPart p fun q =>
      { q with xforms := q.xforms ++ [{ inst := i, node := n, cmd := cmd, copy := k }] }
  match cmd with
  | .copy w0 w1 w2 w3 =>
    let k : Copy := { w0 := { v := w0 }, w1 := { v := w1 }, w2 := { v := w2 }, w3 := { v := w3 }, node := some (p, i, n) }
    if !k.virtualOnly || k.refused c t then s.xformEnd p i n false
    else match s.asEngine c lsp (·.copyOpen c t k) with
      | (s, k) => run s k
  | .diagram op space a b v => match s.asEngine c lsp (·.xformDiagram c t op space a b v) with
    | (s, ok) => s.xformEnd p i n ok
  | .census space =>
    if 8 ≤ space || ((s.part p).lspaces.get none space).isNone then s.xformEnd p i n false else run s {}

/-- The engines go on with the `j`-th command under way of partition `p`: one chunk of a copy, the end of one that has nothing
left to do, or the census once the partition stands still. -/
def State.xformGo (s : State) (p j : Nat) : State :=
  match (s.part p).xforms[j]? with
  | none => s
  | some x =>
    let c := (s.part p).origin
    match x.cmd with
    | .census space =>
      if s.censusReady p then
        match s.label p space [] (·.census (s.tagsOf p)) with
        | (s, _, _) => s.xformEnd p x.inst x.node true
      else { s with wait := true }
    | _ => match x.copy.done with
      | some e => if x.copy.unacked.isEmpty || e = eLink then s.xformCopyEnd p x.inst x.node x.copy else { s with wait := true }
      | none =>
        match s.asEngine c (recLsp (s.node p x.inst x.node).record) (·.copyChunk c ((s.part p).engineTask p x.inst x.node) x.copy) with
        | (s, k) => s.updPart p fun q => { q with xforms := q.xforms.set j { x with copy := k } }

/-- The node that is served next, if it is an XFORM node, reads the command that OBJ points at and starts it (R56, R62). A command
that cannot be read or is none of the engines' ends with ENGINE. -/
def State.startXform (s : State) (p : Nat) : State :=
  match s.nextOfKind p 1 with
  | none => s
  | some (i, n) => match s.devGranule p (recObj (s.node p i n).record) with
    | (s, .error _) => s.xformEnd p i n false
    | (s, .ok v) => match Config.xformCommand v with
      | none => s.xformEnd p i n false
      | some cmd => s.xformBegin p i n cmd

/-- XFORM_NODE_START: a node starts, or a command under way goes on. -/
def State.xformStep (s : State) (p : Nat) : Nat → State
  | 0 => s.startXform p
  | j + 1 => s.xformGo p j

def execXformNodeStart (part cmd : Nat) (s : State) : Host.Outcome State Fault Refusal := .next (s.whole (·.xformStep part cmd))

end Sys2Proof.Machine
end

