-- ==== Sys2Proof/Machine/SysEvents.lean ====
section
/-! DEFINITION. Register accesses as they reach the registers, one row for each kind that the opcode table names (R5, R36,
R50, R96, R97, R178, R264): what `ct.wsr` and `ct.wsrs` do once their group commits, and what the host writes and reads in the
management window. -/

namespace Sys2Proof.Machine

/-- What a write comes to: the state, or the trap that its writer's X stream takes. -/
def State.written (r : State × Option Trap) (c : Nat) : State :=
  match r.2 with
  | none => r.1
  | some t => if (r.1.core c).task.isSome then r.1.raise c .x t else r.1

/-! ## Buffer descriptors (R96, R97) -/

/-- A descriptor operation on buffer `n` of core `c`; there are 32 (R95). -/
def State.bufEvent (s : State) (c n : Nat) (f : State → State × Option Trap) : State :=
  if n < 32 then State.written (f s) c else s

/-- BUF_DECLARE (R96): OP 0. -/
def execBufDeclare (core n : Nat) (v : Dword) (s : State) : Host.Outcome State Fault Refusal :=
  .next (s.bufEvent core n (·.bufDeclareOp core n v))
/-- BUF_RESET (R97): OP 1. -/
def execBufReset (core n : Nat) (s : State) : Host.Outcome State Fault Refusal := .next (s.bufEvent core n (·.bufResetOp core n))
/-- BUF_SETFULL (R97): OP 2. -/
def execBufSetfull (core n : Nat) (s : State) : Host.Outcome State Fault Refusal :=
  .next (s.bufEvent core n (·.bufSetfullOp core n))
/-- BUF_SETEMPTY (R97): OP 3. -/
def execBufSetempty (core n : Nat) (s : State) : Host.Outcome State Fault Refusal :=
  .next (s.bufEvent core n (·.bufSetemptyOp core n))

/-! ## VFLAGS, BFMT, CTLAB and the return stacks -/

/-- VFLAGS_WRITE (R36). -/
def execVflagsWrite (core : Nat) (v : Dword) (s : State) : Host.Outcome State Fault Refusal :=
  .next (s.updCtx core (·.writeVflags v))

/-- BFMT_WRITE (R49, R50): banks 0 to 19. -/
def execBfmtWrite (core b : Nat) (v : Dword) (s : State) : Host.Outcome State Fault Refusal :=
  .next (if b < 20 then s.updCore core (·.writeBfmt b v) else s)

/-- CTLAB_WRITE (R264). -/
def execCtlabWrite (core : Nat) (v : Dword) (t : LTag) (s : State) : Host.Outcome State Fault Refusal :=
  .next (State.written (s.sysWrite core 3 { v := v, t := t }) core)

/-- Port ct.r, where a register read lands (R178). -/
def ctR : Nat := 0x4BD

/-- RETURN_STACK_POP_READ (R178, Table 7): the oldest entry is removed and lands in ct.r; 0 from an empty stack. -/
def execReturnStackPopRead (core : Nat) (h : Half) (s : State) : Host.Outcome State Fault Refusal :=
  let (x, v) := (s.ctx core).popOldest h
  .next (s.updCtx core fun _ => x.setScalar ctR { v := v })

/-- RETURN_STACK_INSERT (R178, Table 7). -/
def execReturnStackInsert (core : Nat) (h : Half) (v : Dword) (s : State) : Host.Outcome State Fault Refusal :=
  .next (s.updCtx core (·.insertOldest h v))

/-! ## Every other register (R5, R178) -/

/-- A system register whose write has a row of its own. -/
def ownRow (n : Nat) : Bool :=
  n = 0x01 || n = 0x03 || n = 0x14 || n = 0x25 || n = 0x26 || (0x40 ≤ n && n ≤ 0x53) || (0x60 ≤ n && n ≤ 0x7F)
    || (0x88 ≤ n && n ≤ 0x8F)

/-- EN, LOGN and BASE of a host ring (R354, Table 4; R376). -/
def Ring.setCtl (r : Ring) (v : Dword) : Ring :=
  { r with en := dfield v 0 0 = 1, logn := BitVec.ofNat 5 (dfield v 5 1), base := BitVec.ofNat 58 (dfield v 63 6) }
def Ring.setTail (r : Ring) (v : Dword) : Ring := { r with tail := v.setWidth 32 }
/-- LOST is cleared bit by bit where ones are written (R5). -/
def Ring.clearLost (r : Ring) (v : Dword) : Ring := { r with lost := r.lost &&& ~~~v.setWidth 32 }

/-- Unit and dword of an offset in the monitors' block (R378). -/
def monUnit (off : Nat) : Nat := (off - 0x400) / 32
def monDword (off : Nat) : Nat := (off - 0x400) % 32 / 8

/-- A write in the management window at offset `off` (R345): the rings, DIDTCAP and the monitors' dump addresses. LCTL,
STKCTL, QREQ and dword 0 of a monitor have rows of their own; registers that are read-only, and reserved offsets, ignore
it (R5). -/
def State.mgmtWrite (s : State) (off : Nat) (v : Dword) : State :=
  if off = 0x040 then { s with telRing := s.telRing.setCtl v }
  else if off = 0x050 then { s with telRing := s.telRing.setTail v }
  else if off = 0x058 then { s with telRing := s.telRing.clearLost v }
  else if off = 0x080 then { s with evRing := s.evRing.setCtl v }
  else if off = 0x090 then { s with evRing := s.evRing.setTail v }
  else if off = 0x098 then { s with evRing := s.evRing.clearLost v }
  else if 0x060 ≤ off && off < 0x080 && off % 8 = 0 then
    let l := dfield v 15 0
    s.updDie ((off - 0x060) / 8) fun d => { d with didtcap := BitVec.ofNat 16 (if 0 < l && l < 50 then 50 else l) }
  else if 0x400 ≤ off && off < 0x600 && monDword off = 3 && off % 8 = 0 then
    { s with monitors := s.monitors.upd {} (monUnit off) fun m => { m with daddr := BitVec.ofNat 58 (dfield v 63 6) } }
  else s

/-- EN, LOGN and BASE as they read. -/
def Ring.ctl (r : Ring) : Dword := pack [(0, if r.en then 1 else 0), (1, r.logn.toNat), (6, r.base.toNat)]

/-- The four registers of a ring, from the control dword on (R354, Table 4; R376). -/
def Ring.dword (r : Ring) : Nat → Dword
  | 0 => r.ctl
  | 1 => r.head.setWidth 64
  | 2 => r.tail.setWidth 64
  | 3 => r.lost.setWidth 64
  | _ => 0

/-- The four dwords of a capture unit (R378). -/
def Monitor.dword (m : Monitor) : Nat → Dword
  | 0 => m.ctl
  | 1 => pack [(0, m.min.toNat), (32, m.max.toNat)]
  | 2 => m.count.setWidth 64
  | 3 => pack [(6, m.daddr.toNat)]
  | _ => 0

/-- Eight suspect scores, from core `c` on (R356). -/
def State.scoreDword (s : State) (c : Nat) : Dword :=
  BitVec.ofNat 64 (ofBytes ((List.range 8).map fun i => BitVec.ofNat 8 ((s.core (c + i)).scoreNow s.now)))

/-- The device answers only quotes: its boot failed, or it is decommissioned (R380, R382). -/
def State.quotesOnly (s : State) : Bool := s.bootStat = 2 || s.life = .decommissioned

/-- The dword at offset `off` of the management window, as the host reads it: RO and RW registers their value, LOST the events
dropped; WO registers, RSV bits and the offsets that no chapter assigns read 0 (R5, R345, R352, R354, R355, R356, R373, R376, R378,
R380). BOOTSTAT is what shows that the device answers nothing but quotes. -/
def State.mgmtRead (s : State) (off : Nat) : Dword :=
  if off = 0xF00 then s.bootStat
  else if s.quotesOnly || off % 8 != 0 then 0
  else if 0x040 ≤ off && off < 0x060 then s.telRing.dword ((off - 0x040) / 8)
  else if 0x060 ≤ off && off < 0x080 then (s.die ((off - 0x060) / 8)).didtcap.setWidth 64
  else if 0x080 ≤ off && off < 0x0A0 then s.evRing.dword ((off - 0x080) / 8)
  else if 0x100 ≤ off && off < 0x1D0 then if off % 16 = 0 then (s.port ((off - 0x100) / 16)).stat else 0
  else if 0x200 ≤ off && off < 0x240 then (s.stk ((off - 0x200) / 8)).stat
  else if 0x400 ≤ off && off < 0x600 then (s.monitors.get {} (monUnit off)).dword (monDword off)
  else if 0x800 ≤ off && off < 0xE00 then s.scoreDword (off - 0x800)
  else 0

/-- An access of the host to the management window: the host port's next packet in sequence (R122, R345, R348), a write of `v` or a
read, which is answered. A device that answers only quotes takes no write and answers no read but that of BOOTSTAT (R380, R382). -/
def State.mgmtAccess (s : State) (off : Nat) (v : Option Dword) : State :=
  if !(s.port 12).up then s
  else match v with
    | some v => if s.quotesOnly then s.accepted 12 else (s.accepted 12).mgmtWrite off v
    | none =>
      if s.quotesOnly && off != 0xF00 then s.accepted 12
      else (s.accepted 12).reply (BitVec.ofNat 64 off) (bytesOf 8 (s.mgmtRead off).toNat)

/-- REGISTER_WRITE (R5): a write of system register `n` of a core, or an access to the management window at offset `n`: a write where it
has a value, else a read. A core's own reads are `ct.rsr` and `ct.rsrs`. -/
def execRegisterWrite (mgmt : Bool) (core n : Nat) (v : Option Dword) (s : State) : Host.Outcome State Fault Refusal :=
  .next (if mgmt then s.whole (·.mgmtAccess n v)
    else if ownRow n then s
    else match v with
      | some v => State.written (s.sysWrite core n { v := v }) core
      | none => s)

end Sys2Proof.Machine
end

