-- ==== Sys2Proof/Machine/Platform.lean ====
section
/-! DEFINITION. What the device tells its host and what the host asks of it: the event ring (R354, R371), telemetry (R376,
R377), monitors (R378, R379), boot, measurement and quotes (R380, R381), the life cycle (R382), and the wipe of reset
(R368). -/

namespace Sys2Proof.Machine

/-! ## Writes to host memory -/

/-- `n` parts of at most 2 KiB, from offset `i` on. -/
def hostParts (bs : List Byte) (n : Nat) : List (Nat × List Byte) :=
  (List.range n).map fun i => (2048 * i, (bs.drop (2048 * i)).take 2048)

/-- Bytes written at a host address: they leave as packets of at most 2 KiB on the host port, which the host performs in their order
(R347, R348). -/
def State.hostWrite (s : State) (a : Nat) (bs : List Byte) : State :=
  (hostParts bs ((bs.length + 2047) / 2048)).foldl (fun s e =>
    { s.sendHost { va := BitVec.ofNat 64 (a + e.1), bytes := e.2 } with host := s.host.setList 0 ((a + e.1) % 2 ^ 64) e.2 }) s

/-- Dwords as bytes, filled with zeros to whole granules. -/
def granuleBytes (n : Nat) (ds : List Dword) : List Byte :=
  (List.range (8 * n)).flatMap fun i => bytesOf 8 (ds.getD i 0).toNat

/-- Entries of a ring: 2^LOGN, with LOGN at most 20 (R354, R376). -/
def Ring.size (r : Ring) : Nat := 2 ^ min 20 r.logn.toNat
def Ring.at (r : Ring) (i : Nat) : Nat := r.base.toNat * 64 + 64 * ((r.head.toNat + i) % r.size)
/-- HEAD moves on by `n` entries. -/
def Ring.advance (r : Ring) (n : Nat) : Ring := { r with head := BitVec.ofNat 32 ((r.head.toNat + n) % r.size) }
/-- Entries that the host has consumed and that are free to write: one stays free, so that HEAD and TAIL differ (R354,
R376). -/
def Ring.free (r : Ring) : Nat :=
  r.size - 1 - (r.head.toNat % r.size + r.size - r.tail.toNat % r.size) % r.size

/-! ## The event ring (R354, R371) -/

/-- An event as its granules (R354, Table 5). Event 0x3A's third field is the address of its list. -/
def Event.dwords (e : Event) (ngran : Nat) (lost : Bool) (list : Nat) : List Dword :=
  let fs := if e.kind = 0x3A then e.fields.set 2 (BitVec.ofNat 64 list) else e.fields
  pack [(0, e.kind % 256), (8, ngran % 256), (16, if lost then 1 else 0), (24, e.die % 4)] :: BitVec.ofNat 64 e.time :: fs

/-- The granules of an event's record, written one by one. -/
def State.putGranules (s : State) (r : Ring) (i : Nat) : List (List Dword) → State
  | [] => s
  | g :: gs => putGranules (s.hostWrite (r.at i) (granuleBytes 1 g)) r (i + 1) gs

/-- EVENT_RING_WRITE: the oldest event that waits is written, if the ring is enabled, the host port is up, and there is room
for all its granules (R353, R354). NGRAN has 8 bits, so a longer list leaves it open. -/
def State.writeEvent (s : State) : State :=
  match s.evWait with
  | [] => s
  | e :: rest =>
    let r := s.evRing
    if !r.en || !(s.port 12).up || r.free < e.total || s.quotesOnly then s
    else
      let (n, s) := if e.total < 256 then (e.total, s)
        else
          let (v, s) := s.freeDword
          (v.toNat % 256, s)
      let ds := e.dwords n s.evLost (r.at e.ngran)
      let gs := (List.range e.ngran).map fun i => (ds.drop (8 * i)).take 8
      let s := s.putGranules r 0 (gs ++ e.extra)
      { s with evWait := rest, evLost := false, evRing := r.advance e.total }

/-! ## Telemetry (R373, R376, R377) -/

/-- The effective current limit of die `d` (R373): the least that is not zero, or 0. -/
def State.effLimit (s : State) (d : Nat) : Nat :=
  let ls := (s.die d).didtcap.toNat :: s.parts.filterMap fun e => e.2.bind fun p =>
    if p.cores.any (fun c => dieOf c = d) then some p.didt.toNat else none
  (ls.filter (· != 0)).foldl (fun b l => if b = 0 then l else min b l) 0

/-- Mesh cycles between two telemetry records: 850,000 core cycles (R376). -/
def telemetryPeriod : Nat := 1700000

/-- The ends of telemetry intervals that die `x` passes as the time comes to `now`, with limit `l` in force: the limit at each, and
whether the interval has seen one (R377). -/
def Die.passEnds (x : Die) (l now : Nat) : Die :=
  let n := (now - x.telAt) / telemetryPeriod - x.telEnds.length
  let on : Bool := l != 0
  if n = 0 then { x with telLim := x.telLim || on }
  else { x with telEnds := x.telEnds ++ (l, x.telLim || on) :: List.replicate (n - 1) (l, on), telLim := on }

/-- `n` mesh cycles pass. -/
def State.passTime (s : State) (n : Nat) : State :=
  let t := s.now + n
  { (List.range 4).foldl (fun s d => s.updDie d fun x => x.passEnds (s.effLimit d) t) s with now := t }

/-- THRCYC and WHY: the die throttles for at most the interval's 850,000 core cycles, and where it does, each cause that acted is
given; DIDT can act only where a limit was in force (R377). How long it throttled and for which of the causes is free. -/
def throttleWord (w : Dword) (didt : Bool) : Dword :=
  let n := w.toNat % 850001
  let whys := if didt then [1, 2, 3, 4, 5, 6, 7] else [2, 4, 6]
  pack [(0, n), (20, if n = 0 then 0 else whys.getD (w.toNat / 850001 % whys.length) 2)]

/-- TELEMETRY_RECORD: die `d` writes its record, or drops it (R376, R377). What it measures is free, and so is whether a
dropped record takes a number. -/
def State.telemetry (s : State) (d : Nat) : State :=
  let x := s.die d
  let r := s.telRing
  let e := x.telEnds.headD (s.effLimit d, x.telLim)
  if 4 ≤ d || s.now < x.telAt + telemetryPeriod || s.quotesOnly then s
  else
    let s := s.updDie d fun x => { x with telAt := x.telAt + telemetryPeriod, telEnds := x.telEnds.tail }
    if !r.en then s
    else if r.free = 0 then
      let (n, s) := s.choose
      let l := r.lost
      { (s.updDie d fun x => { x with tseq := x.tseq + BitVec.ofNat 32 (n % 2) }) with
        telRing := { r with lost := if l = 0xFFFFFFFF then l else l + 1 } }
    else
      let (p, s) := s.freeDword
      let (i, s) := s.freeDword
      let (t, s) := s.freeDword
      let (w, s) := s.freeDword
      let ds := [pack [(0, x.tseq.toNat), (32, d)], BitVec.ofNat 64 (x.telAt + telemetryPeriod), p,
        BitVec.ofNat 64 (i.toNat % 2 ^ 48), t, throttleWord w e.2, BitVec.ofNat 64 e.1]
      let s := s.hostWrite (r.at 0) (granuleBytes 1 ds)
      { (s.updDie d fun x => { x with tseq := x.tseq + 1 }) with telRing := r.advance 1 }

/-! ## Monitors (R378, R379) -/

def State.monitor (s : State) (u : Nat) : Monitor := s.monitors.get {} u
def State.updMonitor (s : State) (u : Nat) (f : Monitor → Monitor) : State := { s with monitors := s.monitors.upd {} u f }

def Monitor.dump (m : Monitor) : Bool := dfield m.ctl 21 21 = 1

/-- A 32-bit count, saturating. -/
def satInc (v : BitVec 32) : BitVec 32 := if v = 0xFFFFFFFF then v else v + 1

/-- The bin of a sample (R378). -/
def Monitor.binOf (m : Monitor) (v : BitVec 32) : Nat :=
  Nat.min 31 ((v.toNat - dfield m.ctl 63 32) / 2 ^ dfield m.ctl 19 15)

/-- A sample is counted (R378). -/
def Monitor.sample (m : Monitor) (v : BitVec 32) : Monitor :=
  { m with
    min := if v.toNat < m.min.toNat then v else m.min
    max := if m.max.toNat < v.toNat then v else m.max
    count := satInc m.count
    bins := m.bins.upd 0 (m.binOf v) satInc }

/-- Every latency that has ended is binned. -/
def Monitor.flush (m : Monitor) : Monitor := { m.due.foldl Monitor.sample m with due := [] }

/-- MONITOR_SAMPLE: capture unit `u` bins a sample (R378): the oldest latency that it has observed, for SRC 0 to 5; the die's current,
`v`, once in 256 core cycles, for SRC 6; the die's temperature, `v`, for SRC 7. SRC 8 to 15 are never sampled. -/
def State.monSample (s : State) (u : Nat) (v : BitVec 32) : State :=
  let m := s.monitor u
  if 16 ≤ u || !m.en || s.quotesOnly then s
  else if m.src ≤ 5 then match m.due with
    | [] => s
    | x :: r => s.updMonitor u fun m => { m.sample x with due := r }
  else if m.src = 6 then
    if s.now < m.last + coreCycles 256 then s else s.updMonitor u fun m => { m.sample v with last := s.now }
  else if m.src = 7 then s.updMonitor u (·.sample v)
  else s

/-- A write of dword 0 of a capture unit at mesh cycle `now`; EN going from 0 to 1 clears the statistics, and DUMP stays 1 until the
dump is written (R378). -/
def Monitor.setCtl (m : Monitor) (v : Dword) (now : Nat) : Monitor :=
  let keep := dfield v 21 0 ||| (if m.dump then 0x200000 else 0)
  let c := pack [(0, keep), (32, dfield v 63 32)]
  if !m.en && dfield v 20 20 = 1 then { ctl := c, daddr := m.daddr, last := now } else { m.flush with ctl := c }

/-- MONITOR_ENABLE: the host's write of dword 0 of unit `u`. -/
def State.monEnable (s : State) (u : Nat) (v : Dword) : State :=
  if 16 ≤ u || s.quotesOnly || !(s.port 12).up then s else (s.accepted 12).updMonitor u (·.setCtl v s.now)

/-- The three granules of a dump (R378; log entry 14). -/
def Monitor.image (m : Monitor) : List Byte :=
  granuleBytes 1 [pack [(0, m.min.toNat), (32, m.max.toNat)], pack [(0, m.count.toNat)]]
    ++ (List.range 32).flatMap fun b => bytesOf 4 (m.bins.get 0 b).toNat

/-- MONITOR_DUMP: a requested dump is written as one snapshot, and DUMP clears (R378, R379). -/
def State.monDump (s : State) (u : Nat) : State :=
  let m := s.monitor u
  if 16 ≤ u || !m.dump || s.quotesOnly then s
  else (s.hostWrite (m.daddr.toNat * 64) m.image).updMonitor u fun m => { m with ctl := m.ctl &&& ~~~(0x200000 : Dword) }

/-! ## Boot and attestation (R380, R381) -/

/-- A digest extended into a measurement register (R381). -/
def extendMeas (m d : BitVec 384) : BitVec 384 := Config.sha384 (bytesOf 48 m.toNat ++ bytesOf 48 d.toNat)

/-- The SHA-384 of each image extended into the register that the manifest gives it, in the manifest's order (R381). -/
def State.measure (s : State) : List FwImage → State
  | [] => s
  | d :: ds => measure { s with meas := s.meas.upd 0 (d.reg % 4) fun m => extendMeas m (Config.sha384 d.bytes) } ds

/-- Both signatures over the image verify against the public keys. -/
def fwSigned (x : FwImage) (pubs : List Byte × List Byte) : Bool :=
  Config.edVerify pubs.1 x.bytes x.ed && Config.mlVerify pubs.2 x.bytes x.ml

/-- The public keys are those whose hashes the fuses hold, and both signatures over every image verify (R380). -/
def State.verified (s : State) (pubs : List Byte × List Byte) (images : List FwImage) : Bool :=
  Config.keyHash pubs.1 = s.fuseEd && Config.keyHash pubs.2 = s.fuseMl && images.all (fwSigned · pubs)

/-- BOOT_VERIFY (R380): firmware is measured and runs, or the device stays in its boot ROM. -/
def State.bootVerify (s : State) (pubs : List Byte × List Byte) (images : List FwImage) : State :=
  if s.bootStat != 1 then s
  else if s.verified pubs images then { s.measure images with bootStat := 3 }
  else { s with bootStat := 2 }

/-- Position along the life cycle (R382). -/
def Life.rank : Life → Nat
  | .manufacture => 0
  | .develop => 1
  | .production => 2
  | .return_ => 3
  | .decommissioned => 4

/-- What a quote says (R381): the nonce, the four measurements, the life-cycle state and the device identifier. -/
def State.quoteBody (s : State) (nonce : BitVec 256) : List Byte :=
  bytesOf 32 nonce.toNat ++ ((List.range 4).flatMap fun i => bytesOf 48 (s.meas.get 0 i).toNat)
    ++ bytesOf 8 (Config.lifeCode s.life.rank).toNat ++ s.devId

/-- Both signatures over what a quote says (R381). -/
def signatures (bs : List Byte) : List Byte := bytesOf 64 (Config.edSign bs).toNat ++ bytesOf 3309 (Config.mlSign bs).toNat

/-- QUOTE_REQUEST (R381): a request that is written replaces the one pending; with none written, the one pending is
answered. -/
def State.quoteStep (s : State) (req : Option (BitVec 256 × Dword)) : State :=
  match req, s.quote with
  | some r, _ => if (s.port 12).up then { s.accepted 12 with quote := some r } else s
  | none, none => s
  | none, some (nonce, a) =>
    let body := s.quoteBody nonce
    { (s.hostWrite a.toNat (body ++ signatures body)) with quote := none }

/-! ## Reset and the life cycle (R21, R22, R368, R382) -/

/-- What a wipe leaves: everything as after reset, under fresh keys, but for host memory, the fuses, the device identifier, the life
cycle and the model's own fields. -/
def State.wiped (s : State) (l : Life) : State :=
  { State.reset with
    fresh := s.fresh, oracle := s.oracle, agenda := s.agenda, host := s.host, life := l, keyGen := s.keyGen + 1
    fuseEd := s.fuseEd, fuseMl := s.fuseMl, devId := s.devId }

/-- The logical banks of a core at boot (R21, R22): VREGS counts 16 for each bank that is left, and a core with none is
quarantined. -/
def bootBanks (v : BitVec 4) : Core :=
  let n := (List.range 4).countP fun i => v.toNat / 2 ^ i % 2 = 1
  { vbmap := v, vregs := BitVec.ofNat 7 (16 * n), quarantined := n = 0 }

/-- Boot leaves core `c` the banks `v`; a core that it quarantines is named by event 0x32 (R22, R363). -/
def State.bootCore (s : State) (c : Nat) (v : BitVec 4) : State :=
  let s := s.setCore c (bootBanks v)
  if (bootBanks v).quarantined then s.event 0x32 (dieOf c) [c, 0] else s

/-- RESET_WIPE (R22, R368): `banks` names the cores whose banks boot has mapped out, and the banks that are left. -/
def State.resetWipe (s : State) (banks : List (Nat × BitVec 4)) : State :=
  banks.foldl (fun s e => if e.1 < numCores then s.bootCore e.1 e.2 else s) (s.wiped s.life)

def Life.ofRank : Nat → Life
  | 0 => .manufacture
  | 1 => .develop
  | 2 => .production
  | 3 => .return_
  | _ => .decommissioned

/-- What boot found of a core stays as it was. -/
def State.keepBanks (s old : State) : State := old.cores.foldl (fun s e => s.bootCore e.1 e.2.vbmap) s

/-- LIFECYCLE_TRANSITION (R382): forward only, with a token that carries both signatures; the device is wiped. -/
def State.lifeStep (s : State) (target : Nat) (token : Bool) : State :=
  if token && s.life.rank < target && target ≤ 4 && s.bootStat != 2 then (s.wiped (Life.ofRank target)).keepBanks s else s

/-! ## The rows -/

def execEventRingWrite (s : State) : Host.Outcome State Fault Refusal := .next (s.whole State.writeEvent)
def execTelemetryRecord (die : Nat) (s : State) : Host.Outcome State Fault Refusal := .next (s.whole (·.telemetry die))
def execMonitorSample (unit : Nat) (v : BitVec 32) (s : State) : Host.Outcome State Fault Refusal := .next (s.monSample unit v)
def execMonitorEnable (unit : Nat) (v : Dword) (s : State) : Host.Outcome State Fault Refusal :=
  .next (s.monEnable unit v)
def execMonitorDump (unit : Nat) (s : State) : Host.Outcome State Fault Refusal := .next (s.whole (·.monDump unit))
def execBootVerify (pubs : List Byte × List Byte) (images : List FwImage) (s : State) : Host.Outcome State Fault Refusal :=
  .next (s.bootVerify pubs images)
def execQuoteRequest (req : Option (BitVec 256 × Dword)) (s : State) : Host.Outcome State Fault Refusal :=
  .next (s.whole (·.quoteStep req))
def execLifecycleTransition (target : Nat) (token : Bool) (s : State) : Host.Outcome State Fault Refusal :=
  .next (s.lifeStep target token)
def execResetWipe (banks : List (Nat × BitVec 4)) (s : State) : Host.Outcome State Fault Refusal := .next (s.resetWipe banks)

end Sys2Proof.Machine
end

