-- ==== Sys2Proof/Machine/Firmware.lean ====
section
/-! DEFINITION. What firmware does at the request of system software: partitions (R13, R368), label and diagram spaces
(R250, R252, R283, R284, R286), data windows (R345), bound peer ports (R346) and shared keys (R89). A request that breaks
one of these rules is not carried out. -/

namespace Sys2Proof.Machine

/-- Firmware serves requests: it runs, and the device is not decommissioned (R380, R382). -/
def State.fwRuns (s : State) : Bool := s.bootStat = 3 && s.life != .decommissioned

/-- Partition `p` exists. -/
def State.hasPart (s : State) (p : Nat) : Bool := (s.parts.get none p).isSome

/-! ## Partitions (R13, R368) -/

/-- Two rectangles share a core. -/
def Part.overlaps (p q : Part) : Bool := p.x0 < q.x0 + q.w && q.x0 < p.x0 + p.w && p.y0 < q.y0 + q.h && q.y0 < p.y0 + p.h

/-- A rectangle of whole clusters of the package (R13). -/
def Part.legal (p : Part) : Bool :=
  p.x0 % 4 = 0 && p.y0 % 4 = 0 && p.w % 4 = 0 && p.h % 4 = 0 && p.w != 0 && p.h != 0 && p.x0 + p.w ≤ 48 && p.y0 + p.h ≤ 32

/-- The homes of a partition are wiped, under fresh keys (R368). -/
def State.wipeHomes (s : State) (p : Part) : State :=
  { s with
    keyGen := s.keyGen + 1
    mem := s.mem.filter fun e => !p.holds (paHome e.1)
    mtags := s.mtags.filter fun e => !p.holds (paHome (64 * e.1))
    mkeys := s.mkeys.filter fun e => !p.holds (paHome (64 * e.1))
    mstat := s.mstat.filter fun e => !p.holds (paHome (64 * e.1)) }

/-- Scratchpad, operand memory, buffer descriptors and BFMT registers of a core are wiped (R368); its save areas lie in its
home. -/
def Core.wiped (k : Core) : Core :=
  { k with
    spad := [], stags := [], sbad := [], slots := [], bfmt := [], areas := [], image := {}
    ctx := { k.ctx with bufs := [], accs := [] } }

/-- PARTITION_CREATE (R13, R64, R68, R368). -/
def State.createPart (s : State) (n : Nat) (p : Part) : State :=
  if !s.fwRuns || 32 ≤ n || s.hasPart n || !p.legal || s.parts.any (fun e => e.2.any p.overlaps) then s
  else
    let s := s.wipeHomes p
    let s := p.cores.foldl (fun s c => s.updCore c (·.wiped)) s
    (s.setPart n (some p)).refreshDfv n

/-- Nothing of the partition is under way: no instance, no task, no request and no grant. -/
def State.partIdle (s : State) (n : Nat) : Bool :=
  let p := s.part n
  p.insts.all (fun e => match e.2 with
    | some x => x.done
    | none => true)
  && p.attempt.isNone
  && p.cores.all (fun c => (s.core c).idle && (s.core c).resv = .idle && s.reqs.all (·.core != c))
  && s.reqs.all (·.part != n) && s.msgs.all (·.task.part != n)

/-- PARTITION_DESTROY (R13): its translations, bound ports and identity go with it. -/
def State.destroyPart (s : State) (n : Nat) : State :=
  if !s.fwRuns || !s.hasPart n || !s.partIdle n then s
  else
    let keep (t : Tlb) : Bool := t.part != n
    { s.setPart n none with
      cores := s.cores.foldl (fun m e => m.set {} e.1 { e.2 with tlb := e.2.tlb.filter keep }) s.cores
      clusters := s.clusters.foldl (fun m e => m.set {} e.1 { e.2 with tlb := e.2.tlb.filter keep }) s.clusters
      ports := s.ports.foldl (fun m e =>
        m.set {} e.1 { e.2 with bound := if e.2.bound = some n then none else e.2.bound }) s.ports }

/-! ## Label spaces (R250, R252, R283) -/

/-- Ranges meet. -/
def rangesMeet (a b : Nat × Nat) : Bool := a.1 < b.2 && b.1 < a.2

/-- A region of `n` bytes from `lo` on lies in whole granules of the partition's homes, below 240 MiB of each, outside its other regions
(R252, R286, R364). -/
def regionFits (p : Part) (lo n : Nat) (ok : Nat → Bool) : Bool :=
  lo % 64 = 0 && paOff lo < regionTop && (regionRanges 24 lo n).all fun x =>
    p.holds (paHome x.1) && ok (paHome x.1) && p.regions.all fun r => !rangesMeet x r

/-- LABEL_SPACE_CREATE: the header is at its reset values and every entry is free (R250, R283). The region lies in one home,
below 240 MiB (R364). -/
def State.createLSpace (s : State) (p n : Nat) (x : LSpace) : State :=
  let q := s.part p
  match q.dspaces.get none x.dsp with
  | none => s
  | some d =>
    if !s.fwRuns || !s.hasPart p || 8 ≤ n || (q.lspaces.get none n).isSome || x.limit = 0 || 65534 < x.limit || x.na = 0 || 64 < x.na
        || d.tied != some n || d.nv < x.na || !regionFits q x.base x.bytes (fun _ => true) || regionTop < paOff x.base + x.bytes then s
    else s.updPart p fun q => { q with lspaces := q.lspaces.set none n (some x) }

/-- LABEL_SPACE_DESTROY (R283). -/
def State.destroyLSpace (s : State) (p n : Nat) : State :=
  if s.fwRuns && s.hasPart p then s.updPart p fun q => { q with lspaces := q.lspaces.set none n none } else s

/-! ## Diagram spaces (R284, R286) -/

/-- Spaces that the Carillon of die `d` holds. -/
def State.dieSpaces (s : State) (d : Nat) : Nat :=
  s.parts.foldl (fun n e => match e.2 with
    | some p => n + p.dspaces.countP fun x => match x.2 with
      | some y => y.die = d
      | none => false
    | none => n) 0

/-- The initial order names every variable once. -/
def orderOk (nv : Nat) (order : List Nat) : Bool := order.length = nv && (List.range nv).all order.contains

/-- A tied label space that exists has no more assumptions than the space has variables. -/
def tieOk (q : Part) (nv : Nat) : Option Nat → Bool
  | none => true
  | some m => m < 8 && (match q.lspaces.get none m with
    | some l => l.na ≤ nv
    | none => true)

/-- DIAGRAM_SPACE_CREATE (R284, R286). -/
def State.createDSpace (s : State) (p n : Nat) (x : DSpace) : State :=
  let q := s.part p
  if !s.fwRuns || !s.hasPart p || 8 ≤ n || (q.dspaces.get none n).isSome || 4 ≤ x.die || !q.cores.any (fun c => dieOf c = x.die)
      || 8 ≤ s.dieSpaces x.die || x.nv = 0 || 4096 < x.nv || x.nn = 0 || 2 ^ 28 ≤ x.nn || x.logNb < 4 || 28 < x.logNb
      || !orderOk x.nv x.order || !tieOk q x.nv x.tied
      || !regionFits q x.base x.bytes (fun h => dieOf h = x.die) then s
  else s.updPart p fun q => { q with dspaces := q.dspaces.set none n (some x) }

/-- DIAGRAM_SPACE_DESTROY: the region is wiped (R284). A space to which a label space is tied stays. -/
def State.destroyDSpace (s : State) (p n : Nat) : State :=
  let q := s.part p
  match q.dspaces.get none n with
  | none => s
  | some x =>
    if !s.fwRuns || q.lspaces.any (fun e => match e.2 with
        | some l => l.dsp = n
        | none => false) then s
    else (regionRanges 24 x.base x.bytes).foldl (fun s r => s.wipeRange r.1 r.2)
      (s.updPart p fun q => { q with dspaces := q.dspaces.set none n none })

/-! ## Windows, ports and keys (R89, R345, R346) -/

/-- DATA_WINDOW_SETUP: up to 8 windows, each onto a range of the partition's virtual space; length 0 removes one. -/
def State.setWindow (s : State) (p w base len : Nat) : State :=
  if !s.fwRuns || !s.hasPart p || 8 ≤ w || 2 ^ 48 < base + len then s
  else s.updPart p fun q => { q with windows := q.windows.set none w (if len = 0 then none else some (base, len)) }

/-- PEER_INBOUND_BIND: a peer port is bound to a partition, or to none. -/
def State.bindPort (s : State) (port : Nat) (p : Option Nat) : State :=
  if !s.fwRuns || 12 ≤ port || p.any (fun n => !s.hasPart n) then s
  else s.updPort port fun x => { x with bound := p }

/-- SHARED_KEY_GRANT: keys 1 to 3 are the shared keys. -/
def State.grantKey (s : State) (p key : Nat) : State :=
  if !s.fwRuns || !s.hasPart p || key = 0 || 4 ≤ key then s
  else s.updPart p fun q => { q with keys := q.keys ||| BitVec.ofNat 4 (2 ^ key) }

/-! ## The rows -/

def execPartitionCreate (part x0 y0 w h maxNodes : Nat) (s : State) : Host.Outcome State Fault Refusal :=
  .next (s.createPart part { x0 := x0, y0 := y0, w := w, h := h, maxNodes := maxNodes, curX := x0, curY := y0 })
def execPartitionDestroy (part : Nat) (s : State) : Host.Outcome State Fault Refusal := .next (s.destroyPart part)
def execLabelSpaceCreate (part n na limit dsp base : Nat) (s : State) : Host.Outcome State Fault Refusal :=
  .next (s.createLSpace part n { na := na, limit := limit, dsp := dsp, base := base })
def execLabelSpaceDestroy (part n : Nat) (s : State) : Host.Outcome State Fault Refusal := .next (s.destroyLSpace part n)
def execDiagramSpaceCreate (part n die nv nn logNb base : Nat) (order : List Nat) (tied : Option Nat) (s : State) :
    Host.Outcome State Fault Refusal :=
  .next (s.createDSpace part n { die := die, nv := nv, nn := nn, tied := tied, logNb := logNb, order := order, base := base })
def execDiagramSpaceDestroy (part n : Nat) (s : State) : Host.Outcome State Fault Refusal := .next (s.destroyDSpace part n)
def execDataWindowSetup (part win base len : Nat) (s : State) : Host.Outcome State Fault Refusal :=
  .next (s.setWindow part win base len)
def execPeerInboundBind (port : Nat) (part : Option Nat) (s : State) : Host.Outcome State Fault Refusal :=
  .next (s.bindPort port part)
def execSharedKeyGrant (part key : Nat) (s : State) : Host.Outcome State Fault Refusal := .next (s.grantKey part key)

end Sys2Proof.Machine
end

