-- ==== Sys2Proof/Machine/Links.lean ====
section
/-! DEFINITION. Svetim Link (R345 to R353): training and lanes, sequence numbers, acknowledgement and replay, inbound
packets, and host accesses through data windows. -/

namespace Sys2Proof.Machine

/-! ## Events (R353, Table 3) -/

def evDegraded : Nat := 0x20
def evRetrained : Nat := 0x21
def evDown : Nat := 0x22
def evUp : Nat := 0x23
def evRefused : Nat := 0x24

/-- A link event of port `p`. -/
def State.linkEvent (s : State) (kind p : Nat) (fields : List Nat) : State :=
  s.event kind (Config.portDie p % 4) (p :: fields)

/-- Mesh cycles of one millisecond and of two microseconds (R376: 1 ms is 850,000 core cycles). -/
def cyclesMs : Nat := 1700000
def cycles2us : Nat := 3400

/-! ## Lanes (R349) -/

/-- What the lanes that have not failed allow: 16 lanes, 8 of half 0 or 1, or nothing. -/
def lanesOf (failed : BitVec 16) : Option (Nat × Bool) :=
  if failed = 0 then some (16, false)
  else if failed.toNat % 256 = 0 then some (8, false)
  else if failed.toNat / 256 = 0 then some (8, true)
  else none

/-- A saturating 16-bit and 32-bit count (R352). -/
def satInc16 (v : BitVec 16) : BitVec 16 := if v = 0xFFFF then v else v + 1
def satInc32 (v : BitVec 32) : BitVec 32 := if v = 0xFFFFFFFF then v else v + 1

/-- Everything unacknowledged is sent again (R348). -/
def LinkPort.replayAll (p : LinkPort) (now : Nat) : LinkPort := { p with replays := satInc32 p.replays, sentAt := now }

/-- The port has trained: it carries traffic again, on the lanes it has, with the mask that the peer advertised (R351). A
training after the first counts as a retrain, and replays. -/
def LinkPort.trained (p : LinkPort) (w : Nat × Bool) (mask : BitVec 4) (now : Nat) : LinkPort :=
  let q : LinkPort := { p with up := true, training := none, lanes := BitVec.ofNat 5 w.1, half := w.2, meth := mask ||| 1 }
  if p.meth = 0 then q else { q.replayAll now with retrains := satInc16 q.retrains }

/-- LANE_FAILURE: at 16 lanes the port keeps the other half and retrains; a failure in the half in use takes it down; one in
the half already dropped changes nothing (R349). -/
def State.laneFails (s : State) (p lane : Nat) : State :=
  let x := s.port p
  if 13 ≤ p || 16 ≤ lane then s
  else
    let failed := x.failed ||| BitVec.ofNat 16 (2 ^ lane)
    let s := s.updPort p fun x => { x with failed := failed }
    if x.isDown then s
    else match lanesOf x.failed, lanesOf failed with
      | some (16, _), some (_, h) =>
        (s.updPort p fun x => { x with up := false, lanes := 8, half := h, training := some s.now }).linkEvent evDegraded p
          [lane, if h then 1 else 0]
      | some _, none =>
        (s.updPort p fun x => { x with up := false, lanes := 0, half := false, training := none, downAt := s.now }).linkEvent
          evDown p [x.peerAck.toNat]
      | _, _ => s

/-- Mesh cycles as nanoseconds. -/
def nsOf (cycles : Nat) : Nat := cycles * 10 / 17

/-- LINK_RETRAIN_COMPLETE: training ends, and the port resumes with a replay (R349, R353). -/
def State.retrained (s : State) (p : Nat) (mask : BitVec 4) : State :=
  let x := s.port p
  match x.training, lanesOf x.failed with
  | some t, some w =>
    let s := s.updPort p fun x => x.trained w mask s.now
    if x.lanes = 0 then s.linkEvent evUp p [w.1] else s.linkEvent evRetrained p [w.1, nsOf (s.now - t)]
  | _, _ => s

/-- LINK_TRAIN_RETRY: a port that is down tries again every millisecond (R349). -/
def State.trainRetry (s : State) (p : Nat) (ok : Bool) (mask : BitVec 4) : State :=
  let x := s.port p
  if 13 ≤ p || !x.isDown || s.now < x.downAt + cyclesMs then s
  else
    let s := s.updPort p fun x => { x with downAt := s.now }
    match ok, lanesOf x.failed with
    | true, some w => (s.updPort p fun x => x.trained w mask s.now).linkEvent evUp p [w.1]
    | _, _ => s

/-! ## Commands that use the port (R350) -/

/-- A started XCOPY on port `p` that has not ended with LINK. -/
def Copy.uses (k : Copy) (p : Nat) : Bool := k.cmd = 7 && k.started && k.port = p && k.done != some eLink

/-- Cores whose head command is such an XCOPY. -/
def State.xcopies (s : State) (p : Nat) : List Nat :=
  s.cores.filterMap fun e => match e.2.ctx.copies with
    | k :: _ => if k.uses p then some e.1 else none
    | [] => none

/-- XFORM nodes end such an XCOPY with LINK. -/
def Part.endXforms (q : Part) (p : Nat) : Part :=
  { q with xforms := q.xforms.map fun x => if x.copy.uses p then { x with copy := { x.copy with done := some eLink } } else x }

/-- Every XCOPY that waits on the port ends with LINK, its DBYTES as acknowledged so far. -/
def State.endXcopies (s : State) (p : Nat) : State :=
  let s := s.parts.keys.foldl (fun s q => s.updPart q (·.endXforms p)) s
  (s.xcopies p).foldl (fun s c => match (s.ctx c).copies with
    | k :: _ => s.copyPut c { k with done := some eLink }
    | [] => s) s

/-- Sequence numbers and buffers as at a fresh start (R352). -/
def LinkPort.fresh (x : LinkPort) : LinkPort :=
  { x with txSeq := 0, replay := [], rxSeq := 0, naked := false, lastAck := 0, peerAck := 0, refused := [] }

/-- LCTL_RESET: sequence numbers, buffers and lane state restart, and the port trains at 16 lanes (R350, R352). -/
def State.portReset (s : State) (p : Nat) : State :=
  if 13 ≤ p then s
  else (s.endXcopies p).updPort p fun x =>
    { x.fresh with up := false, lanes := 0, half := false, failed := 0, training := some s.now }

/-- PEER_RESET: the device at the other end starts afresh (R350). -/
def State.peerReset (s : State) (p : Nat) : State :=
  if 12 ≤ p then s else (s.endXcopies p).updPort p LinkPort.fresh

/-! ## Acknowledgement and replay (R348, R350) -/

/-- A command whose packet `n` is acknowledged counts its bytes, or ends with LINK where the peer refused it. -/
def Copy.acked (k : Copy) (n : BitVec 32) (refused : Bool) : Copy :=
  match k.unacked with
  | (m, b) :: rest =>
    if k.cmd != 7 || m != n then k
    else if refused then { k with unacked := rest, done := some eLink }
    else { k with unacked := rest, dbytes := k.dbytes + b }
  | [] => k

/-- One packet is acknowledged to the command that sent it, a core's or an XFORM node's. -/
def State.ackPacket (s : State) (q : Packet) (refused : Bool) : State :=
  if q.host then s
  else match q.node with
  | some (p, i, n) => s.updPart p fun r => { r with
      xforms := r.xforms.map fun x => if x.inst = i && x.node = n then { x with copy := x.copy.acked q.seq refused } else x }
  | none => match (s.ctx q.core).copies with
    | k :: _ => if k.acked q.seq refused = k then s else s.copyPut q.core (k.acked q.seq refused)
    | [] => s

/-- LINK_ACK_RECEIVE: every packet up to `n` is acknowledged and leaves the replay buffer; the peer refused packet `n` where
`refused` says so. -/
def State.linkAck (s : State) (p : Nat) (n : BitVec 32) (refused : Bool) : State :=
  let x := s.port p
  if !x.up || !x.replay.any (·.seq = n) then s
  else
    let old := x.replay.takeWhile (·.seq != n)
    let last := x.replay.filter (·.seq = n)
    let s := s.updPort p fun x => { x with
      replay := x.replay.drop (old.length + 1), peerAck := n, sentAt := s.now }
    last.foldl (fun s q => s.ackPacket q refused) (old.foldl (fun s q => s.ackPacket q false) s)

/-- LINK_NAK_RECEIVE: the sender replays from its first unacknowledged packet. -/
def State.linkNak (s : State) (p : Nat) : State :=
  if (s.port p).up then s.updPort p (·.replayAll s.now) else s

/-- LINK_ACK_TIMEOUT: 2 µs without an acknowledgement. -/
def State.ackTimeout (s : State) (p : Nat) : State :=
  let x := s.port p
  if x.up && !x.replay.isEmpty && x.sentAt + cycles2us ≤ s.now then s.updPort p (·.replayAll s.now) else s

/-! ## Inbound packets (R346, R348, R350) -/

/-- The reason that an event or a status names (Table 5 of "Memory as programs see it"); 0 for poison (R354). -/
def reasonOf (t : Trap) : Nat := if t.cause = 6 then 0 else t.reason.toNat

/-- A write from outside the device at virtual address `a` of partition `p`, or the reason of its refusal (R346). -/
def State.outsideWrite (s : State) (p : Nat) (a : Dword) (bs : List Byte) : State × Option Nat :=
  match s.devWrite p a bs with
  | (s, e) => (s, e.map reasonOf)

/-- A read from outside: its bytes go to the host (R346). -/
def State.outsideRead (s : State) (p : Nat) (a : Dword) (n : Nat) : State × Option Nat :=
  match s.devRead p a n with
  | (s, .ok bs) => (s.reply a bs, none)
  | (s, .error t) => (s, some (reasonOf t))

/-- The port refuses the packet of command `cmd`: it performs none of the command's later packets (R350). -/
def State.refusePacket (s : State) (p cmd : Nat) (va : Dword) (reason : Nat) : State :=
  ((s.accepted p).updPort p fun x => { x with refused := cmd :: x.refused.filter (· != cmd) }).linkEvent evRefused p
    [va.toNat, reason]

/-- The bytes of a packet as home memory takes them: a home accepts no method packed (R320, R351). None where they are malformed. -/
def LinkData.expanded (d : LinkData) : Option (List Byte) :=
  (expandPayload d.meth d.elen (d.bytes.map (·, []))).map fun e => e.1.map (·.1)

/-- LINK_PACKET_RECEIVE: a packet in sequence is performed or refused; any other is discarded, one after a gap with one
negative acknowledgement (R348). The packets of the host port are host accesses, which have a row of their own. -/
def State.packet (s : State) (p : Nat) (seq : BitVec 32) (cmd : Nat) (va : Dword) (d : LinkData) : State :=
  let x := s.port p
  if 13 ≤ p || !x.up then s
  else if seq != x.rxSeq then
    if (seq - x.rxSeq).toNat < 2 ^ 31 then s.updPort p fun x => { x with naked := true } else s
  else if p = 12 then s
  else if d.bytes.isEmpty then s.accepted p
  else if x.refused.contains cmd then s.accepted p
  else match x.bound, (LinkData.expanded d) with
    | none, _ | _, none =>
      let (n, s) := s.choose
      s.refusePacket p cmd va (n % 256)
    | some q, some bs => match s.outsideWrite q va bs with
      | (s, some r) => s.refusePacket p cmd va r
      | (s, none) => s.accepted p

/-! ## Data windows (R345, R346) -/

/-- HOST_WINDOW_ACCESS: the host port's next packet in sequence (R122, R348) is an access at offset `off` of a data window. A
refused one performs nothing, is answered by an error response, and writes event 0x14. -/
def State.hostAccess (s : State) (p w off : Nat) (write : Bool) (bs : List Byte) : State :=
  match (s.part p).windows.get none w with
  | none => s
  | some (base, len) =>
    if !(s.port 12).up || bs.isEmpty || len < off + bs.length then s
    else
      let va : Dword := BitVec.ofNat 64 (base + off)
      match (if write then s.outsideWrite p va bs else s.outsideRead p va bs.length) with
      | (s, none) => s.accepted 12
      | (s, some r) => ((s.accepted 12).replyError va).partEvent p evHostRefused [off, r]

/-! ## The rows -/

def execHostWindowAccess (part win off : Nat) (write : Bool) (bytes : List Byte) (s : State) : Host.Outcome State Fault Refusal :=
  .next (s.whole (·.hostAccess part win off write bytes))
def execLinkPacketReceive (port : Nat) (seq : BitVec 32) (cmd : Nat) (va : Dword) (data : LinkData) (s : State) :
    Host.Outcome State Fault Refusal := .next (s.whole (·.packet port seq cmd va data))
def execLinkAckReceive (port : Nat) (n : BitVec 32) (refused : Bool) (s : State) : Host.Outcome State Fault Refusal :=
  .next (s.whole (·.linkAck port n refused))
def execLinkNakReceive (port : Nat) (_n : BitVec 32) (s : State) : Host.Outcome State Fault Refusal := .next (s.linkNak port)
def execLinkAckTimeout (port : Nat) (s : State) : Host.Outcome State Fault Refusal := .next (s.ackTimeout port)
def execLaneFailure (port lane : Nat) (s : State) : Host.Outcome State Fault Refusal := .next (s.laneFails port lane)
def execLinkRetrainComplete (port : Nat) (mask : BitVec 4) (s : State) : Host.Outcome State Fault Refusal :=
  .next (s.retrained port mask)
def execLinkTrainRetry (port : Nat) (ok : Bool) (mask : BitVec 4) (s : State) : Host.Outcome State Fault Refusal :=
  .next (s.trainRetry port ok mask)
def execLctlReset (port : Nat) (s : State) : Host.Outcome State Fault Refusal :=
  .next (s.whole (·.portReset port))
def execPeerReset (port : Nat) (s : State) : Host.Outcome State Fault Refusal :=
  .next (s.whole (·.peerReset port))

end Sys2Proof.Machine
end

