-- ==== Sys2Proof/Machine/Register.lean ====
section
/-! DEFINITION. Registration of a code segment as executable (R137): its pages and words are read and scanned (R91, R23), and it
is registered or leaves a scan-fault record. -/

namespace Sys2Proof.Machine

/-- The page at `va` has X, as a walk finds it (R91). Whether it permits reads does not matter. -/
def State.pageX (s : State) (p va : Nat) : Bool :=
  let a : Dword := BitVec.ofNat 64 va
  match (s.walk (s.part p) va a).2 with
  | .error _ => false
  | .ok (e, big) => dfield e 3 3 = 1 && (match s.leafCheck (s.part p) .read a big e with
    | none => true
    | some t => t = permissionFault rRead a)

/-- First words, by offset, of the 64 KiB pages that the segment touches and that lack X. -/
def State.pagesNoX (s : State) (p va len : Nat) : List Viol :=
  (List.range ((va + len - 1) / 0x10000 + 1 - va / 0x10000)).filterMap fun k =>
    let page := (va / 0x10000 + k) * 0x10000
    if s.pageX p page then none else some (page - va, 17)

/-- The bytes of a segment in address order, up to the first page that cannot be read: at most `fuel` pages, from offset `o`. -/
def State.segmentBytes (s : State) (p va len o : Nat) : Nat → State × List Byte
  | 0 => (s, [])
  | k + 1 =>
    let n := min (len - o) (0x10000 - (va + o) % 0x10000)
    if n = 0 then (s, [])
    else match s.codeBytes p (va + o) n with
      | (s, none) => (s, [])
      | (s, some bs) => match segmentBytes s p va len (o + n) k with
        | (s, r) => (s, bs ++ r)

/-- The scan of `len` bytes at `va`, at most three pages: the violation reported, if any. A page without X is a violation at its
first word, where a lower code of that word goes before it; a page that cannot be read ends the scan as one without X (log
entry 58). -/
def State.scan (s : State) (a : ScanArg) (p va len : Nat) : State × Option Viol :=
  match s.segmentBytes p va len 0 3 with
  | (s, bs) =>
    let n := bs.length
    let cut := n < len
    (s, firstViol (scanWords a cut {} 0 (wordsOf n bs) ++ s.pagesNoX p va len ++ if cut then [(n, 17)] else []))

/-- A scan-fault record (R137, Table 6). -/
def scanRecord (v : Viol) : Dword := pack [(0, v.1), (32, v.2)]

/-- VREGS of the declaration block at `a` (R335, Table 4); 0 where it cannot be read (log entry 58). -/
def State.declaredVregs (s : State) (p a : Nat) : State × Nat :=
  match s.devRead p (BitVec.ofNat 64 a) 8 with
  | (s, .ok bs) => (s, dfield (BitVec.ofNat 64 (ofBytes bs)) 25 19)
  | (s, .error _) => (s, 0)

/-- VERS of the image entry at `a` (R334, Table 2): the profiles that the object declares for it; none where it cannot be read (log
entry 58). -/
def State.declaredVers (s : State) (p a : Nat) : State × Dword :=
  match s.devRead p (BitVec.ofNat 64 (a + 16)) 8 with
  | (s, .ok bs) => (s, BitVec.ofNat 64 (ofBytes bs))
  | (s, .error _) => (s, 0)

/-- SCAN_SEGMENT (R137, R150, R333): an accepted segment is registered; a refused one leaves its record. The declared vector need
is VREGS of the declaration block at `decl` (R23, R335), and the declared profiles are those of the image entry at `entry`. -/
def State.scanSegment (s : State) (p : Nat) (h : Half) (priv va len decl entry : Nat) : State :=
  if (s.parts.get none p).isNone || va % 4 != 0 || len % 4 != 0 || len = 0 || 0x20000 < len || 2 ^ 48 < va + len || 3 ≤ priv then s
  else match s.declaredVregs p decl with
  | (s, need) => match s.declaredVers p entry with
  | (s, vers) =>
    let g : Seg := { half := h, va := va, len := len, priv := priv, need := need, vers := vers }
    match s.scan { half := h, priv := priv, need := need, prof := declaredProfiles vers } p va len with
    | (s, none) => s.updPart p fun q => { q with
        segs := q.segs.filter (fun x => { x with need := need, vers := vers } != g) ++ [g] }
    | (s, some v) => s.updPart p fun q => { q with scanFaults := q.scanFaults ++ [(g, scanRecord v)] }

/-- SCAN_SEGMENT. -/
def execScanSegment (part : Nat) (h : Half) (priv va len decl entry : Nat) (s : State) :
    Host.Outcome State Fault Refusal := .next (s.whole (·.scanSegment part h priv va len decl entry))

end Sys2Proof.Machine
end

