-- ==== Sys2Proof/Machine/Reliability.lean ====
section
/-! DEFINITION. Containment: rollback (R357 to R359), duplex pairing and verdicts (R360 to R362), suspect scores and
quarantine (R356, R363), layer map-out (R364), refresh and temperature (R365), the field test (R366, R371), and replay of
recordings (R367). -/

namespace Sys2Proof.Machine

/-! ## Rollback (R359) -/

/-- What the gang has sent or logged in the superstep is forgotten: its logs, requests, replies, messages, block sums and
duplex items. -/
def State.forget (s : State) (t : Task) : State :=
  let mine (c : Nat) : Bool := (s.core c).inGang t
  let s := s.updPart t.part fun p => { p with
    held := p.held.filter fun h => !mine h.core
    items := (p.items.filter fun e => !(e.inst = t.inst && e.node = t.node && e.partner = t.partner)).map fun e =>
      if e.inst = t.inst && e.node = t.node then { e with paired := false } else e }
  { s with
    reqs := s.reqs.filter fun r => !mine r.core, gone := s.gone.filter fun r => !mine r.core, refusals := s.refusals.filter fun r => !mine r.1
    replies := s.replies.filter fun r => !mine r.1, msgs := s.msgs.filter fun m => !m.task.sameGang t
    bsums := s.bsums.filter fun b => !mine b.sender, bsumBuf := s.bsumBuf.filter fun b => !mine b.target }

/-- A granule of the snapshot area of core `c` is poisoned (R357, R359). -/
def State.snapBad (s : State) (p c : Nat) : Bool :=
  let o := (s.part p).snapbase.toNat * 0x10000
  s.mstat.any fun e => e.2 = .uncorrectable && paHome (64 * e.1) = c && o ≤ paOff (64 * e.1) && paOff (64 * e.1) < o + snapBytes

/-- The members of the gang of `t` that have been evicted in the superstep: core and save area (R78). -/
def State.evictedOf (s : State) (t : Task) : List (Nat × Nat) :=
  (s.node t.part t.inst t.node).oldPlaces.filter fun e => ((s.core e.1).area e.2).task.sameGang t

/-- The evicted member in area `a` of core `c` will resume from its snapshot: its log and what has come for it since are gone (R359). -/
def State.undoSaved (s : State) (t : Task) (c a : Nat) : State :=
  let v := (s.core c).area a
  match v.snap with
  | none => s
  | some z =>
    let s := s.updCore c (·.updArea a fun v => { v with
      undone := true, fin := false, held := [], spill := [], irrev := false, atomDone := false, hash := 0, items := 0 })
    let s := s.putAreas c
    if v.fin then s.updNode t.part t.inst t.node fun n => { n with
      finCount := n.finCount - 1, trigCount := if z.ctx.triggered then n.trigCount else n.trigCount - 1 }
    else s

/-- ROLLBACK: core `c`, which has consumed poison in a protected gang or has been halted with the one that has, is its gang's (R359). -/
def State.rollBack (s : State) (c : Nat) : State :=
  let k := s.core c
  match k.poisoned, k.task with
  | some a, some t =>
    let nd := s.node t.part t.inst t.node
    let cs := t.members.filter fun m => (s.core m).inGang t
    let es := s.evictedOf t
    let calm (s : State) : State := cs.foldl (fun s m => s.updCore m fun k => { k with poisoned := none }) s
    if k.ended || nd.ending.isSome then calm s
    else if cs.any (fun m => (s.core m).irrev) || es.any (fun e => ((s.core e.1).area e.2).irrev) then (calm s).kill t 1
    else if cs.any (s.snapBad t.part) || es.any (fun e => s.snapBad t.part e.1) then (calm s).kill t 4
    else
      let s := s.event 0x33 (s.part t.part).die [t.node, t.inst, nd.superstep, a.toNat]
      let s := es.foldl (fun s e => s.undoSaved t e.1 e.2) (s.forget t)
      cs.foldl (fun s m => s.restoreMember t m) s
  | _, _ => s

/-! ## Duplex items (R361) -/

/-- Two items of one place: the same item of one partner. -/
def Item.same (a b : Item) : Bool :=
  a.part = b.part && a.inst = b.inst && a.node = b.node && a.partner = b.partner && a.member = b.member && a.index = b.index

/-- The other partner's item of the same place. -/
def Item.mate (a b : Item) : Bool :=
  a.part = b.part && a.inst = b.inst && a.node = b.node && a.partner + b.partner = 1 && a.member = b.member && a.index = b.index

def State.updItem (s : State) (e : Item) (f : Item → Item) : State :=
  s.updPart e.part fun p => { p with items := p.items.map fun x => if x.same e then f x else x }

/-- The task that an item belongs to. -/
def State.itemTask (s : State) (e : Item) : Task :=
  (s.node e.part e.inst e.node).partnerTask { part := e.part, inst := e.inst, node := e.node, duplex := true } e.partner

/-- A mismatch is noted; it takes effect once both partners stand (R362). -/
def State.noteMismatch (s : State) (e : Item) : State :=
  s.updNode e.part e.inst e.node fun n => { n with mismatch := true }

/-- An atomic of which both partners have sent the same request is to be performed once, for both (R361). -/
def State.pairAtomic (s : State) (a b : Item) : State :=
  match a.req, b.req with
  | some r, some q =>
    let (s, v) := if r.vec.isSome then (s, r.vec) else s.stamp r.core r.loc
    { s with reqs := s.reqs ++ [{ r with twin := some (q.core, q.id), vec := v }] }
  | _, _ => s

/-- An item that has arrived meets the other partner's, if that has arrived too: they pair, or they differ (R361). -/
def State.meet (s : State) (e : Item) : State :=
  match s.allItems.find? fun x => x.mate e && x.arrived && !x.paired with
  | none => s
  | some o =>
    if o.hash != e.hash then s.noteMismatch e
    else
      let s := (s.updItem e fun x => { x with paired := true }).updItem o fun x => { x with paired := true }
      if e.partner = 0 then s.pairAtomic e o else s.pairAtomic o e

/-- DUPLEX_ITEM_ARRIVE: item `i` reaches its router, which pairs it (R361), unless the partners stand before their verdict. -/
def State.itemArrives (s : State) (i : Nat) : State :=
  match s.allItems[i]? with
  | none => s
  | some e =>
    if e.arrived then s
    else
      let s := s.updItem e fun x => { x with arrived := true }
      if (s.node e.part e.inst e.node).tiebreak then s else (s.meet e).tryDuplex (s.itemTask e)

/-- DUPLEX_PAIR_TIMEOUT: item `i` has been unpaired for 2^20 mesh cycles (R361). -/
def State.itemTimeout (s : State) (i : Nat) : State :=
  match s.allItems[i]? with
  | none => s
  | some e =>
    if e.arrived && !e.paired && e.partner < 2 && e.sentAt + 2 ^ 20 ≤ s.now then (s.noteMismatch e).tryDuplex (s.itemTask e) else s

/-! ## Verdicts (R362, Table 4) -/

/-- Members of two gangs of one shape, pairwise. -/
def gangPairs (a b : Gang) : List (Nat × Nat) := (rectCores a.ox a.oy a.gw a.gh).zip (rectCores b.ox b.oy b.gw b.gh)

/-- Cores of the first gang whose item hashes differ from those of the second. -/
def State.differ (s : State) (a b : Gang) : List Nat :=
  (gangPairs a b).filterMap fun e =>
    if (s.core e.1).hash = (s.core e.2).hash && (s.core e.1).items = (s.core e.2).items then none else some e.1

/-- A gang leaves its cores, which are free; its run is entered in the lists of its clusters (R362, R366). -/
def State.releaseGang (s : State) (t : Task) : State :=
  let nd := s.node t.part t.inst t.node
  let cs := t.members.filter fun c => (s.core c).inGang t
  let s := (s.logGang t.part t.inst t.node { nd with gangs := [{ ox := t.ox, oy := t.oy, gw := t.gw, gh := t.gh }] }).forget t
  cs.foldl (fun s c => s.updCore c fun k => ({ (k.freeSlots) with
    task := none, finished := none, snap := none, record := none, poisoned := none, evict := false, ctx := {} }).rest) s

/-- Partner `q` of the node becomes the one that `f` names: its members, its items, unpaired again, and its messages. -/
def State.renumber (s : State) (t : Task) (gs : List Gang) (f : Nat → Nat) : State :=
  let mine (u : Task) : Bool := u.part = t.part && u.inst = t.inst && u.node = t.node
  let new (u : Task) : Task := if mine u then { u with partner := f u.partner } else u
  let s := (gs.flatMap (·.cores)).foldl (fun s c => s.updCore c fun k => { k with task := k.task.map new, finished := k.finished.map new }) s
  let s := s.updPart t.part fun p => { p with items := p.items.map fun e =>
    if e.inst = t.inst && e.node = t.node then { e with partner := f e.partner, paired := false } else e }
  { s with msgs := s.msgs.map fun m => { m with task := new m.task } }

/-- A lost vote raises a core's score; at THRESH the core is quarantined (R356, R362, R363). -/
def State.loseVote (s : State) (p c : Nat) : State :=
  let q := s.part p
  s.updCore c fun k =>
    let n := min 255 (k.scoreNow s.now + q.dupInc.toNat)
    { k with score := n, scoreAt := s.now, quarantine := k.quarantine || q.dupThresh.toNat ≤ n }

/-- Small items packed into dwords, the first lowest (R354). -/
def packItems (bits per : Nat) (xs : List Nat) : List Nat :=
  (List.range ((xs.length + per - 1) / per)).map fun i =>
    ((xs.drop (per * i)).take per).foldr (fun x a => x % 2 ^ bits + 2 ^ bits * a) 0

/-- Every item of partner 0 that has arrived meets its equal. -/
def State.meetAll (s : State) (t : Task) : State :=
  ((s.part t.part).items.filter fun e => e.inst = t.inst && e.node = t.node && e.partner = 0 && e.arrived).foldl State.meet s

/-- The node goes on with partners `a` and `b`, which agree, in the places of P0 and P1; `c` is released. Their items pair anew: what
they hold is performed at the trick that they stand at, and an atomic that one of them waits for before it (R361, R362). -/
def State.settleVerdict (s : State) (t : Task) (a b c : Task) (lost : List Nat) : State :=
  let nd := s.node t.part t.inst t.node
  let (w, s) := s.choose
  let s := lost.foldl (fun s m => s.loseVote t.part m) s
  let die := (lost.head?.map dieOf).getD (s.part t.part).die
  let s := s.event 0x31 die ([nd.superstep, w % 2 ^ 64, lost.length] ++ packItems 16 4 lost
    ++ [lost.length] ++ packItems 8 8 (lost.map fun m => (s.core m).score))
  let g (u : Task) : Gang := { ox := u.ox, oy := u.oy, gw := u.gw, gh := u.gh }
  let s := (s.releaseGang c).renumber t [g a, g b] fun q => if q = a.partner then 0 else if q = b.partner then 1 else q
  let gone (u : Task) : Nat := u.members.countP fun m => (s.core m).task.isNone
  let trig (u : Task) : Nat := u.members.countP fun m => (s.core m).task.isNone || (s.ctx m).triggered
  let s := s.updNode t.part t.inst t.node fun n => { n with
    gangs := [g a, g b], tiebreak := false, mismatch := false, finCount := gone a + gone b, trigCount := trig a + trig b }
  ((s.meetAll t).tryDuplex t).completeNode t

/-- VERDICT: the tiebreak gang has run its superstep, and its hashes decide (R362, Table 4). -/
def State.giveVerdict (s : State) (p i n : Nat) : State :=
  let nd := s.node p i n
  let t : Task := { part := p, inst := i, node := n, duplex := true }
  let t0 := nd.partnerTask t 0
  let t1 := nd.partnerTask t 1
  let t2 := nd.partnerTask t 2
  match nd.gangs with
  | [g0, g1, g2] =>
    if !nd.tiebreak || nd.phase != .running || nd.ending.isSome || !t2.members.all (s.stands t2)
        || s.reqs.any (fun r => t2.members.any r.isOf) then s
    else match s.differ g0 g2, s.differ g1 g2 with
      | [], [] => s.settleVerdict t t0 t1 t2 []
      | [], l1 => s.settleVerdict t t0 t2 t1 l1
      | l0, [] => s.settleVerdict t t1 t2 t0 l0
      | _, _ => s.kill t 2
  | _ => s

/-! ## Scores and quarantine (R356, R363) -/

/-- SCORE_DECAY. -/
def State.decay (s : State) (c : Nat) : State :=
  let k := s.core c
  if k.score = 0 || s.now < k.scoreAt + decayPeriod then s
  else s.updCore c fun k => { k with score := k.score - 1, scoreAt := k.scoreAt + decayPeriod }

/-- QUARANTINE: at its gang boundary the core leaves the logical map; its partition's feature vector is computed again
(R363). -/
def State.quarantineAt (s : State) (c : Nat) : State :=
  let k := s.core c
  if !k.quarantine || !k.idle || k.resv != .idle then s
  else
    let s := (s.updCore c fun k => { k with quarantine := false, quarantined := true }).event 0x32 (dieOf c) [c, k.scoreNow s.now]
    match s.partOf c with
    | some p => s.refreshDfv p
    | none => s

/-! ## Layer map-out (R364) -/

def stackEvent (s : State) (kind k : Nat) (fields : List Nat) : State := s.event kind (k / 2) (k :: fields)

/-- Home offset of the window that a map-out removes (R364). -/
def topWindow : Nat := 0xF000000

/-- Granules of the stack's homes at or past an offset lose their contents. -/
def State.loseTop (s : State) (k : Nat) : State :=
  let lost (pa : Nat) : Bool := stackOf (paHome pa) = k && topWindow ≤ paOff pa
  { s with
    mem := s.mem.filter fun e => !lost e.1
    mtags := s.mtags.filter fun e => !lost (64 * e.1)
    mstat := s.mstat.filter fun e => !lost (64 * e.1) }

/-- LAYERWARN: step 1 of Table 5. -/
def State.layerWarn (s : State) (k layer : Nat) : State :=
  let x := s.stk k
  if 8 ≤ k || 16 ≤ layer || x.mapped || x.state != 0 then s
  else stackEvent (s.updStk k fun x => { x with state := 1, failing := layer, warnAt := s.now }) 0x35 k [layer]

/-- Mesh cycles of one second. -/
def cyclesS : Nat := 1700000000

/-- LAYER_ACK_TIMEOUT: firmware proceeds to step 3 after 1 s. -/
def State.ackOver (s : State) (k : Nat) : State :=
  let x := s.stk k
  if x.state = 1 && x.warnAt + cyclesS ≤ s.now then s.updStk k fun x => { x with state := 2 } else s

/-- Step 4: the stack shrinks, its homes to 240 MiB; event 0x36 names the window and the poisoned granules. -/
def State.mapOut (s : State) (k layer poisoned : Nat) : State :=
  let s := (s.loseTop k).updStk k fun x => { x with
    capGib := 45, mapl := BitVec.ofNat 4 layer, mapped := true, state := if x.state = 3 then 3 else 0, srPrev := 0 }
  stackEvent s 0x36 k [topWindow, poisoned]

/-- LAYER_REMAP_COMPLETE: the copy of step 3 has ended. -/
def State.remapDone (s : State) (k : Nat) : State :=
  let x := s.stk k
  if x.state = 2 then s.mapOut k x.failing 0 else s

/-- LAYER_ABRUPT_FAILURE: the granules of the layer that were lost read as poisoned, and firmware goes to step 4 at once; a
stack that has mapped out a layer before has none left to stand in (R364). -/
def State.layerGone (s : State) (k layer : Nat) (lost : List Nat) : State :=
  if 8 ≤ k || 16 ≤ layer then s
  else
    let gs := (lost.filter fun g => stackOf (paHome (64 * g)) = k && paOff (64 * g) / 0x1000000 = layer
      && paHome (64 * g) < numCores).eraseDups
    let s := gs.foldl (fun s g => s.setMemStat g .uncorrectable) s
    if (s.stk k).mapped then stackEvent s 0x36 k [layer * 0x1000000, gs.length]
    else s.mapOut k layer gs.length

/-! ## Refresh and temperature (R365) -/

/-- REFRESH_TAKEOVER. -/
def State.takeover (s : State) (k : Nat) : State :=
  if 8 ≤ k || (s.stk k).fallback then s
  else stackEvent (s.updStk k fun x => { x with fallback := true }) 0x37 k [s.now]

/-- SRENTER. -/
def State.srEnter (s : State) (k temp : Nat) : State :=
  if 8 ≤ k || (s.stk k).state = 3 then s
  else stackEvent (s.updStk k fun x => { x with state := 3, srPrev := x.state, srAt := s.now, srOver := false }) 0x38 k [temp]

/-- SELF_REFRESH_TIMEOUT: 50 ms after entry. -/
def State.srTimeout (s : State) (k : Nat) : State :=
  let x := s.stk k
  if x.state = 3 && x.srAt + 85000000 ≤ s.now then s.updStk k fun x => { x with srOver := true } else s

/-- Every access that stack `k` holds ends with the stack-unavailable fault (R365). -/
def State.endHeld (s : State) (k : Nat) : State :=
  (s.reqs.filter fun r => match r.loc with
    | .mem pa => stackOf (paHome pa) = k
    | .spad _ _ => false).foldl (fun s r => if s.reqs.contains r then ({ s with reqs := s.reqs.erase r } : State).serveGone r else s) s

/-- SREXIT: the stack stands where it stood before, and what it held can be performed, unless 50 ms have passed. -/
def State.srExit (s : State) (k temp : Nat) : State :=
  let s := if (s.stk k).state = 3 && (s.stk k).over s.now then s.endHeld k else s
  if (s.stk k).state != 3 then s
  else stackEvent (s.updStk k fun x => { x with state := x.srPrev, srPrev := 0, srOver := false }) 0x39 k [temp]

/-! ## The field test (R366, R371) -/

/-- The gang list of event 0x3A (R371). -/
def gangList (x : Cluster) (now : Nat) : List (List Dword) :=
  [pack [(0, x.gangs.length), (11, if x.gangOvf then 1 else 0)], BitVec.ofNat 64 x.passAt, BitVec.ofNat 64 now] ::
    x.gangs.map fun g =>
      let f (i : Nat) : Nat := g.getD i 0
      [pack [(0, f 2), (16, f 1), (32, f 0)], BitVec.ofNat 64 (f 3), BitVec.ofNat 64 (f 4), pack [(0, f 5), (32, f 6)]]

/-- FIELD_TEST: a cluster all of whose cores are idle is tested; the cores that a failure implicates are quarantined. -/
def State.fieldTest (s : State) (k : Nat) (bad : List Nat) : State :=
  let cs := clusterCores k
  let x := s.cluster k
  if 96 ≤ k || !cs.all (fun c => (s.core c).idle && (s.core c).resv = .idle) then s
  else match cs.filter bad.contains with
    | [] => s.updCluster k fun x => { x with gangs := [], gangOvf := false, passAt := s.now }
    | cores =>
      let s := cores.foldl (fun s c => s.updCore c fun k => { k with quarantine := true }) s
      s.post { kind := 0x3A, die := dieOf (cs.headD 0), time := s.now
               fields := [BitVec.ofNat 64 k, BitVec.ofNat 64 (s.now - x.passAt), 0], extra := gangList x s.now }

/-! ## Replay (R367) -/

/-- RECORD_REPLAY: the next input of core `c` comes from the record ring: the value's bytes, then its tag. The oldest load or atomic
of the core is answered with it in place of memory; where none is outstanding, it waits for the next other input (R367). -/
def State.replayInput (s : State) (c : Nat) (bytes : List Byte) : State :=
  let input (r : Req) : Bool := r.core = c && (match r.kind with
    | .store _ _ => false
    | _ => true)
  match s.life.benchOpen, s.reqs.find? input with
  | true, some r =>
    let n := r.len
    let tag : Tag := BitVec.ofNat 16 (ofBytes ((bytes.drop n).take 2))
    let s := { s with reqs := s.reqs.erase r }
    match r.kind with
    | .load j => s.updCtx c (·.setPiece r.id j { bytes := (List.range n).map fun i => bytes.getD i 0, tag := tagOf tag })
    | .atomic _ ty _ _ _ _ => { s with replies := s.replies ++ [(c, r.id, { v := atOld ty (ofBytes (bytes.take n)), t := tagOf tag })] }
    | .store _ _ => s
  | true, none =>
    let e : Dword × Tag := (BitVec.ofNat 64 (ofBytes (bytes.take 8)), BitVec.ofNat 16 (ofBytes ((bytes.drop 8).take 2)))
    s.updCore c fun k => { k with record := some ((k.record.getD { stopped := true }) |> fun r => { r with replay := r.replay ++ [e] }) }
  | false, _ => s

/-! ## The rows -/

def execRollback (core : Nat) (s : State) : Host.Outcome State Fault Refusal := .next (s.whole (·.rollBack core))
def execDuplexItemArrive (i : Nat) (s : State) : Host.Outcome State Fault Refusal := .next (s.whole (·.itemArrives i))
def execDuplexPairTimeout (i : Nat) (s : State) : Host.Outcome State Fault Refusal := .next (s.whole (·.itemTimeout i))
def execVerdict (part inst node : Nat) (s : State) : Host.Outcome State Fault Refusal :=
  .next (s.whole (·.giveVerdict part inst node))
def execScoreDecay (core : Nat) (s : State) : Host.Outcome State Fault Refusal := .next (s.decay core)
def execQuarantine (core : Nat) (s : State) : Host.Outcome State Fault Refusal := .next (s.quarantineAt core)
def execLayerwarn (stack layer : Nat) (s : State) : Host.Outcome State Fault Refusal := .next (s.layerWarn stack layer)
/-- STKCTL_ACK (R355, R364). -/
def execStkctlAck (stack : Nat) (s : State) : Host.Outcome State Fault Refusal := .next (s.stkAck stack 1)
def execLayerAckTimeout (stack : Nat) (s : State) : Host.Outcome State Fault Refusal := .next (s.ackOver stack)
def execLayerRemapComplete (stack : Nat) (s : State) : Host.Outcome State Fault Refusal := .next (s.remapDone stack)
def execLayerAbruptFailure (stack layer : Nat) (lost : List Nat) (s : State) : Host.Outcome State Fault Refusal :=
  .next (s.layerGone stack layer lost)
def execRefreshTakeover (stack : Nat) (s : State) : Host.Outcome State Fault Refusal := .next (s.takeover stack)
def execSrenter (stack temp : Nat) (s : State) : Host.Outcome State Fault Refusal := .next (s.srEnter stack temp)
def execSelfRefreshTimeout (stack : Nat) (s : State) : Host.Outcome State Fault Refusal := .next (s.srTimeout stack)
def execSrexit (stack temp : Nat) (s : State) : Host.Outcome State Fault Refusal := .next (s.srExit stack temp)
/-- STACK_RESET: refresh returns to the management core (R365). -/
def execStackReset (stack : Nat) (s : State) : Host.Outcome State Fault Refusal :=
  .next (s.updStk stack fun x => { x with fallback := false })
def execFieldTest (cluster : Nat) (bad : List Nat) (s : State) : Host.Outcome State Fault Refusal :=
  .next (s.fieldTest cluster bad)
def execRecordReplay (core : Nat) (bytes : List Byte) (s : State) : Host.Outcome State Fault Refusal :=
  .next (s.replayInput core bytes)

end Sys2Proof.Machine
end

