-- ==== Sys2Proof/Machine/Dispatch.lean ====
section
/-! DEFINITION. The meaning of every instruction word and of every step of the device, one arm each. -/

namespace Sys2Proof.Machine

/-- What instruction `i` does at state `s`. -/
def exec (i : Instr) (s : State) : Host.Outcome State Fault Refusal :=
  match i with
  | .move w => Sys2Proof.Machine.execMove w s
  | .queueDrop w => Sys2Proof.Machine.execQueueDrop w s
  | .limm w => Sys2Proof.Machine.execLimm w s
  | .sched w => Sys2Proof.Machine.execSched w s
  | .modx w => Sys2Proof.Machine.execModx w s
  | .brk w => Sys2Proof.Machine.execBrk w s
  | .nop w => Sys2Proof.Machine.execNop w s
  | .alAdd w => Sys2Proof.Machine.execAlAdd w s
  | .alSub w => Sys2Proof.Machine.execAlSub w s
  | .alAnd w => Sys2Proof.Machine.execAlAnd w s
  | .alOr w => Sys2Proof.Machine.execAlOr w s
  | .alXor w => Sys2Proof.Machine.execAlXor w s
  | .alAndn w => Sys2Proof.Machine.execAlAndn w s
  | .alShl w => Sys2Proof.Machine.execAlShl w s
  | .alShr w => Sys2Proof.Machine.execAlShr w s
  | .alSar w => Sys2Proof.Machine.execAlSar w s
  | .alRol w => Sys2Proof.Machine.execAlRol w s
  | .alMin w => Sys2Proof.Machine.execAlMin w s
  | .alMax w => Sys2Proof.Machine.execAlMax w s
  | .alMinu w => Sys2Proof.Machine.execAlMinu w s
  | .alMaxu w => Sys2Proof.Machine.execAlMaxu w s
  | .alSel w => Sys2Proof.Machine.execAlSel w s
  | .alClz w => Sys2Proof.Machine.execAlClz w s
  | .alCtz w => Sys2Proof.Machine.execAlCtz w s
  | .alPopc w => Sys2Proof.Machine.execAlPopc w s
  | .alBswap w => Sys2Proof.Machine.execAlBswap w s
  | .alExt w => Sys2Proof.Machine.execAlExt w s
  | .alIns w => Sys2Proof.Machine.execAlIns w s
  | .alSext w => Sys2Proof.Machine.execAlSext w s
  | .alEq w => Sys2Proof.Machine.execAlEq w s
  | .alNe w => Sys2Proof.Machine.execAlNe w s
  | .alLt w => Sys2Proof.Machine.execAlLt w s
  | .alLe w => Sys2Proof.Machine.execAlLe w s
  | .alLtu w => Sys2Proof.Machine.execAlLtu w s
  | .alLeu w => Sys2Proof.Machine.execAlLeu w s
  | .alTst w => Sys2Proof.Machine.execAlTst w s
  | .alFadd w => Sys2Proof.Machine.execAlFadd w s
  | .alFsub w => Sys2Proof.Machine.execAlFsub w s
  | .alFmul w => Sys2Proof.Machine.execAlFmul w s
  | .alFma w => Sys2Proof.Machine.execAlFma w s
  | .alFmin w => Sys2Proof.Machine.execAlFmin w s
  | .alFmax w => Sys2Proof.Machine.execAlFmax w s
  | .alFeq w => Sys2Proof.Machine.execAlFeq w s
  | .alFlt w => Sys2Proof.Machine.execAlFlt w s
  | .alFle w => Sys2Proof.Machine.execAlFle w s
  | .alCvt w => Sys2Proof.Machine.execAlCvt w s
  | .alFcls w => Sys2Proof.Machine.execAlFcls w s
  | .mdMul w => Sys2Proof.Machine.execMdMul w s
  | .mdMulu w => Sys2Proof.Machine.execMdMulu w s
  | .mdMulsu w => Sys2Proof.Machine.execMdMulsu w s
  | .mdDiv w => Sys2Proof.Machine.execMdDiv w s
  | .mdDivu w => Sys2Proof.Machine.execMdDivu w s
  | .mdMulw w => Sys2Proof.Machine.execMdMulw w s
  | .mdDivw w => Sys2Proof.Machine.execMdDivw w s
  | .mdDivuw w => Sys2Proof.Machine.execMdDivuw w s
  | .vxAdd w => Sys2Proof.Machine.execVxAdd w s
  | .vxSub w => Sys2Proof.Machine.execVxSub w s
  | .vxMul w => Sys2Proof.Machine.execVxMul w s
  | .vxFma w => Sys2Proof.Machine.execVxFma w s
  | .vxFms w => Sys2Proof.Machine.execVxFms w s
  | .vxFnma w => Sys2Proof.Machine.execVxFnma w s
  | .vxMin w => Sys2Proof.Machine.execVxMin w s
  | .vxMax w => Sys2Proof.Machine.execVxMax w s
  | .vxAbs w => Sys2Proof.Machine.execVxAbs w s
  | .vxNeg w => Sys2Proof.Machine.execVxNeg w s
  | .vxAnd w => Sys2Proof.Machine.execVxAnd w s
  | .vxOr w => Sys2Proof.Machine.execVxOr w s
  | .vxXor w => Sys2Proof.Machine.execVxXor w s
  | .vxAndn w => Sys2Proof.Machine.execVxAndn w s
  | .vxShl w => Sys2Proof.Machine.execVxShl w s
  | .vxShr w => Sys2Proof.Machine.execVxShr w s
  | .vxSar w => Sys2Proof.Machine.execVxSar w s
  | .vxEq w => Sys2Proof.Machine.execVxEq w s
  | .vxNe w => Sys2Proof.Machine.execVxNe w s
  | .vxLt w => Sys2Proof.Machine.execVxLt w s
  | .vxLe w => Sys2Proof.Machine.execVxLe w s
  | .vxSel w => Sys2Proof.Machine.execVxSel w s
  | .vxPerm w => Sys2Proof.Machine.execVxPerm w s
  | .vxShuf w => Sys2Proof.Machine.execVxShuf w s
  | .vxRot w => Sys2Proof.Machine.execVxRot w s
  | .vxIota w => Sys2Proof.Machine.execVxIota w s
  | .vxRsum w => Sys2Proof.Machine.execVxRsum w s
  | .vxRmax w => Sys2Proof.Machine.execVxRmax w s
  | .vxRmin w => Sys2Proof.Machine.execVxRmin w s
  | .vxRandb w => Sys2Proof.Machine.execVxRandb w s
  | .vxRorb w => Sys2Proof.Machine.execVxRorb w s
  | .vxRxorb w => Sys2Proof.Machine.execVxRxorb w s
  | .vxRcp w => Sys2Proof.Machine.execVxRcp w s
  | .vxRsqrt w => Sys2Proof.Machine.execVxRsqrt w s
  | .vxExp2 w => Sys2Proof.Machine.execVxExp2 w s
  | .vxDiv w => Sys2Proof.Machine.execVxDiv w s
  | .vxSqrt w => Sys2Proof.Machine.execVxSqrt w s
  | .vxCvt w => Sys2Proof.Machine.execVxCvt w s
  | .vxCvts w => Sys2Proof.Machine.execVxCvts w s
  | .vxPack w => Sys2Proof.Machine.execVxPack w s
  | .vxUnpk w => Sys2Proof.Machine.execVxUnpk w s
  | .vxT5un w => Sys2Proof.Machine.execVxT5un w s
  | .vxI4un w => Sys2Proof.Machine.execVxI4un w s
  | .vxBfpk w => Sys2Proof.Machine.execVxBfpk w s
  | .vxBfun w => Sys2Proof.Machine.execVxBfun w s
  | .vxMulh w => Sys2Proof.Machine.execVxMulh w s
  | .vxAvg w => Sys2Proof.Machine.execVxAvg w s
  | .vxPopc w => Sys2Proof.Machine.execVxPopc w s
  | .vxClz w => Sys2Proof.Machine.execVxClz w s
  | .vxIns w => Sys2Proof.Machine.execVxIns w s
  | .vxAny w => Sys2Proof.Machine.execVxAny w s
  | .vxAll w => Sys2Proof.Machine.execVxAll w s
  | .vxBlend w => Sys2Proof.Machine.execVxBlend w s
  | .vxCls w => Sys2Proof.Machine.execVxCls w s
  | .vxDot w => Sys2Proof.Machine.execVxDot w s
  | .vxRndi w => Sys2Proof.Machine.execVxRndi w s
  | .mxClaim w => Sys2Proof.Machine.execMxClaim w s
  | .mxRelease w => Sys2Proof.Machine.execMxRelease w s
  | .mxFill w => Sys2Proof.Machine.execMxFill w s
  | .mxMma w => Sys2Proof.Machine.execMxMma w s
  | .mxMmat w => Sys2Proof.Machine.execMxMmat w s
  | .mxDrain w => Sys2Proof.Machine.execMxDrain w s
  | .mxBsum w => Sys2Proof.Machine.execMxBsum w s
  | .mxZero w => Sys2Proof.Machine.execMxZero w s
  | .mxTeam w => Sys2Proof.Machine.execMxTeam w s
  | .mxProg w => Sys2Proof.Machine.execMxProg w s
  | .lbAssume w => Sys2Proof.Machine.execLbAssume w s
  | .lbJoin w => Sys2Proof.Machine.execLbJoin w s
  | .lbMerge w => Sys2Proof.Machine.execLbMerge w s
  | .lbContra w => Sys2Proof.Machine.execLbContra w s
  | .lbCommit w => Sys2Proof.Machine.execLbCommit w s
  | .lbHolds w => Sys2Proof.Machine.execLbHolds w s
  | .lbTag w => Sys2Proof.Machine.execLbTag w s
  | .lbRetag w => Sys2Proof.Machine.execLbRetag w s
  | .lbEnvs w => Sys2Proof.Machine.execLbEnvs w s
  | .lbEnv w => Sys2Proof.Machine.execLbEnv w s
  | .lbCount w => Sys2Proof.Machine.execLbCount w s
  | .lbMin w => Sys2Proof.Machine.execLbMin w s
  | .lbCensus w => Sys2Proof.Machine.execLbCensus w s
  | .lbCtlset w => Sys2Proof.Machine.execLbCtlset w s
  | .lbCtlget w => Sys2Proof.Machine.execLbCtlget w s
  | .lbSpace w => Sys2Proof.Machine.execLbSpace w s
  | .clVar w => Sys2Proof.Machine.execClVar w s
  | .clIte w => Sys2Proof.Machine.execClIte w s
  | .clApply w => Sys2Proof.Machine.execClApply w s
  | .clNot w => Sys2Proof.Machine.execClNot w s
  | .clRestrict w => Sys2Proof.Machine.execClRestrict w s
  | .clExists w => Sys2Proof.Machine.execClExists w s
  | .clCount w => Sys2Proof.Machine.execClCount w s
  | .clWcount w => Sys2Proof.Machine.execClWcount w s
  | .clSat w => Sys2Proof.Machine.execClSat w s
  | .clRef w => Sys2Proof.Machine.execClRef w s
  | .clUnref w => Sys2Proof.Machine.execClUnref w s
  | .clSwap w => Sys2Proof.Machine.execClSwap w s
  | .clSize w => Sys2Proof.Machine.execClSize w s
  | .clGc w => Sys2Proof.Machine.execClGc w s
  | .clMincount w => Sys2Proof.Machine.execClMincount w s
  | .msSend w => Sys2Proof.Machine.execMsSend w s
  | .msPut w => Sys2Proof.Machine.execMsPut w s
  | .msPoll w => Sys2Proof.Machine.execMsPoll w s
  | .msChan w => Sys2Proof.Machine.execMsChan w s
  | .ctJmp w => Sys2Proof.Machine.execCtJmp w s
  | .ctCall w => Sys2Proof.Machine.execCtCall w s
  | .ctRet w => Sys2Proof.Machine.execCtRet w s
  | .ctLoop w => Sys2Proof.Machine.execCtLoop w s
  | .ctWait w => Sys2Proof.Machine.execCtWait w s
  | .ctFence w => Sys2Proof.Machine.execCtFence w s
  | .ctTrick w => Sys2Proof.Machine.execCtTrick w s
  | .ctBar w => Sys2Proof.Machine.execCtBar w s
  | .ctTrigger w => Sys2Proof.Machine.execCtTrigger w s
  | .ctLaunch w => Sys2Proof.Machine.execCtLaunch w s
  | .ctExit w => Sys2Proof.Machine.execCtExit w s
  | .ctWdrive w => Sys2Proof.Machine.execCtWdrive w s
  | .ctRsr w => Sys2Proof.Machine.execCtRsr w s
  | .ctWsr w => Sys2Proof.Machine.execCtWsr w s
  | .ctEret w => Sys2Proof.Machine.execCtEret w s
  | .ctRsrs w => Sys2Proof.Machine.execCtRsrs w s
  | .ctWsrs w => Sys2Proof.Machine.execCtWsrs w s
  | .agLd w => Sys2Proof.Machine.execAgLd w s
  | .agLds w => Sys2Proof.Machine.execAgLds w s
  | .agSt w => Sys2Proof.Machine.execAgSt w s
  | .agSts w => Sys2Proof.Machine.execAgSts w s
  | .agStd w => Sys2Proof.Machine.execAgStd w s
  | .agStds w => Sys2Proof.Machine.execAgStds w s
  | .agStrm w => Sys2Proof.Machine.execAgStrm w s
  | .agStrw w => Sys2Proof.Machine.execAgStrw w s
  | .agPf w => Sys2Proof.Machine.execAgPf w s
  | .aaAdd w => Sys2Proof.Machine.execAaAdd w s
  | .aaSub w => Sys2Proof.Machine.execAaSub w s
  | .aaAnd w => Sys2Proof.Machine.execAaAnd w s
  | .aaOr w => Sys2Proof.Machine.execAaOr w s
  | .aaXor w => Sys2Proof.Machine.execAaXor w s
  | .aaShl w => Sys2Proof.Machine.execAaShl w s
  | .aaShr w => Sys2Proof.Machine.execAaShr w s
  | .aaEq w => Sys2Proof.Machine.execAaEq w s
  | .acJmp w => Sys2Proof.Machine.execAcJmp w s
  | .acCall w => Sys2Proof.Machine.execAcCall w s
  | .acRet w => Sys2Proof.Machine.execAcRet w s
  | .acLoop w => Sys2Proof.Machine.execAcLoop w s
  | .acWait w => Sys2Proof.Machine.execAcWait w s
  | .acRsr w => Sys2Proof.Machine.execAcRsr w s
  | .atAdd w => Sys2Proof.Machine.execAtAdd w s
  | .atFadd w => Sys2Proof.Machine.execAtFadd w s
  | .atMin w => Sys2Proof.Machine.execAtMin w s
  | .atMax w => Sys2Proof.Machine.execAtMax w s
  | .atAmax w => Sys2Proof.Machine.execAtAmax w s
  | .atAmaxr w => Sys2Proof.Machine.execAtAmaxr w s
  | .atAnd w => Sys2Proof.Machine.execAtAnd w s
  | .atOr w => Sys2Proof.Machine.execAtOr w s
  | .atXor w => Sys2Proof.Machine.execAtXor w s
  | .atXchg w => Sys2Proof.Machine.execAtXchg w s
  | .atCas w => Sys2Proof.Machine.execAtCas w s
  | .ceGo w => Sys2Proof.Machine.execCeGo w s
  | .ceTry w => Sys2Proof.Machine.execCeTry w s
  | .resultLand core => Sys2Proof.Machine.execResultLand core s
  | .loadDataReturn core q => Sys2Proof.Machine.execLoadDataReturn core q s
  | .atomicReply core => Sys2Proof.Machine.execAtomicReply core s
  | .streamElementIssue core idx => Sys2Proof.Machine.execStreamElementIssue core idx s
  | .homeRequest idx => Sys2Proof.Machine.execHomeRequest idx s
  | .refusalReturn core => Sys2Proof.Machine.execRefusalReturn core s
  | .atomicEngineGrant cluster => Sys2Proof.Machine.execAtomicEngineGrant cluster s
  | .crossDieWriteApply idx => Sys2Proof.Machine.execCrossDieWriteApply idx s
  | .xlinvWrite part v => Sys2Proof.Machine.execXlinvWrite part v s
  | .xlinvComplete part => Sys2Proof.Machine.execXlinvComplete part s
  | .bufDeclare core n v => Sys2Proof.Machine.execBufDeclare core n v s
  | .bufReset core n => Sys2Proof.Machine.execBufReset core n s
  | .bufSetfull core n => Sys2Proof.Machine.execBufSetfull core n s
  | .bufSetempty core n => Sys2Proof.Machine.execBufSetempty core n s
  | .vflagsWrite core v => Sys2Proof.Machine.execVflagsWrite core v s
  | .bfmtWrite core b v => Sys2Proof.Machine.execBfmtWrite core b v s
  | .ctlabWrite core v t => Sys2Proof.Machine.execCtlabWrite core v t s
  | .returnStackPopRead core h => Sys2Proof.Machine.execReturnStackPopRead core h s
  | .returnStackInsert core h v => Sys2Proof.Machine.execReturnStackInsert core h v s
  | .registerWrite mgmt core n v => Sys2Proof.Machine.execRegisterWrite mgmt core n v s
  | .launchRecordStore part off bytes => Sys2Proof.Machine.execLaunchRecordStore part off bytes s
  | .launchDequeue part => Sys2Proof.Machine.execLaunchDequeue part s
  | .placementAttempt part => Sys2Proof.Machine.execPlacementAttempt part s
  | .reserveProbe part core => Sys2Proof.Machine.execReserveProbe part core s
  | .probeResponse part => Sys2Proof.Machine.execProbeResponse part s
  | .reserveCommit part core => Sys2Proof.Machine.execReserveCommit part core s
  | .grantRelease core => Sys2Proof.Machine.execGrantRelease core s
  | .grantLapse core => Sys2Proof.Machine.execGrantLapse core s
  | .backoffExpire part inst node => Sys2Proof.Machine.execBackoffExpire part inst node s
  | .escalatedPlacement part => Sys2Proof.Machine.execEscalatedPlacement part s
  | .taskStart part inst node => Sys2Proof.Machine.execTaskStart part inst node s
  | .xformNodeStart part cmd => Sys2Proof.Machine.execXformNodeStart part cmd s
  | .eventNodeStart part => Sys2Proof.Machine.execEventNodeStart part s
  | .subgraphServe part => Sys2Proof.Machine.execSubgraphServe part s
  | .subgraphAdmit part => Sys2Proof.Machine.execSubgraphAdmit part s
  | .memberFinish core => Sys2Proof.Machine.execMemberFinish core s
  | .memberRelease core => Sys2Proof.Machine.execMemberRelease core s
  | .quantumExpire part inst node => Sys2Proof.Machine.execQuantumExpire part inst node s
  | .memberEvict core => Sys2Proof.Machine.execMemberEvict core s
  | .trapEntry core => Sys2Proof.Machine.execTrapEntry core s
  | .haltTreeStop core => Sys2Proof.Machine.execHaltTreeStop core s
  | .debugHalt core => Sys2Proof.Machine.execDebugHalt core s
  | .debugPortAccess core item write v t => Sys2Proof.Machine.execDebugPortAccess core item write v t s
  | .debugResume core => Sys2Proof.Machine.execDebugResume core s
  | .scanSegment part h priv va len decl entry => Sys2Proof.Machine.execScanSegment part h priv va len decl entry s
  | .translatePortable part inst node img => Sys2Proof.Machine.execTranslatePortable part inst node img s
  | .copy core => Sys2Proof.Machine.execCopy core s
  | .copy2d core => Sys2Proof.Machine.execCopy2d core s
  | .gather core => Sys2Proof.Machine.execGather core s
  | .scatter core => Sys2Proof.Machine.execScatter core s
  | .fill core => Sys2Proof.Machine.execFill core s
  | .expand core => Sys2Proof.Machine.execExpand core s
  | .swz core => Sys2Proof.Machine.execSwz core s
  | .xcopy core => Sys2Proof.Machine.execXcopy core s
  | .copyChunk core => Sys2Proof.Machine.execCopyChunk core s
  | .mxFillComplete core => Sys2Proof.Machine.execMxFillComplete core s
  | .mxMmaComplete core => Sys2Proof.Machine.execMxMmaComplete core s
  | .mmatStepStart core => Sys2Proof.Machine.execMmatStepStart core s
  | .mxDrainComplete core => Sys2Proof.Machine.execMxDrainComplete core s
  | .bsumSetArrive idx => Sys2Proof.Machine.execBsumSetArrive idx s
  | .nopBlock core => Sys2Proof.Machine.execNopBlock core s
  | .mvaccBlock core => Sys2Proof.Machine.execMvaccBlock core s
  | .mmaccBlock core => Sys2Proof.Machine.execMmaccBlock core s
  | .biasBlock core => Sys2Proof.Machine.execBiasBlock core s
  | .scaleBlock core => Sys2Proof.Machine.execScaleBlock core s
  | .actBlock core => Sys2Proof.Machine.execActBlock core s
  | .loadvBlock core => Sys2Proof.Machine.execLoadvBlock core s
  | .storeBlock core => Sys2Proof.Machine.execStoreBlock core s
  | .sendBlock core => Sys2Proof.Machine.execSendBlock core s
  | .selectBlock core => Sys2Proof.Machine.execSelectBlock core s
  | .syncBlock core => Sys2Proof.Machine.execSyncBlock core s
  | .exitBlock core => Sys2Proof.Machine.execExitBlock core s
  | .trapbBlock core => Sys2Proof.Machine.execTrapbBlock core s
  | .blockPayloadGranule core => Sys2Proof.Machine.execBlockPayloadGranule core s
  | .labelResolveReply core => Sys2Proof.Machine.execLabelResolveReply core s
  | .carillonOperation core => Sys2Proof.Machine.execCarillonOperation core s
  | .messageArrive idx => Sys2Proof.Machine.execMessageArrive idx s
  | .hostWindowAccess part win off write bytes => Sys2Proof.Machine.execHostWindowAccess part win off write bytes s
  | .linkPacketReceive port seq cmd va data => Sys2Proof.Machine.execLinkPacketReceive port seq cmd va data s
  | .linkAckReceive port n refused => Sys2Proof.Machine.execLinkAckReceive port n refused s
  | .linkNakReceive port n => Sys2Proof.Machine.execLinkNakReceive port n s
  | .linkAckTimeout port => Sys2Proof.Machine.execLinkAckTimeout port s
  | .laneFailure port lane => Sys2Proof.Machine.execLaneFailure port lane s
  | .linkRetrainComplete port mask => Sys2Proof.Machine.execLinkRetrainComplete port mask s
  | .linkTrainRetry port ok mask => Sys2Proof.Machine.execLinkTrainRetry port ok mask s
  | .lctlReset port => Sys2Proof.Machine.execLctlReset port s
  | .eventRingWrite => Sys2Proof.Machine.execEventRingWrite s
  | .rollback core => Sys2Proof.Machine.execRollback core s
  | .duplexItemArrive idx => Sys2Proof.Machine.execDuplexItemArrive idx s
  | .duplexPairTimeout idx => Sys2Proof.Machine.execDuplexPairTimeout idx s
  | .verdict part inst node => Sys2Proof.Machine.execVerdict part inst node s
  | .scoreDecay core => Sys2Proof.Machine.execScoreDecay core s
  | .quarantine core => Sys2Proof.Machine.execQuarantine core s
  | .layerwarn stack layer => Sys2Proof.Machine.execLayerwarn stack layer s
  | .stkctlAck stack => Sys2Proof.Machine.execStkctlAck stack s
  | .layerAckTimeout stack => Sys2Proof.Machine.execLayerAckTimeout stack s
  | .layerRemapComplete stack => Sys2Proof.Machine.execLayerRemapComplete stack s
  | .layerAbruptFailure stack layer lost => Sys2Proof.Machine.execLayerAbruptFailure stack layer lost s
  | .refreshTakeover stack => Sys2Proof.Machine.execRefreshTakeover stack s
  | .srenter stack temp => Sys2Proof.Machine.execSrenter stack temp s
  | .selfRefreshTimeout stack => Sys2Proof.Machine.execSelfRefreshTimeout stack s
  | .srexit stack temp => Sys2Proof.Machine.execSrexit stack temp s
  | .fieldTest cluster bad => Sys2Proof.Machine.execFieldTest cluster bad s
  | .resetWipe banks => Sys2Proof.Machine.execResetWipe banks s
  | .partitionCreate part x0 y0 w h maxNodes => Sys2Proof.Machine.execPartitionCreate part x0 y0 w h maxNodes s
  | .partitionDestroy part => Sys2Proof.Machine.execPartitionDestroy part s
  | .labelSpaceCreate part n na limit dsp base => Sys2Proof.Machine.execLabelSpaceCreate part n na limit dsp base s
  | .labelSpaceDestroy part n => Sys2Proof.Machine.execLabelSpaceDestroy part n s
  | .diagramSpaceCreate part n die nv nn logNb base order tied => Sys2Proof.Machine.execDiagramSpaceCreate part n die nv nn logNb base order tied s
  | .diagramSpaceDestroy part n => Sys2Proof.Machine.execDiagramSpaceDestroy part n s
  | .telemetryRecord die => Sys2Proof.Machine.execTelemetryRecord die s
  | .monitorSample unit v => Sys2Proof.Machine.execMonitorSample unit v s
  | .monitorEnable unit v => Sys2Proof.Machine.execMonitorEnable unit v s
  | .monitorDump unit => Sys2Proof.Machine.execMonitorDump unit s
  | .bootVerify pubs images => Sys2Proof.Machine.execBootVerify pubs images s
  | .quoteRequest req => Sys2Proof.Machine.execQuoteRequest req s
  | .lifecycleTransition target token => Sys2Proof.Machine.execLifecycleTransition target token s
  | .commitResponse part => Sys2Proof.Machine.execCommitResponse part s
  | .gangWindowRequest idx => Sys2Proof.Machine.execGangWindowRequest idx s
  | .peerReset port => Sys2Proof.Machine.execPeerReset port s
  | .stackReset stack => Sys2Proof.Machine.execStackReset stack s
  | .supervisorKill part inst node => Sys2Proof.Machine.execSupervisorKill part inst node s
  | .translationCacheInvalidate part key => Sys2Proof.Machine.execTranslationCacheInvalidate part key s
  | .dataWindowSetup part win base len => Sys2Proof.Machine.execDataWindowSetup part win base len s
  | .peerInboundBind port part => Sys2Proof.Machine.execPeerInboundBind port part s
  | .sharedKeyGrant part key => Sys2Proof.Machine.execSharedKeyGrant part key s
  | .recordReplay core bytes => Sys2Proof.Machine.execRecordReplay core bytes s

end Sys2Proof.Machine
end

