-- ==== Sys2Proof/Machine/Step.lean ====
section
/-! DEFINITION. One step of the machine: the agent that the agenda names moves. -/

namespace Sys2Proof.Machine

/-- One agent moves (log entry 1). -/
def act (a : Act) (s : State) : Host.Outcome State Fault Refusal :=
  match a with
  | .fetch c h =>
    if numCores ≤ c then .fault .noSuchCore
    else match s.fetch c h with
      | .quiet s => .next s
      | .word i s => exec i s
      | .bad => .refused .reservedWord
  | .event i => if isWord i then .next s else exec i s
  | .tick n => .next (s.passTime n)
  | .evictCore c i => .next (s.updCore c fun k => { k with tlb := k.tlb.eraseIdx i })
  | .evictCluster c i => .next (s.updCluster c fun k => { k with tlb := k.tlb.eraseIdx i })

/-- One step: the first agent of the agenda, or else the one that `Config.act` names. No step begins taken back (log entry 52). -/
def step (s : State) : Host.Outcome State Fault Refusal :=
  match s.agenda with
  | a :: rest => act a { s with agenda := rest, wait := false }
  | [] => act (Config.act s.fresh) { s with fresh := s.fresh + 1, wait := false }

/-- `s` with the instruction whose bits are `w` as the word that the next step fetches and runs (log entry 12). -/
def State.withFetchWord (s : State) (nbits w : Nat) : State :=
  let v : IWord := BitVec.ofNat 32 (w % 2 ^ nbits)
  match decodeTableWord nbits w with
  | some i => s.placed (halfOf i) v
  | none => s.placed .x v

end Sys2Proof.Machine
end

