-- ==== Sys2Proof/Safety.lean ====
section
/-! DEFINITION. What statements about this machine are said in: safe runs, and what it takes for a group of one move to
issue on a core whose row is itself (R82, R127, R136). -/

namespace Sys2Proof

open Machine

/-- The step from `s` answers a next state. -/
def Steps (s : State) : Prop := ∃ t, step s = .next t

/-- Every one of `n` steps from `s` answers a next state. -/
def SafeFor : Nat → State → Prop
  | 0, _ => True
  | n + 1, s => ∃ t, step s = .next t ∧ SafeFor n t

namespace Machine

/-- The step `i` of an agent of the device leaves `t` at `s` where nothing that it touches has to wait: no memory stack holds
accesses, no port or path is full (R98, R125; log entry 52). -/
def Answers (i : Instr) (s t : State) : Prop := t.wait = false → exec i s = .next t

/-! ## A group of one move -/

/-- An instruction word as an issue slot, with S (R126, R131). -/
def slotOf (i : Instr) : Option (Bool × Slot) :=
  match i.port, i.trigW with
  | some p, some w => some (w.s, .move w.g w.n (BitVec.ofNat 11 p) w.imm w.low)
  | _, _ =>
    match i with
    | .move w => some (w.s, .move w.g w.n w.dst w.imm w.low)
    | .queueDrop w => some (w.s, .move w.g w.n 0 false (dropLow w.src))
    | .limm w => some (w.s, .hint 0 w.pay)
    | .sched w => some (w.s, .hint 1 w.pay)
    | .modx w => some (w.s, .hint 2 w.pay)
    | .brk w => some (w.s, .hint 3 w.pay)
    | .nop w => some (w.s, .hint 4 w.pay)
    | _ => none

/-- The group that word `w` closes in the half that executes. -/
def State.closing (s : State) (w : Slot) : List Slot := ((s.ctx s.curCore).stream s.curHalf).open_ ++ [w]

/-- Offset of the word after the one that executes. -/
def State.after (s : State) : Nat := ((s.ctx s.curCore).stream s.curHalf).pc.toNat + 4

/-- The core that executes runs a task, its row is itself, and its stream goes on; no step is being taken back (log entry 52). -/
def State.alone (s : State) : Bool :=
  let c := s.curCore
  s.row c = [c] && (s.core c).task.isSome && !(s.core c).ended && !((s.ctx c).stream s.curHalf).exited
    && !s.wait

/-- The one move of the group that `w` closes, where the group obeys the scanner (R137) and holds no breakpoint. -/
def State.soleMove (s : State) (w : Slot) : Option Move :=
  let ws := s.closing w
  let p := parseGroup ws
  if s.alone && groupOk s.curHalf ((s.core s.curCore).segPriv s.curHalf) ws.length p && p.brk.isNone then
    match p.moves with
    | [m] => some m
    | _ => none
  else none

/-- The value that a move's source gives on core `c`, which runs task `t`, if it is ready (R82); the inputs of a member that is recorded
or replayed also pass through its recording (R367), and are not among them. -/
def State.source (s : State) (c : Nat) (t : Task) (m : Move) : Option Val :=
  match m.src with
  | .imm v => some (.s { v := v })
  | .port p _ => if isInput p && (s.core c).record.isSome then none else readPort c s.now t (s.ctx c) p

/-- The sole move of the group that `w` closes, with what its guard and its source give, and the state in which its guard
has been read: the guard lets it be performed, its source and its destination are ready, and no poison is consumed. -/
def State.performs (s : State) (w : Slot) : Option (State × Live) :=
  (s.soleMove w).bind fun m =>
    match s.guard s.curCore m with
    | (s', .open_ true _ g) => (s'.source s.curCore (taskOf s s.curCore) m).bind fun v =>
      match s'.guarded s.curCore v g with
      | (s'', none, v) =>
        let l : Live := { idx := 0, mv := m, val := v, g := g }
        if (s''.ctx s.curCore).moveReady s''.now m && l.poison.isNone then some (s'', l) else none
      | _ => none
    | _ => none

/-- What the trigger of the group that `w` closes has in hand when it starts, the state in which it starts (its source's
queue entry removed), and its guard's tag. Its latches are ready, it consumes no mucked value under TRAPMUCK (R82, R261), and an
access waits for no release (R329). -/
def State.starts (s : State) (w : Slot) : Option (Trig × State × LTag) :=
  (s.performs w).bind fun (s', l) =>
    let c := s.curCore
    let k := ((s'.ctx c).popAll s.now [l]).noteSync s.now [l]
    let x := l.trig (s.ctx c) c s.curHalf ((s.ctx c).stream s.curHalf).start.toNat s.after
    if l.isTrig && x.latchesReady k [l.mv.dst] && !(x.muckTrap && x.consumesMuck k)
        && !((s.ctx c).accessHeld && isAccess x.port) then
      some (x, s'.updCtx c fun _ => k, l.g)
    else none

/-- The same for an instruction: a trigger word with S = 1. -/
def State.begins (s : State) (i : Instr) : Option (Trig × State × LTag) :=
  match slotOf i with
  | some (true, w) => s.starts w
  | _ => none

/-- Tags that a transfer with guard tag `g` joins into CTLAB (R154, R262). -/
def Trig.transferJoin (x : Trig) (k : Ctx) (g : LTag) : List LTag :=
  if isTransfer x.port then
    let ts := [x.t.t] ++ if x.port = 0x44B || x.port = 0x5CB then [(k.scalar x.ctlA).t] else []
    if anyMuck ts then [g] else g :: ts
  else []

/-- The state after the group of trigger `x` that began in `s`: `s2` is what the operation leaves, `g` the guard's tag,
`tt` what a transfer joins into CTLAB (R263), `jump` a taken transfer. -/
def State.close (s s2 : State) (x : Trig) (g : LTag) (tt : List LTag) (jump : Bool) : State :=
  let s3 := s2.updCtx x.core (·.joinCtl x.half (g :: tt))
  if jump then s3 else s3.updCtx x.core fun k => k.updStream x.half (·.advance x.next s.now)

/-- The group that executes is refused with trap `t`: none of its moves is performed, and the stream stands before it with the
trap raised (R180 step 1, R384). -/
def State.refuseGroup (s : State) (t : Trap) : State :=
  (s.updCtx s.curCore fun k => k.updStream s.curHalf (·.rewind)).raise s.curCore s.curHalf t

/-- The group of trigger `x` ends after an operation of fixed latency that sends flight `f` (R153, R155). -/
def State.closeSend (s s1 : State) (x : Trig) (g : LTag) (f : Flight) : State :=
  s.close (s1.updCtx x.core (·.send f)) x g [] false

/-- Scalar results `ws` of trigger `x`, `L` core cycles from `s1`, with the join of `tags` and CTLAB (R153, R155, R263). -/
def Trig.flight (x : Trig) (s1 : State) (L : Nat) (ws : List (Nat × Dword)) (tags : List LTag) : Flight :=
  { due := s1.now + 2 * max L (tagCycles (joinTags (tags ++ [x.ctl]))), sw := ws.map fun w => (w.1, { v := w.2, t := joinTags (tags ++ [x.ctl]) }) }

/-- The same for vector results. -/
def Trig.flightV (x : Trig) (s1 : State) (L : Nat) (ws : List (Nat × Vec)) (tags : List LTag) : Flight :=
  { due := s1.now + 2 * max L (tagCycles (joinTags (tags ++ [x.ctl]))), vw := ws.map fun w => (w.1, { v := w.2, t := joinTags (tags ++ [x.ctl]) }) }

/-- Wherever word `i` starts its trigger alone in its group, it answers the state in which scalar results `ws` are on their
way, `L` core cycles on, with the join of `tags` and CTLAB, and the group has ended. -/
def Sends (i : Instr) (L : Nat) (ws : Trig → State → List (Nat × Dword)) (tags : Trig → State → List LTag) : Prop :=
  ∀ s s1 x g, s.begins i = some (x, s1, g) → exec i s = .next (s.closeSend s1 x g (x.flight s1 L (ws x s1) (tags x s1)))

/-- `Sends` for one cycle, port `r`, a function of the latch `a` and of T. -/
def SendsBin (i : Instr) (a r : Nat) (f : Dword → Dword → Dword) : Prop :=
  Sends i 1 (fun x s => [(r, f (x.latch s a).v x.t.v)]) fun x s => [(x.latch s a).t, x.t.t]

/-- The same for `al`: latch `al.a` and port `al.r`. -/
def AlBin (i : Instr) (f : Dword → Dword → Dword) : Prop := SendsBin i 0x100 0x17D f

/-- One cycle, `al.r`, a function of T alone. -/
def AlUn (i : Instr) (f : Dword → Dword) : Prop :=
  Sends i 1 (fun x _ => [(0x17D, f x.t.v)]) fun x _ => [x.t.t]

/-- Position and length of the field that T controls (R161): T[5:0], and T[14:8] with 0 and values above 64 read as 64. -/
def fieldAt (t : Dword) : Nat := t.toNat % 64
def fieldSize (t : Dword) : Nat :=
  if t.toNat / 256 % 128 = 0 ∨ 64 < t.toNat / 256 % 128 then 64 else t.toNat / 256 % 128

/-- A compare of `al.a` with T: 1 or 0 in `al.r` and in `al.f`. -/
def AlCmp (i : Instr) (f : Dword → Dword → Bool) : Prop :=
  Sends i 1 (fun x s =>
    let v : Dword := if f (x.latch s 0x100).v x.t.v then 1 else 0
    [(0x17D, v), (0x17F, v)]) fun x s => [(x.latch s 0x100).t, x.t.t]

/-- A floating operation of `al` (R164). -/
def AlFloat (i : Instr) (useB : Bool) (op : Fmt → RMode → Bool → FVal → FVal → FVal → Nat × FlagBits) : Prop :=
  ∀ s s1 x g, s.begins i = some (x, s1, g) →
    let a := x.latch s1 0x100
    let b := x.latch s1 0x101
    let c := x.latch s1 0x102
    let r := match alFormat c.v with
      | some f => op f (rmode x.rm) x.ftz (fdecode f x.ftz a.v.toNat) (fdecode f x.ftz b.v.toNat) (fdecode f x.ftz x.t.v.toNat)
      | none => (0x7FC00000, 1)
    exec i s = .next (s.closeSend s1 x g { x.flight s1 4 [(0x17D, BitVec.ofNat 64 r.1)]
      ([a.t] ++ (if useB then [b.t] else []) ++ [x.t.t, c.t]) with flags := r.2, fp := true })

/-- A floating compare of `al` (R165). -/
def AlFcmp (i : Instr) (quiet : Bool) (rel : Option Ordering → Bool) : Prop :=
  ∀ s s1 x g, s.begins i = some (x, s1, g) →
    let a := x.latch s1 0x100
    let c := x.latch s1 0x102
    let r : Bool × FlagBits := match alFormat c.v with
      | some f =>
        let u := fdecode f x.ftz a.v.toNat
        let v := fdecode f x.ftz x.t.v.toNat
        (rel (fcompare u v), if u.isSnan || v.isSnan || (!quiet && (u.isNan || v.isNan)) then 1 else 0)
      | none => (false, 1)
    let y : Dword := if r.1 then 1 else 0
    exec i s = .next (s.closeSend s1 x g { x.flight s1 4 [(0x17D, y), (0x17F, y)] [a.t, x.t.t, c.t] with
      flags := r.2, fp := true })

/-- A multiply form of `md`: the exact value of `f` of `md.a`, T and `md.b`, modulo 2^128 in `md.r` and `md.h` (R167). -/
def MdMul (i : Instr) (f : Dword → Dword → Dword → Int) : Prop :=
  Sends i 3 (fun x s =>
    let p := f (x.latch s 0x180).v x.t.v (x.latch s 0x181).v
    [(0x1BD, BitVec.ofInt 64 p), (0x1BE, BitVec.ofInt 64 (p / 2 ^ 64))])
    fun x s => [(x.latch s 0x180).t, (x.latch s 0x181).t, x.t.t]

/-- A divide form of `md`: quotient, remainder and status (R168). -/
def MdDiv (i : Instr) (L : Nat) (f : Dword → Dword → Dword × Dword × Dword) : Prop :=
  Sends i L (fun x s =>
    let r := f (x.latch s 0x180).v x.t.v
    [(0x1BD, r.1), (0x1BE, r.2.1), (0x1BF, r.2.2)]) fun x s => [(x.latch s 0x180).t, x.t.t]

/-- What a `vx` trigger has in hand when it starts (R195, R196). -/
def Trig.vxIn (x : Trig) (s1 : State) : VxIn :=
  let k := s1.ctx x.core
  { ty := (k.scalar 0x204).v, a := (k.vector 0x200).v, b := (k.vector 0x201).v, c := (k.vector 0x202).v
    m := (k.vector 0x203).v, t := x.tv.v, rm := rmode x.rm, ftz := x.ftz, sat := x.sat }

/-- The control operands of a `vx` trigger carry no 0xFFFF: the type control, and the mask where MK uses it (R199). -/
def Trig.vxClean (x : Trig) (s1 : State) : Bool :=
  let k := s1.ctx x.core
  !isMuck (k.scalar 0x204).t && ((x.vxIn s1).msk = 0 || !isMuck (k.vector 0x203).t)

/-- What an operation sends that a mucked control operand leaves undone (R199). -/
def Trig.vxUndone (_ : Trig) (s1 : State) (L : Nat) (ports : List Nat) : Flight :=
  { due := s1.now + 2 * L, vw := ports.map fun p => (p, { v := 0, t := [mucked] }) }

/-- Tags that join a `vx` result: of the latches listed, T, the type control, and what MK reads (R153, R199). -/
def Trig.vxTags (x : Trig) (s1 : State) (reads : List Nat) : List LTag :=
  let k := s1.ctx x.core
  let v := x.vxIn s1
  reads.map (fun p => (k.vector p).t) ++ [x.tv.t, (k.scalar 0x204).t]
    ++ (if v.msk ≠ 0 then [(k.vector 0x203).t] else []) ++ (if v.msk = 2 then [(k.vector 0x202).t] else [])

/-- A `vx` operation (R195, R196): wherever its word starts alone with clean control operands, no reserved field and a type
control that `ok` allows, it sends `op`'s results to `ports` after `lat` cycles, with its flags; where a control operand
carries 0xFFFF it is not performed, and each of `ports` receives 0 with tag 0xFFFF (R154, R199). -/
def VxDoes (i : Instr) (reads ports : List Nat) (ok : VxIn → Prop) (lat : VxIn → Nat) (fp : VxIn → Bool)
    (op : VxIn → List Vec × FlagBits) : Prop :=
  ∀ s s1 x g, s.begins i = some (x, s1, g) →
    let v := x.vxIn s1
    (¬ x.vxClean s1 → exec i s = .next (s.closeSend s1 x g (x.vxUndone s1 (lat v) ports))) ∧
    (x.vxClean s1 → vxTyOk v.ty → ok v → exec i s = .next (s.closeSend s1 x g { x.flightV s1 (lat v) (ports.zip (op v).1) (x.vxTags s1 reads) with
      flags := (op v).2, fp := fp v }))

/-- An element-wise `vx` operation on every type: `li` cycles for integers and 4 for floating types. -/
def VxArith (i : Instr) (reads : List Nat) (li : Nat) (fi : Int → Int → Int → Int)
    (ff : VxIn → Fmt → FVal → FVal → FVal → Nat × FlagBits) : Prop :=
  VxDoes i reads [0x2FD] (fun v => v.et ≤ 10) (fun v => if 8 ≤ v.et then 4 else li) (fun v => 8 ≤ v.et || v.sat)
    fun v => v.arith fi (ff v)

/-- A `vx` operation of `lat` cycles that sets no flag. -/
def VxPlain (i : Instr) (reads ports : List Nat) (maxEt lat : Nat) (op : VxIn → List Vec) : Prop :=
  VxDoes i reads ports (fun v => v.et ≤ maxEt) (fun _ => lat) (fun _ => false) fun v => (op v, 0)

/-- A floating `vx` operation of `lat` cycles for the types `ok` allows. -/
def VxFloating (i : Instr) (reads : List Nat) (ok : VxIn → Prop) (lat : Nat)
    (ff : VxIn → Fmt → FVal → FVal → Nat × FlagBits) : Prop :=
  VxDoes i reads [0x2FD] ok (fun _ => lat) (fun _ => true) fun v => v.fltMap (ff v)

/-! ## Operations that leave more than results -/

/-- Word `i`, where it starts its trigger alone on operands that `p` admits, leaves the state `f`, and its group ends. -/
def Does (i : Instr) (p : Trig → State → Prop) (f : Trig → State → State) : Prop :=
  ∀ s s1 x g, s.begins i = some (x, s1, g) → p x s1 → exec i s = .next (s.close (f x s1) x g [] false)

/-- The trigger may use a privileged port: in a handler, or in a segment registered at supervisor or firmware privilege (R150). -/
def Trig.privileged (x : Trig) (s : State) : Bool := (s.ctx x.core).priv || ((s.ctx x.core).segOf x.half).priv != 0

/-- The same, where the row has still to be brought to where its leader stands. -/
def DoesRow (i : Instr) (p : Trig → State → Prop) (f : Trig → State → State) : Prop :=
  ∀ s s1 x g, s.begins i = some (x, s1, g) → p x s1 →
    exec i s = .next ((s.close (f x s1) x g [] false).alignRow x.core x.half)

/-- Word `i` alone is refused with trap `t`: its group performs nothing, and the stream stands before it (R384). -/
def Refused (i : Instr) (p : Trig → State → Prop) (t : Trig → State → Trap) : Prop :=
  ∀ s s1 x g, s.begins i = some (x, s1, g) → p x s1 → exec i s = .next (s.refuseGroup (t x s1))

/-- Word `i` alone transfers control: its stream goes on at the offset, with the return stack and after the core cycles
that `f` gives, and the tags of what selects the target join CTLAB (R154, R169, R263). -/
def Transfers (i : Instr) (p : Trig → State → Prop) (f : Trig → State → Nat × List RsEntry × Nat) : Prop :=
  ∀ s s1 x g, s.begins i = some (x, s1, g) → p x s1 →
    let pc := BitVec.ofNat 17 (f x s1).1
    exec i s = .next (s.close (s1.updCtx x.core fun k => k.updStream x.half fun m =>
      { m with pc := pc, start := pc, open_ := [], ready := s1.now + 2 * (f x s1).2.2, past := 0x20000 ≤ (f x s1).1
               stack := (f x s1).2.1 })
      x g (x.transferJoin (s1.ctx x.core) g) true)

/-- Word `i` alone transfers no control on operands that `p` admits: its group ends as any other. -/
def NotTaken (i : Instr) (p : Trig → State → Prop) : Prop :=
  ∀ s s1 x g, s.begins i = some (x, s1, g) → p x s1 →
    exec i s = .next (s.close s1 x g (x.transferJoin (s1.ctx x.core) g) false)

/-- The machine with scalar results of trigger `x` on their way (R155). -/
def State.sent (s : State) (x : Trig) (L : Nat) (ws : List (Nat × Dword)) (tags : List LTag) : State :=
  s.updCtx x.core (·.send (x.flight s L ws tags))

/-- The machine where an operation is not performed for a mucked operand: each of `ports` receives 0 with tag 0xFFFF
(R154). -/
def State.undone (s : State) (x : Trig) (ports : List Nat) : State :=
  s.updCtx x.core (·.send { due := s.now + 2, sw := ports.map fun p => (p, { v := 0, t := [mucked] }) })

/-- T and the latches of `mx` carry no 0xFFFF (R226). -/
abbrev Trig.mxClean (x : Trig) (s : State) : Prop := ∀ v ∈ [x.t, x.latch s 0x300, x.latch s 0x301, x.latch s 0x302], isMuck v.t = false

/-- `lb` operation `op` (R267, R271): wherever its word starts alone in a core with a label space that `ok` admits, the
label unit performs `f` in that space: its writes land after the time of its path; where a table is full its ports wait, and the X
stream takes the trap at its next group (R269). -/
def LbDoes (i : Instr) (op : Nat) (ok : LSpace → Trig → Prop) (f : LRun → Trig → SVal → LRun × LWrite) : Prop :=
  ∀ s s1 x g l, s.begins i = some (x, s1, g) → x.lspaceOf s1 = some l → ok l x →
    let a := x.latch s1 0x380
    let r := s1.label (s1.spaceOf x.core).1 (s1.spaceOf x.core).2 [] fun q => f q x a
    let o : LbOp := { op := op, a := a, t := x.t, ctl := x.ctl, wt := s1.mergedTag x.core op a.t x.t.t }
    (r.2.1 = none → exec i s = .next (s.close (r.1.lbSend x.core o r.2.2) x g [] false)) ∧
    (∀ tr, r.2.1 = some tr → exec i s = .next (s.close (r.1.newId.2.updCtx x.core fun k =>
      { k.await (lbPorts op) r.1.nextId with
        lbops := k.lbops ++ [{ o with token := r.1.nextId }]
        xs := { k.xs with trap := k.xs.trap.orElse fun _ => some tr } }) x g [] false))

/-! ## Weight-driven mode -/

/-- Block `op` begins on core `c` (R240, R241, R244): the sequencer stands at a header that it can read, that passes its checks
and has no CRC to verify. Its task, the mode with the header taken, the header, and the state in which the block's effect
begins. -/
def State.blockOpens (s : State) (c op : Nat) : Option (Task × WDrive × Hdr × State) :=
  match s.wdReady c with
  | some (t, w) =>
    match s.blockRead c t w.block w.block with
    | (s1, .ok (v, _)) =>
      let w' : WDrive := { w with hdr := v, phase := .payload }
      if (s.ctx c).xs.trap.isNone && w.phase = .header && (hdrOf v).op = op && !(hdrOf v).crcp
          && (hdrCheck (s.core c) t w.block v).isNone then
        some (t, w', hdrOf v, s1.updCtx c fun k => { k with wd := some w' })
      else none
    | _ => none
  | none => none

/-! ## Groups without a trigger -/

/-- The state after the group that executes, which took no transfer: `gs` are the tags that its guards join into CTLAB
(R82, R171, R262). -/
def State.endGroup (s s2 : State) (gs : List LTag) : State :=
  (s2.updCtx s.curCore (·.joinCtl s.curHalf gs)).updCtx s.curCore fun k =>
    k.updStream s.curHalf (·.advance s.after s.now)

/-- The group that `w` closes obeys the scanner and moves nothing; its breakpoint, if it holds one. -/
def State.moveless (s : State) (w : Slot) : Option (Option (BitVec 24)) :=
  let ws := s.closing w
  let p := parseGroup ws
  if s.alone && groupOk s.curHalf ((s.core s.curCore).segPriv s.curHalf) ws.length p && p.moves.isEmpty then some p.brk else none

end Machine

end Sys2Proof
end

