-- ==== Sys2Proof/Certificates/Slice0/Obligations.lean ====
section
/-! DEFINITION. The statements about this machine: what its rules say, for the provers. -/

open Sys2Proof Sys2Proof.Machine

/-! ## The scalar units -/

/-- `al.add` and `al.sub` (R158): a ± T modulo 2^64, or under SAT clamped to the signed range, which then sets the SAT
flag; bit 0 of `al.f` is the carry or borrow of the unsigned operation, bit 1 the signed overflow. -/
def Obligations.AlAddSub : Prop :=
  ∀ (w : TrigW) (s s1 : State) (x : Trig) (g : LTag),
    let a := (x.latch s1 0x100).v
    let t := x.t.v
    let out (z : Int) (r : Dword) (c : Bool) : State :=
      let v : Bool := z < -2 ^ 63 || 2 ^ 63 ≤ z
      let r' : Dword := if x.sat then (if z < -2 ^ 63 then 0x8000000000000000
        else if 2 ^ 63 ≤ z then 0x7FFFFFFFFFFFFFFF else r) else r
      s.closeSend s1 x g { x.flight s1 1
        [(0x17D, r'), (0x17F, (if c then 1 else 0) + (if v then 2 else 0))] [(x.latch s1 0x100).t, x.t.t] with
        flags := if x.sat && v then 0x40 else 0, fp := x.sat }
    (s.begins (.alAdd w) = some (x, s1, g) →
      exec (.alAdd w) s = .next (out (a.toInt + t.toInt) (a + t) (2 ^ 64 ≤ a.toNat + t.toNat))) ∧
    (s.begins (.alSub w) = some (x, s1, g) →
      exec (.alSub w) s = .next (out (a.toInt - t.toInt) (a - t) (a.toNat < t.toNat)))

/-- The logic, shift, minimum and maximum operations of `al` (R158, R159), one cycle with the result in `al.r`, and its compares
and test (R162), 1 or 0 in `al.r` and `al.f`. -/
def Obligations.AlLogicAndCompares : Prop :=
  ∀ w : TrigW,
    AlBin (.alAnd w) (fun a t => a &&& t) ∧ AlBin (.alOr w) (fun a t => a ||| t) ∧ AlBin (.alXor w) (fun a t => a ^^^ t) ∧
    AlBin (.alAndn w) (fun a t => a &&& ~~~t) ∧
    AlBin (.alShl w) (fun a t => a <<< (t.toNat % 64)) ∧ AlBin (.alShr w) (fun a t => a >>> (t.toNat % 64)) ∧
    AlBin (.alSar w) (fun a t => a.sshiftRight (t.toNat % 64)) ∧ AlBin (.alRol w) (fun a t => a.rotateLeft (t.toNat % 64)) ∧
    AlBin (.alMin w) (fun a t => if a.toInt < t.toInt then a else t) ∧
    AlBin (.alMax w) (fun a t => if t.toInt < a.toInt then a else t) ∧
    AlBin (.alMinu w) (fun a t => if a < t then a else t) ∧ AlBin (.alMaxu w) (fun a t => if t < a then a else t) ∧
    AlCmp (.alEq w) (fun a t => a = t) ∧ AlCmp (.alNe w) (fun a t => a ≠ t) ∧
    AlCmp (.alLt w) (fun a t => a.toInt < t.toInt) ∧ AlCmp (.alLe w) (fun a t => a.toInt ≤ t.toInt) ∧
    AlCmp (.alLtu w) (fun a t => a < t) ∧ AlCmp (.alLeu w) (fun a t => a ≤ t) ∧
    AlCmp (.alTst w) (fun a t => a &&& t ≠ 0)

/-- Bit counts, byte reversal, field operations and select of `al` (R160, R161, R163). -/
def Obligations.AlBitsFieldsSelect : Prop :=
  ∀ w : TrigW,
    AlUn (.alClz w) (fun t => if t = 0 then 64 else BitVec.ofNat 64 (63 - t.toNat.log2)) ∧
    AlUn (.alCtz w) (fun t => BitVec.ofNat 64 (((List.range 64).find? fun i => t.getLsbD i).getD 64)) ∧
    AlUn (.alPopc w) (fun t => BitVec.ofNat 64 ((List.range 64).countP fun i => t.getLsbD i)) ∧
    (∃ f : Dword → Dword, AlUn (.alBswap w) f ∧
      ∀ t i, i < 8 → (f t).extractLsb' (8 * i) 8 = t.extractLsb' (8 * (7 - i)) 8) ∧
    (∃ f : Dword → Dword → Dword, AlBin (.alExt w) f ∧
      ∀ a t i, i < 64 → (f a t).getLsbD i = (decide (i < fieldSize t) && a.getLsbD (fieldAt t + i))) ∧
    (∃ f : Dword → Dword → Dword → Dword,
      Sends (.alIns w) 1 (fun x s => [(0x17D, f (x.latch s 0x100).v (x.latch s 0x101).v x.t.v)])
        (fun x s => [(x.latch s 0x100).t, (x.latch s 0x101).t, x.t.t]) ∧
      ∀ a b t i, i < 64 → (f a b t).getLsbD i =
        if fieldAt t ≤ i ∧ i < fieldAt t + fieldSize t then b.getLsbD (i - fieldAt t) else a.getLsbD i) ∧
    (∃ f : Dword → Dword → Dword, AlBin (.alSext w) f ∧
      ∀ a t i, i < 64 → (f a t).getLsbD i = a.getLsbD (min i (t.toNat % 64))) ∧
    Sends (.alSel w) 1 (fun x s => [(0x17D, (x.latch s (if x.t.v = 0 then 0x101 else 0x100)).v)])
      (fun x s => [x.t.t, (x.latch s (if x.t.v = 0 then 0x101 else 0x100)).t])

/-- The floating operations of `al` (R164): a, perhaps b, and T in the format of `al.c`[2:0], four cycles, the result
zero-extended in `al.r`, its flags when it lands, and the tag of `al.c` in the join; a format code of 3 to 7 gives the
canonical FP32 NaN and sets NV. Compares, classification and conversion (R165, R166): flt and fle set NV for any NaN, feq and
fcls for a signalling one (fcls by R32); an unlisted pair of types, or another bit of `al.c`, gives 0 and NV. -/
def Obligations.AlFloating : Prop :=
  ∀ w : TrigW,
    AlFloat (.alFadd w) false (fun f rm z a _ t => fadd f rm z a t) ∧
    AlFloat (.alFsub w) false (fun f rm z a _ t => fadd f rm z a t.neg) ∧
    AlFloat (.alFmul w) false (fun f rm z a _ t => fmul f rm z a t) ∧
    AlFloat (.alFma w) true (fun f rm z a b t => ffma f rm z a b t) ∧
    AlFloat (.alFmin w) false (fun f _ _ a _ t => fminmax f false a t) ∧
    AlFloat (.alFmax w) false (fun f _ _ a _ t => fminmax f true a t) ∧
    AlFcmp (.alFeq w) true (fun o => o = some .eq) ∧ AlFcmp (.alFlt w) false (fun o => o = some .lt) ∧
    AlFcmp (.alFle w) false (fun o => o = some .lt ∨ o = some .eq) ∧
    (∀ s s1 x g, s.begins (.alFcls w) = some (x, s1, g) →
      let c := x.latch s1 0x102
      let r : Dword × FlagBits := match alFormat c.v with
        | some f =>
          let v := fclass f (x.t.v.toNat % 2 ^ f.width)
          (BitVec.ofNat 64 v, if v = 0x100 then 1 else 0)
        | none => (0, 1)
      exec (.alFcls w) s = .next (s.closeSend s1 x g { x.flight s1 4 [(0x17D, r.1)] [x.t.t, c.t] with flags := r.2, fp := true })) ∧
    (∀ s s1 x g, s.begins (.alCvt w) = some (x, s1, g) →
      let c := x.latch s1 0x102
      let r := alConvert (rmode x.rm) x.ftz c.v x.t.v
      exec (.alCvt w) s = .next (s.closeSend s1 x g { x.flight s1 4 [(0x17D, r.1)] [x.t.t, c.t] with flags := r.2, fp := true }) ∧
      (¬ cvtOk c.v → r = (0, 1)))

/-- Multiply-add and divide (R167, R168): the exact product plus addend in `md.r` and `md.h` after 3 cycles (`md.mulw`: 2,
`md.r` alone); quotient toward zero, remainder and status after 20 cycles, or 12 for the 32-bit forms. A zero divisor gives
all ones, the dividend and 1; the signed minimum over −1 gives itself, 0 and 2. The A stream's arithmetic (R184): one cycle,
the result in `aa.r`. -/
def Obligations.MdAaArithmetic : Prop :=
  ∀ w : TrigW,
    MdMul (.mdMul w) (fun a t b => a.toInt * t.toInt + b.toInt) ∧
    MdMul (.mdMulu w) (fun a t b => a.toNat * t.toNat + b.toNat) ∧
    MdMul (.mdMulsu w) (fun a t b => a.toInt * t.toNat + b.toInt) ∧
    Sends (.mdMulw w) 2 (fun x s => [(0x1BD, ((x.latch s 0x180).v.setWidth 32).signExtend 64 * (x.t.v.setWidth 32).signExtend 64
        + (x.latch s 0x181).v)]) (fun x s => [(x.latch s 0x180).t, (x.latch s 0x181).t, x.t.t]) ∧
    MdDiv (.mdDiv w) 20 (fun a t =>
      if t = 0 then (-1, a, 1) else if a = 0x8000000000000000 ∧ t = -1 then (a, 0, 2) else (a.sdiv t, a.srem t, 0)) ∧
    MdDiv (.mdDivu w) 20 (fun a t => if t = 0 then (-1, a, 1) else (a.udiv t, a.umod t, 0)) ∧
    MdDiv (.mdDivw w) 12 (fun a t =>
      let a' : BitVec 32 := a.setWidth 32
      let t' : BitVec 32 := t.setWidth 32
      if t' = 0 then (-1, a'.signExtend 64, 1) else if a' = 0x80000000 ∧ t' = -1 then (a'.signExtend 64, 0, 2)
      else ((a'.sdiv t').signExtend 64, (a'.srem t').signExtend 64, 0)) ∧
    MdDiv (.mdDivuw w) 12 (fun a t =>
      let a' : BitVec 32 := a.setWidth 32
      let t' : BitVec 32 := t.setWidth 32
      if t' = 0 then (-1, a'.signExtend 64, 1) else ((a'.udiv t').signExtend 64, (a'.umod t').signExtend 64, 0)) ∧
    SendsBin (.aaAdd w) 0x580 0x5BD (fun a t => a + t) ∧ SendsBin (.aaSub w) 0x580 0x5BD (fun a t => a - t) ∧
    SendsBin (.aaAnd w) 0x580 0x5BD (fun a t => a &&& t) ∧ SendsBin (.aaOr w) 0x580 0x5BD (fun a t => a ||| t) ∧
    SendsBin (.aaXor w) 0x580 0x5BD (fun a t => a ^^^ t) ∧
    SendsBin (.aaShl w) 0x580 0x5BD (fun a t => a <<< (t.toNat % 64)) ∧
    SendsBin (.aaShr w) 0x580 0x5BD (fun a t => a >>> (t.toNat % 64)) ∧
    SendsBin (.aaEq w) 0x580 0x5BD (fun a t => if a = t then 1 else 0)

/-! ## The vector unit -/

/-- The element-wise loop (R197): an active element takes its result, an inactive one 0 with MK 1 and the element of `vx.c` with
MK 2, and the flags are those of active elements alone. A `vx` trigger with a reserved field of `vx.ty` set, or MK = 3, and
clean control operands is refused with CAUSE 18, REASON 2 and the type control in TRAPVAL (R196, R199). -/
def Obligations.VxControl : Prop :=
  (∀ (v : VxIn) (w : Nat) (f : Nat → Nat × FlagBits), w ∈ [8, 16, 32, 64] →
     (∀ i, i < 512 / w → elem w (v.map w f).1 i =
       if v.active i then (f i).1 % 2 ^ w else if v.msk = 1 then 0 else elem w v.c i) ∧
     (∀ b, b < 8 → (v.map w f).2.getLsbD b = (List.range (512 / w)).any fun i => v.active i && (f i).2.getLsbD b)) ∧
  (∀ (i : Instr) (p : Nat) (s s1 : State) (x : Trig) (g : LTag), i.port = some p → 0x210 ≤ p → p ≤ 0x247 →
     s.begins i = some (x, s1, g) → x.vxClean s1 → ¬ vxTyOk (x.vxIn s1).ty →
     exec i s = .next (s.refuseGroup { cause := 18, reason := 2, val := (x.vxIn s1).ty }))

/-- Integer elements of add, sub, mul, min and max (R29, R201, R203): without SAT the exact result modulo 2^w, with SAT the
exact result clamped to the type's range. -/
def Obligations.VxIntegerElements : Prop :=
  ∀ (v : VxIn) (sg : Bool) (w i : Nat) (fi : Int → Int → Int → Int) (ff : Fmt → FVal → FVal → FVal → Nat × FlagBits),
    v.e = .int sg w → w ∈ [8, 16, 32, 64] → i < 512 / w → v.active i →
    let z := fi (readInt sg w (elem w v.a i)) (readInt sg w (elem w v.b i)) (readInt sg w (elem w v.t i))
    let r := readInt sg w (elem w ((v.arith fi ff).1.headD 0) i)
    (v.sat = false → (r - z) % 2 ^ w = 0) ∧
    (v.sat = true → r = max (rangeOf sg w).1 (min (rangeOf sg w).2 z))

/-- Element-wise arithmetic (R201 to R205). -/
def Obligations.VxArithmetic : Prop :=
  ∀ w : TrigW,
    VxArith (.vxAdd w) [0x200] 1 (fun a _ t => a + t) (fun v f a _ t => fadd f v.rm v.ftz a t) ∧
    VxArith (.vxSub w) [0x200] 1 (fun a _ t => a - t) (fun v f a _ t => fadd f v.rm v.ftz a t.neg) ∧
    VxArith (.vxMul w) [0x200] 2 (fun a _ t => a * t) (fun v f a _ t => fmul f v.rm v.ftz a t) ∧
    VxArith (.vxFma w) [0x200, 0x201] 2 (fun a b t => a * b + t) (fun v f a b t => ffma f v.rm v.ftz a b t) ∧
    VxArith (.vxFms w) [0x200, 0x201] 2 (fun a b t => a * b - t) (fun v f a b t => ffma f v.rm v.ftz a b t.neg) ∧
    VxArith (.vxFnma w) [0x200, 0x201] 2 (fun a b t => -(a * b) + t) (fun v f a b t => ffma f v.rm v.ftz a.neg b t) ∧
    VxArith (.vxMin w) [0x200] 1 (fun a _ t => min a t) (fun _ f a _ t => fminmax f false a t) ∧
    VxArith (.vxMax w) [0x200] 1 (fun a _ t => max a t) (fun _ f a _ t => fminmax f true a t) ∧
    VxArith (.vxAbs w) [] 1 (fun _ _ t => |t|) (fun _ f _ _ t => fsign f false t) ∧
    VxArith (.vxNeg w) [] 1 (fun _ _ t => -t) (fun _ f _ _ t => fsign f true t) ∧
    VxPlain (.vxMulh w) [0x200] [0x2FD] 7 2 (fun v => (v.intMap fun _ w a t => a * t / 2 ^ w).1) ∧
    VxPlain (.vxAvg w) [0x200] [0x2FD] 7 1 (fun v => (v.intMap fun _ _ a t => (a + t + 1) / 2).1)

/-- Logic, shifts and counts by element (R207 to R209). -/
def Obligations.VxBits : Prop :=
  ∀ w : TrigW,
    VxPlain (.vxAnd w) [0x200] [0x2FD] 10 1 (fun v => (v.bits (v.a &&& v.t)).1) ∧
    VxPlain (.vxOr w) [0x200] [0x2FD] 10 1 (fun v => (v.bits (v.a ||| v.t)).1) ∧
    VxPlain (.vxXor w) [0x200] [0x2FD] 10 1 (fun v => (v.bits (v.a ^^^ v.t)).1) ∧
    VxPlain (.vxAndn w) [0x200] [0x2FD] 10 1 (fun v => (v.bits (v.a &&& ~~~v.t)).1) ∧
    VxPlain (.vxBlend w) [0x200, 0x201] [0x2FD] 10 1 (fun v => (v.bits ((v.a &&& v.t) ||| (v.b &&& ~~~v.t))).1) ∧
    VxPlain (.vxShl w) [0x200] [0x2FD] 7 1 (fun v => (v.rawMap fun w a t => if w ≤ t then 0 else a * 2 ^ t).1) ∧
    VxPlain (.vxShr w) [0x200] [0x2FD] 7 1 (fun v => (v.rawMap fun w a t => if w ≤ t then 0 else a / 2 ^ t).1) ∧
    VxPlain (.vxSar w) [0x200] [0x2FD] 7 1 (fun v =>
      (v.rawMap fun w a t => wrap w (if w ≤ t then (if toSigned w a < 0 then -1 else 0) else toSigned w a / 2 ^ t)).1) ∧
    VxPlain (.vxPopc w) [] [0x2FD] 7 1 (fun v => (v.rawMap fun w _ t => popCount w t).1) ∧
    VxPlain (.vxClz w) [] [0x2FD] 7 1 (fun v => (v.rawMap fun w _ t => leadZeros w t).1) ∧
    VxPlain (.vxCls w) [] [0x2FD] 7 1 (fun v =>
      (v.rawMap fun w _ t => leadZeros w (if 2 ^ (w - 1) ≤ t then 2 ^ w - 1 - t else t) - 1).1)

/-- Compares, select and mask tests (R210 to R212). -/
def Obligations.VxComparesAndMasks : Prop :=
  ∀ w : TrigW,
    (let cmp (i : Instr) (quiet : Bool) (rel : Ordering → Bool) : Prop :=
      VxDoes i [0x200] [0x2FD, 0x2FF] (fun v => v.et ≤ 10) (fun v => if 8 ≤ v.et then 4 else 1)
        (fun v => 8 ≤ v.et || v.sat) fun v => v.compare quiet rel
     cmp (.vxEq w) true (· == .eq) ∧ cmp (.vxNe w) true (· != .eq) ∧ cmp (.vxLt w) false (· == .lt) ∧
     cmp (.vxLe w) false (· != .gt)) ∧
    VxPlain (.vxSel w) [0x200, 0x201] [0x2FD] 10 1 (fun v =>
      [(v.map v.e.w fun i => (if v.t.getLsbD i then elem v.e.w v.a i else elem v.e.w v.b i, 0)).1]) ∧
    VxPlain (.vxAny w) [] [0x2FD, 0x2FF] 10 1 (fun v =>
      let r : Vec := if (List.range (512 / v.e.w)).any fun i => v.active i && v.t.getLsbD i then 1 else 0
      [r, r]) ∧
    VxPlain (.vxAll w) [] [0x2FD, 0x2FF] 10 1 (fun v =>
      let r : Vec := if (List.range (512 / v.e.w)).all fun i => !v.active i || v.t.getLsbD i then 1 else 0
      [r, r])

/-- Permutations, iota and insertion (R213). Reductions by the pairwise tree (R38, R214): five cycles, element 0 of the result;
inactive elements count as the operation's identity. -/
def Obligations.VxPermutationsAndReductions : Prop :=
  ∀ w : TrigW,
    VxPlain (.vxPerm w) [0x200] [0x2FD] 10 2 (fun v => (v.permute fun w n i => elem w v.a (elem w v.t i % n)).1) ∧
    VxPlain (.vxShuf w) [0x200, 0x201] [0x2FD] 10 2 (fun v => (v.permute fun w n i =>
      let k := elem w v.t i % (2 * n)
      if k < n then elem w v.a k else elem w v.b (k - n)).1) ∧
    VxPlain (.vxRot w) [0x200] [0x2FD] 10 2 (fun v => (v.permute fun w n i => elem w v.a ((i + elem w v.t 0) % n)).1) ∧
    VxPlain (.vxIota w) [] [0x2FD] 7 1 (fun v => (v.permute fun w _ i => elem w v.t 0 + i).1) ∧
    VxDoes (.vxIns w) [0x200] [0x2FD] (fun v => v.et ≤ 10 ∧ v.idx < 512 / v.e.w) (fun _ => 1) (fun _ => false) (fun v =>
      v.permute fun w _ i => if i = v.idx then elem w v.t 0 else elem w v.a i) ∧
    (let red (i : Instr) (op : VxIn → List Vec × FlagBits) : Prop :=
      VxDoes i [] [0x2FD] (fun v => v.et ≤ 10) (fun _ => 5) (fun v => 8 ≤ v.et || v.sat) op
     red (.vxRsum w) (fun v => match v.e with
       | .int sg w => v.reduce 0 fun x y => intElem sg w v.sat (readInt sg w x + readInt sg w y)
       | .flt f => v.reduce f.signBit fun x y => fadd f v.rm v.ftz (fdecode f v.ftz x) (fdecode f v.ftz y)) ∧
     red (.vxRmax w) (fun v => v.reduceExt true) ∧ red (.vxRmin w) (fun v => v.reduceExt false)) ∧
    VxPlain (.vxRandb w) [] [0x2FD] 7 5 (fun v => (v.reduce (2 ^ v.e.w - 1) fun x y => (x &&& y, 0)).1) ∧
    VxPlain (.vxRorb w) [] [0x2FD] 7 5 (fun v => (v.reduce 0 fun x y => (x ||| y, 0)).1) ∧
    VxPlain (.vxRxorb w) [] [0x2FD] 7 5 (fun v => (v.reduce 0 fun x y => (x ^^^ y, 0)).1)

/-- Floating functions (R206, R215, R216): reciprocal, reciprocal root and exponential in FP32 after 8 cycles; divide and
root in FP32, FP16 and BF16 after 12; rounding to an integral value after 4. -/
def Obligations.VxFloatingFunctions : Prop :=
  ∀ w : TrigW,
    VxFloating (.vxRcp w) [] (fun v => v.et = 8) 8 (fun v f _ t => frcp f v.rm v.ftz t) ∧
    VxFloating (.vxRsqrt w) [] (fun v => v.et = 8) 8 (fun v f _ t => frsqrt f v.rm v.ftz t) ∧
    VxFloating (.vxExp2 w) [] (fun v => v.et = 8) 8 (fun v f _ t => fexp2 f v.rm v.ftz t) ∧
    VxFloating (.vxDiv w) [0x200] (fun v => 8 ≤ v.et ∧ v.et ≤ 10) 12 (fun v f a t => fdiv f v.rm v.ftz a t) ∧
    VxFloating (.vxSqrt w) [] (fun v => 8 ≤ v.et ∧ v.et ≤ 10) 12 (fun v f _ t => fsqrt f v.rm v.ftz t) ∧
    VxFloating (.vxRndi w) [] (fun v => 8 ≤ v.et ∧ v.et ≤ 10) 4 (fun v f _ t => frndi f v.rm v.ftz t)

/-- Conversions, packing and the dot product (R217 to R223), each for the type controls its entry permits; `vx.t5un` under
TRAPILL with no illegal code among those that it uses (R46). A scale of `vx.cvts` past ±4000 gives what ±4000 gives, since every value of
the types then overflows or vanishes. That the tag of `vx.a` joins the result of `vx.cvt` and `vx.cvts` also where its value is not used
is the model's choice (log entry 30). -/
def Obligations.VxConversions : Prop :=
  ∀ w : TrigW,
    VxDoes (.vxCvt w) [0x200] [0x2FD] (fun v => cvtPerm v) (fun _ => 4) (fun _ => true) (fun v => v.convert 0) ∧
    VxDoes (.vxCvts w) [0x200, 0x201] [0x2FD] (fun v => cvtPerm v ∧ (toSigned 32 (elem 32 v.b 0)).natAbs ≤ 4000)
      (fun _ => 4) (fun _ => true) (fun v => v.convert (toSigned 32 (elem 32 v.b 0))) ∧
    VxDoes (.vxCvts w) [0x200, 0x201] [0x2FD] (fun v => cvtPerm v) (fun _ => 4) (fun _ => true)
      (fun v => v.convert (max (-4000) (min 4000 (toSigned 32 (elem 32 v.b 0))))) ∧
    VxDoes (.vxPack w) [0x200] [0x2FD] (fun v => 2 ≤ v.et ∧ v.et ≤ 7 ∧ v.et2 ≤ 7 ∧ 2 * v.e2.w = v.e.w) (fun _ => 2)
      (fun _ => true) (fun v =>
        let r := v.map v.e2.w fun i => v.e2.encode v.rm v.ftz (v.e.value false
          (if i < 512 / v.e.w then elem v.e.w v.a i else elem v.e.w v.t (i - 512 / v.e.w)))
        ([r.1], r.2)) ∧
    VxDoes (.vxUnpk w) [] [0x2FD] (fun v => v.et ≤ 5 ∧ v.et2 ≤ 7 ∧ v.e2.w = 2 * v.e.w ∧ v.sel ≤ 1) (fun _ => 2)
      (fun _ => false) (fun v => ([(v.map v.e2.w fun i => match v.e with
        | .int sg w => (wrap v.e2.w (readInt sg w (elem w v.t (v.sel * (512 / v.e2.w) + i))), 0)
        | .flt _ => (0, 0)).1], 0)) ∧
    (∀ s s1 x g, s.begins (.vxT5un w) = some (x, s1, g) →
      let v := x.vxIn s1
      (¬ x.vxClean s1 → exec (.vxT5un w) s = .next (s.closeSend s1 x g (x.vxUndone s1 2 [0x2FD]))) ∧
      (x.vxClean s1 → vxTyOk v.ty → v.et2 ∈ [0, 2, 4] → v.idx + (512 / v.e2.w + 4) / 5 ≤ 64 → (x.trapIll → v.illegalCodes = []) →
      let r := v.map v.e2.w fun j =>
        let b := elem 8 v.t (v.idx + j / 5)
        (wrap v.e2.w ((t5Decode b).getD (j % 5) 0), if t5Illegal b then fILT else 0)
      exec (.vxT5un w) s = .next (s.closeSend s1 x g { x.flightV s1 2 [(0x2FD, r.1)] (x.vxTags s1 []) with
        flags := r.2, fp := true }))) ∧
    VxDoes (.vxI4un w) [] [0x2FD] (fun v => v.et2 ∈ [0, 2, 4] ∧ v.idx + 512 / v.e2.w / 2 ≤ 64) (fun _ => 2)
      (fun _ => false) (fun v => ([(v.map v.e2.w fun j =>
        (wrap v.e2.w ((i4Decode (elem 8 v.t (v.idx + j / 2))).getD (j % 2) 0), 0)).1], 0)) ∧
    (∀ s s1 x g, s.begins (.vxBfpk w) = some (x, s1, g) →
      let v := x.vxIn s1
      (¬ x.vxClean s1 → exec (.vxBfpk w) s = .next (s.closeSend s1 x g (x.vxUndone s1 4 [0x2FD, 0x2FE]))) ∧
      (x.vxClean s1 → vxTyOk v.ty → 8 ≤ v.et → v.et ≤ 10 → v.et2 = 11 ∨ v.et2 = 12 →
      let xs := (List.range 32).map fun i =>
        if v.active i then v.e.value v.ftz
          (if v.et = 8 then (if i < 16 then elem 32 v.a i else elem 32 v.t (i - 16)) else elem 16 v.t i)
        else FVal.num false 0 0
      let r := encodeBlock (v.et2 = 12) v.rm xs
      let wd := if v.et2 = 12 then 16 else 8
      exec (.vxBfpk w) s = .next (s.closeSend s1 x g { x.flightV s1 4
        [(0x2FD, BitVec.ofNat 512 (ofElems wd (r.2.1.map (wrap wd)))), (0x2FE, BitVec.ofNat 512 r.1)]
        (x.vxTags s1 (if v.et = 8 then [0x200] else [])) with flags := r.2.2, fp := true }))) ∧
    VxDoes (.vxBfun w) [0x201] [0x2FD]
      (fun v => (v.et = 11 ∨ v.et = 12) ∧ 8 ≤ v.et2 ∧ v.et2 ≤ 10 ∧ (if v.et2 = 8 then v.sel ≤ 1 else v.sel = 0))
      (fun _ => 4) (fun _ => true) (fun v =>
        let r := v.map v.e2.w fun i =>
          let m := v.mantissa (if v.et2 = 8 then v.sel * 16 + i else i)
          let y := v.e2.encode v.rm v.ftz (.num (m.1 < 0) m.1.natAbs ((elem 8 v.b 0 : Int) - 127))
          (y.1, y.2 ||| if m.2 then fILC else 0)
        ([r.1], r.2)) ∧
    VxDoes (.vxDot w) [0x200, 0x201] [0x2FD] (fun v => v.et ≤ 3) (fun _ => 4) (fun v => v.sat) (fun v =>
      let r := v.map 32 fun i => match v.e with
        | .int sg w => intElem sg 32 v.sat (((List.range (32 / w)).map fun k =>
            readInt sg w (elem w v.a (32 / w * i + k)) * readInt sg w (elem w v.t (32 / w * i + k))).sum
            + readInt sg 32 (elem 32 v.b i))
        | .flt _ => (0, 0)
      ([r.1], r.2)) ∧
    VxDoes (.vxDot w) [0x200, 0x201] [0x2FD] (fun v => v.et = 9 ∨ v.et = 10) (fun _ => 4) (fun _ => true) (fun v =>
      let r := v.map 32 fun i => match v.e with
        | .flt f => sumExact fp32 v.rm v.ftz (some (fdecode fp32 v.ftz (elem 32 v.b i)) :: (List.range 2).map fun k =>
            mulExact (fdecode f v.ftz (elem 16 v.a (2 * i + k))) (fdecode f v.ftz (elem 16 v.t (2 * i + k))))
        | .int _ _ => (0, 0)
      ([r.1], r.2))

/-! ## The matrix unit -/

/-- Claims and releases (R228 to R230). A claim gives slot and status: 0 with the slot claimed, 2 where the task owns the slot
asked for, 3 where it owns NSLOT slots, 1 where no slot is left; a claimed slot holds zero residues, role A, scale 0 and
tags 0. A release frees an owned slot, after the operations that name it. -/
def Obligations.MxSlots : Prop :=
  (∀ (k : Core) (i : Nat), (k.claim i).slot i = { owner := .task } ∧ ∀ j, j ≠ i → (k.claim i).slot j = k.slot j) ∧
  ∀ w : TrigW,
    Does (.mxClaim w) (fun x s => x.mxClean s ∧ dfield x.t.v 63 5 = 0 ∧ ∀ i, MxOp.release i ∉ (s.ctx x.core).mxq) (fun x s =>
      let k := s.core x.core
      let i := dfield x.t.v 3 0
      let out (s : State) (j st : Nat) : State := s.sent x 1 [(0x37D, BitVec.ofNat 64 j), (0x37F, BitVec.ofNat 64 st)] [x.t.t]
      let take (j : Nat) : State := out ((s.updCore x.core (·.claim j)).putAreas x.core) j 0
      if (taskOf s x.core).nslot ≤ k.ownedSlots then out s 16 3
      else if dfield x.t.v 4 4 = 0 then (if k.owns i then out s i 2 else take i)
      else match k.firstSlot (· = .free), k.firstSlot SlotOwner.isHeld with
        | some j, _ => take j
        | none, some j => take j
        | none, none => out s 16 1) ∧
    Does (.mxRelease w) (fun x s => x.mxClean s ∧ dfield x.t.v 63 4 = 0) (fun x s =>
      let k := s.core x.core
      let i := dfield x.t.v 3 0
      let out (s : State) (st : Nat) : State := s.sent x 1 [(0x37F, BitVec.ofNat 64 st)] [x.t.t]
      if !k.owns i then out s 1
      else if k.ctx.mxq.any (MxOp.names i) then out (s.updCtx x.core fun c => { c with mxq := c.mxq ++ [.release i] }) 0
      else out (s.updCore x.core (·.setSlot i {})) 0)

/-- `mx.fill` (R231) on a slot of the task, with every row inside the bank of `mx.a` and aligned for the bank's format, once the
core's accesses are performed (R106) and in its place among the accesses of its core cycle (R98): the fill joins the unit's operations
with its rows, each with the tags of its granules and of its exponents. That the rows are read at the group, where R225 has the data
move as the engine thread, is the model's choice (log entry 31). -/
def Obligations.MxFill : Prop :=
  ∀ w : TrigW, ∀ s s1 x g, s.begins (.mxFill w) = some (x, s1, g) → x.mxClean s1 →
    let k := s1.core x.core
    let slot := dfield x.t.v 3 0
    let roleB := dfield x.t.v 4 4 = 1
    let kn := if dfield x.t.v 10 5 = 0 then 32 else dfield x.t.v 10 5
    let a : Nat := (x.latch s1 0x300).v.toNat
    let b : Int := (x.latch s1 0x301).v.toInt
    let reg := k.bfmtOf (a / 0x8000)
    let fmt := bfmtFmt reg
    let per := fmtElems fmt
    let unit := fmtUnit fmt
    let n : Nat := ((if roleB then 64 else kn) + per - 1) / per * unit
    let bank : Nat := a / 0x8000 * 0x8000
    let al := if fmtIsBfp fmt then unit else 1
    let row (i : Nat) : Nat := ((a : Int) + i * b).toNat
    let exps (i : Nat) : List Nat := if fmtIsBfp fmt
      then (List.range (n / unit)).map fun j => bfmtExpBase reg + (row i - bank) / unit + j else []
    let is := List.range (if roleB then kn else 64)
    let ranges := is.map (fun i => (row i, n)) ++ is.flatMap fun i => (exps i).map fun e => (e, 1)
    k.owns slot → kn ≤ 32 → dfield x.t.v 63 11 = 0 → a < 0xA0000 → fmt ∈ [1, 2, fmtT5, fmtI4, fmtBfp8, fmtBfp12] →
    a % al = 0 → b % (al : Int) = 0 →
    (∀ i ∈ is, (bank : Int) ≤ a + i * b ∧ (a : Int) + i * b + n ≤ bank + 0x8000) →
    k.rangesRefusal false ranges = none → k.rangesBad ranges = none →
    let s2 := s1.turnFor x.core 2
    s2.wait = false → s2.drained x.core →
    exec (.mxFill w) s = .next (s.close (s2.updCtx x.core fun c => { c.countRanges false ranges with
      mxq := (c.countRanges false ranges).mxq ++ [.fill slot roleB kn fmt (is.map fun i =>
        (k.spadRead (row i) n, (exps i).map fun e => (k.spad.get 0 e).toNat, row i,
          joinTags (k.rangeTag (row i) n :: (exps i).map fun e => k.rangeTag e 1))) x.trapIll x.ctl] }) x g [] false)

/-- Multiply-accumulates, drains and zeroing join the unit's operations (R227, R232, R235, R236, R238): `mx.mma` on slots
of the task in roles A and B; `mx.mmat` for members of a team, numbered by TSTEP; `mx.drain` with its status words to
come; `mx.zero` at once where no operation is under way. -/
def Obligations.MxArithmetic : Prop :=
  ∀ w : TrigW,
    Does (.mxMma w) (fun x s => let k := s.core x.core
      x.mxClean s ∧ dfield x.t.v 63 11 = 0 ∧ k.owns (dfield x.t.v 3 0) ∧ !k.roleOf (dfield x.t.v 3 0) ∧
        k.owns (dfield x.t.v 7 4) ∧ k.roleOf (dfield x.t.v 7 4)) (fun x s => s.updCtx x.core fun c => { c with
      mxq := c.mxq ++ [.mma (dfield x.t.v 3 0) (dfield x.t.v 7 4) (dfield x.t.v 9 8) (dfield x.t.v 10 10 = 1) 0 x.ctl] }) ∧
    Does (.mxMmat w) (fun x s => let k := s.core x.core
      let t := taskOf s x.core
      x.mxClean s ∧ dfield x.t.v 63 11 = 0 ∧ k.ctx.team ≠ 0 ∧
        (sendsA t k.ctx.team → k.owns (dfield x.t.v 3 0) ∧ !k.roleOf (dfield x.t.v 3 0)) ∧
        (sendsB t k.ctx.team → k.owns (dfield x.t.v 7 4) ∧ k.roleOf (dfield x.t.v 7 4))) (fun x s => s.updCtx x.core fun c =>
      { c with
        mxq := c.mxq ++ [.mmat (dfield x.t.v 3 0) (dfield x.t.v 7 4) (dfield x.t.v 9 8) (dfield x.t.v 10 10 = 1) c.team c.tstep false
          none 0 x.ctl]
        tstep := c.tstep + 1 }) ∧
    (∀ s s1 x g, s.begins (.mxDrain w) = some (x, s1, g) → x.mxClean s1 →
      let a := (x.latch s1 0x300).v.toNat
      let b := (x.latch s1 0x301).v.toNat
      let form := dfield x.t.v 3 2
      let n := if form = 0 then 256 else 512
      let ranges := (List.range 64).map fun r => (a + r * b, n)
      form ≠ 3 → dfield x.t.v 63 5 = 0 → a % 64 = 0 → b % 64 = 0 → n ≤ b → a < 0xA0000 →
      (a + 63 * b + n - 1) / 2 ^ 15 = a / 2 ^ 15 → (s1.core x.core).rangesRefusal true ranges = none →
      let s2 := s1.turnFor x.core 2
      ∀ s3, s2.wait = false → s2.drained x.core → s2.drainReady x.core (dfield x.t.v 1 0) x.ctl = some (s3, none) →
      exec (.mxDrain w) s = .next (s.close (s3.newId.2.updCtx x.core fun c =>
        ((c.countRanges true ranges).await [0x37D, 0x37F] s3.nextId).pushMx
          (.drain (dfield x.t.v 1 0) form (dfield x.t.v 4 4 = 1) a b s3.nextId x.ctl (joinTags [x.t.t, x.ctl]))) x g [] false)) ∧
    Does (.mxZero w) (fun x s => x.mxClean s ∧ dfield x.t.v 63 3 = 0 ∧ (s.ctx x.core).mxq = []) (fun x s => s.updCtx x.core fun c =>
      (if dfield x.t.v 2 2 = 1 then [0, 1, 2, 3] else [dfield x.t.v 1 0]).foldl (fun c i =>
        c.setAcc i { tags := NMap.ofFn [] 0 64 fun _ => x.ctl }) c)

/-- Teams, block sums and progress (R234, R237, R239). `mx.team` sets the team, whose shape, place and membership are checked,
and TSTEP 0; `mx.bsum` sends COUNT sums of the core's scratchpad, with exponent and clamp count, towards the target that
`mx.b` names; `mx.prog` tells a handler of the operation and the weight-driven mode that its trap interrupted. A mucked
operand leaves every `mx` operation undone: its result ports receive 0 with tag 0xFFFF (R154, R226). -/
def Obligations.MxTeamsAndSums : Prop :=
  ∀ w : TrigW,
    Does (.mxTeam w) (fun x s => x.mxClean s ∧ dfield x.t.v 63 19 = 0 ∧
      (x.t.v.setWidth 19 = (0 : BitVec 19) ∨ teamOk (taskOf s x.core) (x.t.v.setWidth 19))) (fun x s =>
      s.updCtx x.core fun c => { c with team := x.t.v.setWidth 19, tstep := 0 }) ∧
    (∀ s s1 x g m off, s.begins (.mxBsum w) = some (x, s1, g) → x.mxClean s1 →
      let k := s1.core x.core
      let n := dfield x.t.v 11 0 + 1
      let a := (x.latch s1 0x300).v.toNat
      let c := (x.latch s1 0x302).v
      dfield x.t.v 63 12 = 0 → a % 8 = 0 → a < 0xA0000 → (a + 8 * n - 1) / 2 ^ 15 = a / 2 ^ 15 →
      decodeAddr x.core (taskOf s1 x.core) (x.latch s1 0x301).v = some (some (.spad m off)) → off % 64 = 0 →
      (off + 63 + 16 * n) / 2 ^ 15 = off / 2 ^ 15 → k.rangesRefusal false [(a, 8 * n)] = none → k.rangesBad [(a, 8 * n)] = none →
      let s2 := s1.turnFor x.core 2
      let z := s2.newId.2.stamp x.core (.spad m off)
      s2.wait = false → s2.drained x.core →
      exec (.mxBsum w) s = .next (s.close { (z.1.updCtx x.core (·.countRanges false [(a, 8 * n)])) with
        bsums := s1.bsums ++ [{ id := s1.nextId, vec := z.2, sender := x.core, index := (taskOf s1 x.core).index, target := m, off := off
                                exp := c.setWidth 32, cnt := c.extractLsb' 32 32
                                sums := (List.range n).map fun i => (BitVec.ofNat 64 (ofBytes (k.spadRead (a + 8 * i) 8)),
                                  k.rangeTag (a + 8 * i) 8) }] } x g [] false)) ∧
    Does (.mxProg w) (fun x s => x.mxClean s ∧ x.t.v.toNat ≤ 2) (fun x s =>
      let k := s.core x.core
      let v : Dword := if !k.ctx.priv then 0
        else if x.t.v = 0 then match k.image.mxq with
          | .mma _ _ acc _ n _ :: _ => BitVec.ofNat 64 (n + 64 + 256 * acc)
          | .mmat _ _ acc _ _ _ _ _ n _ :: _ => BitVec.ofNat 64 (n + 64 + 256 * acc + 1024)
          | _ => 0
        else match k.image.wd with
          | some d => BitVec.ofNat 64 (if x.t.v = 1 then d.block % 2 ^ 48 else d.restart + 2 ^ 32 + 2 ^ 33 * d.bstk.length)
          | none => 0
      s.updCtx x.core (·.send { due := s.now + 2, sw := [(0x37D, { v := v })] })) ∧
    (∀ e ∈ ([(.mxClaim w, [0x37D, 0x37F]), (.mxRelease w, [0x37F]), (.mxFill w, []), (.mxMma w, []), (.mxMmat w, []),
      (.mxDrain w, [0x37D, 0x37F]), (.mxBsum w, []), (.mxZero w, []), (.mxTeam w, []), (.mxProg w, [0x37D])] :
      List (Instr × List Nat)),
    Does e.1 (fun x s => ¬ x.mxClean s) (fun x s => s.undone x e.2))

/-! ## The label unit and the Carillon -/

/-- Labels made and joined (R256, R271, R272, R273, R276): `lb.assume` the label of one assumption, `lb.join` and `lb.merge`
joins, `lb.tag` the index of a label, `lb.retag` the label of an index. Every result joins CTLAB. Labels tested (R274, R275, R277, R278):
under the assumptions in `lb.a`, whether T's label holds, with T's value tagged 0xFFFF by `lb.commit` where it does not; the number of
its environments, one of them, and their fewest assumptions, each with the label's kind in `lb.f`. -/
def Obligations.LbLabels : Prop :=
  ∀ w : TrigW,
    LbDoes (.lbAssume w) 0 (fun l x => dfield x.t.v 63 6 = 0 ∧ dfield x.t.v 5 0 < l.na) (fun q x a =>
      match q.intern (minimise q.nogoods [2 ^ dfield x.t.v 5 0]) with
      | (q, some u) => (q, [(0x3BD, { v := a.v, t := joinTags [a.t, tagOf u, x.ctl] })])
      | (q, none) => (q, [])) ∧
    LbDoes (.lbJoin w) 1 (fun _ _ => True) (fun q x a => (q, [(0x3BD, { v := x.t.v, t := joinTags [a.t, x.t.t, x.ctl] })])) ∧
    LbDoes (.lbMerge w) 2 (fun _ _ => True) (fun q x a =>
      let (q, ta) := q.single a.t
      let (q, tt) := q.single x.t.t
      if q.stuck then (q, []) else match q.merge ta tt with
      | (q, some u) => (q, [(0x3BD, { v := x.t.v, t := joinTags [tagOf u, x.ctl] }),
          (0x3BF, { v := if a.v = x.t.v then 0 else 1, t := x.ctl })])
      | (q, none) => (q, [])) ∧
    LbDoes (.lbTag w) 6 (fun _ _ => True) (fun q x _ =>
      let (q, u) := q.single x.t.t
      let (q, u) := q.resolve u
      (q, [(0x3BD, { v := u.setWidth 64, t := x.ctl })])) ∧
    LbDoes (.lbRetag w) 7 (fun l x => let g := dfield x.t.v 15 0
      dfield x.t.v 63 16 = 0 ∧ (g = 0 ∨ g = 0xFFFF ∨ (g ≤ l.limit ∧ (l.ents.get {} g).form ≠ .free))) (fun q x a =>
      (q, [(0x3BD, { v := a.v, t := joinTags [tagOf (x.t.v.setWidth 16), x.ctl] })])) ∧
    LbDoes (.lbCommit w) 4 (fun _ _ => True) (fun q x a =>
      let (q, u) := q.single x.t.t
      let (q, h) := q.holds u (a.v.toNat % 2 ^ q.l.na)
      (q, [(0x3BD, { v := x.t.v, t := if h then joinTags [a.t, x.ctl] else [mucked] }),
        (0x3BF, { v := if h then 1 else 0, t := joinTags [a.t, x.ctl] })])) ∧
    LbDoes (.lbHolds w) 5 (fun _ _ => True) (fun q x a =>
      let (q, u) := q.single x.t.t
      let (q, h) := q.holds u (a.v.toNat % 2 ^ q.l.na)
      (q, [0x3BD, 0x3BF].map fun p => (p, { v := if h then 1 else 0, t := joinTags [a.t, x.ctl] }))) ∧
    (let testing (i : Instr) (op : Nat) (f : SVal → List Nat → Nat × Bool) : Prop :=
      LbDoes i op (fun _ _ => True) (fun q x a =>
        let (q, u) := q.single x.t.t
        let (q, u) := q.resolve u
        let (n, known) := f a (if u = 0 then [0] else if u = mucked then [] else q.content (q.entry u))
        (q, [(0x3BD, { v := BitVec.ofNat 64 n, t := x.ctl }), (0x3BF, { v := if known then q.kind u else 3, t := x.ctl })]))
     testing (.lbEnvs w) 8 (fun _ es => (min 0xFFFFFFFF es.length, true)) ∧
     testing (.lbEnv w) 9 (fun a es => (es.getD a.v.toNat 0, a.v.toNat < es.length)) ∧
     testing (.lbMin w) 11 (fun _ es => (if es = [] then 2 ^ 64 - 1 else fewest es, true)))

/-- `lb.contra` on a core whose accesses are all performed, below the last epoch (R258, R273): the nogood is recorded, and
the results are the entries changed and the new epoch. `lb.count` (R278): the sum of the label's probabilities over the 64
weights at `lb.a`, which its group reads. `lb.census` (R280): its results wait for the sweep. Results on the fast path land one
core cycle on for each step of the resolution, and no path takes less (R267). -/
def Obligations.LbWholeSpace : Prop :=
  (∀ w : TrigW,
    (∀ s s1 x g l, s.begins (.lbContra w) = some (x, s1, g) → x.lspaceOf s1 = some l → l.epoch < 2 ^ 40 - 1 → s1.drained x.core →
      let r := s1.label (s1.spaceOf x.core).1 (s1.spaceOf x.core).2 [] fun q =>
        let (q, u) := q.single (joinTags [x.t.t, x.ctl])
        if q.stuck then (q, []) else
        let (q, n) := q.contra u
        (q, ([(0x3BD, { v := BitVec.ofNat 64 n }), (0x3BE, { v := BitVec.ofNat 64 q.l.epoch })] : LWrite))
      r.2.1 = none →
      exec (.lbContra w) s = .next (s.close ((r.1.lbSend x.core { op := 3, a := x.latch s1 0x380, t := x.t, ctl := x.ctl } r.2.2).updCore
        x.core fun k => { k with irrev := true }) x g [] false)) ∧
    (∀ s s1 x g l ps bs ts, s.begins (.lbCount w) = some (x, s1, g) → x.lspaceOf s1 = some l →
      let a := x.latch s1 0x380
      let at_ := s1.place x.core (taskOf s1 x.core) .read a.v 512
      let rd := at_.1.readParts x.core at_.1.nextId ps
      let s2 := rd.1
      a.v.toNat % 64 = 0 → s1.drained x.core → at_.2 = .ok ps → rd.2 = .ok (bs, ts) → s2.wait = false →
      let ws := (List.range 64).map fun i => BitVec.ofNat 64 (ofBytes ((bs.drop (8 * i)).take 8))
      let r := s2.label (s2.spaceOf x.core).1 (s2.spaceOf x.core).2 [] fun q =>
        let (q, u) := q.single x.t.t
        let (q, p) := q.probability u fun i => (ws.getD i 0).toNat
        (q, ([(0x3BD, { v := BitVec.ofNat 64 p, t := joinTags [a.t, ts, x.ctl] })] : LWrite))
      r.2.1 = none →
      exec (.lbCount w) s = .next (s.close (r.1.lbSend x.core { op := 10, a := a, t := x.t, ctl := x.ctl, ws := ws, wt := ts } r.2.2)
        x g [] false)) ∧
    Does (.lbCensus w) (fun x s => (x.lspaceOf s).isSome ∧ s.drained x.core) (fun x s => s.newId.2.updCtx x.core fun k =>
      { k.await [0x3BD, 0x3BE] s.nextId with lbops := k.lbops ++ [{ op := 12, token := s.nextId }] })) ∧
  (∀ (s : State) c (o : LbOp) ws, (∀ b ∈ o.path, b = false) →
    s.lbSend c o ws = (s.sampled 4 c o.path.length).updCtx c (·.send { due := s.now + 2 * o.path.length, sw := ws })) ∧
  (∀ (s : State) c (o : LbOp) ws, ∃ (n : Nat) (s' : State), o.path.length ≤ n ∧ s'.cores = s.cores ∧
    s.lbSend c o ws = s'.updCtx c (·.send { due := s.now + 2 * n, sw := ws }))

/-- CTLAB and the space (R264, R279, R281): `lb.ctlset` makes CTLAB the join of the tag that T's value is, or of 0xFFFF where
that means nothing in the space (R251), with T's own tag, and `lb.ctlget` reads it with itself as its tag; `lb.space` reads the space's fields, and 0
where there is none. Without a label space every operation that needs one is refused with NOSPACE (R271). That `lb.ctlset` comes before
the join of its group's guard, and that its `.r` is the index from before that join, is the model's choice (log entry 21). -/
def Obligations.LbControl : Prop :=
  ∀ w : TrigW,
    (∀ s s1 x g t u, s.begins (.lbCtlset w) = some (x, s1, g) → (x.muckTrap = false ∨ isMuck x.t.t = false) →
      let r := s1.ctlabOf x.core x.t
      r.2 = (none, t) →
      let z := r.1.resolveTags (r.1.spaceOf x.core).1 (r.1.spaceOf x.core).2 t
      z.2 = (none, u) →
      exec (.lbCtlset w) s = .next (s.close (z.1.updCtx x.core fun k =>
        { (k.send { due := z.1.now + 2, sw := [(0x3BD, { v := u.setWidth 64 })] }) with ctlab := tagOf u }) x g [] false)) ∧
    Does (.lbCtlget w) (fun x _ => unresolved x.ctl = false) (fun x s => s.updCtx x.core (·.send
      { due := s.now + 2, sw := [(0x3BD, { v := (toTag x.ctl).setWidth 64, t := x.ctl })] })) ∧
    Does (.lbSpace w) (fun x _ => x.t.v.toNat ≤ 3) (fun x s =>
      let v : Nat := match x.lspaceOf s with
        | some l =>
          if x.t.v = 0 then l.na + 2 ^ 7 * (if l.incons then 1 else 0) + 2 ^ 8 * l.dsp + 2 ^ 16 * l.limit
            + 2 ^ 32 * (s.ctx x.core).lspace.toNat
          else if x.t.v = 1 then l.epoch
          else if x.t.v = 2 then l.ents.length
          else l.ngs.length + 2 ^ 63 * (if hNorm l.ngh.toNat = hFalse then 0 else 1)
        | none => if x.t.v = 0 then 2 ^ 32 * (s.ctx x.core).lspace.toNat else 0
      s.updCtx x.core (·.send { due := s.now + 2, sw := [(0x3BD, { v := BitVec.ofNat 64 v })] })) ∧
    (∀ i ∈ ([.lbAssume w, .lbJoin w, .lbMerge w, .lbContra w, .lbCommit w, .lbHolds w, .lbTag w, .lbRetag w, .lbEnvs w,
      .lbEnv w, .lbCount w, .lbMin w, .lbCensus w] : List Instr),
    Refused i (fun x s => x.lspaceOf s = none) (fun x _ => { cause := 18, reason := 11, val := x.t.v }))

/-- A `cl` trigger (R292, R294) in a diagram space that exists and holds every handle that it names, with no `cl` operation
of the core under way, its accesses performed, nothing mucked and no reserved field set: the operation goes to the Carillon and its ports wait. With
its control operand mucked, or with another operand mucked and no refusal, it is not performed; a space that does not exist
refuses it unless its control operand is mucked (R384 step 3). -/
def Obligations.ClIssue : Prop :=
  ∀ w : TrigW, ∀ e ∈ ([(.clVar w, 0), (.clIte w, 1), (.clApply w, 2), (.clNot w, 3), (.clRestrict w, 4), (.clExists w, 5),
      (.clCount w, 6), (.clWcount w, 7), (.clSat w, 8), (.clRef w, 9), (.clUnref w, 10), (.clSwap w, 11), (.clSize w, 12),
      (.clGc w, 13), (.clMincount w, 14)] : List (Instr × Nat)),
    let latches (x : Trig) (s : State) : List SVal := (if (clReads e.2).1 then [x.latch s 0x3C0] else [])
      ++ (if (clReads e.2).2.1 then [x.latch s 0x3C1] else []) ++ if (clReads e.2).2.2 then [x.t] else []
    Does e.1 (fun x s =>
      let h (v : SVal) : Nat := hNorm (v.v.toNat % 2 ^ 32)
      (s.ctx x.core).clop = none ∧ (∀ v ∈ latches x s, isMuck v.t = false) ∧
      clArgReserved e.2 (x.latch s 0x3C0).v x.t.v = false ∧ x.ddspace < 8 ∧
      ((s.part (s.partNo x.core)).dspaces.get none x.ddspace).isSome ∧
      (∀ z ∈ clHandles e.2 (h (x.latch s 0x3C0)) (h (x.latch s 0x3C1)) (if e.2 = 12 then x.t.v.toNat else h x.t),
        hConst z ∨ hSp z = x.ddspace) ∧
      s.drained x.core) (fun x s => (s.newId.2.updCtx x.core fun k => { k.await (clPorts e.2) s.nextId with
        clop := some { op := e.2, a := x.latch s 0x3C0, b := x.latch s 0x3C1, t := x.t, space := x.ddspace, ddwt := x.ddwt
                       ctl := x.ctl, token := s.nextId, began := s.now } }).updCore x.core fun k => { k with irrev := true }) ∧
    Does e.1 (fun x s => (s.ctx x.core).clop = none ∧ (clControl e.2 (x.latch s 0x3C0) x.t).any (isMuck ·.t))
      (fun x s => s.undone x (clPorts e.2)) ∧
    Does e.1 (fun x s =>
      let h (v : SVal) : Nat := hNorm (v.v.toNat % 2 ^ 32)
      (s.ctx x.core).clop = none ∧ (clControl e.2 (x.latch s 0x3C0) x.t).any (isMuck ·.t) = false ∧
      (∃ v ∈ latches x s, isMuck v.t) ∧ clArgReserved e.2 (x.latch s 0x3C0).v x.t.v = false ∧ x.ddspace < 8 ∧
      ((s.part (s.partNo x.core)).dspaces.get none x.ddspace).isSome ∧
      (∀ z ∈ clHandles e.2 (h (x.latch s 0x3C0)) (h (x.latch s 0x3C1)) (if e.2 = 12 then x.t.v.toNat else h x.t),
        hConst z ∨ hSp z = x.ddspace)) (fun x s => s.undone x (clPorts e.2)) ∧
    Refused e.1 (fun x s => (s.ctx x.core).clop = none ∧ (clControl e.2 (x.latch s 0x3C0) x.t).any (isMuck ·.t) = false ∧
      clArgReserved e.2 (x.latch s 0x3C0).v x.t.v = false ∧
      (8 ≤ x.ddspace ∨ (s.part (s.partNo x.core)).dspaces.get none x.ddspace = none))
      (fun x _ => { cause := 18, reason := 13, val := x.t.v })

/-! ## Messages and copies -/

/-- Messages (R325 to R327). `ms.send` of a core whose accesses are performed (R114), to a member with room, where no other sender
comes first, puts one dword with its tags on its way; `ms.put` holds a write of LEN bytes of `ms.c` for the end of the superstep; `ms.poll` counts what a channel, or
every channel, holds; `ms.chan` sets a channel's reservation, or answers 1 where 64 entries would not do. -/
def Obligations.MsOperations : Prop :=
  ∀ w : TrigW,
    (∀ s s1 x g s2 u, s.begins (.msSend w) = some (x, s1, g) →
      let a := x.latch s1 0x400
      let t := taskOf s1 x.core
      let gx := dfield a.v 5 0
      let gy := dfield a.v 11 6
      let ch := dfield a.v 19 12
      isMuck a.t = false → gx < t.gw → gy < t.gh → dfield a.v 26 20 ≤ 64 → dfield a.v 63 27 = 0 → t.duplex = false → s1.drained x.core →
      s1.joinFor x.core (joinTags [x.t.t, a.t, x.ctl]) = (s2, none, u) →
      s1.boxRoom t gx gy ch → s1.sendBehind x.core t gx gy = false → s1.box t gx gy ≠ .gone →
      let s3 := (s2.updCtx x.core fun k => { k with sendWait := none }).setBoxLast t gx gy t.index
      let m : Msg := { sender := t.index, chan := ch, v := x.t.v, t := tagOf u }
      exec (.msSend w) s = .next (s.close { s3 with msgs := s3.msgs ++ [{ task := t, gx := gx, gy := gy, msg := m }] } x g []
        false)) ∧
    (∀ s s1 x g m off, s.begins (.msPut w) = some (x, s1, g) →
      let a := x.latch s1 0x400
      let v := (s1.ctx x.core).vector 0x402
      let t := taskOf s1 x.core
      let n := if dfield a.v 26 20 = 0 then 64 else dfield a.v 26 20
      isMuck a.t = false → isMuck x.t.t = false → dfield a.v 5 0 < t.gw → dfield a.v 11 6 < t.gh → dfield a.v 63 27 = 0 → n ≤ 64 →
      decodeAddr x.core t x.t.v = some (some (.spad m off)) → off % 64 + n ≤ 64 → t.isProtected = false →
      exec (.msPut w) s = .next (s.close ((s1.newId.2.updPart t.part fun p => { p with held := p.held ++ [({
        core := x.core, loc := .spad m off, addr := x.t.v, bytes := bytesOf n v.v.toNat, put := true, id := s1.nextId,
        tag := joinTags [v.t, x.t.t, a.t, x.ctl] } : Held)] }).addStore x.core s1.nextId) x g [] false)) ∧
    Does (.msPoll w) (fun x _ => isMuck x.t.t = false ∧ dfield x.t.v 63 9 = 0) (fun x s =>
      let box := (s.ctx x.core).inbox
      let n := if dfield x.t.v 8 8 = 1 then box.length else box.countP fun m => m.chan = dfield x.t.v 7 0
      s.sent x 1 [(0x43D, BitVec.ofNat 64 n), (0x43F, if n = 0 then 0 else 1)] [x.t.t]) ∧
    Does (.msChan w) (fun x _ => isMuck x.t.t = false ∧ dfield x.t.v 63 15 = 0 ∧ dfield x.t.v 14 8 ≤ 64) (fun x s =>
      let r := (s.ctx x.core).resv.set 0 (dfield x.t.v 7 0) (dfield x.t.v 14 8)
      if 64 < totalResv r then s.sent x 1 [(0x43F, 1)] [x.t.t]
      else (s.updCtx x.core fun k => { k with resv := r }).sent x 1 [(0x43F, 0)] [x.t.t])

/-- `ce.go` and `ce.try` (R308, R309, R323) with nothing mucked and fewer than eight commands of the core under way: the command is
captured with the rounding mode of the moment, and the register of SREG waits for its status word unless NOST
is set; `ce.try` answers 0. That FTZ is captured with the rounding mode is the model's choice (log entry 32). With a mucked word nothing is captured, and the register receives 0 with tag 0xFFFF, as `ce.r` does.
With eight under way `ce.try` answers 1 and captures nothing. -/
def Obligations.CeAcceptance : Prop :=
  ∀ w : TrigW, ∀ e ∈ ([(.ceGo w, false), (.ceTry w, true)] : List (Instr × Bool)),
    let operands (x : Trig) (s : State) : List SVal := [x.latch s 0x600, x.latch s 0x601, x.latch s 0x602, x.t]
    let answer (x : Trig) (s s2 : State) (r : Dword) : State :=
      if e.2 then s2.sent x 1 [(0x63D, r)] ((operands x s).map (·.t)) else s2
    Does e.1 (fun x s => (∀ v ∈ operands x s, isMuck v.t = false) ∧ (s.ctx x.core).copies.length + (s.ctx x.core).nosts.length < 8 ∧
      ((x.copy s s.nextId).nost ∨ (s.ctx x.core).portPending (x.copy s s.nextId).dPort = false)) (fun x s =>
      let k := x.copy s s.nextId
      answer x s (s.newId.2.updCtx x.core fun c =>
        let c := { c with copies := c.copies ++ [k] }
        if k.nost then c else c.await [k.dPort] s.nextId) 0) ∧
    Does e.1 (fun x s => (∃ v ∈ operands x s, isMuck v.t) ∧ (s.ctx x.core).copies.length + (s.ctx x.core).nosts.length < 8 ∧
      ((x.copy s s.nextId).nost ∨ (s.ctx x.core).portPending (x.copy s s.nextId).dPort = false)) (fun x s =>
      let k := x.copy s s.nextId
      let s2 := if k.nost then s else s.updCtx x.core fun c =>
        { c.setScalar k.dPort { t := [mucked] } with pend := c.pend.filter fun e => e.1 != k.dPort }
      if e.2 then s2.undone x [0x63D] else s2) ∧
    (e.2 → Does e.1 (fun x s => 8 ≤ (s.ctx x.core).copies.length + (s.ctx x.core).nosts.length ∧
      ((x.copy s s.nextId).nost ∨ (s.ctx x.core).portPending (x.copy s s.nextId).dPort = false)) (fun x s => answer x s s 1))

/-! ## Control -/

/-- Transfers (R169 to R171, R183). `jmp` and `call` to an aligned target inside the segment, `ret` to the topmost call entry, and
`loop` take their target after three cycles, a loop of at least one pass after one; `call` and `loop` push an entry of a stack
of 16, a loop of no pass goes past the group of its last word, and a jump out of loops pops theirs. A mucked target is not
taken. -/
def Obligations.ControlTransfers : Prop :=
  ∀ w : TrigW, ∀ e ∈ ([(.ctJmp w, .ctCall w, .ctRet w, .ctLoop w), (.acJmp w, .acCall w, .acRet w, .acLoop w)] :
      List (Instr × Instr × Instr × Instr)),
    let (jmp, call, ret, loop) := e
    let inside (x : Trig) (s : State) (v : Dword) : Prop :=
      let g := (s.ctx x.core).segOf x.half
      v.toNat % 4 = 0 ∧ g.lo ≤ v.toNat ∧ v.toNat < g.hi
    let entry (x : Trig) (s : State) : RsEntry := .loop (BitVec.ofNat 17 x.next)
      (BitVec.ofNat 17 ((x.latch s x.ctlA).v.toNat / 4 * 4)) (BitVec.ofNat 32 (dfield x.t.v 31 0))
    let body (x : Trig) (s : State) : Prop := anyMuck [x.t.t, (x.latch s x.ctlA).t] = false ∧
      x.next ≤ (x.latch s x.ctlA).v.toNat ∧ (x.latch s x.ctlA).v.toNat < ((s.ctx x.core).segOf x.half).hi
    Transfers jmp (fun x s => isMuck x.t.t = false ∧ inside x s x.t.v) (fun x s =>
      (x.t.v.toNat, leaveLoops (s.core x.core) x.t.v.toNat (x.stream s).stack, 3)) ∧
    Transfers call (fun x s => isMuck x.t.t = false ∧ inside x s x.t.v ∧ (x.stream s).stack.length < 16) (fun x s =>
      (x.t.v.toNat, .call (BitVec.ofNat 17 x.next) :: (x.stream s).stack, 3)) ∧
    Transfers ret (fun x s => isMuck x.t.t = false ∧ (topCall (x.stream s).stack).isSome) (fun x s =>
      let r := (topCall (x.stream s).stack).getD (0, [])
      (r.1.toNat, r.2, 3)) ∧
    Transfers loop (fun x s => body x s ∧ dfield x.t.v 31 0 ≠ 0 ∧ (x.stream s).stack.length < 16) (fun x s =>
      (x.next, entry x s :: (x.stream s).stack, 1)) ∧
    Transfers loop (fun x s => body x s ∧ dfield x.t.v 31 0 = 0 ∧ (x.stream s).stack.length < 16) (fun x s =>
      (groupEnd (s.core x.core) 4 ((x.latch s x.ctlA).v.toNat / 4 * 4), (x.stream s).stack, 3)) ∧
    (∀ i ∈ [jmp, call, ret], NotTaken i (fun x _ => isMuck x.t.t)) ∧
    NotTaken loop (fun x s => anyMuck [x.t.t, (x.latch s x.ctlA).t]) ∧
    (∀ i ∈ [jmp, call], Refused i (fun x s => isMuck x.t.t = false ∧ ¬ inside x s x.t.v) (fun x _ =>
      permissionFault rTarget x.t.v)) ∧
    Refused call (fun x s => isMuck x.t.t = false ∧ inside x s x.t.v ∧ 16 ≤ (x.stream s).stack.length) (fun x _ =>
      { cause := 13, reason := 1, val := (RsEntry.call (BitVec.ofNat 17 x.next)).word }) ∧
    Refused ret (fun x s => isMuck x.t.t = false ∧ topCall (x.stream s).stack = none) (fun _ _ => { cause := 13, reason := 2 }) ∧
    Refused loop (fun x s => body x s ∧ 16 ≤ (x.stream s).stack.length) (fun x s =>
      { cause := 13, reason := 1, val := (entry x s).word })

/-- Waits and fences (R115, R116, R172, R173, R183): `wait` goes on once loads and atomics, stores, copies and matrix
operations under way (zeroing and releases apart) are no more than T says; a fence goes on at once for kind 0 or a scope that
meets no other observer, once the core's loads and atomics are performed for an acquire, and once everything is for a full
fence; a release goes on once its pushed store data have met their addresses, and the core's later stores then wait for what it
found outstanding. Where an operand is mucked neither does anything (R154). That a fence whose scope meets no other observer ends at once,
and when each kind lets its group go on, is the model's choice (log entry 26). -/
def Obligations.ControlWaits : Prop :=
  ∀ w : TrigW,
    (∀ i ∈ ([.ctWait w, .acWait w] : List Instr), Does i (fun x s => isMuck x.t.t = false ∧
      let k := s.ctx x.core
      (k.loads.countP fun l => !l.muck) + k.atoms.length ≤ dfield x.t.v 3 0 ∧ k.stores.length ≤ dfield x.t.v 7 4 ∧
      k.copies.length + k.nosts.length ≤ dfield x.t.v 11 8 ∧
      (k.mxq.countP fun o => match o with
        | .zero _ _ | .release _ => false
        | _ => true) + (s.bsums.countP fun b => b.sender = x.core) ≤ dfield x.t.v 15 12)
      (fun _ s => s)) ∧
    Does (.ctFence w) (fun x s => let a := x.latch s 0x440
      isMuck x.t.t = false ∧ isMuck a.t = false ∧ (dfield a.v 1 0 = 0 ∨ ∃ sc, s.scopeOf x.core (taskOf s x.core) x.t.v = some sc ∧
        (s.scopesMeet x.core sc sc = false ∨ (dfield a.v 1 0 = 1 ∧ s.performed x.core) ∨
          (dfield a.v 1 0 = 3 ∧ s.drained x.core)))) (fun _ s => s) ∧
    Does (.ctFence w) (fun x s => let a := x.latch s 0x440
      isMuck x.t.t = false ∧ isMuck a.t = false ∧ dfield a.v 1 0 = 2 ∧ s.paired x.core ∧
      ∃ sc, s.scopeOf x.core (taskOf s x.core) x.t.v = some sc ∧ s.scopesMeet x.core sc sc) (fun x s =>
      let open_ (f : Nat) : Bool := (s.reqs ++ s.unpaired ++ s.gone).any fun r => r.names.any fun n => n.1 = x.core && n.2 < f
      s.newId.2.updCtx x.core fun k => { k with fences := (k.fences ++ [s.nextId]).filter open_ }) ∧
    (∀ i ∈ ([.ctWait w, .acWait w] : List Instr), Does i (fun x _ => isMuck x.t.t) (fun _ s => s)) ∧
    Does (.ctFence w) (fun x s => anyMuck [x.t.t, (x.latch s 0x440).t]) (fun _ s => s) ∧
    Refused (.ctFence w) (fun x s => let a := x.latch s 0x440
      isMuck x.t.t = false ∧ isMuck a.t = false ∧ dfield a.v 1 0 ≠ 0 ∧ s.scopeOf x.core (taskOf s x.core) x.t.v = none)
      (fun x _ => { cause := 8, val := x.t.v })

/-- System registers (R150, R178, R183): `rsr` puts the register that T[11:0] numbers into `ct.r` or `ac.r` after one cycle with
tag 0, and `wsr` writes it from `ct.a`; numbers that user code may not use are refused at the plain ports, and a word with a
privileged port is none that the scanner makes executable in a segment registered at user privilege (R137). -/
def Obligations.ControlSystemRegisters : Prop :=
  ∀ w : TrigW,
    (∀ e ∈ ([(.ctRsr w, false), (.acRsr w, false), (.ctRsrs w, true)] : List (Instr × Bool)),
      (∀ s s1 x g, s.begins e.1 = some (x, s1, g) →
        let n := dfield x.t.v 11 0
        let r := s1.sysInput x.core n
        (if e.2 then x.privileged s1 = true else sysRefused n false = false) → isMuck x.t.t = false →
        s1.sysStalls x.core n false = false → r.1.wait = false →
        exec e.1 s = .next ((s.close (r.1.updCtx x.core (·.send { due := r.1.now + 2, sw := [(x.ctlR, r.2)] })) x g []
          false).alignRow x.core x.half))) ∧
    (∀ e ∈ ([(.ctWsr w, false), (.ctWsrs w, true)] : List (Instr × Bool)),
      (∀ s s1 x g s2, s.begins e.1 = some (x, s1, g) →
        let n := dfield x.t.v 11 0
        (if e.2 then x.privileged s1 = true else sysRefused n true = false) → isMuck x.t.t = false →
        isMuck (x.latch s1 0x440).t = false → s1.sysStalls x.core n true = false →
        s1.sysWrite x.core n (x.latch s1 0x440) = (s2, none) →
        exec e.1 s = .next ((s.close s2 x g [] false).alignRow x.core x.half))) ∧
    (∀ e ∈ ([(.ctRsr w, false), (.acRsr w, false), (.ctWsr w, true)] : List (Instr × Bool)),
      Refused e.1 (fun x _ => sysRefused (dfield x.t.v 11 0) e.2) (fun x _ => privilegeTrap (dfield x.t.v 11 0))) ∧
    (∀ i ∈ ([.ctRsrs w, .ctWsrs w] : List Instr), ∀ s, w.s = true → (s.core s.curCore).segPriv s.curHalf = 0 →
      exec i s = .refused .unscanned)

/-- Gang and graph (R73 to R75, R174 to R177): a trick or barrier of a core whose accesses are performed makes its member
arrive; `ct.trigger` counts the member as triggered; `ct.launch` hands the 64-byte record at T to the partition's launch
ring, and answers 0, 1 where the ring is full and 2 where T is misaligned; `ct.exit` ends both streams. A trick or barrier while the
member's arrival is outstanding is refused with reason 15 (R174). -/
def Obligations.ControlGang : Prop :=
  ∀ w : TrigW,
    DoesRow (.ctTrick w) (fun x s => isMuck x.t.t = false ∧ (s.ctx x.core).arrived = none ∧ s.arrivable x.core) (fun x s =>
      s.arrive x.core (taskOf s x.core) none false) ∧
    DoesRow (.ctBar w) (fun x s => isMuck x.t.t = false ∧ (s.ctx x.core).arrived = none ∧ s.drained x.core ∧
      (s.barRect x.core (taskOf s x.core) x.t.v).isSome) (fun x s => match s.barRect x.core (taskOf s x.core) x.t.v with
        | some (some r) => s.arrive x.core (taskOf s x.core) (some r) false
        | _ => s) ∧
    DoesRow (.ctTrigger w) (fun x s => isMuck x.t.t = false ∧ s.drained x.core ∧
      ((s.updCore x.core fun k => { k with irrev := true }).countTrigger x.core (taskOf s x.core)).wait = false) (fun x s =>
      (s.updCore x.core fun k => { k with irrev := true }).countTrigger x.core (taskOf s x.core)) ∧
    Does (.ctLaunch w) (fun x s => isMuck x.t.t = false ∧ s.drained x.core ∧ x.t.v.toNat % 64 ≠ 0) (fun x s =>
      s.sent x 1 [(0x4BD, 2)] [x.t.t]) ∧
    (∀ s s1 x g ps bs ts, s.begins (.ctLaunch w) = some (x, s1, g) →
      let t := taskOf s1 x.core
      let at_ := s1.place x.core t .read x.t.v 64
      let rd := at_.1.readParts x.core at_.1.nextId ps
      isMuck x.t.t = false → s1.drained x.core → x.t.v.toNat % 64 = 0 → at_.2 = .ok ps → rd.2 = .ok (bs, ts) → rd.1.wait = false →
      let r := rd.1.enqueueLaunch t.part (BitVec.ofNat 512 (ofBytes bs))
      exec (.ctLaunch w) s = .next ((s.close ((r.1.updCore x.core fun k => { k with irrev := true }).sent x 1
        [(0x4BD, if r.2 then 0 else 1)] [x.t.t]) x g [] false).alignRow x.core x.half)) ∧
    (∀ i ∈ ([.ctTrick w, .ctBar w] : List Instr), Refused i (fun x s => isMuck x.t.t = false ∧ (s.ctx x.core).arrived.isSome)
      (fun x _ => { cause := 18, reason := 15, val := x.t.v })) ∧
    Does (.ctExit w) (fun x _ => isMuck x.t.t = false) (fun x s => s.updCtx x.core fun k => { k with
      xs := { k.xs with exited := true }, as_ := { k.as_ with exited := true } })

/-- `ct.wdrive` (R240) outside follow mode: at an aligned address, once the core's accesses are performed (R106), the weight-driven mode starts and `ct.r` waits for its exit
status; a misaligned address is answered with exit status 3. `ct.eret` (R182) in a handler: the core returns from its
trap; in a segment registered at user privilege no word of it is executable (R137, R150). -/
def Obligations.ControlModes : Prop :=
  ∀ w : TrigW,
    Does (.ctWdrive w) (fun x s => isMuck x.t.t = false ∧ (taskOf s x.core).follow = false ∧ x.t.v.toNat % 64 = 0 ∧ s.drained x.core) (fun x s =>
      s.newId.2.updCtx x.core fun k => { k.await [0x4BD] s.nextId with wd := some { block := x.t.v.toNat, token := s.nextId } }) ∧
    Does (.ctWdrive w) (fun x s => isMuck x.t.t = false ∧ (taskOf s x.core).follow = false ∧ x.t.v.toNat % 64 ≠ 0) (fun x s =>
      s.updCtx x.core (·.send { due := s.now + 2, sw := [(0x4BD, { v := 3 <<< 32 })] })) ∧
    (∀ s s1 x g, s.begins (.ctEret w) = some (x, s1, g) → x.privileged s1 → isMuck x.t.t = false →
      exec (.ctEret w) s = .next (s.close (s1.updCore x.core (·.leaveTrap s1.now)) x g (x.transferJoin (s1.ctx x.core) g) true)) ∧
    (∀ s, w.s = true → (s.core s.curCore).segPriv s.curHalf = 0 → exec (.ctEret w) s = .refused .unscanned)

/-! ## Memory access -/

/-- Loads (R185, R186, R190): `ag.ld`, and `ag.lds` with the scope that `ag.c` names, from `ag.a` + T of the size of `ag.q`, where
the load queue has room and the access is admitted: a request in the queue's order whose pieces are read at once in the
core's own scratchpad and requested elsewhere. A mucked address or control pushes a mucked entry instead, or nothing where a mucked
`ag.q` has a bad field. -/
def Obligations.AgLoads : Prop :=
  ∀ w : TrigW, ∀ e ∈ ([(.agLd w, false), (.agLds w, true)] : List (Instr × Bool)),
    let mucked_ (x : Trig) (s : State) : Bool := anyMuck ([x.t.t, (x.latch s 0x500).t, (x.latch s 0x503).t]
      ++ if e.2 then [(x.latch s 0x502).t] else [])
    (∀ s s1 x g sc ps, s.begins e.1 = some (x, s1, g) →
      let q := (x.latch s1 0x503).v
      let a := x.latch s1 0x500
      let ea := a.v + x.t.v
      let r := s1.checkAccess x.core (taskOf s1 x.core) .read ea (2 ^ dfield q 6 4)
      mucked_ x s1 = false → dfield q 6 4 ≠ 7 → dfield q 3 2 = 0 → dfield q 63 8 = 0 →
      (if e.2 then s1.scopeOf x.core (taskOf s1 x.core) (x.latch s1 0x502).v = sc ∧ sc.isSome else sc = none) →
      r.2 = .ok ps → (s1.ctx x.core).loadRoom r.1.now (dfield q 1 0) → r.1.strongHeld x.core sc ps = false →
      r.1.goneBefore x.core sc false ps = false →
      let s2 := r.1.pushLoad x.core (taskOf s1 x.core) (dfield q 1 0) (2 ^ dfield q 6 4) (dfield q 7 7 = 1) ea (joinTags [a.t, x.t.t]) sc ps
      s2.wait = false → exec e.1 s = .next ((s.close s2 x g [] false).alignRow x.core x.half)) ∧
    Does e.1 (fun x s => let q := x.latch s 0x503
      mucked_ x s ∧ (isMuck q.t → dfield q.v 6 4 ≠ 7 ∧ dfield q.v 3 2 = 0 ∧ dfield q.v 63 8 = 0) ∧
        (s.ctx x.core).loadRoom s.now (dfield q.v 1 0)) (fun x s =>
      let q := (x.latch s 0x503).v
      s.pushMucked x.core (dfield q 1 0) (2 ^ dfield q 6 4)) ∧
    Does e.1 (fun x s => let q := x.latch s 0x503
      isMuck q.t ∧ (dfield q.v 6 4 = 7 ∨ dfield q.v 3 2 ≠ 0 ∨ dfield q.v 63 8 ≠ 0)) (fun _ s => s) ∧
    Refused e.1 (fun x s => let q := (x.latch s 0x503).v
      mucked_ x s = false ∧ (dfield q 6 4 = 7 ∨ dfield q 3 2 ≠ 0 ∨ dfield q 63 8 ≠ 0)) (fun x s =>
      { cause := 18, reason := 1, val := (x.latch s 0x503).v })

/-- Stores (R185, R187, R190): `ag.st` and `ag.sts` of the head of a store queue, `ag.std` and `ag.stds` of `ag.b`, to `ag.a` + T,
where the access is admitted: the bytes go to their places with the join of the data's and the address's tags, and the
queue's head is removed. A mucked address or control drops the data; a mucked `ag.q` with a bad field does nothing. -/
def Obligations.AgStores : Prop :=
  ∀ w : TrigW, ∀ e ∈ ([(.agSt w, true, false), (.agSts w, true, true), (.agStd w, false, false), (.agStds w, false, true)] :
      List (Instr × Bool × Bool)),
    let mucked_ (x : Trig) (s : State) : Bool := anyMuck ([x.t.t, (x.latch s 0x500).t, (x.latch s 0x503).t]
      ++ if e.2.2 then [(x.latch s 0x502).t] else [])
    let data (x : Trig) (s : State) : Option QEntry := if e.2.1 then (s.ctx x.core).storeHead s.now (dfield (x.latch s 0x503).v 1 0)
      else some { v := (x.latch s 0x501).v.setWidth 512, t := (x.latch s 0x501).t }
    let took (x : Trig) (s0 s : State) : State :=
      if e.2.1 then s.updCtx x.core (·.popSq s.now (dfield (x.latch s0 0x503).v 1 0)) else s
    (∀ s s1 x g sc ps d s2, s.begins e.1 = some (x, s1, g) →
      let q := (x.latch s1 0x503).v
      let a := x.latch s1 0x500
      let ea := a.v + x.t.v
      let r := s1.checkAccess x.core (taskOf s1 x.core) .write ea (2 ^ dfield q 6 4)
      mucked_ x s1 = false → dfield q 6 4 ≠ 7 → dfield q 3 2 = 0 → dfield q 63 8 = 0 →
      (if e.2.2 then s1.scopeOf x.core (taskOf s1 x.core) (x.latch s1 0x502).v = sc ∧ sc.isSome else sc = none) →
      r.2 = .ok ps → data x s1 = some d → r.1.strongHeld x.core sc ps = false → r.1.fenceHeld x.core ps = false →
      r.1.goneBefore x.core sc true ps = false →
      s2.wait = false → r.1.performStore x.core (taskOf s1 x.core) ea (bytesOf (2 ^ dfield q 6 4) (if d.wide then d.v.toNat else d.v.toNat % 2 ^ 64))
        (joinTags [d.t, joinTags [a.t, x.t.t]]) sc ps = (s2, none) →
      exec e.1 s = .next ((s.close (took x s1 s2) x g [] false).alignRow x.core x.half)) ∧
    Does e.1 (fun x s => let q := x.latch s 0x503
      mucked_ x s ∧ (isMuck q.t → dfield q.v 6 4 ≠ 7 ∧ dfield q.v 3 2 = 0 ∧ dfield q.v 63 8 = 0) ∧ (data x s).isSome)
      (fun x s => took x s s) ∧
    Does e.1 (fun x s => let q := x.latch s 0x503
      isMuck q.t ∧ (dfield q.v 6 4 = 7 ∨ dfield q.v 3 2 ≠ 0 ∨ dfield q.v 63 8 ≠ 0)) (fun _ s => s) ∧
    Refused e.1 (fun x s => let q := (x.latch s 0x503).v
      mucked_ x s = false ∧ (dfield q 6 4 = 7 ∨ dfield q 3 2 ≠ 0 ∨ dfield q 63 8 ≠ 0)) (fun x s =>
      { cause := 18, reason := 1, val := (x.latch s 0x503).v })

/-- Streams (R188, R189): `ag.strm` and `ag.strw` on a queue without an unfinished stream are captured with base, stride, size
and tags, or do nothing for a count of 0; a mucked operand makes every element mucked. A bad field of `ag.q` is refused, or does
nothing where `ag.q` is mucked (R190). `ag.pf` changes nothing. -/
def Obligations.AgStreams : Prop :=
  ∀ w : TrigW,
    (∀ e ∈ ([(.agStrm w, false), (.agStrw w, true)] : List (Instr × Bool)),
      let muckd (x : Trig) (s : State) : Prop := anyMuck [joinTags [(x.latch s 0x500).t, (x.latch s 0x501).t, x.t.t], (x.latch s 0x503).t]
      let good (q : Dword) : Prop := dfield q 6 4 ≠ 7 ∧ dfield q 3 2 = 0 ∧ dfield q 63 8 = 0
      Does e.1 (fun x s => isMuck (x.latch s 0x503).t ∧ ¬ good (x.latch s 0x503).v) (fun _ s => s) ∧
      Refused e.1 (fun x s => ¬ muckd x s ∧ ¬ good (x.latch s 0x503).v) (fun x s =>
        { cause := 18, reason := 1, val := (x.latch s 0x503).v }) ∧
      Does e.1 (fun x s => let q := x.latch s 0x503
        (good q.v ∨ (muckd x s ∧ isMuck q.t = false)) ∧ (s.ctx x.core).streaming e.2 (dfield q.v 1 0) = false ∧
        dfield x.t.v 31 0 = 0) (fun _ s => s) ∧
      Does e.1 (fun x s => let q := x.latch s 0x503
        (good q.v ∨ (muckd x s ∧ isMuck q.t = false)) ∧ (s.ctx x.core).streaming e.2 (dfield q.v 1 0) = false ∧
        dfield x.t.v 31 0 ≠ 0) (fun x s =>
        let q := x.latch s 0x503
        let tag := joinTags [(x.latch s 0x500).t, (x.latch s 0x501).t, x.t.t]
        s.updCtx x.core fun k => { k with streams := k.streams ++ [{
          write := e.2, q := dfield q.v 1 0, size := 2 ^ dfield q.v 6 4, signed := dfield q.v 7 7 = 1,
          base := (x.latch s 0x500).v, stride := (x.latch s 0x501).v, left := dfield x.t.v 31 0, atag := tag,
          muck := anyMuck [tag, q.t] }] })) ∧
    Does (.agPf w) (fun _ _ => True) (fun _ s => s)

/-- Atomics (R191, R192) with nothing mucked in address and control, a type that the operation takes, a scope of the core
and an aligned address that is admitted: the request goes out, or to the partner's compare in a duplex task, and `at.r`
waits for the old value; that `at.amaxr`, which ignores T, takes no tag from it is the model's reading (log entry 25).
Reserved bits and other types are refused as a permission fault of reason ATOMIC. -/
def Obligations.AtIssue : Prop :=
  ∀ w : TrigW, ∀ e ∈ ([(.atAdd w, .add, [0, 1]), (.atFadd w, .fadd, [4]), (.atMin w, .min, [0, 1, 2, 3, 4]),
      (.atMax w, .max, [0, 1, 2, 3, 4]), (.atAmax w, .amax, [0, 4]), (.atAmaxr w, .amaxr, [2, 4]), (.atAnd w, .and, [0, 1, 2, 3]),
      (.atOr w, .or, [0, 1, 2, 3]), (.atXor w, .xor, [0, 1, 2, 3]), (.atXchg w, .xchg, [0, 1, 2, 3]), (.atCas w, .cas, [0, 1, 2, 3])] :
      List (Instr × AtOp × List Nat)),
    let ok (c : Dword) : Prop := dfield c 7 5 = 0 ∧ dfield c 15 12 = 0 ∧ dfield c 63 48 = 0 ∧ dfield c 3 0 ∈ e.2.2
    (∀ s s1 x g sc l key, s.begins e.1 = some (x, s1, g) →
      let t := taskOf s1 x.core
      let a := x.latch s1 0x5E0
      let b := x.latch s1 0x5E1
      let c := x.latch s1 0x5E2
      let n := if dfield c.v 3 0 = 1 ∨ dfield c.v 3 0 = 3 then 8 else 4
      let r := s1.locate x.core t .atomic a.v
      isMuck a.t = false → isMuck c.t = false → ok c.v → s1.scopeOf x.core t (BitVec.ofNat 64 (dfield c.v 47 8)) = some sc →
      r.2 = .ok (l, key) → a.v.toNat % n = 0 → t.duplex = false → r.1.wait = false →
      let id := r.1.nextId
      let st := r.1.newId.2.stamp x.core l
      let q : Req := { core := x.core, id := id, loc := l, vec := st.2, len := n, addr := a.v, key := key, part := t.part, began := r.1.now
                       kind := .atomic e.2.1 (dfield c.v 3 0) x.t.v (if e.2.1 = .amaxr then [] else x.t.t) b.v a.t,
                       strong := if dfield c.v 4 4 = 1 then some sc else none }
      exec e.1 s = .next ((s.close (({ st.1 with reqs := r.1.reqs ++ [q] } : State).updCtx x.core fun k =>
        { k.await [0x5FD] id with atoms := k.atoms ++ [id] }) x g [] false).alignRow x.core x.half)) ∧
    Does e.1 (fun x s => isMuck (x.latch s 0x5E0).t ∨ isMuck (x.latch s 0x5E2).t) (fun x s => s.undone x [0x5FD]) ∧
    Refused e.1 (fun x s => isMuck (x.latch s 0x5E0).t = false ∧ isMuck (x.latch s 0x5E2).t = false ∧ ¬ ok (x.latch s 0x5E2).v)
      (fun x s => permissionFault rAtomic (x.latch s 0x5E0).v)

/-! ## Words, groups and steps -/

/-- A word with S = 0 joins its half's open group, and the next word is fetched (R126, R131, R135). Of a group that moves
nothing, NOP and SCHED do nothing, and a BRK raises the breakpoint trap with its payload after the group (R134). -/
def Obligations.WordsJoin : Prop :=
  (∀ i w s, slotOf i = some (false, w) → exec i s = .next (s.updCtx s.curCore fun k => k.updStream s.curHalf fun m =>
    { m with pc := m.pc + 4, open_ := m.open_ ++ [w] })) ∧
  (∀ (w : HintW) (s : State), ∀ e ∈ ([(.limm w, 0), (.sched w, 1), (.modx w, 2), (.brk w, 3), (.nop w, 4)] : List (Instr × BitVec 3)),
    (w.s = false → exec e.1 s = .next (s.updCtx s.curCore fun k => k.updStream s.curHalf fun m =>
      { m with pc := m.pc + 4, open_ := m.open_ ++ [.hint e.2 w.pay] })) ∧
    (w.s = true → s.moveless (.hint e.2 w.pay) = some none → exec e.1 s = .next (s.endGroup (s.updCtx s.curCore id) [])) ∧
    (∀ pay, w.s = true → s.moveless (.hint e.2 w.pay) = some (some pay) →
      exec e.1 s = .next ((s.endGroup (s.updCtx s.curCore id) []).raise s.curCore s.curHalf { cause := 15, val := pay.setWidth 64 }))) ∧
  (∀ i w s, slotOf i = some (true, w) → s.moveless w = some none → exec i s = .next (s.endGroup (s.updCtx s.curCore id) []))

/-- A sole move whose source and destination are ready (R82, R127, R129, R136): its value, adapted to its destination, arrives
there with its own and its guard's tag, in a register, a latch, a predicate or a queue, and a queue that it takes from
loses its head; a drop only removes the head; a move that its guard suppresses does nothing. -/
def Obligations.MovesWrite : Prop :=
  (∀ w s s2 l, w.s = true → s.performs (.move w.g w.n w.dst w.imm w.low) = some (s2, l) → l.isTrig = false → l.mv.isDrop = false →
    exec (.move w) s = .next (s.endGroup (s2.updCtx s.curCore fun _ =>
      let k := match l.mv.pops with
        | some p => (s2.ctx s.curCore).popSource s.now p
        | none => s2.ctx s.curCore
      k.write s.now l.mv l.val l.g) [l.g])) ∧
  (∀ w s s2 l, w.s = true → s.performs (.move w.g w.n 0 false (dropLow w.src)) = some (s2, l) → l.mv.isDrop = true →
    exec (.queueDrop w) s = .next (s.endGroup (s2.updCtx s.curCore fun _ => match l.mv.pops with
      | some p => (s2.ctx s.curCore).popSource s.now p
      | none => s2.ctx s.curCore) [l.g])) ∧
  (∀ i w s m s2 hid g, slotOf i = some (true, w) → s.soleMove w = some m → s.guard s.curCore m = (s2, .open_ false hid g) →
    (hid = false ∨ (s.ctx s.curCore).trapMuck = false) →
    exec i s = .next (s.endGroup (s2.updCtx s.curCore id) [g]))

/-- What a move's word and its hints say (R128, R130, R132, R133): one to three LIMMs make the immediate their payloads and the
word's own 15 bits, sign-extended; a MODX gives its fields to its move; a scalar value goes into every element of a
vector, bit 0 of it into a predicate, and lane MOD of a vector source into a scalar. -/
def Obligations.MoveValues : Prop :=
  (∀ (lims : List (BitVec 24)) g n dst low, lims.length ≤ 3 →
    ((parseGroup (lims.map (Slot.hint 0) ++ [.move g n dst true low])).moves.map (·.src)) = [.imm (BitVec.ofInt 64 (toSigned
      (24 * lims.length + 15) (lims.foldl (fun a l => a * 2 ^ 24 + l.toNat) 0 * 2 ^ 15 + low.toNat)))]) ∧
  (∀ pay x g n dst imm low, modxOf pay = some x →
    ((parseGroup [.hint 2 pay, .move g n dst imm low]).moves.map (·.mx)) = [x] ∧
    x = { rmo := field pay.toNat 2 0, sat := field pay.toNat 3 3 = 1, b0 := field pay.toNat 4 4 = 1, ew := field pay.toNat 7 5 }) ∧
  (∀ (m : Move) (x : SVal) (i : Nat), i < 512 / ewBits m.mx.ew →
    elem (ewBits m.mx.ew) (m.toVector (.s x)).v i = (scalarMod m.mod x.v).toNat % 2 ^ ewBits m.mx.ew) ∧
  (∀ (m : Move) (x : SVal), (m.toPred (.s x)).v = (scalarMod m.mod x.v).getLsbD 0) ∧
  (∀ (m : Move) (x : VVal), (m.toScalar (.v x)).v = BitVec.ofNat 64 (elem (ewBits m.mx.ew) x.v m.mod)) ∧
  (∀ x : Dword, scalarMod 1 x = (x.setWidth 32).setWidth 64 ∧ scalarMod 2 x = (x.setWidth 32).signExtend 64 ∧
    scalarMod 3 x = ~~~x ∧ scalarMod 4 x = -x)

/-- A step runs the word at the stream's program counter (R82, R126): where the agenda names a half of a core whose row may
issue there, with no trap waiting for this boundary and its counter inside its segment, `step` is `exec` of the decoded
instruction, after the results that are due have landed; and a step that the agenda gives an agent of the device is that
agent's, a tick only the passing of time. That an agenda names the agent of a step is the model's choice (log entry 1). -/
def Obligations.StepRunsDecoded : Prop :=
  (∀ (s : State) c h rest i, s.agenda = .fetch c h :: rest → c < 1536 →
    let s0 := { s with agenda := rest, wait := false }
    let s1 := (s0.row c).foldl State.landDue s0
    let m := (s1.ctx c).stream h
    let g := (s1.ctx c).segOf h
    s1.boundaryTraps c h = [] → s1.rowReady c h → m.past = false → g.lo ≤ m.pc.toNat → m.pc.toNat < g.hi →
    decodeWord ((s1.core c).istore.get 0 (m.pc.toNat / 4)) = .ok i →
    step s = exec i { s1 with curCore := c, curHalf := h }) ∧
  (∀ (s : State) i rest, s.agenda = .event i :: rest → encode i = none →
    step s = exec i { s with agenda := rest, wait := false }) ∧
  (∀ (s : State) n rest, s.agenda = .tick n :: rest →
    let t := ({ s with agenda := rest, wait := false } : State).passTime n
    step s = .next t ∧ ∃ ds, t = { s with agenda := rest, wait := false, now := s.now + n, dies := ds })

/-! ## Registers, buffers and memory -/

/-- Register writes (R5, R36, R50, R96, R97, R178, R264). A buffer descriptor takes a declaration that R96 admits, and each
state that its operation sets; where an operation is refused its running writer takes CAUSE 7 with the buffer's number. The
oldest entry of a return stack is read and removed, and one is inserted beneath the oldest of fewer than 16. In the
management window a ring's LOST loses the bits written as ones, and a didt cap of 1 to 49 becomes 50. XLINV
takes KIND and VPN and sets BUSY where it is idle; its completion leaves no named entry in any cache and clears BUSY (R93). That the read
of a return stack puts its value in `ct.r` at once is the model's choice (log entry 45). -/
def Obligations.RegisterEvents : Prop :=
  (∀ c n v s, n < 32 → (s.core c).declareBad n (dfield v 19 0) (dfield v 35 20) = false →
    let b : Buf := { base := v.setWidth 20, len := v.extractLsb' 20 16, fmt := v.extractLsb' 40 5 }
    exec (.bufDeclare c n v) s = .next (s.updCtx c fun k => { k with bufs := k.bufs.set {} n b })) ∧
  (∀ c n v s, n < 32 → (s.core c).declareBad n (dfield v 19 0) (dfield v 35 20) → (s.core c).task.isSome →
    exec (.bufDeclare c n v) s = .next (s.raise c .x (bufRefusal n))) ∧
  (∀ e ∈ ([(.bufReset, 0, []), (.bufSetfull, 2, [3]), (.bufSetempty, 0, [1])] : List ((Nat → Nat → Instr) × BitVec 2 × List (BitVec 2))),
    ∀ c n s, n < 32 →
      let b := (s.ctx c).bufs.get {} n
      let b' : Buf := if b.st = e.2.1 then b else { b with st := e.2.1, cnt := 0 }
      (b.st ∉ e.2.2 → exec (e.1 c n) s = .next (s.updCtx c fun k => { k with bufs := k.bufs.set {} n b' })) ∧
      (b.st ∈ e.2.2 → (s.core c).task.isSome → exec (e.1 c n) s = .next (s.raise c .x (bufRefusal n)))) ∧
  (∀ c v s, exec (.vflagsWrite c v) s = .next (s.updCtx c fun k => { k with vflags := vflagsWrite k.vflags v })) ∧
  (∀ c b v s, b < 20 → exec (.bfmtWrite c b v) s = .next (s.updCore c fun k => { k with
    bfmt := k.bfmt.set bfmtReset b (bfmtWrite (k.bfmtOf b) v) })) ∧
  (∀ c v t s s2 u, s.ctlabOf c { v := v, t := t } = (s2, none, u) →
    exec (.ctlabWrite c v t) s = .next (s2.updCtx c fun k => { k with ctlab := u })) ∧
  (∀ c h s es e, ((s.ctx c).stream h).stack = es ++ [e] → exec (.returnStackPopRead c h) s = .next (s.updCtx c fun k =>
    (k.updStream h fun m => { m with stack := es }).setScalar 0x4BD { v := e.word })) ∧
  (∀ c h v s, ((s.ctx c).stream h).stack.length < 16 → exec (.returnStackInsert c h v) s = .next (s.updCtx c fun k =>
    k.updStream h fun m => { m with stack := m.stack ++ [RsEntry.ofWord v] })) ∧
  (∀ c v s, exec (.registerWrite false c 0x02 (some v)) s = .next (s.updCtx c fun k => { k with trapMuck := dfield v 0 0 = 1 }) ∧
    exec (.registerWrite false c 0x21 (some v)) s = .next (s.updCore c fun k => { k with trapVal := v }) ∧
    ((s.port 12).up → s.quotesOnly = false →
      Answers (.registerWrite true c 0x098 (some v)) s { s.accepted 12 with
        evRing := { s.evRing with lost := s.evRing.lost &&& ~~~v.setWidth 32 } } ∧
      Answers (.registerWrite true c 0x060 (some v)) s ((s.accepted 12).updDie 0 fun d => { d with
        didtcap := if 0 < dfield v 15 0 ∧ dfield v 15 0 < 50 then 50 else v.setWidth 16 }))) ∧
  (∀ c off (x : Dword) s, (s.port 12).up → (s.port 12).replay.length < 256 → s.wait = false →
    (off = 0xF00 ∧ x = s.bootStat ∨ s.quotesOnly = false ∧ (off = 0x098 ∧ x = s.evRing.lost.setWidth 64 ∨
      (∃ p, p < 13 ∧ (off = 0x100 + 16 * p ∧ x = (s.port p).stat ∨ off = 0x108 + 16 * p ∧ x = 0)) ∨
      (∃ k, k < 8 ∧ off = 0x200 + 8 * k ∧ x = (s.stk k).stat))) →
    ∃ t, exec (.registerWrite true c off none) s = .next t ∧ t.outRead = bytesOf 8 x.toNat ∧ t.outErr = false) ∧
  (∀ p v s, (s.part p).xlBusy = false → dfield v 2 1 ≠ 3 → exec (.xlinvWrite p v) s = .next (s.updPart p fun q => { q with
    xlBusy := dfield v 0 0 = 1, xlKind := v.extractLsb' 1 2, xlVpn := v.extractLsb' 16 32 })) ∧
  (∀ p s, (s.part p).xlBusy → ∃ t, exec (.xlinvComplete p) s = .next t ∧ (t.part p).xlBusy = false ∧
    (NMap.wf ({} : Core) s.cores → ∀ c, (t.core c).tlb = (s.core c).tlb.filter fun x => !x.dropped p (s.part p)) ∧
    (NMap.wf ({} : Cluster) s.clusters → ∀ k, (t.cluster k).tlb = (s.cluster k).tlb.filter fun x => !x.dropped p (s.part p)))

/-- Requests served (R92, R94, R98, R101, R105, R121, R125): a request that comes first for its core and place, with its stack
serving, is performed at its home or scratchpad: a load's piece arrives, and a store's bytes and tags are written and its core
no longer waits for it. Where its stack is gone it ends, with all that is kept after it, in the stack-unavailable fault, and no
byte changes. A write from another die waits for every write that its vector covers, and its die's vector then counts it. A
refusal is raised at the A stream's next group. -/
def Obligations.RequestEvents : Prop :=
  (∀ i s r, s.servable i = some r → s.locGone r.loc = false → r.vec = none →
    let ev : Instr := match r.loc with
      | .mem _ => .homeRequest i
      | .spad _ _ => .gangWindowRequest i
    let s0 : State := match r.loc with
      | .mem _ => s
      | .spad k _ => s.remoteTurn k
    let s1 := s0.takeReq i r
    s1.lost r = false →
    (∀ j, r.kind = .load j → let p := s1.readLoc r.core r.key r.loc r.len r.addr
      let q := p.1.overlay r.core r.id r.loc p.2
      let t := q.1.updCtx r.core (·.setPiece r.id j q.2)
      t.wait = false → exec ev s = .next t) ∧
    (∀ bs t s2, r.kind = .store bs t → s1.writeLoc r.core r.key r.loc bs t r.addr = (s2, none) →
      (s2.storeDone r.core r.id).wait = false → exec ev s = .next (s2.storeDone r.core r.id))) ∧
  (∀ i s r pa, s.servable i = some r → r.loc = .mem pa → s.homeGone pa → r.vec = none → r.isAtomic = false → s.wait = false →
    let later := (s.reqs.eraseIdx i).filter (({ s with reqs := s.reqs.eraseIdx i } : State).keeps r)
    ∃ t, exec (.homeRequest i) s = .next t ∧ t.mem = s.mem ∧ t.mtags = s.mtags ∧
      t.reqs = (s.reqs.eraseIdx i).filter (!later.contains ·) ∧ t.gone = s.gone ++ r :: later ∧
      t.refusals = s.refusals ++ (r :: later).flatMap fun e => match e.kind with
        | .load _ => []
        | .store _ _ => [(e.core, e.id, stackTrap e.addr)]
        | .atomic _ _ _ _ _ _ => e.names.map fun n => (n.1, n.2, stackTrap e.addr)) ∧
  (∀ i s r v bs t s2, s.servable i = some r → r.vec = some v → s.locGone r.loc = false → r.kind = .store bs t →
    ({ s with reqs := s.reqs.eraseIdx i } : State).covers (locDie r.loc) v = false →
    let s1 := (s.placeTurn r.core r.loc).takeReq i r
    s1.lost r = false → s1.writeLoc r.core r.key r.loc bs t r.addr = (s2, none) →
    let t' := (s2.storeDone r.core r.id).updDie (locDie r.loc) fun x => { x with
      vec := maxVec x.vec (v.set (dieOf r.core) (v.getD (dieOf r.core) 0 + 1)) }
    t'.wait = false → exec (.crossDieWriteApply i) s = .next t') ∧
  (∀ c s r, s.refusals.find? (·.1 = c) = some r →
    exec (.refusalReturn c) s = .next ((({ s with refusals := s.refusals.erase r } : State).updCtx c fun k =>
      { (k.endStream r.2.1).faultA r.2.2 with
        atoms := k.atoms.erase r.2.1, pend := k.pend.filter fun e => !(e.2 = r.2.1 && k.atoms.contains r.2.1) }).storeDone c r.2.1))

/-- Results and replies (R16, R148, R186, R188, R192): results that are due land; the oldest load of a queue, with all its pieces
served, becomes one entry, sign-extended under SX, with the join of its tags; an atomic's old value lands in `at.r`; the
next element of a read stream pushes its load and the stream goes on by its stride. -/
def Obligations.ReplyEvents : Prop :=
  (∀ c s, exec (.resultLand c) s = .next (s.updCtx c fun k =>
    { ((k.flight.filter (·.due ≤ s.clock c)).foldl Ctx.land k) with flight := k.flight.filter fun f => s.clock c < f.due })) ∧
  (∀ c q s l (ps : List Piece), (s.ctx c).loads.find? (·.q = q) = some l → l.pieces = ps.map some → (∀ p ∈ ps, p.fail = none) → l.size ≤ 8 →
    let x := ofBytes (ps.flatMap (·.bytes))
    let e : QEntry := { v := (if l.signed then BitVec.ofInt 64 (toSigned (8 * l.size) x) else BitVec.ofNat 64 x).setWidth 512,
                        t := joinTags (l.atag :: ps.map fun p => p.tag), since := s.now }
    Answers (.loadDataReturn c q) s (((s.observe 0 c l.began).recordLoad c e).updCtx c fun k =>
      { k.setQueue q { k.queue q with ents := (k.queue q).ents ++ [e] } with loads := k.loads.filter (·.id != l.id) })) ∧
  (∀ c s r, s.replies.find? (·.1 = c) = some r → Answers (.atomicReply c) s
    ((({ s with replies := s.replies.erase r } : State).recordIn c (bytesOf 8 r.2.2.v.toNat) r.2.2.t).updCore c fun k =>
      let k := k.reply r.2.1 [(0x5FD, r.2.2)]
      { k with ctx := { k.ctx with atoms := k.ctx.atoms.erase r.2.1 } })) ∧
  (∀ c i s t m ps s2, (s.core c).task = some t → (s.ctx c).streams[i]? = some m → m.write = false → m.muck = false →
    (s.ctx c).raised = none → (s.core c).halted = false → (s.core c).leaving = false →
    ((s.ctx c).queue m.q).room 16 (s.clock c) ((s.ctx c).owed m.q) 1 → s.checkAccess c t .read m.base m.size = (s2, .ok ps) →
    s2.goneBefore c none false ps = false → s2.strongHeld c none ps = false →
    let t' := (s2.pushLoad c t m.q m.size m.signed m.base m.atag none ps true).updCtx c (·.stepStream i s.nextId)
    t'.wait = false → exec (.streamElementIssue c i) s = .next t')

/-- Atomics performed (R102, R103). The engine of a cluster with an atomic to perform grants one source, the first in ring order
after the one that it granted last; the atomic's home takes its new value and the join of both tags, and the old value, with
the old tag and the address's, goes back; with one atomic ready, of a task that is not duplex, on a granule that can be read, the grant
completes. The new values are those of Table 9, at 32 and 64 bits: sums modulo 2^w, signed or unsigned extremes, bitwise operations,
exchange and compare-exchange; and for FP32 the rounded sum and the extremes with its rules for NaN and −0. -/
def Obligations.AtomicsPerformed : Prop :=
  (∀ (s : State) (r : Req) pa op ty v vt cmp at_ (s1 : State) (p : Piece) s2 u, r.kind = .atomic op ty v vt cmp at_ → s.homeGone pa = false →
    s.lost r = false → s.readHome r.key pa (atWidth ty) r.addr = (s1, p) → p.fail = none →
    s1.joinFor r.core (joinTags [p.tag, vt]) = (s2, none, u) →
    let m := ofBytes p.bytes
    let old : SVal := { v := if ty = 0 then BitVec.ofInt 64 (toSigned 32 m) else BitVec.ofNat 64 m, t := joinTags [p.tag, at_] }
    let s3 := ((s2.memWrite pa (bytesOf (atWidth ty) (atNew op ty m v.toNat cmp.toNat))).setMemTag (pa / 64) u).seal r.key (pa / 64)
    let s4 := r.names.foldl (fun s n => s.updCore n.1 fun k => { k with irrev := true, atomDone := true }) s3
    s.performAtomic r pa = { s4 with replies := s4.replies ++ r.names.map fun w => (w.1, w.2, old) }) ∧
  (∀ k (s : State) i (r : Req) pa src n, s.atomicsAt k = [(i, r)] → r.loc = .mem pa → r.vec = none →
    (clusterOf r.core = k ∧ src = localIndex r.core ∨ clusterOf r.core ≠ k ∧ ∃ p, r.port = some (p, n) ∧ p < 5 ∧ src = 16 + p) →
    ((s.core r.core).task.map fun t => t.duplex) ≠ some true →
    let s1 := s.updCluster k fun x => { x with last := src }
    let t := ({ s1 with reqs := s1.reqs.eraseIdx i } : State).performAtomic r pa
    ((t.core r.core).task = (s.core r.core).task) → t.wait = false → exec (.atomicEngineGrant k) s = .next t) ∧
  (∀ k (s : State) i (r : Req) pa op ty v vt cmp at_ src n, s.atomicsAt k = [(i, r)] → r.source k = some (src, n) → src < 21 →
    r.loc = .mem pa → r.kind = .atomic op ty v vt cmp at_ → r.vec = none → r.twin = none → s.wait = false → s.gone = [] →
    s.homeGone pa = false → (∀ t, (s.core r.core).task = some t → t.duplex = false) →
    let w := atWidth ty
    let m := ofBytes (s.memRead pa w)
    let g := tagOf (s.memTag (pa / 64))
    s.granuleFault r.key pa w r.addr = none → unresolved (joinTags [g, vt]) = false →
    ∃ t, exec (.atomicEngineGrant k) s = .next t ∧ t.memRead pa w = bytesOf w (atNew op ty m v.toNat cmp.toNat) ∧
      t.memTag (pa / 64) = toTag (joinTags [g, vt]) ∧ (t.cluster k).last = src ∧ t.reqs = s.reqs.eraseIdx i ∧
      t.replies = s.replies ++ [(r.core, r.id, { v := if ty = 0 then BitVec.ofInt 64 (toSigned 32 m) else BitVec.ofNat 64 m,
                                                 t := joinTags [g, at_] })]) ∧
  (∀ last (l : List Nat), (∃ a ∈ l, a < 21) → let d (a : Nat) : Nat := (a + 20 * (last + 1)) % 21
    nextSource last l ∈ l ∧ nextSource last l < 21 ∧ ∀ a ∈ l, a < 21 → d (nextSource last l) ≤ d a) ∧
  (∀ ty m v cmp : Nat, ty ≤ 3 →
    let w := if ty = 1 ∨ ty = 3 then 64 else 32
    let x := v % 2 ^ w
    m < 2 ^ w →
    (ty ≤ 1 → atNew .add ty m v cmp = (m + v) % 2 ^ w ∧
      atNew .min ty m v cmp = (if toSigned w x < toSigned w m then x else m) ∧
      atNew .max ty m v cmp = (if toSigned w m < toSigned w x then x else m)) ∧
    (2 ≤ ty → atNew .min ty m v cmp = min m x ∧ atNew .max ty m v cmp = max m x) ∧
    (ty = 0 → atNew .amax ty m v cmp = max m (toSigned 32 x).natAbs) ∧ atNew .amaxr ty m v cmp = 0 ∧
    atNew .and ty m v cmp = m &&& x ∧ atNew .or ty m v cmp = m ||| x ∧ atNew .xor ty m v cmp = m ^^^ x ∧
    atNew .xchg ty m v cmp = x ∧ atNew .cas ty m v cmp = (if m = cmp % 2 ^ w then x else m)) ∧
  (∀ m v cmp : Nat, m < 2 ^ 32 → v < 2 ^ 32 →
    let nan (x : Nat) : Bool := 0x7F800000 < x % 2 ^ 31
    let key (x : Nat) : Int := if x < 2 ^ 31 then x else -(x % 2 ^ 31 : Nat) - 1
    let pick (m v : Nat) (moves : Bool) : Nat := if nan m && nan v then 0x7FC00000 else if nan m then v else if nan v then m
      else if moves then v else m
    atNew .fadd 4 m v cmp = (fadd fp32 .rne false (fdecode fp32 false m) (fdecode fp32 false v)).1 ∧
    atNew .min 4 m v cmp = pick m v (key v < key m) ∧ atNew .max 4 m v cmp = pick m v (key m < key v) ∧
    atNew .amax 4 m v cmp = pick m (v % 2 ^ 31) (key m < key (v % 2 ^ 31)) ∧ atNew .amaxr 4 m v cmp = 0)

/-! ## Graphs and the dealer -/

/-- Launches and nodes that need no gang (R56, R57, R60, R62 to R64, R67, R385). A whole record stored at offset 0 enters a launch
queue that has room, and any other store below 0x40 is discarded, counted in LDROP and reported; a read gives the room of the queue or
LDROP, whose bits are cleared by writing ones; the head that is well formed and fits
becomes an instance, one that does not fit yet waits, and a malformed one fails. The node served has the least rank of
those served; an EVENT node writes its notification and is done; a SUBGRAPH's child waits until it fits. The code of a graph
is that of its failed node with the lowest index. That LREC and the reserved offsets of the launch window read 0 is the model's choice
(log entry 45). -/
def Obligations.LaunchesAndNodes : Prop :=
  (∀ (s : State) p (bytes : List Byte), (s.parts.get none p).isSome → bytes.length = 64 → (s.part p).launchQ.length < 64 →
    exec (.launchRecordStore p 0 bytes) s = .next (s.updPart p fun q => { q with
      launchQ := q.launchQ ++ [BitVec.ofNat 512 (ofBytes bytes)] })) ∧
  (∀ (s : State) p off (bytes : List Byte), (s.parts.get none p).isSome → off < 0x40 →
    bytes ≠ [] → (off ≠ 0 ∨ bytes.length ≠ 64 ∨ 64 ≤ (s.part p).launchQ.length) →
    let d := min 0xFFFF ((s.part p).ldrop + 1)
    exec (.launchRecordStore p off bytes) s = .next ((s.updPart p fun q => { q with ldrop := d }).partEvent p 0x10 [d])) ∧
  (∀ (s : State) p off, (s.parts.get none p).isSome → exec (.launchRecordStore p off []) s = .next { s with
    outRead := bytesOf 8 (if off = 0x40 then 64 - (s.part p).launchQ.length else if off = 0x48 then (s.part p).ldrop else 0) }) ∧
  (∀ (s : State) p (bytes : List Byte), (s.parts.get none p).isSome → bytes ≠ [] →
    exec (.launchRecordStore p 0x48 bytes) s = .next (s.updPart p fun q => { q with
      ldrop := q.ldrop &&& (0xFFFF - ofBytes (bytes.take 2) % 2 ^ 16) })) ∧
  (∀ (s : State) p r rest, (s.part p).launchQ = r :: rest → (s.part p).children = [] →
    let q := s.part p
    let s0 := s.updPart p fun q => { q with launchQ := rest }
    (recVer r = 0x96 ∧ recKind r ≤ 4 ∧ recReserved r = false →
      (recKind r < 4 → Answers (.launchDequeue p) s (if q.maxNodes < q.liveNodes + 1 then s else s0.createSingle p r)) ∧
      (∀ s1 h, recKind r = 4 → s.devGranule p (recObj r) = (s1, .ok h) → hdrBad h = false → hdrNnodes h ≤ q.maxNodes →
        s1.part p = q →
        Answers (.launchDequeue p) s (if q.maxNodes < q.liveNodes + hdrNnodes h then s1
          else (s1.updPart p fun q => { q with launchQ := rest }).createGraph p h none))) ∧
    (recVer r ≠ 0x96 ∨ 5 ≤ recKind r ∨ recReserved r →
      Answers (.launchDequeue p) s ((s0.updPart p fun x => { x with nextInst := (q.nextInst + 1) % 65536 }).freeDword.2.partEvent p
        0x11 [q.nextInst, 6]))) ∧
  (∀ (s : State) p i n, s.nextNode p = some (i, n) → ∃ r, (r, i, n) ∈ s.served p ∧ ∀ e ∈ s.served p, lexLt e.1 r = false) ∧
  (∀ (s : State) p i n, s.nextNode p = some (i, n) → recKind (s.node p i n).record = 3 →
    Answers (.eventNodeStart p) s ((s.partEvent p 0x15 [n, i, (recObj (s.node p i n).record).toNat]).endNode p i n 0)) ∧
  (∀ (s : State) p i n s1 h, s.nextNode p = some (i, n) → recKind (s.node p i n).record = 2 →
    s.devGranule p (recObj (s.node p i n).record) = (s1, .ok h) → hdrBad h = false → hdrNnodes h ≤ (s1.part p).maxNodes →
    Answers (.subgraphServe p) s ((s1.updNode p i n fun x => { x with phase := .engine, child := h }).updPart p fun q => { q with
      children := q.children ++ [(i, n)] })) ∧
  (∀ (s : State) p i n rest, (s.part p).children = (i, n) :: rest →
    let h := (s.node p i n).child
    Answers (.subgraphAdmit p) s (if (s.part p).maxNodes < (s.part p).liveNodes + hdrNnodes h then s
      else (s.updPart p fun q => { q with children := rest }).createGraph p h (some (i, n)))) ∧
  (∀ (x : Inst) n c, n < x.nnodes → (x.nodes.get {} n).code = some c → c ≠ 0 →
    (∀ m, m < n → ∀ d, (x.nodes.get {} m).code = some d → d = 0) → x.graphCode = c) ∧
  (∀ code i time o, code < 256 → i < 65536 → time < 2 ^ 32 →
    let w := statusWord code i time o
    dfield w 7 0 = code ∧ dfield w 8 8 = (if o then 1 else 0) ∧ dfield w 31 16 = i ∧ dfield w 63 32 = time)

/-- Placement (R68 to R70, R341, R342, R89). The node served is probed for on its candidate rectangle; a core that can hold it
grants, the dealer asks for commits once all have granted, a live grant is committed, and a gang whose cores have all
committed starts. A refusal fails the attempt: the cursor moves on and the node backs off for min(64·2^(n−1), 16384) +
(5x + 3y) mod 64 mesh cycles, and with no node escalated the first of those that have failed eight times is. A grant not committed
lapses after 256 mesh cycles; an escalated node takes its region once every core of it is idle and has a save area for it (the
area, and that a core which the debug port has halted is waited for, are the model's reading, log entry 50; so is that a grant 256
cycles old may lapse or commit, log entry 44). A waiting node takes the translation that the cache has or `knqx` makes, where it fits, and
refused code fails it with FORMAT; so does an image that the firmware makes and its scanner refuses (log entry 60). -/
def Obligations.Placement : Prop :=
  (∀ (s : State) p i n g gs, (s.part p).attempt = none → s.nextNode p = some (i, n) → recKind (s.node p i n).record = 0 →
    (s.node p i n).img = some g → s.staleSel p (s.node p i n) = false →
    ((s.node p i n).tiebreak ∨ s.placeable p (s.node p i n).record g) → s.candidates p (s.node p i n) = some gs →
    Answers (.placementAttempt p) s (s.updPart p fun q => { q with attempt := some {
      inst := i, node := n, gangs := gs, cores := (gs.flatMap (·.cores)).map fun c => (c, Reply.probed) } })) ∧
  (∀ (s : State) p c a, (s.part p).attempt = some a →
    ((c, Reply.probed) ∈ a.cores → ∀ g, (s.node p a.inst a.node).img = some g → exec (.reserveProbe p c) s = .next
      (if s.grants c p a.inst a.node g then (s.updCore c fun k => { k with resv := .granted p s.now }).setReply p c .granted
        else s.setReply p c .refused)) ∧
    ((c, Reply.asked) ∈ a.cores → ∀ since, (s.core c).resv = .granted p since → exec (.reserveCommit p c) s = .next
      (if s.now ≤ since + 256 then (s.updCore c fun k => { k with resv := .committed p }).setReply p c .acked
        else s.setReply p c .denied)) ∧
    (a.commit = false → (∀ e ∈ a.cores, e.2 = .granted) → exec (.probeResponse p) s = .next (s.updPart p fun q => { q with
      attempt := some { a with commit := true, cores := a.cores.map fun e => (e.1, Reply.asked) } })) ∧
    (a.commit → (∀ e ∈ a.cores, e.2 = .acked) → exec (.commitResponse p) s = .next
      ((s.updPart p fun q => { q with attempt := none }).updNode p a.inst a.node fun x => if x.tiebreak then
        { x with gangs := x.gangs.take 2 ++ a.gangs } else { x with phase := .starting, gangs := a.gangs })) ∧
    (let f := (s.node p a.inst a.node).failures + 1
     let g := a.gangs.headD {}
     let t := (s.updPart p fun q => { (q.advance g) with attempt := none }).updNode p a.inst a.node fun x => { x with
       failures := f, backoff := some (s.now + (min (64 * 2 ^ (f - 1)) 16384 + (5 * g.ox + 3 * g.oy) % 64)) }
     let u := if (t.part p).escalated.isSome then t else (t.waitingForRegion p).elim t fun e => t.escalate p e.1 e.2
     (a.commit = false → (∀ e ∈ a.cores, e.2 ≠ .probed) → (∃ e ∈ a.cores, e.2 = .refused) → exec (.probeResponse p) s = .next u) ∧
     (a.commit → (∀ e ∈ a.cores, e.2 ≠ .asked) → (∃ e ∈ a.cores, e.2 = .denied) → exec (.commitResponse p) s = .next u))) ∧
  (∀ (s : State) c p since, (s.core c).resv = .granted p since →
    (since + 256 ≤ s.now → exec (.grantLapse c) s = .next (s.updCore c fun k => { k with resv := .idle })) ∧
    (s.wanted p c = false → exec (.grantRelease c) s = .next (s.updCore c fun k => { k with resv := .idle }))) ∧
  (∀ (s : State) p i n t, (s.node p i n).backoff = some t → t ≤ s.now →
    exec (.backoffExpire p i n) s = .next (s.updNode p i n fun x => { x with backoff := none })) ∧
  (∀ (s : State) p i n, (s.part p).escalated = some (i, n) → (s.node p i n).tiebreak = false → s.staleSel p (s.node p i n) = false →
    let gs := (s.node p i n).gangs
    let cs := gs.flatMap (·.cores)
    s.regionMeets (s.node p i n) cs →
    (∀ c ∈ cs, (s.core c).idle ∧ (s.core c).halted = false ∧ (s.core c).resv = .idle ∧ ((s.core c).freeArea.isSome ∨ ((s.core c).areaOf p i n).isSome)) →
    exec (.escalatedPlacement p) s = .next (((cs.foldl (fun s c => s.updCore c fun k => { k with hold := none, resv := .committed p })
      s).updPart p fun q => { q with escalated := none }).settlePlace p i n gs)) ∧
  (∀ (s : State) p i n img va len vers s1 s2 code, (s.node p i n).phase = .translating →
    (s.node p i n).selKey = (s.part p).selKey → s.select p (s.node p i n).record true = (s1, .translate va len vers) → s1.devRead p (BitVec.ofNat 64 va) len = (s2, .ok code) →
    let q := s2.part p
    let k := q.xlKey code
    let r := (s.node p i n).record
    let takes (s2 : State) (t : Translated) : State :=
      if declFits (s2.part p) (s2.node p i n).record (Translated.decl t) = false then s2.endNode p i n 6
      else if s2.translationFits p (s2.node p i n).record t then s2.updNode p i n fun x =>
        { x with img := some (translatedImg t), selKey := (s.part p).selKey, phase := .ready }
      else s2.endNode p i n 1
    (∀ t, q.xcache.find? (·.1 = k) = some (k, t) → Answers (.translatePortable p i n img) s (takes s2 t)) ∧
    (q.xcache.find? (·.1 = k) = none → Answers (.translatePortable p i n img) s (match Config.portableObject code with
      | none => s2.endNode p i n 6
      | some o => match translateObject o vers q.eff q.dfv2 (recGw r) (recGh r) img with
        | .image t => takes (s2.updPart p fun q => { q with xcache := (k, t) :: q.xcache }) t
        | .refused off => (s2.updPart p fun q => { q with xlErrors := q.xlErrors ++ [(i, n, off)] }).endNode p i n 6
        | .noFit => s2.endNode p i n 1
        | .unscanned => s2.endNode p i n 6))) ∧
  (∀ (s : State) p key, exec (.translationCacheInvalidate p key) s = .next (s.updPart p fun q => { q with
    xcache := q.xcache.filter (·.1 != key) })) ∧
  (∀ (s : State) p key, s.fwRuns → s.hasPart p → 1 ≤ key → key ≤ 3 → exec (.sharedKeyGrant p key) s = .next (s.updPart p fun q => { q with
    keys := q.keys ||| BitVec.ofNat 4 (2 ^ key) }))

/-! ## Members, traps and the debug port -/

/-- Members (R66, R72, R74 to R78, R97, R177, R386). A gang of one core whose image has loaded starts its member with PARAM in
s0 and d0, every other register 0, both streams at their entries, at user privilege; a member is released at its time;
a member that has exited with nothing outstanding finishes; a gang whose quantum has expired is asked to leave, and a member
that is asked stops at a blocking point and leaves once what it has under way has come to its end; a killed task ends, one that is
evicted at once, and a member that the end reaches stops and leaves once its stores and copies are done. -/
def Obligations.Members : Prop :=
  (∀ (s : State) p i n g s1 l ox oy, (s.node p i n).img = some g → (s.node p i n).phase = .starting →
    let nd := s.node p i n
    let c := coreAt ox oy
    let u := memberTask p i n nd { ox := ox, oy := oy, gw := 1, gh := 1 } 0 0 0
    nd.gangs = [{ ox := ox, oy := oy, gw := 1, gh := 1 }] → nd.oldPlaces = [] → s.allCommitted p nd.gangs → g.bufs = [] →
    recDuplex nd.record = false → recRollback nd.record = false → s.loadList p g = (s1, some l) →
    let t := s.taskStart p i n
    Answers (.taskStart p i n) s t ∧ (t.core c).task = some u ∧ (t.core c).resv = .idle ∧
      (∀ r, ((t.ctx c).scalar r).v = if r = 0 ∨ r = 0x90 then recParam nd.record else 0) ∧ (∀ r, (t.ctx c).vector r = {}) ∧
      (t.ctx c).xs.pc = BitVec.ofNat 17 g.xent ∧ (t.ctx c).as_.pc = BitVec.ofNat 17 g.aent ∧ (t.ctx c).priv = false ∧
      (t.ctx c).lspace = BitVec.ofNat 8 (recLsp nd.record) ∧ (t.ctx c).ddspace = BitVec.ofNat 8 (recDds nd.record) ∧
      (t.ctx c).vflags = 0 ∧ (t.ctx c).ctlab = [] ∧ (t.ctx c).queues = []) ∧
  (∀ (s : State) c a r, (s.core c).task.isSome → (s.ctx c).arrived = some a → a.release = some r → r ≤ s.now →
    (s.core c).ended = false → (s.core c).leaving = false →
    let k := s.core c
    let s' := ((s.observe 5 c a.began).updCtx c fun x => { x with arrived := none }).updCore c fun x =>
      if (k.image.arrival k.ctx).isSome ∧ (k.halted ∨ k.ctx.priv) then { x with image := { x.image with released := true } } else x
    ((s.ctx c).putTrap = none → Answers (.memberRelease c) s s') ∧
    (∀ t, (s.ctx c).putTrap = some t → a.rect = none → (s.core c).halted = false → ((s.ctx c).priv = false ∨ a.handler) →
      (s.ctx c).raised = none → Answers (.memberRelease c) s ((s'.updCtx c fun x => { x with putTrap := none }).raise c .x t))) ∧
  (∀ (s : State) c t, (s.core c).task = some t → (s.core c).ended = false → (s.core c).halted = false → (s.core c).poisoned = none →
    (s.ctx c).xs.exited → (s.ctx c).raised = none → (s.ctx c).as_.trap = none → s.counts c = (0, 0, 0, 0) → s.exitsHeld c = false →
    Answers (.memberFinish c) s (((s.updCtx c fun x => { x with
      pend := [], flight := [], streams := [], loads := [], arrived := none, as_ := { x.as_ with exited := true } }).countTrigger c t).leave c t)) ∧
  (∀ (s : State) p i n, let nd := s.node p i n
    nd.phase = .running → nd.evictReq = false → (s.part p).quantum ≠ 0 →
    nd.quantumAt + 4096 * (s.part p).quantum.toNat ≤ s.now → s.presses p (recPrio nd.record) →
    exec (.quantumExpire p i n) s = .next ((nd.gangs.flatMap (·.cores)).foldl (fun s c => s.updCore c fun k =>
      if k.task.isSome then { k with evict := true } else k) (s.updNode p i n fun x => { x with evictReq := true }))) ∧
  (∀ (s : State) c t, (s.core c).task = some t → (s.core c).evict → t.follow = false → s.standing c →
    ((s.core c).leaving = false → s.atBlock c → exec (.memberEvict c) s = .next (s.updCore c fun k => { k with leaving := true })) ∧
    ((s.core c).leaving → s.evictable c → exec (.memberEvict c) s = .next ((s.evictMember c t).evicted t))) ∧
  (∀ (s : State) p i n,
    ((s.node p i n).phase = .running → (s.node p i n).ending = none → (s.node p i n).code = none →
      Answers (.supervisorKill p i n) s (s.updNode p i n fun x => { x with ending := some 4 })) ∧
    ((s.node p i n).phase = .evicted ∨ ((s.node p i n).phase = .starting ∧ (s.node p i n).issued) → Answers (.supervisorKill p i n) s ((s.dropAreas p i n).endNode p i n 4))) ∧
  (∀ (s : State) c t, (s.core c).task = some t → (s.node t.part t.inst t.node).ending.isSome → (s.core c).ended = false →
    (s.ctx c).stores = [] → (s.ctx c).copies = [] → (∀ h ∈ (s.part t.part).held, h.core ≠ c) →
    let s1 := (s.updPart t.part fun q => { q with held := q.held.filter (·.core != c) }).updCore c fun k => { k with
      ended := true, leaving := false, rcvd := k.rcvd + 1, poisoned := none, ctx := k.ctx.stop }
    let s2 : State := { s1 with
      reqs := s.reqs.filter fun r => r.core != c || (match r.kind with
        | .store _ _ => true
        | _ => false)
      gone := s.gone.filter (·.core != c), bsums := s.bsums.filter (·.sender != c), bsumBuf := s.bsumBuf.filter (·.target != c)
      refusals := s.refusals.filter (·.1 != c) }
    Answers (.haltTreeStop c) s ((s2.updCtx c fun x => { x with stores := [] }).leave c t))

/-- Traps (R180 to R182), the debug port (R193, R194, R382) and the scanner (R23, R137). With nothing outstanding a raised trap enters
the handler: TRAPCAUSE is the cause, the reason and the half, TRAPVAL, XPCSAVE and APCSAVE take their values, privilege
becomes supervisor, both streams go to TVEC's offsets, and latches, result ports, queues and CTLAB are saved and read 0.
Without a handler, or in one, the task ends with FAULT. A return gives back what was saved, the team with it. The port halts a core,
writes a register of it and reads one, and lets it go on. A segment is scanned for the vector need and the profiles that its object
declares. The segments of a handler (log entry 13), the halt of an idle core (log entry 22) and where a scan request finds
the declarations (log entry 58) are the model's choice. -/
def Obligations.TrapsAndDebug : Prop :=
  (∀ (s : State) c t r tr, (s.core c).task = some t → (s.ctx c).raised = some r → r.trap = some tr → tr.cause ≠ 16 →
    (s.core c).ended = false → (s.core c).halted = false → (s.core c).haltReq = false → s.quiet c → (s.ctx c).mxq = [] →
    ((s.ctx c).priv = false → dfield (s.core c).tvec 63 63 = 1 →
      exec (.trapEntry c) s = .next (((s.setCore c ((s.core c).enterTrap r.half r.trap s.now)).tookGone c r.trap).setHandlerSegs c t)) ∧
    ((s.ctx c).priv = false → dfield (s.core c).tvec 63 63 = 0 → exec (.trapEntry c) s = .next (s.sendEnd c t)) ∧
    ((s.ctx c).priv → exec (.trapEntry c) s = .next (((s.updCtx c fun x => { x with raised := some { r with trap := none } }).event 0x12
      (dieOf c) [t.part, c, tr.cause.toNat + 2 ^ 8 * tr.reason.toNat + (if r.half = .a then 2 ^ 16 else 0), tr.val.toNat]).sendEnd c t))) ∧
  (∀ (k : Core) h (tr : Trap) now, let e := k.enterTrap h (some tr) now
    e.trapCause = BitVec.ofNat 64 (tr.cause.toNat + 2 ^ 8 * tr.reason.toNat + (if h = .a then 2 ^ 16 else 0)) ∧
    e.trapVal = tr.val ∧ e.xpcSave = k.ctx.xs.start ∧ e.apcSave = k.ctx.as_.start ∧ e.ctx.priv ∧ e.ctx.raised = none ∧
    e.ctx.xs.pc.toNat = 4 * dfield k.tvec 16 2 ∧ e.ctx.as_.pc.toNat = 4 * dfield k.tvec 48 34 ∧
    e.ctx.queues = [] ∧ e.ctx.ctlab = [] ∧
    (∀ p, 0x100 ≤ p → e.ctx.scalar p = {} ∧ e.ctx.vector p = {}) ∧
    (k.ctx.flight = [] → NMap.wf ({} : SVal) k.ctx.sfile → NMap.wf ({} : VVal) k.ctx.vfile →
      ∀ p, p < 0x100 → e.ctx.scalar p = k.ctx.scalar p ∧ e.ctx.vector p = k.ctx.vector p)) ∧
  (∀ (k : Core) h t now later, k.ctx.flight = [] → NMap.wf ({} : SVal) k.ctx.sfile → NMap.wf ({} : VVal) k.ctx.vfile →
    let r := (k.enterTrap h t now).leaveTrap later
    r.ctx.priv = false ∧ (∀ p, r.ctx.scalar p = k.ctx.scalar p ∧ r.ctx.vector p = k.ctx.vector p ∧ r.ctx.pred p = k.ctx.pred p) ∧
    r.ctx.queues = k.ctx.queues ∧ r.ctx.ctlab = k.ctx.ctlab ∧ r.ctx.xs.pc = k.ctx.xs.start ∧ r.ctx.as_.pc = k.ctx.as_.start ∧
    r.ctx.wd = k.ctx.wd.map WDrive.stopped ∧ r.ctx.accs = k.ctx.accs ∧ r.ctx.bufs = k.ctx.bufs ∧ r.ctx.team = k.ctx.team ∧
    r.ctx.tstep = k.ctx.tstep) ∧
  (∀ (s : State) c, s.life.benchOpen → (s.core c).halted = false → (s.core c).ended = false →
    ((s.core c).task = none ∨ ((s.core c).poisoned = none ∧ (s.ctx c).raised = none ∧ s.quiet c ∧ (s.ctx c).mxq = [])) →
    ∃ t, exec (.debugHalt c) s = .next t ∧ t.core c = (s.core c).enterHalt ∧ ∀ d, d ≠ c → t.core d = s.core d) ∧
  (∀ (s : State) c, s.life.benchOpen → (s.core c).halted →
    (∀ r v t, r < 0x40 → exec (.debugPortAccess c (.reg r) true v t) s = .next (s.updCtx c (·.setScalar r
      { v := v.setWidth 64, t := tagOf t }))) ∧
    (∀ r v t, r < 0x40 → exec (.debugPortAccess c (.reg r) false v t) s = .next { s with
      dbgVal := ((s.ctx c).scalar r).v.setWidth 512, dbgTag := toTag ((s.ctx c).scalar r).t }) ∧
    exec (.debugResume c) s = .next (s.updCore c (·.leaveHalt s.now))) ∧
  (∀ (s : State) p h priv va len decl entry need vers s0 s1 s2 r, (s.parts.get none p).isSome → va % 4 = 0 → len % 4 = 0 → 0 < len →
    len ≤ 0x20000 → va + len ≤ 2 ^ 48 → priv ≤ 2 → s.declaredVregs p decl = (s0, need) →
    s0.declaredVers p entry = (s1, vers) →
    s1.scan { half := h, priv := priv, need := need, prof := declaredProfiles vers } p va len = (s2, r) →
    let g : Seg := { half := h, va := va, len := len, priv := priv, need := need, vers := vers }
    Answers (.scanSegment p h priv va len decl entry) s (match r with
      | none => s2.updPart p fun q => { q with
          segs := q.segs.filter (fun x => { x with need := need, vers := vers } != g) ++ [g] }
      | some v => s2.updPart p fun q => { q with scanFaults := q.scanFaults ++ [(g, pack [(0, v.1), (32, v.2)])] }))

/-! ## Engines -/

/-- Copies (R119, R306, R308, R310 to R317, R319). A command at the head of its queue starts once the core's accesses before its
acceptance are performed; one whose fields are bad ends with CMD. A copy without handles and outside banks starts with one run for each
row; a gather reads its indices and takes the rows that they name, with zeros, or nothing under SKIP, for those out of range, and a
scatter writes the rows that exist; an expansion, or a packed copy, starts at its chain. A chunk
moves 4,096 bytes or what is left of its row (the model's choice of R312's "at most", log entry 32), and the status word says
what was moved. -/
def Obligations.Copies : Prop :=
  (let start (cmd : Nat) : Nat → Instr := [Instr.copy, .copy2d, .gather, .scatter, .fill, .expand, .swz, .xcopy].getD cmd .copy
   ∀ (s : State) c t k rest, (s.ctx c).copies = k :: rest → (s.core c).task = some t → k.started = false → k.cmd < 8 →
     s.settledBefore c k.token →
     let go (s : State) (k : Copy) : State := (s.updCore c fun x => if k.cmd = 7 then { x with irrev := true } else x).copyPut c k
     let port (k : Copy) : Prop := k.cmd = 7 → k.port ≤ 11 ∧ (s.port k.port).isDown = false
     (k.refused c t → k.unacked = [] → Answers (start k.cmd c) s (s.copyEnd c { k with started := true, done := some 16 } 16)) ∧
     (k.cmd ∈ [0, 1, 4, 6, 7] → k.bad c t = false → k.count ≠ 0 → k.rows ≠ 0 → k.hasHs = false → k.hasHd = false → k.packed = false →
       k.convs = [] → k.rows * k.count < 2 ^ 24 → port k →
       (k.sw → (k.count ∈ [16, 32, 64, 128, 256, 512, 1024, 2048, 4096] ∧ ∀ r, r < k.rows →
         (k.w2.v + BitVec.ofInt 64 (r * k.dstr)).toNat % 2 ^ 20 % k.count = 0)) →
       let step (r : Nat) (x : Int) : Dword := BitVec.ofInt 64 (if k.cmd = 1 ∨ k.cmd = 6 then r * x else 0)
       Answers (start k.cmd c) s (go s { k with
         started := true, hs := none, hd := none, oor := 0, chainLen := 0, done := none
         runs := (List.range k.rows).map fun r => { src := if k.cmd = 4 then .pattern k.w1.v else .addr (k.w1.v + step r k.sstr)
                                                    dst := k.w2.v + step r k.dstr, len := k.count
                                                    swz := if k.sw then k.count else 0 } })) ∧
     (∀ h s1 s2 is, k.cmd ∈ [2, 3] → k.bad c t = false → k.count ≠ 0 → 1 ≤ k.nidx → k.nidx ≤ 8 → k.sw = false → k.packed = false →
       (k.cmd = 2 → k.hasHd = false) → (k.cmd = 3 → k.hasHs = false) →
       s.takeHandle c t (if k.cmd = 2 then k.w1.v else k.w2.v) = (s1, .ok h) → k.nidx * k.count < 2 ^ 24 → k.count ≤ h.rbytes →
       k.index % 4 = 0 → s1.readIndices c t k.token k.index k.nidx = (s2, .ok is) →
       let near (j : Nat) : Dword := BitVec.ofNat 64 (j * k.count)
       let runs : List Run := is.zipIdx.filterMap fun i =>
         if k.cmd = 2 then
           if i.1.1 < h.rows then some { src := .addr (h.row i.1.1), dst := k.w2.v + near i.2, len := k.count, tag := i.1.2 }
           else if k.skip then none else some { src := .zeros, dst := k.w2.v + near i.2, len := k.count, tag := i.1.2 }
         else if i.1.1 < h.rows then some { src := .addr (k.w1.v + near i.2), dst := h.row i.1.1, len := k.count, tag := i.1.2 }
         else none
       Answers (start k.cmd c) s (go s2 { k with
         started := true, hs := if k.cmd = 2 then some h else none, hd := if k.cmd = 3 then some h else none, chainLen := 0
         runs := runs, done := if runs = [] then some 0 else none, oor := is.countP fun i => h.rows ≤ i.1 })) ∧
     (∀ s1 n, k.packed → k.cmd ∈ [0, 5, 7] → k.bad c t = false → k.count ≠ 0 → k.hasHs = false → k.hasHd = false → port k →
       s.chainTotal c t { k with started := true, hs := none, hd := none } (k.count / 64 + 1) 0 0 = (s1, n) → n < 2 ^ 24 →
       k.w1.v.toNat % 64 = 0 → k.count % 64 = 0 →
       Answers (start k.cmd c) s (go s1 { k with
         started := true, hs := none, hd := none, runs := [], oor := 0, chainLen := k.count, done := none }))) ∧
  (∀ (s : State) c t k rest r rs a s1 bs s2 m, (s.ctx c).copies = k :: rest → (s.core c).task = some t → k.started → k.done = none →
     k.runs = r :: rs → s.copyTurn c → r.src = .addr a → r.conv = none → r.swz = 0 → r.meth = none → r.pad = 0 → k.cmd ≠ 7 → k.packed = false → k.chainLen ≤ k.chain →
     let dst := r.dst + BitVec.ofNat 64 r.dpos
     let n := min (r.len - r.pos) 4096
     s.engineRead c t k.token (a + BitVec.ofNat 64 r.pos) n = (s1, .ok bs) →
     s1.engineWrite c t dst bs (joinTags [k.tag, r.tag]) = (s2, m, none) →
     let rest' := if r.len ≤ r.pos + n then rs else { r with pos := r.pos + n, dpos := r.dpos + bs.length } :: rs
     Answers (.copyChunk c) s ((s2.updCluster (clusterOf c) fun x => { x with lastCopy := localIndex c }).copyPut c { k with
       sbytes := k.sbytes + n, dbytes := k.dbytes + m, runs := rest', done := if rest' = [] then some 0 else none
       logged := if s1.nextId < s2.nextId then some (s2.nextId - 1) else k.logged })) ∧
  (∀ (k : Copy) e, e < 64 → k.oor < 16 → k.dbytes < 2 ^ 24 → k.sbytes < 2 ^ 24 → let w := k.status e
     dfield w 23 0 = k.dbytes ∧ dfield w 47 24 = k.sbytes ∧ dfield w 51 48 = k.oor ∧ dfield w 57 52 = e ∧
     dfield w 58 58 = (if k.ilt then 1 else 0) ∧ dfield w 59 59 = if k.cfl then 1 else 0) ∧
  (∀ off n i (bs : List (Byte × LTag)), n ∈ [16, 32, 64, 128, 256, 512, 1024, 2048, 4096] → bs.length = n → i < n →
     (swizzle off n bs)[i]? = bs[16 * ((i / 16) ^^^ (off / n % (n / 16))) + i % 16]?)

/-- Matrix operations as they complete (R231 to R237). A fill writes its slot, unless an illegal code traps; a
multiply-accumulate adds its remaining K steps; a team step takes the tiles sent to it; a drain has written its rows,
and its results are the exponent and the clamp count; a block sum is applied in its turn, and one that its header does not
admit is counted bad. -/
def Obligations.MatrixEvents : Prop :=
  (∀ (s : State) c o, (s.ctx c).mxq = [o] →
    let gone (s : State) : State := s.updCtx c fun k => { k with mxq := [] }
    let k := s.core c
    (∀ slot rb kn fmt rows ti ctl, o = .fill slot rb kn fmt rows ti ctl → k.ctx.xs.trap = none →
      ((ti → firstIllegal fmt rows = none) → exec (.mxFillComplete c) s = .next (gone (
        let ds := rows.map fun r => (decodeRow fmt r.1 r.2.1, r.2.2.2)
        let tl := tileOf rb (fmtIsBfp fmt) (ds.map fun d => (d.1.1.take (if rb then 64 else kn), d.2)) ctl
        (s.updCore c (·.setSlot slot tl.1)).updCtx c (·.setFlags (ds.foldl (fun a d => a ||| d.1.2) tl.2))))) ∧
      (∀ code off, ti → firstIllegal fmt rows = some (code, off) → exec (.mxFillComplete c) s = .next (gone (
        s.updCtx c fun k => { k with xs := { k.xs with trap := some { cause := 12, val := BitVec.ofNat 64 (code + off * 2 ^ 20) } } })))) ∧
    (∀ a b acc zf n ctl, o = .mma a b acc zf n ctl → mmaPending (k.slot a) (k.slot b) (k.ctx.acc acc) = false →
      exec (.mxMmaComplete c) s = .next (gone (s.updCtx c fun x =>
        x.setAcc acc ((x.acc acc).multiply (k.slot a) (k.slot b) zf n (32 - n) ctl)))) ∧
    (∀ sa sb acc zf team st snt ta tb n ctl, o = .mmat sa sb acc zf team st snt (some (ta, tb)) n ctl →
      mmaPending ta tb (k.ctx.acc acc) = false →
      exec (.mxMmaComplete c) s = .next (gone (s.updCtx c fun x => x.setAcc acc ((x.acc acc).multiply ta tb zf n (32 - n) ctl)))) ∧
    (∀ acc form za off stride tok ctl rt s1, o = .drain acc form za off stride tok ctl rt → k.ctx.xs.trap = none →
      rowsPending (k.ctx.acc acc).tags = false →
      (s.turnFor c 2).drainRows c (k.ctx.acc acc) form off stride ctl (List.range 64) = (s1, none) →
      let a := k.ctx.acc acc
      let n := ((List.range 64).map fun r => (a.drainRow form r).2).sum
      Answers (.mxDrainComplete c) s (gone ((s1.updCtx c fun k =>
        (if za then k.setAcc acc (zeroAcc ctl) else k).setFlags (if n = 0 then 0 else 0x40)).updCore c (·.reply tok
          [(0x37D, { v := BitVec.ofInt 64 (a.ae.getD 0), t := rt }), (0x37F, { v := BitVec.ofNat 64 n, t := rt })])))) ∧
    (∀ a b acc zf team st n ctl t ta tb, o = .mmat a b acc zf team st true none n ctl → k.task = some t →
      let ca := t.member (teamFields team).1 t.gy
      let cb := t.member t.gx (teamFields team).2.1
      (s.ctx ca).tiles.find? (Tile.isFor c team st false) = some ta → (s.ctx cb).tiles.find? (Tile.isFor c team st true) = some tb →
      exec (.mmatStepStart c) s = .next (((s.updCtx ca fun x => { x with tiles := takeTile c (Tile.isFor c team st false) x.tiles }).updCtx
        cb fun x => { x with tiles := takeTile c (Tile.isFor c team st true) x.tiles }).updCtx c fun x => { x with
          mxq := [.mmat a b acc zf team st true (some (ta.tile, tb.tile)) n ctl] }))) ∧
  (∀ (s : State) i b, s.bsums[i]? = some b → s.bsumBuf = [] → (s.ctx b.target).xs.trap = none → s.bsumCovered b →
    let s0 := if b.sender = b.target then s.turnFor b.target 2 else s.remoteTurn b.target
    let s' := ({ s0 with bsums := s.bsums.eraseIdx i } : State).noteVec b.vec (dieOf b.target) (dieOf b.sender)
    let h := (s.core b.target).bsumHead b.off
    ((s.core b.target).admits b = none → Answers (.bsumSetArrive i) s (s'.updCore b.target fun k =>
      k.putBsumHead b.off { h with bad := min 65535 (h.bad + 1) })) ∧
    (∀ s1, (s.core b.target).admits b = some h.applied →
      State.bsumRecords { s' with bsumBuf := [b] } b.target b.off b.exp.toInt b.cnt.toNat 0 b.sums = (s1, none) →
      (s1.core b.target).bsumHead b.off = h →
      Answers (.bsumSetArrive i) s ({ s1.updCore b.target fun k => k.putBsumHead b.off { h with
        applied := h.applied + 1, done := h.applied + 1 = h.nsend } with bsumBuf := s1.bsumBuf.filter (·.id != b.id) })))

/-- Blocks of the weight-driven mode (R240 to R247). A block that opens has its effect, and the sequencer goes on to its
successor: the next block, an offset, a call or a return of at most four, an entry of a table, or the end of the mode; a block with a
payload takes it granule by granule, or whole. EXIT ends the mode with its code in `ct.r`, TRAPB raises its breakpoint. That a NOP or
SELECT block has its own payload read whole and checked first is the model's choice (log entry 33). -/
def Obligations.WeightBlocks : Prop :=
  (∀ (s : State) c op t w h s2, s.blockOpens c op = some (t, w, h, s2) →
    (∀ e ∈ ([(.nopBlock c, 0), (.mvaccBlock c, 1), (.mmaccBlock c, 2), (.biasBlock c, 3), (.scaleBlock c, 4), (.loadvBlock c, 6),
        (.selectBlock c, 9)] : List (Instr × Nat)),
      op = e.2 → Answers e.1 s (if h.total ≤ w.restart then s2.wdSuccessor c t w h else s2)) ∧
    (op = 5 → (s2.ctx c).anyPending (spanRegs h.num 32 h.off h.ncol) = false →
      Answers (.actBlock c) s ((s2.updCtx c (·.actApply h)).wdSuccessor c t w h)) ∧
    (∀ s3 n, op = 7 → (s2.ctx c).anyPending h.srcRegs = false →
      let bs := (s2.ctx c).srcBytes h
      let off := ((s2.ctx c).bufs.get {} h.num).base.toNat + h.off
      bs ≠ [] → (s2.core c).spadRefusal (s2.core c).banks off bs.length true (BitVec.ofNat 64 w.block) = none →
      (s2.turnFor c 1).writeBytes c t (s2.ctx c).ctlab ((partsOf (spadAddr off) bs.length).map fun p =>
        (Loc.spad c (p.1.toNat % 2 ^ 20), p.2, p.1, 0)) bs = (s3, n, none) →
      Answers (.storeBlock c) s ((s3.updCtx c (·.bufCount off n true)).wdSuccessor c t w h)) ∧
    (∀ s3, op = 8 → (s2.ctx c).anyPending h.srcRegs = false → w.sent < h.dwords →
      let d := (s2.ctx c).sendDword h w.sent
      s2.send c t h.dx h.dy h.num d.1 d.2 = .sent s3 →
      let w' : WDrive := { w with sent := w.sent + 1 }
      let s4 := s3.updCtx c fun k => { k with wd := some w' }
      Answers (.sendBlock c) s (if h.dwords ≤ w.sent + 1 then s4.wdSuccessor c t w' h else s4)) ∧
    (∀ r, op = 10 →
      let v : Dword := h.arg &&& BitVec.ofNat 64 (2 ^ 40 - 1)
      (s2.ctx c).barrierBusy = false → s2.barRect c t v = some (some r) → (∀ q ∈ s2.reqs, q.isOf c = false) →
      (dfield v 3 0 = 2 ∨ ∀ q ∈ s2.unpaired, q.isOf c = false) → s2.refusalDue c = false →
      Answers (.syncBlock c) s ((s2.updCtx c fun k => { k with wd := some { w with phase := .sync } }).arrive c t
        (if dfield v 3 0 = 2 then none else some r) true)) ∧
    (op = 11 → Answers (.exitBlock c) s ((s2.updCore c (·.reply w.token
      [(0x4BD, { v := pack [(0, dfield h.arg 31 0), (32, 0)], t := [] })])).updCtx c fun k => { k with
        wd := none, xs := { k.xs with ready := s2.now + 2 }, as_ := { k.as_ with ready := s2.now + 2 } })) ∧
    (op = 12 → w.stuck h = false → Answers (.trapbBlock c) s ((s2.wdSuccessor c t w h).raise c .x
      { cause := 15, val := BitVec.ofNat 64 (dfield h.arg 23 0) }))) ∧
  (∀ (s : State) c t (w : WDrive) (h : Hdr),
    let after := w.rel (h.grans + 1)
    let w' : WDrive := { w with phase := .successor }
    let s' := s.updCtx c fun k => { k with wd := some w' }
    let go (va : Nat) (st : List Nat) : State := s'.updCtx c fun k => { k with wd := some (w.next va st) }
    (h.skind = 0 → s.wdSuccessor c t w h = go (if h.soff = 0 then after else w.rel h.soff) w.bstk) ∧
    (h.skind = 1 → s.wdSuccessor c t w h = s'.wdEnd c w 1 0) ∧
    (h.skind = 2 → s.wdSuccessor c t w h = if w.bstk.length < 4 then go (w.rel h.soff) (after :: w.bstk)
      else s'.raise c .x { cause := 4, reason := 8, val := BitVec.ofNat 64 w.block }) ∧
    (h.skind = 3 → s.wdSuccessor c t w h = match w.bstk with
      | [] => s'.raise c .x { cause := 4, reason := 9, val := BitVec.ofNat 64 w.block }
      | r :: rs => go r rs) ∧
    (∀ s3 s4 g j, h.skind = 4 →
      let v := (s'.ctx c).selectValue h
      (s'.ctx c).portPending v.2.2 = false → s'.hiddenTag (s'.spaceOf c).1 (s'.spaceOf c).2 (toTag v.2.1) = (s3, none, false) →
      isMuck v.2.1 = false → 0 ≤ toSigned 32 v.1 → toSigned 32 v.1 < (h.slen / 4 : Nat) →
      let n := (toSigned 32 v.1).toNat
      s3.blockRead c t w.block (w.block + 64 + n * 4 / 64 * 64) = (s4, .ok (g, j)) →
      s.wdSuccessor c t w h = s4.updCtx c fun k => { (k.joinCtl .x [v.2.1]) with wd := some (w'.next (w.rel (toSigned 32 (elem 32 g (n % 16)))) w.bstk) })) ∧
  (∀ (s : State) c t w s1, s.wdReady c = some (t, w) → (s.ctx c).xs.trap = none → w.phase = .payload →
    let h := hdrOf w.hdr
    let w' : WDrive := { w with restart := w.restart + 1 }
    w.restart < h.total →
    (∀ g, h.whole = false → (h.op = 1 → (s.ctx c).anyPending (h.mvSrc (w.restart / h.grans)) = false) →
      s.blockRead c t w.block (w.block + 64 + 64 * (w.restart % h.grans)) = (s1, .ok g) →
      h.illegal (s1.ctx c) ((bytesOf 64 g.1.toNat).take (h.slen - 64 * (w.restart % h.grans))) = none →
      let s2 := s1.updCtx c (·.granApply h w.restart g)
      Answers (.blockPayloadGranule c) s (if h.total ≤ w.restart + 1 then s2.wdSuccessor c t w' h
        else s2.updCtx c fun k => { k with wd := some w' })) ∧
    (∀ gs, s.payloadRead c t w.block 0 h.grans = (s1, .ok gs) →
      (h.op = 2 → (s.ctx c).mxq = [] → mmaPending ((s.core c).slot h.abase) {} ((s.ctx c).acc h.num) = false →
        h.illegal (s.ctx c) ((payloadBytes h.slen gs).map (·.1)) = none →
        Answers (.blockPayloadGranule c) s ((s1.updCore c (·.mmacc h (payloadBytes h.slen gs))).wdSuccessor c t
          { w with restart := h.total } h)) ∧
      (h.op = 0 ∨ h.op = 9 → Answers (.blockPayloadGranule c) s (s1.wdSuccessor c t w h))))

/-- Replies and other units' steps (R56, R62, R117, R267, R291, R325). Tags that a core has still to resolve are resolved, and
its suspended label operation ends; the Carillon performs a core's operation and its ports take the results; a message
enters its receiver's storage behind those of its sender and channel. An XFORM node reads the command at its OBJ (whose layout is the
model's, log entry 5): a diagram operation runs and ends, a copy command opens and goes on by chunks, and no command ends with ENGINE. -/
def Obligations.UnitReplies : Prop :=
  (∀ (s : State) c s1 s2, s.resolveCore c = (s1, {}) → s1.lbRetry c = (s2, none) → exec (.labelResolveReply c) s = .next s2) ∧
  (∀ (s : State) c o r s1 ws, (s.ctx c).raised = none → (s.ctx c).xs.trap = none → (s.ctx c).lbops = o :: r → o.op ≠ 12 → o.op ≠ 13 →
    s.lbPerform c o = (s1, none, ws) →
    s.lbRetry c = (s1.updCore c fun k => { k.reply o.token ws with ctx := { (k.reply o.token ws).ctx with
      lbops := (k.reply o.token ws).ctx.lbops.filter (·.token != o.token) } }, none)) ∧
  (∀ (s : State) c t o d s1 ws, (s.core c).task = some t → (s.ctx c).clop = some o → (s.ctx c).xs.trap = none →
    (s.ctx c).raised = none → (s.part t.part).dspaces.get none o.space = some d → s.clRun c t o d = (s1, some ws) →
    Answers (.carillonOperation c) s ((s1.observe 3 c o.began).updCore c fun k =>
      { k.reply o.token ws with ctx := { (k.reply o.token ws).ctx with clop := none } })) ∧
  (∀ (s : State) i m k, s.msgs[i]? = some m → (∀ e ∈ s.msgs.take i, ¬ (e.task.sameGang m.task ∧ e.gx = m.gx ∧ e.gy = m.gy ∧
      e.msg.sender = m.msg.sender ∧ e.msg.chan = m.msg.chan)) →
    let s' : State := { s with msgs := s.msgs.eraseIdx i }
    s'.box m.task m.gx m.gy = .live k → exec (.messageArrive i) s = .next (s'.updCtx k fun x => { x with inbox := x.inbox ++ [m.msg] })) ∧
  (∀ (s : State) p i n s1 v, s.nextNode p = some (i, n) → recKind (s.node p i n).record = 1 →
    s.devGranule p (recObj (s.node p i n).record) = (s1, .ok v) →
    let c := (s1.part p).origin
    let t := (s1.part p).engineTask p i n
    let lsp := recLsp (s1.node p i n).record
    let under (s : State) (cmd : XformCmd) (k : Copy) : State := (s.updNode p i n fun d => { d with phase := .engine }).updPart p fun q =>
      { q with xforms := q.xforms ++ [{ inst := i, node := n, cmd := cmd, copy := k }] }
    Answers (.xformNodeStart p 0) s (match Config.xformCommand v with
      | none => s1.xformEnd p i n false
      | some (.diagram op space a b x) =>
        let r := s1.asEngine c lsp (·.xformDiagram c t op space a b x)
        r.1.xformEnd p i n r.2
      | some (.copy w0 w1 w2 w3) =>
        let k : Copy := { w0 := { v := w0 }, w1 := { v := w1 }, w2 := { v := w2 }, w3 := { v := w3 }, node := some (p, i, n) }
        let r := s1.asEngine c lsp (·.copyOpen c t k)
        if k.virtualOnly && !k.refused c t then under r.1 (.copy w0 w1 w2 w3) r.2 else s1.xformEnd p i n false
      | some (.census space) =>
        if 8 ≤ space ∨ (s1.part p).lspaces.get none space = none then s1.xformEnd p i n false else under s1 (.census space) {})) ∧
  (∀ (s : State) p j x w0 w1 w2 w3 s1 k, (s.part p).xforms[j]? = some x → x.cmd = .copy w0 w1 w2 w3 →
    x.copy.done = none →
    s.asEngine (s.part p).origin (recLsp (s.node p x.inst x.node).record)
      (·.copyChunk (s.part p).origin ((s.part p).engineTask p x.inst x.node) x.copy) = (s1, k) →
    Answers (.xformNodeStart p (j + 1)) s (s1.updPart p fun q => { q with xforms := q.xforms.set j { x with copy := k } }))

/-! ## Links, containment, stacks and the platform -/

/-- Svetim Link and the windows (R122, R345, R346, R348 to R353). At 16 lanes a failed lane drops its half and the port retrains; a
failure of the half in use takes it down; training brings it back and replays; a reset starts afresh. An acknowledgement
frees the buffer up to its packet; a negative one, or 2 µs without one, replays. A packet in sequence is performed in the
bound partition, expanded by the method that it carries, or refused; one after a gap is discarded. A host access goes through its window,
or has an error response and writes event 0x14, and is a packet of the host port in either case. That a peer's reset restarts the
sequence numbers, that a time in ns is mesh cycles times 10/17 (log entry 41) and that event 0x14 gives the offset in the window as its
address (log entry 42) are the model's choices. -/
def Obligations.Links : Prop :=
  (∀ (s : State) p lane, p < 13 → lane < 16 → (s.port p).up →
    let x := s.port p
    let failed := x.failed ||| BitVec.ofNat 16 (2 ^ lane)
    let s0 := s.updPort p fun x => { x with failed := failed }
    (x.failed = 0 → exec (.laneFailure p lane) s = .next ((s0.updPort p fun x => { x with
      up := false, lanes := 8, half := lane < 8, training := some s.now }).linkEvent 0x20 p [lane, if lane < 8 then 1 else 0])) ∧
    (∀ w, lanesOf x.failed = some w → lanesOf failed = none → exec (.laneFailure p lane) s = .next ((s0.updPort p fun x => { x with
      up := false, lanes := 0, half := false, training := none, downAt := s.now }).linkEvent 0x22 p [x.peerAck.toNat]))) ∧
  (∀ (s : State) p m t w, (s.port p).training = some t → lanesOf (s.port p).failed = some w → (s.port p).meth ≠ 0 →
    let s1 := s.updPort p fun x => { x with
      up := true, training := none, lanes := BitVec.ofNat 5 w.1, half := w.2, meth := m ||| 1, sentAt := s.now
      replays := satInc32 x.replays, retrains := satInc16 x.retrains }
    exec (.linkRetrainComplete p m) s = .next (if (s.port p).lanes = 0 then s1.linkEvent 0x23 p [w.1]
      else s1.linkEvent 0x21 p [w.1, (s.now - t) * 10 / 17])) ∧
  (∀ (s : State) p m w, p < 13 → (s.port p).isDown → (s.port p).downAt + 1700000 ≤ s.now → lanesOf (s.port p).failed = some w →
    let s1 := s.updPort p fun x => { x with downAt := s.now }
    exec (.linkTrainRetry p true m) s = .next ((s1.updPort p fun x => x.trained w m s.now).linkEvent 0x23 p [w.1]) ∧
    exec (.linkTrainRetry p false m) s = .next s1) ∧
  (∀ (s : State) p, p < 12 →
    Answers (.lctlReset p) s ((s.endXcopies p).updPort p fun x => { x with
      txSeq := 0, replay := [], rxSeq := 0, naked := false, lastAck := 0, peerAck := 0, refused := []
      up := false, lanes := 0, half := false, failed := 0, training := some s.now }) ∧
    Answers (.peerReset p) s ((s.endXcopies p).updPort p fun x => { x with
      txSeq := 0, replay := [], rxSeq := 0, naked := false, lastAck := 0, peerAck := 0, refused := [] })) ∧
  (∀ (s : State) p old q rest n r, (s.port p).up → (s.port p).replay = old ++ q :: rest → q.seq = n →
    (∀ e ∈ old ++ rest, e.seq ≠ n) → Answers (.linkAckReceive p n r) s ((old.foldl (fun s e => s.ackPacket e false)
      (s.updPort p fun x => { x with replay := rest, peerAck := n, sentAt := s.now })).ackPacket q r)) ∧
  (∀ (s : State) p n, (s.port p).up →
    let s1 := s.updPort p fun x => { x with replays := satInc32 x.replays, sentAt := s.now }
    exec (.linkNakReceive p n) s = .next s1 ∧
    ((s.port p).replay ≠ [] → (s.port p).sentAt + 3400 ≤ s.now → exec (.linkAckTimeout p) s = .next s1)) ∧
  (∀ (s : State) p seq cmd va d bs, p < 12 → (s.port p).up → d.bytes ≠ [] → LinkData.expanded d = some bs → let x := s.port p
    let took (s : State) : State := s.updPort p fun x => { x with rxSeq := x.rxSeq + 1, lastAck := x.rxSeq, naked := false }
    (∀ q s1, seq = x.rxSeq → cmd ∉ x.refused → x.bound = some q → s.outsideWrite q va bs = (s1, none) →
      Answers (.linkPacketReceive p seq cmd va d) s (took s1)) ∧
    (∀ q s1 why, seq = x.rxSeq → cmd ∉ x.refused → x.bound = some q → s.outsideWrite q va bs = (s1, some why) →
      Answers (.linkPacketReceive p seq cmd va d) s (((took s1).updPort p fun x => { x with
        refused := cmd :: x.refused.filter (· != cmd) }).linkEvent 0x24 p [va.toNat, why])) ∧
    (seq ≠ x.rxSeq → (seq - x.rxSeq).toNat < 2 ^ 31 → Answers (.linkPacketReceive p seq cmd va d) s (s.updPort p fun x => { x with
      naked := true }))) ∧
  (∀ (s : State) p w base len off (wr : Bool) bs, (s.part p).windows.get none w = some (base, len) → (s.port 12).up → bs ≠ [] →
    off + bs.length ≤ len →
    let r := if wr then s.outsideWrite p (BitVec.ofNat 64 (base + off)) bs else s.outsideRead p (BitVec.ofNat 64 (base + off)) bs.length
    let took (s : State) : State := s.updPort 12 fun x => { x with rxSeq := x.rxSeq + 1, lastAck := x.rxSeq, naked := false }
    (∀ s1, r = (s1, none) → Answers (.hostWindowAccess p w off wr bs) s (took s1)) ∧
    (∀ s1 why, r = (s1, some why) → Answers (.hostWindowAccess p w off wr bs) s
      (((took s1).replyError (BitVec.ofNat 64 (base + off))).partEvent p 0x14 [off, why]))) ∧
  (∀ (s : State) p w base len, s.fwRuns → s.hasPart p → w < 8 → base + len ≤ 2 ^ 48 → exec (.dataWindowSetup p w base len) s =
    .next (s.updPart p fun q => { q with windows := q.windows.set none w (if len = 0 then none else some (base, len)) })) ∧
  (∀ (s : State) port p, s.fwRuns → port < 12 → (∀ n, p = some n → s.hasPart n) →
    exec (.peerInboundBind port p) s = .next (s.updPort port fun x => { x with bound := p }))

/-- Containment (R356, R359 to R363, R366, R367). Poison consumed in a protected gang restores every member from its snapshot, or
ends the task, with cause 1 where an act cannot be repeated and cause 4 where a snapshot is poisoned; the items of duplex partners
meet their equals at the router, and one that differs or stays unpaired is a mismatch; the verdict keeps the two gangs that agree, and
takes no vote where the tiebreak agrees with both; scores fall with time, and a core to be quarantined leaves the map when it is idle;
the field test clears or quarantines an idle cluster; a replayed load takes its value from the recording. That the field test is one
step and what a rollback keeps are the model's choices (log entry 44), and so are the tag in the 2 bytes behind a replayed value and
that an input with no load or atomic to take it waits for the next other one (log entry 43). -/
def Obligations.Containment : Prop :=
  (∀ (s : State) c a t, (s.core c).poisoned = some a → (s.core c).task = some t → (s.core c).ended = false →
    let nd := s.node t.part t.inst t.node
    let cs := t.members.filter fun m => (s.core m).inGang t
    let es := s.evictedOf t
    let calm := cs.foldl (fun s m => s.updCore m fun k => { k with poisoned := none }) s
    let acted := (∃ m ∈ cs, (s.core m).irrev) ∨ ∃ e ∈ es, ((s.core e.1).area e.2).irrev
    let bad := (∃ m ∈ cs, s.snapBad t.part m) ∨ ∃ e ∈ es, s.snapBad t.part e.1
    nd.ending = none →
    (acted → Answers (.rollback c) s (calm.kill t 1)) ∧
    (¬ acted → bad → Answers (.rollback c) s (calm.kill t 4)) ∧
    (¬ acted → ¬ bad →
      let s1 := s.event 0x33 (s.part t.part).die [t.node, t.inst, nd.superstep, a.toNat]
      Answers (.rollback c) s (cs.foldl (fun s m => s.restoreMember t m)
        (es.foldl (fun s e => s.undoSaved t e.1 e.2) (s1.forget t))))) ∧
  (∀ (s : State) t c z u, let k := s.core c
    k.snap = some z → k.task = some u → u.sameGang t → k.haltReq = false → k.halted = false →
    let k' := (s.restoreMember t c).core c
    let held (b : Nat) : Bool := k.heldBanks.getLsbD b && !u.banks.getLsbD b
    k'.ctx = z.ctx ∧ k'.image = z.image ∧ k'.bfmt = z.bfmt ∧ k'.trapCause = z.trapCause ∧ k'.trapVal = z.trapVal ∧
    k'.xpcSave = z.xpcSave ∧ k'.apcSave = z.apcSave ∧ k'.tvec = z.tvec ∧ k'.poisoned = none ∧ k'.irrev = false ∧
    (∀ i, i < 16 → k'.slot i = if (z.slots.get {} i).owner = .task then z.slots.get {} i
      else if (k.slot i).owner = .task then {} else k.slot i) ∧
    (∀ o, o < 0xA0000 → k'.spad.get 0 o = if held (o / 0x8000) then k.spad.get 0 o else z.spad.get 0 o) ∧
    (∀ n, n < 0x2800 → k'.stags.get 0 n = if held (n / 0x200) then k.stags.get 0 n else z.stags.get 0 n) ∧
    (s.restoreMember t c).reqs = s.reqs ++ z.reqs.map (·.moveTo z.task u c)) ∧
  (∀ (s : State) i e, s.allItems[i]? = some e → e.arrived = false →
    let s1 := s.updItem e fun x => { x with arrived := true }
    let mates := s1.allItems.find? fun x => x.mate e && x.arrived && !x.paired
    ((s.node e.part e.inst e.node).tiebreak → Answers (.duplexItemArrive i) s s1) ∧
    ((s.node e.part e.inst e.node).tiebreak = false →
      (mates = none → Answers (.duplexItemArrive i) s (s1.tryDuplex (s1.itemTask e))) ∧
      (∀ o, mates = some o → o.hash ≠ e.hash → Answers (.duplexItemArrive i) s
        ((s1.updNode e.part e.inst e.node fun n => { n with mismatch := true }).tryDuplex (s1.itemTask e))) ∧
      (∀ o, mates = some o → o.hash = e.hash → e.req = none → o.req = none →
        let s2 := (s1.updItem e fun x => { x with paired := true }).updItem o fun x => { x with paired := true }
        Answers (.duplexItemArrive i) s (s2.tryDuplex (s1.itemTask e))))) ∧
  (∀ (s : State) i e, s.allItems[i]? = some e → e.arrived → e.paired = false → e.partner < 2 → e.sentAt + 2 ^ 20 ≤ s.now →
    let s1 := s.updNode e.part e.inst e.node fun n => { n with mismatch := true }
    Answers (.duplexPairTimeout i) s (s1.tryDuplex (s.itemTask e))) ∧
  (∀ (s : State) p i n g0 g1 g2, (s.node p i n).gangs = [g0, g1, g2] → (s.node p i n).tiebreak → (s.node p i n).phase = .running →
    (s.node p i n).ending = none →
    let t : Task := { part := p, inst := i, node := n, duplex := true }
    let u (q : Nat) : Task := (s.node p i n).partnerTask t q
    (∀ m ∈ (u 2).members, s.stands (u 2) m ∧ ∀ r ∈ s.reqs, r.isOf m = false) →
    (s.differ g0 g2 = [] → s.differ g1 g2 = [] →
      Answers (.verdict p i n) s (s.settleVerdict t (u 0) (u 1) (u 2) [])) ∧
    (s.differ g0 g2 = [] → s.differ g1 g2 ≠ [] →
      Answers (.verdict p i n) s (s.settleVerdict t (u 0) (u 2) (u 1) (s.differ g1 g2))) ∧
    (s.differ g0 g2 ≠ [] → s.differ g1 g2 = [] →
      Answers (.verdict p i n) s (s.settleVerdict t (u 1) (u 2) (u 0) (s.differ g0 g2))) ∧
    (s.differ g0 g2 ≠ [] → s.differ g1 g2 ≠ [] → Answers (.verdict p i n) s (s.kill t 2))) ∧
  (∀ (s : State) p c, let k := s.core c
    let n := min 255 (k.scoreNow s.now + (s.part p).dupInc.toNat)
    s.loseVote p c = s.updCore c fun k => { k with
      score := n, scoreAt := s.now, quarantine := k.quarantine || decide ((s.part p).dupThresh.toNat ≤ n) }) ∧
  (∀ (s : State) c, (s.core c).score ≠ 0 → (s.core c).scoreAt + 2 ^ 37 ≤ s.now → exec (.scoreDecay c) s = .next (s.updCore c fun k => { k with
    score := k.score - 1, scoreAt := k.scoreAt + 2 ^ 37 })) ∧
  (∀ (s : State) c, (s.core c).quarantine → (s.core c).idle → (s.core c).resv = .idle →
    let s1 := (s.updCore c fun k => { k with quarantine := false, quarantined := true }).event 0x32 (dieOf c)
      [c, (s.core c).scoreNow s.now]
    (s1.partOf c = none → exec (.quarantine c) s = .next s1) ∧
    (∀ p, s1.partOf c = some p → exec (.quarantine c) s = .next (s1.refreshDfv p))) ∧
  (∀ (s : State) k bad, k < 96 → (∀ c ∈ clusterCores k, (s.core c).idle ∧ (s.core c).resv = .idle) →
    let cs := (clusterCores k).filter bad.contains
    (cs = [] → exec (.fieldTest k bad) s = .next (s.updCluster k fun x => { x with gangs := [], gangOvf := false, passAt := s.now })) ∧
    (cs ≠ [] → let s1 := cs.foldl (fun s c => s.updCore c fun k => { k with quarantine := true }) s
      let ev : Event := {
        kind := 0x3A, die := dieOf ((clusterCores k).headD 0), time := s.now, extra := gangList (s.cluster k) s.now
        fields := [BitVec.ofNat 64 k, BitVec.ofNat 64 (s.now - (s.cluster k).passAt), 0] }
      exec (.fieldTest k bad) s = .next (s1.post ev))) ∧
  (∀ (s : State) c bytes, s.life.benchOpen →
    (∀ r j, s.reqs.head? = some r → r.core = c → r.kind = .load j →
      exec (.recordReplay c bytes) s = .next (({ s with reqs := s.reqs.erase r } : State).updCtx c (·.setPiece r.id j {
        bytes := (List.range r.len).map fun i => bytes.getD i 0, tag := tagOf (BitVec.ofNat 16 (ofBytes ((bytes.drop r.len).take 2))) }))) ∧
    ((∀ r ∈ s.reqs, r.core = c → ∃ bs tg, r.kind = .store bs tg) →
      exec (.recordReplay c bytes) s = .next (s.updCore c fun k =>
        let x : Record := k.record.getD { stopped := true }
        { k with record := some { x with replay := x.replay
          ++ [(BitVec.ofNat 64 (ofBytes (bytes.take 8)), BitVec.ofNat 16 (ofBytes ((bytes.drop 8).take 2)))] } })))

/-- Stacks (R355, R364, R365): a layer judged failing, its acknowledgement or the second that passes without one, the end of its
remap, or its abrupt loss with what it held poisoned, after which the stack has 45 GiB, unless a layer was mapped out before; the
fallback of refresh and its return; self-refresh, entered and left, and the 50 ms after which it holds accesses no more, and what it
held has failed. That event 0x36 gives the window's offset in a home, 0xF000000, as its window, and a second failing layer's own
offset, is the model's choice (log entry 42). -/
def Obligations.Stacks : Prop :=
  ∀ (s : State) k, k < 8 →
    let x := s.stk k
    let ev (s : State) (kind : Nat) (fields : List Nat) : State := s.event kind (k / 2) (k :: fields)
    let out (s : State) (layer n : Nat) : State := ev ((s.loseTop k).updStk k fun x => { x with
      capGib := 45, mapl := BitVec.ofNat 4 layer, mapped := true, state := if x.state = 3 then 3 else 0, srPrev := 0 }) 0x36 [0xF000000, n]
    (∀ layer, layer < 16 → x.mapped = false → x.state = 0 → exec (.layerwarn k layer) s = .next (ev (s.updStk k fun x => { x with
      state := 1, failing := layer, warnAt := s.now }) 0x35 [layer])) ∧
    (x.state = 1 → exec (.stkctlAck k) s = .next (s.updStk k fun x => { x with state := 2 })) ∧
    (x.state = 1 → x.warnAt + 1700000000 ≤ s.now → exec (.layerAckTimeout k) s = .next (s.updStk k fun x => { x with state := 2 })) ∧
    (x.state = 2 → exec (.layerRemapComplete k) s = .next (out s x.failing 0)) ∧
    (∀ layer lost, layer < 16 → x.mapped = false → lost.Nodup → (∀ g ∈ lost, stackOf (paHome (64 * g)) = k ∧
        paOff (64 * g) / 0x1000000 = layer ∧ paHome (64 * g) < 1536) →
      exec (.layerAbruptFailure k layer lost) s = .next (out (lost.foldl (fun s g => s.setMemStat g .uncorrectable) s) layer lost.length)) ∧
    (∀ layer lost, layer < 16 → x.mapped → lost.Nodup → (∀ g ∈ lost, stackOf (paHome (64 * g)) = k ∧
        paOff (64 * g) / 0x1000000 = layer ∧ paHome (64 * g) < 1536) →
      exec (.layerAbruptFailure k layer lost) s = .next
        (ev (lost.foldl (fun s g => s.setMemStat g .uncorrectable) s) 0x36 [layer * 0x1000000, lost.length])) ∧
    (x.fallback = false → exec (.refreshTakeover k) s = .next (ev (s.updStk k fun x => { x with fallback := true }) 0x37 [s.now])) ∧
    exec (.stackReset k) s = .next (s.updStk k fun x => { x with fallback := false }) ∧
    (∀ temp, x.state ≠ 3 → exec (.srenter k temp) s = .next (ev (s.updStk k fun x => { x with
      state := 3, srPrev := x.state, srAt := s.now, srOver := false }) 0x38 [temp])) ∧
    (x.state = 3 → x.srAt + 85000000 ≤ s.now → exec (.selfRefreshTimeout k) s = .next (s.updStk k fun x => { x with srOver := true })) ∧
    (∀ temp, x.state = 3 →
      let held := if x.over s.now then s.endHeld k else s
      exec (.srexit k temp) s = .next (ev (held.updStk k fun x => { x with state := x.srPrev, srPrev := 0, srOver := false }) 0x39 [temp]))

/-- Events, telemetry and monitors (R353, R354, R371, R373, R376 to R379). The oldest event that waits is written, granule by granule, to
the ring where there is room for all of it; a die's telemetry record is written each period where the ring is on and has room, else
dropped and counted: its LIMIT is the one in force at the interval's end, THRCYC at most the interval's cycles, and WHY names no limit
where none was in force. A capture unit counts its samples, starts anew when it is enabled and dumps what it counted. The free room of
a ring and that monitor values are unsigned (log entry 42), which ended latency is sampled when (log entry 64) and the layout of a dump
(log entry 14) are the model's choices. -/
def Obligations.Monitoring : Prop :=
  (∀ (s : State) e rest, s.evWait = e :: rest → s.evRing.en → (s.port 12).up → e.total ≤ s.evRing.free → e.total < 256 →
    s.quotesOnly = false →
    let r := s.evRing
    let ds := e.dwords e.total s.evLost (r.at e.ngran)
    Answers .eventRingWrite s { s.putGranules r 0 (((List.range e.ngran).map fun i => (ds.drop (8 * i)).take 8) ++ e.extra) with
      evWait := rest, evLost := false, evRing := r.advance e.total }) ∧
  (∀ (s : State) e rest, s.evWait = e :: rest → e.kind ≠ 0x3A → e.kind < 256 → e.die < 4 → e.fields.length ≤ 6 → e.extra = [] →
    s.evRing.en → (s.port 12).up → 1 ≤ s.evRing.free → s.quotesOnly = false →
    let r := s.evRing
    let head : Dword := BitVec.ofNat 64 (e.kind + 2 ^ 8 + (if s.evLost then 2 ^ 16 else 0) + 2 ^ 24 * e.die)
    Answers .eventRingWrite s { s.hostWrite (r.at 0) (granuleBytes 1 (head :: BitVec.ofNat 64 e.time :: e.fields)) with
      evWait := rest, evLost := false, evRing := r.advance 1 }) ∧
  (∀ (s : State) d, d < 4 → (s.die d).telAt + 1700000 ≤ s.now → s.quotesOnly = false →
    let x := s.die d
    let s1 := s.updDie d fun x => { x with telAt := x.telAt + 1700000, telEnds := x.telEnds.tail }
    let past := x.telEnds.headD (s.effLimit d, x.telLim)
    (s.telRing.en → s.telRing.free ≠ 0 →
      ∃ e i t w : Dword, i.toNat < 2 ^ 48 ∧ w.toNat < 2 ^ 23 ∧ dfield w 19 0 ≤ 850000 ∧ (dfield w 22 20 = 0 ↔ dfield w 19 0 = 0) ∧
        (past.2 = false → w.getLsbD 20 = false) ∧ Answers (.telemetryRecord d) s
        { (({ s1 with fresh := s.fresh + 4 } : State).hostWrite (s.telRing.at 0) (granuleBytes 1 [pack [(0, x.tseq.toNat), (32, d)],
          BitVec.ofNat 64 (x.telAt + 1700000), e, i, t, w, BitVec.ofNat 64 past.1])).updDie d fun x => { x with
            tseq := x.tseq + 1 } with telRing := s.telRing.advance 1 }) ∧
    (s.telRing.en = false → Answers (.telemetryRecord d) s s1) ∧
    (s.wait = false → s.telRing.en → s.telRing.free = 0 → ∃ t, exec (.telemetryRecord d) s = .next t ∧ t.host = s.host ∧
      t.telRing = { s.telRing with lost := if s.telRing.lost = 0xFFFFFFFF then 0xFFFFFFFF else s.telRing.lost + 1 })) ∧
  (∀ (s : State) u (v : BitVec 32), u < 16 → (s.monitor u).en → s.quotesOnly = false →
    let m := s.monitor u
    let count (v : BitVec 32) (m : Monitor) : Monitor := { m with
      min := if v < m.min then v else m.min, max := if m.max < v then v else m.max, count := satInc m.count
      bins := m.bins.upd 0 (Nat.min 31 ((v.toNat - dfield m.ctl 63 32) / 2 ^ dfield m.ctl 19 15)) satInc }
    (∀ x r, m.src ≤ 5 → m.due = x :: r → exec (.monitorSample u v) s = .next (s.updMonitor u fun m => { count x m with due := r })) ∧
    (m.src = 6 → m.last + 512 ≤ s.now →
      exec (.monitorSample u v) s = .next (s.updMonitor u fun m => { count v m with last := s.now })) ∧
    (m.src = 7 → exec (.monitorSample u v) s = .next (s.updMonitor u (count v)))) ∧
  (∀ (s : State) u (v : Dword), u < 16 → s.quotesOnly = false → (s.port 12).up →
    exec (.monitorEnable u v) s = .next ((s.updPort 12 fun x => { x with
      rxSeq := x.rxSeq + 1, lastAck := x.rxSeq, naked := false }).updMonitor u (·.setCtl v s.now))) ∧
  (∀ (m : Monitor) (v : Dword) now, let m' := m.setCtl v now
    dfield m'.ctl 20 0 = dfield v 20 0 ∧ dfield m'.ctl 63 32 = dfield v 63 32 ∧ (m.dump → m'.dump) ∧ m'.due = [] ∧
    (m.en = false → dfield v 20 20 = 1 → m'.min = 0xFFFFFFFF ∧ m'.max = 0 ∧ m'.count = 0 ∧ m'.bins = [])) ∧
  (∀ (s : State) u, u < 16 → (s.monitor u).dump → s.quotesOnly = false →
    Answers (.monitorDump u) s ((s.hostWrite ((s.monitor u).daddr.toNat * 64)
      (s.monitor u).image).updMonitor u fun m => { m with ctl := m.ctl &&& ~~~(0x200000 : Dword) }))

/-- Boot, quotes, the life cycle and reset (R21, R22, R363, R368, R380 to R382). Boot leads to firmware, each image measured, where the
public keys hash to the fuses and both signatures over every image verify, or stays in its ROM; a quote is asked for, and answered with
the nonce, the measurements, the life-cycle state and the device identifier under both signatures; the life cycle goes forward with a
signed token, and wipes the device as reset does; reset leaves each core the banks that boot has found good, and names one that has none
in event 0x32. That host memory stays through a wipe and that the bank map-out is an argument of the reset are the model's choices (log
entry 43). -/
def Obligations.BootAndReset : Prop :=
  (∀ (s : State) pubs images, s.bootStat = 1 →
    exec (.bootVerify pubs images) s = .next (if s.verified pubs images then { s.measure images with bootStat := 3 }
      else { s with bootStat := 2 }) ∧
    (s.verified pubs images ↔ Config.keyHash pubs.1 = s.fuseEd ∧ Config.keyHash pubs.2 = s.fuseMl ∧
      ∀ x ∈ images, Config.edVerify pubs.1 x.bytes x.ed ∧ Config.mlVerify pubs.2 x.bytes x.ml)) ∧
  (∀ (s : State) x, (s.measure [x]).meas.get 0 (x.reg % 4) =
    Config.sha384 (bytesOf 48 (s.meas.get 0 (x.reg % 4)).toNat ++ bytesOf 48 (Config.sha384 x.bytes).toNat)) ∧
  (∀ (s : State) r, (s.port 12).up → Answers (.quoteRequest (some r)) s { (s.updPort 12 fun x => { x with
    rxSeq := x.rxSeq + 1, lastAck := x.rxSeq, naked := false }) with quote := some r }) ∧
  (∀ (s : State) nonce a, s.quote = some (nonce, a) →
    let body := bytesOf 32 nonce.toNat ++ (List.range 4).flatMap (fun i => bytesOf 48 (s.meas.get 0 i).toNat)
      ++ bytesOf 8 (Config.lifeCode s.life.rank).toNat ++ s.devId
    Answers (.quoteRequest none) s { s.hostWrite a.toNat
      (body ++ (bytesOf 64 (Config.edSign body).toNat ++ bytesOf 3309 (Config.mlSign body).toNat)) with quote := none }) ∧
  (∀ (s : State) target, (s.life.rank < target → target ≤ 4 → s.bootStat ≠ 2 → ∃ t, exec (.lifecycleTransition target true) s = .next t ∧
      t.life = Life.ofRank target ∧ t.mem = [] ∧ t.mtags = [] ∧ t.parts = [] ∧ t.host = s.host ∧ t.keyGen = s.keyGen + 1) ∧
    (target ≤ s.life.rank → exec (.lifecycleTransition target true) s = .next s) ∧
    exec (.lifecycleTransition target false) s = .next s) ∧
  (∀ (s : State) (banks : List (Nat × BitVec 4)),
    let left (v : BitVec 4) : Nat := (List.range 4).countP fun i => v.getLsbD i
    let boot (s : State) (c : Nat) (v : BitVec 4) : State :=
      let s' := s.setCore c { vbmap := v, vregs := BitVec.ofNat 7 (16 * left v), quarantined := left v = 0 }
      if left v = 0 then s'.event 0x32 (dieOf c) [c, 0] else s'
    exec (.resetWipe banks) s = .next (banks.foldl (fun s e => if e.1 < 1536 then boot s e.1 e.2 else s)
      { State.reset with
        fresh := s.fresh, oracle := s.oracle, agenda := s.agenda, host := s.host, life := s.life, keyGen := s.keyGen + 1
        fuseEd := s.fuseEd, fuseMl := s.fuseMl, devId := s.devId }))

/-- Firmware at the request of system software (R13, R250, R252, R283, R284, R286, R368): it makes a partition, wiped, of whole clusters
that no other holds, and label and diagram spaces in regions of its homes, and takes them away again. -/
def Obligations.PartitionsAndSpaces : Prop :=
  (∀ (s : State) n x0 y0 w h m, let p : Part := { x0 := x0, y0 := y0, w := w, h := h, maxNodes := m, curX := x0, curY := y0 }
    s.fwRuns → n < 32 → s.hasPart n = false → p.legal → (∀ e ∈ s.parts, ∀ q, e.2 = some q → p.overlaps q = false) →
    exec (.partitionCreate n x0 y0 w h m) s = .next (((p.cores.foldl (fun s c => s.updCore c (·.wiped)) (s.wipeHomes p)).setPart n
      (some p)).refreshDfv n) ∧
    ∀ pa, p.holds (paHome pa) → (s.wipeHomes p).memByte pa = 0) ∧
  (∀ (s : State) n, s.fwRuns → s.hasPart n → s.partIdle n → ∃ t, exec (.partitionDestroy n) s = .next t ∧ t.hasPart n = false ∧
    t.mem = s.mem ∧ t.host = s.host ∧ ∀ k, k ≠ n → t.parts.get none k = s.parts.get none k) ∧
  (∀ (s : State) p n na limit dsp base d, let q := s.part p
    s.fwRuns → s.hasPart p → n < 8 → q.lspaces.get none n = none → 1 ≤ limit → limit ≤ 65534 → 1 ≤ na → na ≤ 64 →
    q.dspaces.get none dsp = some d → d.tied = some n → na ≤ d.nv → regionFits q base (0x140 + 64 * limit) (fun _ => true) →
    paOff base + (0x140 + 64 * limit) ≤ 0xF000000 →
    exec (.labelSpaceCreate p n na limit dsp base) s = .next (s.updPart p fun q => { q with
      lspaces := q.lspaces.set none n (some { na := na, limit := limit, dsp := dsp, base := base }) })) ∧
  (∀ (s : State) p n, s.fwRuns → s.hasPart p →
    exec (.labelSpaceDestroy p n) s = .next (s.updPart p fun q => { q with lspaces := q.lspaces.set none n none })) ∧
  (∀ (s : State) p n die nv nn lnb base order tied, let q := s.part p
    s.fwRuns → s.hasPart p → n < 8 → q.dspaces.get none n = none → die < 4 → (∃ c ∈ q.cores, dieOf c = die) → s.dieSpaces die < 8 →
    1 ≤ nv → nv ≤ 4096 → 1 ≤ nn → nn < 2 ^ 28 → 4 ≤ lnb → lnb ≤ 28 → orderOk nv order → tieOk q nv tied →
    let x : DSpace := { die := die, nv := nv, nn := nn, tied := tied, logNb := lnb, order := order, base := base }
    regionFits q base x.bytes (fun h => dieOf h = die) →
    exec (.diagramSpaceCreate p n die nv nn lnb base order tied) s = .next (s.updPart p fun q => { q with
      dspaces := q.dspaces.set none n (some x) })) ∧
  (∀ (s : State) p n x, s.fwRuns → (s.part p).dspaces.get none n = some x → (∀ e ∈ (s.part p).lspaces, ∀ l, e.2 = some l → l.dsp ≠ n) →
    exec (.diagramSpaceDestroy p n) s = .next ((regionRanges 24 x.base x.bytes).foldl (fun s r => s.wipeRange r.1 r.2)
      (s.updPart p fun q => { q with dspaces := q.dspaces.set none n none })))

/-! ## Encoding, frames, reset and invariants -/

/-- Words written out from the encoding tables (R126, R129 to R131, R146) decode to the instructions that they stand for. Fields, from
bit 31: S, G, N, DST, I, MOD, SRC; of a hint S, 0001, KIND, PAY. Of portable code (R141, R142, R149, R156, R305): `al.lt %7, %1, %2` is
0x1807_0102, whose VA supplies `al.a`, VB the trigger 0x120 and whose VD takes `al.r`; a privileged trigger, an OPN past the last
trigger of its unit and `ce.try` are refused. -/
def Obligations.WordsDecode : Prop :=
  decodeWord (1#1 ++ 0#3 ++ 0#1 ++ 0x108#11 ++ 0#1 ++ 0#4 ++ 0x001#11) = .ok (.alAdd ⟨true, 0, false, false, 0x001⟩) ∧
  decodeWord (0#1 ++ 2#3 ++ 1#1 ++ 0x188#11 ++ 1#1 ++ 0x7FFF#15) = .ok (.mdMul ⟨false, 2, true, true, 0x7FFF⟩) ∧
  decodeWord (1#1 ++ 0#3 ++ 0#1 ++ 0x210#11 ++ 0#1 ++ 0#4 ++ 0x041#11) = .ok (.vxAdd ⟨true, 0, false, false, 0x041⟩) ∧
  decodeWord (1#1 ++ 0#3 ++ 0#1 ++ 0x508#11 ++ 0#1 ++ 2#4 ++ 0x093#11) = .ok (.agLd ⟨true, 0, false, false, 0x1093⟩) ∧
  decodeWord (1#1 ++ 0#3 ++ 0#1 ++ 0x005#11 ++ 0#1 ++ 0#4 ++ 0x088#11) = .ok (.move ⟨true, 0, false, 5, false, 0x088⟩) ∧
  decodeWord (1#1 ++ 0#3 ++ 0#1 ++ 0x000#11 ++ 0#1 ++ 2#4 ++ 0x089#11) = .ok (.queueDrop ⟨true, 0, false, 0x089⟩) ∧
  decodeWord (0#1 ++ 1#4 ++ 0#3 ++ 0xABCDEF#24) = .ok (.limm ⟨false, 0xABCDEF⟩) ∧
  decodeWord (1#1 ++ 1#4 ++ 4#3 ++ 0#24) = .ok (.nop ⟨true, 0⟩) ∧
  decodeWord (0#1 ++ 1#4 ++ 5#3 ++ 0#24) = .error .reservedHint ∧
  decodeWord (1#1 ++ 0#3 ++ 0#1 ++ 0x130#11 ++ 0#1 ++ 0#4 ++ 0x001#11) = .error .reservedDest ∧
  (∃ o, portableOp 0x18 = some o ∧ o.trig = 0x120 ∧ o.a = some 0x100 ∧ o.t ∧ o.r = some 0x17D ∧
    decodePortable [0x18070102] = some (.op o 7 1 2 0, 1)) ∧
  (∀ n ∈ [0x28, 0xA7, 0xBE, 0xBF, 0xC0, 0xF5, 0xFC], portableOp n = none)

/-- Decode and encode agree (R126, R129 to R131, R146): every well-formed instruction has a word, which decodes to it from its four
bytes, whatever follows; and a word that decodes to an instruction is that instruction's. -/
def Obligations.EncodeDecode : Prop :=
  (∀ i : Instr, i.wf → ∃ w, encode i = some w ∧ decodeWord w = .ok i ∧ ∀ rest, decode (wordBytes w ++ rest) = .ok (i, rest)) ∧
  (∀ (w : IWord) (i : Instr), decodeWord w = .ok i → encode i = some w)

/-- Results leave the rest alone (R82, R148, R155): a group whose sole move starts a trigger of `al`, `md`, `vx` or `aa` changes
no byte and no tag of memory, no other core, no scratchpad byte, no register, latch or predicate, no queue where its source
is an immediate, and no flag, mode, accumulator or special register, before its results land. -/
def Obligations.FrameOfResults : Prop :=
  ∀ (i : Instr) p s x s1 g t, i.port = some p → unitOf p ∈ [some uAl, some uMd, some uVx, some uAa] → s.begins i = some (x, s1, g) →
    exec i s = .next t →
    let c := s.curCore
    let k := s.core c
    let m := t.core c
    (∀ a, t.memByte a = s.memByte a) ∧ (∀ n, t.memTag n = s.memTag n) ∧ (∀ d, d ≠ c → t.core d = s.core d) ∧
    (∀ o, m.spad.get 0 o = k.spad.get 0 o) ∧ (∀ n, m.stags.get 0 n = k.stags.get 0 n) ∧
    (∀ r, m.ctx.scalar r = k.ctx.scalar r ∧ m.ctx.vector r = k.ctx.vector r ∧ m.ctx.pred r = k.ctx.pred r) ∧
    (∀ w, i.trigW = some w → w.imm → m.ctx.queues = k.ctx.queues) ∧
    m.ctx.vflags = k.ctx.vflags ∧ m.ctx.priv = k.ctx.priv ∧ m.ctx.trapMuck = k.ctx.trapMuck ∧ m.ctx.lspace = k.ctx.lspace ∧
    m.ctx.ddspace = k.ctx.ddspace ∧ m.ctx.ddwt = k.ctx.ddwt ∧ m.ctx.bufs = k.ctx.bufs ∧ m.ctx.accs = k.ctx.accs ∧ m.slots = k.slots ∧
    m.bfmt = k.bfmt ∧ m.trapCause = k.trapCause ∧ m.trapVal = k.trapVal ∧ m.xpcSave = k.xpcSave ∧ m.apcSave = k.apcSave ∧
    m.tvec = k.tvec

/-- What a store changes (R94, R101, R102, R187). Served at its home, a store changes no byte outside those that it writes, a load
none at all, and an atomic none outside its word; no scratchpad and no register changes. A store word changes no byte of
memory when it issues, no other core's scratchpad, and of its own only the bytes that its address names. -/
def Obligations.FrameOfStores : Prop :=
  (∀ (s t : State) i r pa, s.reqs[i]? = some r → r.loc = .mem pa →
    (exec (.homeRequest i) s = .next t ∨ exec (.crossDieWriteApply i) s = .next t) →
    (∀ bs tg, r.kind = .store bs tg → ∀ a, a < pa ∨ pa + bs.length ≤ a → t.memByte a = s.memByte a) ∧
    (∀ j, r.kind = .load j → ∀ a, t.memByte a = s.memByte a) ∧
    (∀ c, (t.core c).spad = (s.core c).spad) ∧
    (∀ c p, (t.ctx c).scalar p = (s.ctx c).scalar p ∧ (t.ctx c).vector p = (s.ctx c).vector p ∧ (t.ctx c).pred p = (s.ctx c).pred p)) ∧
  (∀ (s t : State) k, exec (.atomicEngineGrant k) s = .next t → ∀ a,
    (∀ e ∈ s.atomicsAt k, ∀ pa, e.2.loc = .mem pa → ∀ op ty v vt cmp at_, e.2.kind = .atomic op ty v vt cmp at_ →
      a < pa ∨ pa + atWidth ty ≤ a) → t.memByte a = s.memByte a) ∧
  (∀ (w : TrigW) (s t : State) x s1 g, ∀ i ∈ ([.agSt w, .agSts w, .agStd w, .agStds w] : List Instr), s.begins i = some (x, s1, g) →
    exec i s = .next t →
    let c := s.curCore
    let ea := (x.latch s1 0x500).v + x.t.v
    let n := 2 ^ dfield (x.latch s1 0x503).v 6 4
    (∀ a, t.memByte a = s.memByte a) ∧ (∀ n, t.memTag n = s.memTag n) ∧ (∀ d, d ≠ c → (t.core d).spad = (s.core d).spad) ∧
    (∀ p, (t.ctx c).scalar p = (s.ctx c).scalar p ∧ (t.ctx c).vector p = (s.ctx c).vector p ∧ (t.ctx c).pred p = (s.ctx c).pred p) ∧
    (∀ o, (∀ q ∈ partsOf ea n, ∀ off, decodeAddr c (taskOf s1 c) q.1 = some (some (.spad c off)) → o < off ∨ off + q.2 ≤ o) →
      (t.core c).spad.get 0 o = (s.core c).spad.get 0 o))

/-- What reset leaves (R8, R49, R227, R354, R355, R364, R368, R380): memory and scratchpads zero with tag 0, no task, no partition,
every bank in PKRAW, accumulators empty, rings off, stacks whole, firmware not yet verified; memory has its canonical form.
The registers that are 0 without a rule that says so, and the life-cycle state, are the model's choice (log entries 6 and
16). -/
def Obligations.Reset : Prop :=
  let s := State.reset
  Memory.wf s.mem ∧ (∀ a, s.memByte a = 0) ∧ (∀ n, s.memTag n = 0 ∧ s.memStat n = .clean) ∧
  (∀ c, (s.core c).task = none ∧ (s.core c).halted = false ∧ (s.core c).resv = .idle ∧ (∀ o, (s.core c).spad.get 0 o = 0) ∧
    (∀ n, (s.core c).stags.get 0 n = 0) ∧ (∀ b, (s.core c).bfmtOf b = 0x100000000) ∧ (∀ i, ((s.core c).slot i).owner = .free) ∧
    (∀ i, ((s.ctx c).acc i).ae = none) ∧ (∀ r, (s.ctx c).scalar r = {} ∧ (s.ctx c).vector r = {} ∧ (s.ctx c).pred r = {}) ∧
    (∀ n, (s.ctx c).bufs.get {} n = {}) ∧ (s.core c).trapCause = 0 ∧ (s.core c).tvec = 0 ∧ (s.ctx c).priv = false) ∧
  (∀ p, s.hasPart p = false) ∧ s.evRing = {} ∧ s.telRing = {} ∧ s.bootStat = 1 ∧
  (∀ k, (s.stk k).capGib = 48 ∧ (s.stk k).mapped = false ∧ (s.stk k).state = 0) ∧ (∀ p, (s.port p).up = false)

/-- Every step keeps home memory, its tags and its error marks in canonical form, whatever agent makes it. The canonical form is the
model's choice of how it holds the bytes, tags and errors that R8, R100 and R368 give memory (log entry 48). -/
def Obligations.MemoryStaysCanonical : Prop :=
  ∀ s t : State, Memory.wf s.mem → NMap.wf (0 : Tag) s.mtags → NMap.wf GStat.clean s.mstat → step s = .next t →
    Memory.wf t.mem ∧ NMap.wf (0 : Tag) t.mtags ∧ NMap.wf GStat.clean t.mstat
end

