-- ==== Sys2Proof/Laws/Decode.lean ====
section
/-! SUPPORT. Trigger ports and words: which instruction stands at a port, and the fields of a packed word. -/

namespace Sys2Proof

open Machine

set_option maxRecDepth 10000
set_option maxHeartbeats 4000000 in
/-- The instruction at its own port (R146). -/
theorem ofPort_of_port {i : Instr} {p : Nat} {w : TrigW} (h1 : i.port = some p) (h2 : i.trigW = some w) :
    Instr.ofPort p w = some i := by
  cases i <;> first | (cases h1; done) | (cases h1; cases h2; rfl)

/-- Every unit's triggers stand at TBASE, TBASE + 1, … (R146), and carry the fields given. -/
theorem units_ports (w : TrigW) : ∀ u ∈ Instr.units w,
    u.2.map Instr.port = (List.range' u.1 u.2.length).map some ∧ u.2.map Instr.trigW = List.replicate u.2.length (some w) := by
  simp only [Instr.units, List.forall_mem_cons]
  exact ⟨⟨rfl, rfl⟩, ⟨rfl, rfl⟩, ⟨rfl, rfl⟩, ⟨rfl, rfl⟩, ⟨rfl, rfl⟩, ⟨rfl, rfl⟩, ⟨rfl, rfl⟩, ⟨rfl, rfl⟩, ⟨rfl, rfl⟩, ⟨rfl, rfl⟩,
    ⟨rfl, rfl⟩, ⟨rfl, rfl⟩, ⟨rfl, rfl⟩, by simp⟩

/-- What stands at a port has that port and those fields. -/
theorem port_of_ofPort {p : Nat} {w : TrigW} {i : Instr} (h : Instr.ofPort p w = some i) : i.port = some p ∧ i.trigW = some w := by
  obtain ⟨u, hu, h⟩ := List.exists_of_findSome?_eq_some h
  split at h
  · cases h
  · obtain ⟨h1, h2⟩ := units_ports w u hu
    obtain ⟨hl, h⟩ := List.getElem?_eq_some_iff.mp h
    have a := congrArg (fun l => l[p - u.1]?) h1
    have b := congrArg (fun l => l[p - u.1]?) h2
    simp [hl, h, List.getElem_range'] at a b
    exact ⟨by rw [a]; congr 1; omega, b⟩

set_option maxHeartbeats 4000000 in
/-- A trigger's port is a trigger port, and a destination. -/
theorem port_isTrigger {i : Instr} {p : Nat} (h : i.port = some p) :
    p < 2048 ∧ p ≠ 0 ∧ isTrigger p = true ∧ (dstPort p).isSome = true := by
  cases i <;> first | (cases h; done) | (cases h; decide)

set_option maxHeartbeats 4000000 in
/-- An instruction with a port has a trigger's fields. -/
theorem trigW_of_port {i : Instr} {p : Nat} (h : i.port = some p) : ∃ w, i.trigW = some w := by
  cases i <;> first | (cases h; done) | exact ⟨_, rfl⟩

/-- Nothing stands at a port that is no trigger port. -/
theorem ofPort_none {p : Nat} {w : TrigW} (h : isTrigger p = false) : Instr.ofPort p w = none := by
  rcases e : Instr.ofPort p w with _ | i
  · rfl
  · simpa [h] using (port_isTrigger (port_of_ofPort e).1).2.2.1

/-! ## Fields of a packed word -/

/-- Bit `k` of a packed move word (R126, Table 1). -/
theorem packMove_bit (s : Bool) (g : BitVec 3) (n : Bool) (d : Port) (i : Bool) (l : BitVec 15) (k : Nat) :
    (packMove s g n d i l).getLsbD k = if k < 15 then l.getLsbD k else if k < 16 then i else if k < 27 then d.getLsbD (k - 16)
      else if k < 28 then n else if k < 31 then g.getLsbD (k - 28) else k = 31 && s := by
  show @BitVec.getLsbD (1 + 3 + 1 + 11 + 1 + 15) (BitVec.ofBool s ++ g ++ BitVec.ofBool n ++ d ++ BitVec.ofBool i ++ l) k = _
  simp only [BitVec.getLsbD_append, BitVec.getLsbD_ofBool]
  split_ifs <;> try first | rfl | omega
  · simp [show k - 15 = 0 by omega]
  · simp [show k - 15 - 1 - 11 = 0 by omega]
  · simp only [show (k - 15 - 1 - 11 - 1 - 3 = 0) = (k = 31) by apply propext; omega]

theorem packMove_fields (s : Bool) (g : BitVec 3) (n : Bool) (d : Port) (i : Bool) (l : BitVec 15) :
    wordS (packMove s g n d i l) = s ∧ wordG (packMove s g n d i l) = g ∧ wordN (packMove s g n d i l) = n
      ∧ wordDst (packMove s g n d i l) = d ∧ wordI (packMove s g n d i l) = i ∧ wordLow (packMove s g n d i l) = l := by
  unfold wordS wordG wordN wordDst wordI wordLow
  refine ⟨?_, ?_, ?_, ?_, ?_, ?_⟩
  · rw [packMove_bit]; simp
  · apply BitVec.eq_of_getLsbD_eq; intro k hk; rw [BitVec.getLsbD_extractLsb', packMove_bit]
    simp [hk, show ¬ 28 + k < 15 by omega, show ¬ 28 + k < 16 by omega, show ¬ 28 + k < 27 by omega, show 28 + k < 31 by omega]
  · rw [packMove_bit]; simp
  · apply BitVec.eq_of_getLsbD_eq; intro k hk; rw [BitVec.getLsbD_extractLsb', packMove_bit]
    simp [hk, show ¬ 16 + k < 15 by omega, show 16 + k < 27 by omega]
  · rw [packMove_bit]; simp
  · apply BitVec.eq_of_getLsbD_eq; intro k hk; rw [BitVec.getLsbD_extractLsb', packMove_bit]
    simp [hk]

/-- A word is the packing of its fields. -/
theorem packMove_word (w : IWord) : packMove (wordS w) (wordG w) (wordN w) (wordDst w) (wordI w) (wordLow w) = w := by
  apply BitVec.eq_of_getLsbD_eq; intro k hk
  rw [packMove_bit]
  unfold wordS wordG wordN wordDst wordI wordLow
  simp only [BitVec.getLsbD_extractLsb']
  split_ifs with h1 h2 h3 h4 h5
  · simp [h1]
  · congr 1; omega
  · simp [show k - 16 < 11 by omega, show 16 + (k - 16) = k by omega]
  · congr 1; omega
  · simp [show k - 28 < 3 by omega, show 28 + (k - 28) = k by omega]
  · have : k = 31 := by omega
    simp [this]

/-- Bit `k` of a packed hint word (R131, Table 4). -/
theorem packHint_bit (s : Bool) (c : BitVec 3) (p : BitVec 24) (k : Nat) :
    (packHint s c p).getLsbD k = if k < 24 then p.getLsbD k else if k < 27 then c.getLsbD (k - 24) else
      if k < 31 then k = 27 else k = 31 && s := by
  show @BitVec.getLsbD (1 + 4 + 3 + 24) (BitVec.ofBool s ++ (1#4) ++ c ++ p) k = _
  simp only [BitVec.getLsbD_append, BitVec.getLsbD_ofBool]
  split_ifs <;> try first | rfl | omega
  · rcases (by omega : k = 27 ∨ k = 28 ∨ k = 29 ∨ k = 30) with h | h | h | h <;> subst h <;> rfl
  · simp only [show (k - 24 - 3 - 4 = 0) = (k = 31) by apply propext; omega]

theorem packHint_fields (s : Bool) (c : BitVec 3) (p : BitVec 24) :
    wordS (packHint s c p) = s ∧ wordG (packHint s c p) = 0 ∧ wordN (packHint s c p) = true
      ∧ wordKind (packHint s c p) = c.toNat ∧ wordPay (packHint s c p) = p := by
  unfold wordS wordG wordN wordKind wordPay
  refine ⟨?_, ?_, ?_, ?_, ?_⟩
  · rw [packHint_bit]; simp
  · apply BitVec.eq_of_getLsbD_eq; intro k hk; rw [BitVec.getLsbD_extractLsb', packHint_bit]
    simp [hk, show ¬ 28 + k < 24 by omega, show ¬ 28 + k < 27 by omega, show 28 + k < 31 by omega]
    intro h; omega
  · rw [packHint_bit]; simp
  · congr 1
    apply BitVec.eq_of_getLsbD_eq; intro k hk; rw [BitVec.getLsbD_extractLsb', packHint_bit]
    simp [hk, show ¬ 24 + k < 24 by omega, show 24 + k < 27 by omega]
  · apply BitVec.eq_of_getLsbD_eq; intro k hk; rw [BitVec.getLsbD_extractLsb', packHint_bit]
    simp [hk]

/-- A word whose guard field marks a hint is the packing of its fields. -/
theorem packHint_word (w : IWord) (h : hintGuard (wordG w) (wordN w) = true) :
    packHint (wordS w) (BitVec.ofNat 3 (wordKind w)) (wordPay w) = w := by
  simp only [hintGuard, Bool.and_eq_true, beq_iff_eq] at h
  obtain ⟨hg, hn⟩ := h
  have hg (k : Nat) (hk : k < 3) : w.getLsbD (28 + k) = false := by
    have := congrArg (fun v => v.getLsbD k) hg
    simpa [wordG, hk] using this
  apply BitVec.eq_of_getLsbD_eq; intro k hk
  rw [packHint_bit]
  unfold wordS wordKind wordPay
  split_ifs with h1 h2 h3
  · simp [h1]
  · rw [BitVec.ofNat_toNat, BitVec.setWidth_eq, BitVec.getLsbD_extractLsb']
    simp [show k - 24 < 3 by omega, show 24 + (k - 24) = k by omega]
  · rcases (by omega : k = 27 ∨ k = 28 ∨ k = 29 ∨ k = 30) with e | e | e | e <;> subst e
    · simpa [wordN] using hn.symm
    · simpa using (hg 0 (by omega)).symm
    · simpa using (hg 1 (by omega)).symm
    · simpa using (hg 2 (by omega)).symm
  · have : k = 31 := by omega
    simp [this]

/-- A word's bytes give it back. -/
theorem wordOfBytes_wordBytes (w : IWord) :
    wordOfBytes (w.extractLsb' 0 8) (w.extractLsb' 8 8) (w.extractLsb' 16 8) (w.extractLsb' 24 8) = w := by
  unfold wordOfBytes
  apply BitVec.eq_of_getLsbD_eq; intro k hk
  show @BitVec.getLsbD (8 + 8 + 8 + 8) (_ ++ _ ++ _ ++ _) k = _
  simp only [BitVec.getLsbD_append, BitVec.getLsbD_extractLsb']
  split_ifs
  · simp [*]
  · simp [*, show 8 + (k - 8) = k by omega]
  · simp [*, show 16 + (k - 8 - 8) = k by omega]
  · simp [show k - 8 - 8 - 8 < 8 by omega, show 24 + (k - 8 - 8 - 8) = k by omega]

end Sys2Proof
end

