-- ==== Sys2Proof/Laws/Store.lean ====
section
/-! SUPPORT. What the sparse store promises: reading after writing, and that its operations keep the canonical form. -/

namespace Sys2Proof.Machine

variable {α : Type}

/-! ## Reading after writing -/

theorem NMap.get_put_self (d v : α) (m : NMap α) (k : Nat) : (m.put v k).get d k = v := by
  induction m with
  | nil => simp [NMap.put, NMap.get]
  | cons e m ih =>
    obtain ⟨i, w⟩ := e
    simp only [NMap.put]
    split
    · simp_all [NMap.get]
    · split
      · simp [NMap.get]
      · simp_all [NMap.get]

theorem NMap.get_put_ne (d v : α) (m : NMap α) {k j : Nat} (h : j ≠ k) : (m.put v k).get d j = m.get d j := by
  induction m with
  | nil => simp [NMap.put, NMap.get]; intro h'; omega
  | cons e m ih =>
    obtain ⟨i, w⟩ := e
    simp only [NMap.put]
    split
    · subst i; simp only [NMap.get]; rw [if_neg (Ne.symm h), if_neg (Ne.symm h)]
    · split
      · simp only [NMap.get]
        rw [if_neg (Ne.symm h)]
        by_cases hj : j < k
        · rw [if_pos hj]; split <;> [omega; rw [if_pos (by omega)]]
        · rw [if_neg hj]
      · simp [NMap.get, ih]

theorem NMap.get_filter_above (d : α) (m : NMap α) {k j : Nat} (h : k < j) :
    NMap.get d (m.filter fun e => k < e.1) j = m.get d j := by
  induction m with
  | nil => rfl
  | cons e m ih =>
    obtain ⟨i, w⟩ := e
    by_cases hi : k < i
    · simp [hi, NMap.get, ih]
    · simp only [List.filter_cons, hi, decide_false, Bool.false_eq_true, if_false, NMap.get, ih]
      rw [if_neg (by omega), if_neg (by omega)]

theorem NMap.get_filter_below (d : α) (m : NMap α) {k j : Nat} (h : j ≤ k) :
    NMap.get d (m.filter fun e => k < e.1) j = d := by
  induction m with
  | nil => rfl
  | cons e m ih =>
    obtain ⟨i, w⟩ := e
    by_cases hi : k < i
    · simp only [List.filter_cons, hi, decide_true, if_true, NMap.get]
      rw [if_neg (by omega), if_pos (by omega)]
    · simp only [List.filter_cons, hi, decide_false, Bool.false_eq_true, if_false, ih]

theorem NMap.get_erase_self (d : α) (m : NMap α) (k : Nat) : (m.erase k).get d k = d := by
  induction m with
  | nil => rfl
  | cons e m ih =>
    obtain ⟨i, w⟩ := e
    simp only [NMap.erase]
    split
    · exact NMap.get_filter_below d m (le_refl k)
    · split
      · simp_all [NMap.get]
      · simp_all [NMap.get]

theorem NMap.get_erase_ne (d : α) (m : NMap α) {k j : Nat} (h : j ≠ k) : (m.erase k).get d j = m.get d j := by
  induction m with
  | nil => rfl
  | cons e m ih =>
    obtain ⟨i, w⟩ := e
    simp only [NMap.erase]
    split
    · subst i
      simp only [NMap.get]
      rw [if_neg (Ne.symm h)]
      by_cases hj : j < k
      · rw [if_pos hj, NMap.get_filter_below d m (by omega)]
      · rw [if_neg hj, NMap.get_filter_above d m (by omega)]
    · split
      · rfl
      · simp [NMap.get, ih]

variable [DecidableEq α]

@[simp] theorem NMap.get_set_self (d : α) (m : NMap α) (k : Nat) (v : α) : (m.set d k v).get d k = v := by
  unfold NMap.set
  split
  · rw [NMap.get_erase_self]; exact Eq.symm ‹_›
  · exact NMap.get_put_self d v m k

theorem NMap.get_set_ne (d : α) (m : NMap α) (v : α) {k j : Nat} (h : j ≠ k) :
    (m.set d k v).get d j = m.get d j := by
  unfold NMap.set
  split
  · exact NMap.get_erase_ne d m h
  · exact NMap.get_put_ne d v m h

theorem NMap.get_set (d : α) (m : NMap α) (k j : Nat) (v : α) :
    (m.set d k v).get d j = if j = k then v else m.get d j := by
  split
  · subst j; exact NMap.get_set_self d m k v
  · exact NMap.get_set_ne d m v ‹_›

theorem NMap.get_setList (d : α) (m : NMap α) (k j : Nat) (xs : List α) :
    (m.setList d k xs).get d j = if h : k ≤ j ∧ j - k < xs.length then xs[j - k] else m.get d j := by
  induction xs generalizing m k with
  | nil => simp [NMap.setList]
  | cons x xs ih =>
    simp only [NMap.setList, ih, NMap.get_set]
    by_cases hk : j = k
    · subst j; simp
    · by_cases h : k + 1 ≤ j ∧ j - (k + 1) < xs.length
      · have h' : k ≤ j ∧ j - k < (x :: xs).length := by simp only [List.length_cons]; omega
        rw [dif_pos h, dif_pos h']
        obtain ⟨n, hn⟩ : ∃ n, j - k = n + 1 := ⟨j - k - 1, by omega⟩
        have hn' : j - (k + 1) = n := by omega
        simp [hn, hn']
      · rw [dif_neg h, if_neg hk, dif_neg (by simp only [List.length_cons]; omega)]

/-- Bytes outside the range that is written read as before. -/
theorem NMap.get_setList_outside (d : α) (m : NMap α) {k j : Nat} (xs : List α) (h : j < k ∨ k + xs.length ≤ j) :
    (m.setList d k xs).get d j = m.get d j := by
  rw [NMap.get_setList, dif_neg (by omega)]

/-- What was written is read back. -/
theorem NMap.getList_setList (d : α) (m : NMap α) (k : Nat) (xs : List α) :
    NMap.getList d (m.setList d k xs) k xs.length = xs := by
  apply List.ext_getElem
  · simp [NMap.getList]
  · intro i h1 h2
    simp [NMap.getList, NMap.get_setList, h2]

/-! ## The canonical form -/

omit [DecidableEq α] in
theorem NMap.above_iff (k : Nat) (m : NMap α) :
    m.above k = true ↔ (∀ e ∈ m, k < e.1) ∧ m.Pairwise fun e f => e.1 < f.1 := by
  induction m generalizing k with
  | nil => simp [NMap.above]
  | cons e m ih =>
    obtain ⟨i, v⟩ := e
    simp only [NMap.above, Bool.and_eq_true, decide_eq_true_eq, ih, List.mem_cons, forall_eq_or_imp, List.pairwise_cons]
    constructor
    · rintro ⟨h, h1, h2⟩; exact ⟨⟨h, fun e he => Nat.lt_trans h (h1 e he)⟩, h1, h2⟩
    · rintro ⟨⟨h, -⟩, h1, h2⟩; exact ⟨h, h1, h2⟩

omit [DecidableEq α] in
theorem NMap.rising_iff (m : NMap α) : m.rising = true ↔ m.Pairwise fun e f => e.1 < f.1 := by
  cases m with
  | nil => simp [NMap.rising]
  | cons e m =>
    obtain ⟨i, v⟩ := e
    simp only [NMap.rising, Bool.and_eq_true, NMap.above_iff, List.pairwise_cons]
    constructor
    · rintro ⟨⟨h1, h2⟩, -⟩; exact ⟨h1, h2⟩
    · rintro ⟨h1, h2⟩; exact ⟨⟨h1, h2⟩, (by
        cases m with
        | nil => rfl
        | cons f m =>
          obtain ⟨j, w⟩ := f
          have := (List.pairwise_cons.mp h2)
          simp only [NMap.rising, Bool.and_eq_true, NMap.above_iff]
          exact ⟨⟨this.1, this.2⟩, by
            have h3 : ∀ l : NMap α, (l.Pairwise fun e f => e.1 < f.1) → l.rising = true := by
              intro l hl
              induction l with
              | nil => rfl
              | cons e l ih =>
                obtain ⟨a, b⟩ := e
                have h4 := List.pairwise_cons.mp hl
                simp only [NMap.rising, Bool.and_eq_true, NMap.above_iff]
                exact ⟨⟨h4.1, h4.2⟩, ih h4.2⟩
            exact h3 m this.2⟩)⟩

theorem NMap.clean_iff (d : α) (m : NMap α) : m.clean d = true ↔ ∀ e ∈ m, e.2 ≠ d := by
  induction m with
  | nil => simp [NMap.clean]
  | cons e m ih => obtain ⟨i, v⟩ := e; simp [NMap.clean, ih]

/-- The canonical form, read from a list: keys rise, and no entry holds the default. -/
theorem NMap.wf_iff (d : α) (m : NMap α) :
    NMap.wf d m = true ↔ (m.Pairwise fun e f => e.1 < f.1) ∧ ∀ e ∈ m, e.2 ≠ d := by
  simp [NMap.wf, NMap.rising_iff, NMap.clean_iff]

theorem NMap.wf_nil (d : α) : NMap.wf d ([] : NMap α) = true := rfl

theorem NMap.wf_filter (d : α) (m : NMap α) (p : Nat × α → Bool) (h : NMap.wf d m = true) :
    NMap.wf d (m.filter p) = true := by
  rw [NMap.wf_iff] at *
  exact ⟨h.1.filter p, fun e he => h.2 e (List.mem_of_mem_filter he)⟩

omit [DecidableEq α] in
theorem NMap.mem_erase {m : NMap α} {k : Nat} {e : Nat × α} (h : e ∈ m.erase k) : e ∈ m := by
  induction m with
  | nil => simp [NMap.erase] at h
  | cons f m ih =>
    obtain ⟨i, v⟩ := f
    simp only [NMap.erase] at h
    split at h
    · exact List.mem_cons_of_mem _ (List.mem_of_mem_filter h)
    · split at h
      · exact h
      · rcases List.mem_cons.mp h with h | h
        · exact h ▸ List.mem_cons_self
        · exact List.mem_cons_of_mem _ (ih h)

theorem NMap.wf_erase (d : α) (m : NMap α) (k : Nat) (h : NMap.wf d m = true) : NMap.wf d (m.erase k) = true := by
  rw [NMap.wf_iff] at *
  refine ⟨?_, fun e he => h.2 e (NMap.mem_erase he)⟩
  have h1 := h.1
  clear h
  induction m with
  | nil => simp [NMap.erase]
  | cons f m ih =>
    obtain ⟨i, v⟩ := f
    have h2 := List.pairwise_cons.mp h1
    simp only [NMap.erase]
    split
    · exact h2.2.filter _
    · split
      · exact h1
      · exact List.pairwise_cons.mpr ⟨fun e he => h2.1 e (NMap.mem_erase he), ih h2.2⟩

omit [DecidableEq α] in
theorem NMap.mem_put {m : NMap α} {k : Nat} {v : α} {e : Nat × α} (h : e ∈ m.put v k) : e = (k, v) ∨ e ∈ m := by
  induction m with
  | nil => simpa [NMap.put] using h
  | cons f m ih =>
    obtain ⟨i, w⟩ := f
    simp only [NMap.put] at h
    split at h
    · subst i; rcases List.mem_cons.mp h with h | h
      · exact .inl h
      · exact .inr (List.mem_cons_of_mem _ h)
    · split at h
      · rcases List.mem_cons.mp h with h | h
        · exact .inl h
        · exact .inr h
      · rcases List.mem_cons.mp h with h | h
        · exact .inr (h ▸ List.mem_cons_self)
        · rcases ih h with h | h
          · exact .inl h
          · exact .inr (List.mem_cons_of_mem _ h)

theorem NMap.wf_put (d v : α) (m : NMap α) (k : Nat) (hv : v ≠ d) (h : NMap.wf d m = true) :
    NMap.wf d (m.put v k) = true := by
  rw [NMap.wf_iff] at *
  refine ⟨?_, fun e he => by
    rcases NMap.mem_put he with he | he
    · subst e; exact hv
    · exact h.2 e he⟩
  have h1 := h.1
  clear h
  induction m with
  | nil => simp [NMap.put]
  | cons f m ih =>
    obtain ⟨i, w⟩ := f
    have h2 := List.pairwise_cons.mp h1
    simp only [NMap.put]
    split
    · subst i; exact List.pairwise_cons.mpr ⟨fun e he => h2.1 e he, h2.2⟩
    · split
      · refine List.pairwise_cons.mpr ⟨fun e he => ?_, h1⟩
        rcases List.mem_cons.mp he with he | he
        · subst e; assumption
        · exact Nat.lt_trans ‹k < i› (h2.1 e he)
      · refine List.pairwise_cons.mpr ⟨fun e he => ?_, ih h2.2⟩
        rcases NMap.mem_put he with he | he
        · subst e; simp only; omega
        · exact h2.1 e he

/-- Writing one value keeps the canonical form. -/
theorem NMap.wf_set (d : α) (m : NMap α) (k : Nat) (v : α) (h : NMap.wf d m = true) :
    NMap.wf d (m.set d k v) = true := by
  unfold NMap.set
  split
  · exact NMap.wf_erase d m k h
  · exact NMap.wf_put d v m k ‹_› h

/-- Writing a range keeps the canonical form. -/
theorem NMap.wf_setList (d : α) (m : NMap α) (k : Nat) (xs : List α) (h : NMap.wf d m = true) :
    NMap.wf d (m.setList d k xs) = true := by
  induction xs generalizing m k with
  | nil => exact h
  | cons x xs ih => exact ih _ _ (NMap.wf_set d m k x h)

/-- Changing one value keeps the canonical form. -/
theorem NMap.wf_upd (d : α) (m : NMap α) (k : Nat) (f : α → α) (h : NMap.wf d m = true) :
    NMap.wf d (m.upd d k f) = true := NMap.wf_set d m k _ h

/-- An entry of the upper map, or what lies below. -/
theorem NMap.get_over (d : α) (m x : NMap α) (j : Nat) :
    (m.over d x).get d j = ((x.find? fun e => e.1 = j).map (·.2)).getD (m.get d j) := by
  induction x with
  | nil => rfl
  | cons e x ih =>
    by_cases h : e.1 = j
    · simp [NMap.over, h]
    · have h' : ¬ j = e.1 := fun x => h x.symm
      simpa [NMap.over, NMap.get_set, h, h'] using ih

/-- Laying one map over another keeps the canonical form. -/
theorem NMap.wf_over (d : α) (m x : NMap α) (h : NMap.wf d m = true) : NMap.wf d (m.over d x) = true := by
  induction x with
  | nil => exact h
  | cons e x ih => exact NMap.wf_set d _ e.1 e.2 ih

/-- A store that holds only what differs from the default, at rising keys, is canonical. -/
theorem NMap.wf_ofFn (d : α) (base n : Nat) (f : Nat → α) : NMap.wf d (NMap.ofFn d base n f) = true := by
  rw [NMap.wf_iff]
  constructor
  · unfold NMap.ofFn
    refine List.Pairwise.filterMap _ ?_ List.pairwise_lt_range
    intro a b hab x hx y hy
    by_cases h1 : f a = d <;> by_cases h2 : f b = d <;> simp_all
    subst hx hy
    simpa using hab
  · intro e he
    simp only [NMap.ofFn, List.mem_filterMap] at he
    obtain ⟨i, -, hi⟩ := he
    split at hi
    · simp at hi
    · simp at hi; subst hi; assumption

/-! ## Home memory -/

theorem Memory.wf_write (s : State) (pa : Nat) (bs : List Byte) (h : Memory.wf s.mem = true) :
    Memory.wf (s.memWrite pa bs).mem = true := NMap.wf_setList memDefault s.mem pa bs h

/-- Every byte outside the range written reads as before. -/
theorem State.memByte_memWrite_outside (s : State) (pa a : Nat) (bs : List Byte) (h : a < pa ∨ pa + bs.length ≤ a) :
    (s.memWrite pa bs).memByte a = s.memByte a := NMap.get_setList_outside memDefault s.mem bs h

/-- The range written reads back as it was written. -/
theorem State.memRead_memWrite (s : State) (pa : Nat) (bs : List Byte) : (s.memWrite pa bs).memRead pa bs.length = bs :=
  NMap.getList_setList memDefault s.mem pa bs

end Sys2Proof.Machine
end

