-- ==== Sys2Proof/Laws/State.lean ====
section
/-! SUPPORT. What each named update of the state leaves alone, field by field, and what an accessor reads after it. -/

namespace Sys2Proof.Machine

/-! ## Updates of the whole state -/

@[simp] theorem State.setCore_now (s : State) (c : Nat) (k : Core) : (s.setCore c k).now = s.now := rfl
@[simp] theorem State.setCore_fresh (s : State) (c : Nat) (k : Core) : (s.setCore c k).fresh = s.fresh := rfl
@[simp] theorem State.setCore_oracle (s : State) (c : Nat) (k : Core) : (s.setCore c k).oracle = s.oracle := rfl
@[simp] theorem State.setCore_agenda (s : State) (c : Nat) (k : Core) : (s.setCore c k).agenda = s.agenda := rfl
@[simp] theorem State.setCore_wait (s : State) (c : Nat) (k : Core) : (s.setCore c k).wait = s.wait := rfl
@[simp] theorem State.setCore_curCore (s : State) (c : Nat) (k : Core) : (s.setCore c k).curCore = s.curCore := rfl
@[simp] theorem State.setCore_curHalf (s : State) (c : Nat) (k : Core) : (s.setCore c k).curHalf = s.curHalf := rfl
@[simp] theorem State.setCore_mem (s : State) (c : Nat) (k : Core) : (s.setCore c k).mem = s.mem := rfl
@[simp] theorem State.setCore_mtags (s : State) (c : Nat) (k : Core) : (s.setCore c k).mtags = s.mtags := rfl
@[simp] theorem State.setCore_mstat (s : State) (c : Nat) (k : Core) : (s.setCore c k).mstat = s.mstat := rfl
@[simp] theorem State.setCore_mkeys (s : State) (c : Nat) (k : Core) : (s.setCore c k).mkeys = s.mkeys := rfl
@[simp] theorem State.setCore_parts (s : State) (c : Nat) (k : Core) : (s.setCore c k).parts = s.parts := rfl
@[simp] theorem State.setCore_clusters (s : State) (c : Nat) (k : Core) : (s.setCore c k).clusters = s.clusters := rfl
@[simp] theorem State.setCore_dies (s : State) (c : Nat) (k : Core) : (s.setCore c k).dies = s.dies := rfl
@[simp] theorem State.setCore_hbm (s : State) (c : Nat) (k : Core) : (s.setCore c k).hbm = s.hbm := rfl
@[simp] theorem State.setCore_ports (s : State) (c : Nat) (k : Core) : (s.setCore c k).ports = s.ports := rfl
@[simp] theorem State.setCore_reqs (s : State) (c : Nat) (k : Core) : (s.setCore c k).reqs = s.reqs := rfl
@[simp] theorem State.setCore_gone (s : State) (c : Nat) (k : Core) : (s.setCore c k).gone = s.gone := rfl
@[simp] theorem State.setCore_refusals (s : State) (c : Nat) (k : Core) : (s.setCore c k).refusals = s.refusals := rfl
@[simp] theorem State.setCore_replies (s : State) (c : Nat) (k : Core) : (s.setCore c k).replies = s.replies := rfl
@[simp] theorem State.setCore_bsums (s : State) (c : Nat) (k : Core) : (s.setCore c k).bsums = s.bsums := rfl
@[simp] theorem State.setCore_bsumBuf (s : State) (c : Nat) (k : Core) : (s.setCore c k).bsumBuf = s.bsumBuf := rfl
@[simp] theorem State.setCore_msgs (s : State) (c : Nat) (k : Core) : (s.setCore c k).msgs = s.msgs := rfl
@[simp] theorem State.setCore_nextId (s : State) (c : Nat) (k : Core) : (s.setCore c k).nextId = s.nextId := rfl
@[simp] theorem State.setCore_evictions (s : State) (c : Nat) (k : Core) : (s.setCore c k).evictions = s.evictions := rfl
@[simp] theorem State.setCore_evRing (s : State) (c : Nat) (k : Core) : (s.setCore c k).evRing = s.evRing := rfl
@[simp] theorem State.setCore_evWait (s : State) (c : Nat) (k : Core) : (s.setCore c k).evWait = s.evWait := rfl
@[simp] theorem State.setCore_evLost (s : State) (c : Nat) (k : Core) : (s.setCore c k).evLost = s.evLost := rfl
@[simp] theorem State.setCore_telRing (s : State) (c : Nat) (k : Core) : (s.setCore c k).telRing = s.telRing := rfl
@[simp] theorem State.setCore_host (s : State) (c : Nat) (k : Core) : (s.setCore c k).host = s.host := rfl
@[simp] theorem State.setCore_monitors (s : State) (c : Nat) (k : Core) : (s.setCore c k).monitors = s.monitors := rfl
@[simp] theorem State.setCore_bootStat (s : State) (c : Nat) (k : Core) : (s.setCore c k).bootStat = s.bootStat := rfl
@[simp] theorem State.setCore_meas (s : State) (c : Nat) (k : Core) : (s.setCore c k).meas = s.meas := rfl
@[simp] theorem State.setCore_quote (s : State) (c : Nat) (k : Core) : (s.setCore c k).quote = s.quote := rfl
@[simp] theorem State.setCore_life (s : State) (c : Nat) (k : Core) : (s.setCore c k).life = s.life := rfl
@[simp] theorem State.setCore_keyGen (s : State) (c : Nat) (k : Core) : (s.setCore c k).keyGen = s.keyGen := rfl
@[simp] theorem State.setCore_fuseEd (s : State) (c : Nat) (k : Core) : (s.setCore c k).fuseEd = s.fuseEd := rfl
@[simp] theorem State.setCore_fuseMl (s : State) (c : Nat) (k : Core) : (s.setCore c k).fuseMl = s.fuseMl := rfl
@[simp] theorem State.setCore_devId (s : State) (c : Nat) (k : Core) : (s.setCore c k).devId = s.devId := rfl
@[simp] theorem State.setCore_dbgVal (s : State) (c : Nat) (k : Core) : (s.setCore c k).dbgVal = s.dbgVal := rfl
@[simp] theorem State.setCore_dbgTag (s : State) (c : Nat) (k : Core) : (s.setCore c k).dbgTag = s.dbgTag := rfl
@[simp] theorem State.setCore_outRead (s : State) (c : Nat) (k : Core) : (s.setCore c k).outRead = s.outRead := rfl
@[simp] theorem State.setCore_outErr (s : State) (c : Nat) (k : Core) : (s.setCore c k).outErr = s.outErr := rfl
@[simp] theorem State.updCore_now (s : State) (c : Nat) (f : Core → Core) : (s.updCore c f).now = s.now := rfl
@[simp] theorem State.updCore_fresh (s : State) (c : Nat) (f : Core → Core) : (s.updCore c f).fresh = s.fresh := rfl
@[simp] theorem State.updCore_oracle (s : State) (c : Nat) (f : Core → Core) : (s.updCore c f).oracle = s.oracle := rfl
@[simp] theorem State.updCore_agenda (s : State) (c : Nat) (f : Core → Core) : (s.updCore c f).agenda = s.agenda := rfl
@[simp] theorem State.updCore_wait (s : State) (c : Nat) (f : Core → Core) : (s.updCore c f).wait = s.wait := rfl
@[simp] theorem State.updCore_curCore (s : State) (c : Nat) (f : Core → Core) : (s.updCore c f).curCore = s.curCore := rfl
@[simp] theorem State.updCore_curHalf (s : State) (c : Nat) (f : Core → Core) : (s.updCore c f).curHalf = s.curHalf := rfl
@[simp] theorem State.updCore_mem (s : State) (c : Nat) (f : Core → Core) : (s.updCore c f).mem = s.mem := rfl
@[simp] theorem State.updCore_mtags (s : State) (c : Nat) (f : Core → Core) : (s.updCore c f).mtags = s.mtags := rfl
@[simp] theorem State.updCore_mstat (s : State) (c : Nat) (f : Core → Core) : (s.updCore c f).mstat = s.mstat := rfl
@[simp] theorem State.updCore_mkeys (s : State) (c : Nat) (f : Core → Core) : (s.updCore c f).mkeys = s.mkeys := rfl
@[simp] theorem State.updCore_parts (s : State) (c : Nat) (f : Core → Core) : (s.updCore c f).parts = s.parts := rfl
@[simp] theorem State.updCore_clusters (s : State) (c : Nat) (f : Core → Core) : (s.updCore c f).clusters = s.clusters := rfl
@[simp] theorem State.updCore_dies (s : State) (c : Nat) (f : Core → Core) : (s.updCore c f).dies = s.dies := rfl
@[simp] theorem State.updCore_hbm (s : State) (c : Nat) (f : Core → Core) : (s.updCore c f).hbm = s.hbm := rfl
@[simp] theorem State.updCore_ports (s : State) (c : Nat) (f : Core → Core) : (s.updCore c f).ports = s.ports := rfl
@[simp] theorem State.updCore_reqs (s : State) (c : Nat) (f : Core → Core) : (s.updCore c f).reqs = s.reqs := rfl
@[simp] theorem State.updCore_gone (s : State) (c : Nat) (f : Core → Core) : (s.updCore c f).gone = s.gone := rfl
@[simp] theorem State.updCore_refusals (s : State) (c : Nat) (f : Core → Core) : (s.updCore c f).refusals = s.refusals := rfl
@[simp] theorem State.updCore_replies (s : State) (c : Nat) (f : Core → Core) : (s.updCore c f).replies = s.replies := rfl
@[simp] theorem State.updCore_bsums (s : State) (c : Nat) (f : Core → Core) : (s.updCore c f).bsums = s.bsums := rfl
@[simp] theorem State.updCore_bsumBuf (s : State) (c : Nat) (f : Core → Core) : (s.updCore c f).bsumBuf = s.bsumBuf := rfl
@[simp] theorem State.updCore_msgs (s : State) (c : Nat) (f : Core → Core) : (s.updCore c f).msgs = s.msgs := rfl
@[simp] theorem State.updCore_nextId (s : State) (c : Nat) (f : Core → Core) : (s.updCore c f).nextId = s.nextId := rfl
@[simp] theorem State.updCore_evictions (s : State) (c : Nat) (f : Core → Core) : (s.updCore c f).evictions = s.evictions := rfl
@[simp] theorem State.updCore_evRing (s : State) (c : Nat) (f : Core → Core) : (s.updCore c f).evRing = s.evRing := rfl
@[simp] theorem State.updCore_evWait (s : State) (c : Nat) (f : Core → Core) : (s.updCore c f).evWait = s.evWait := rfl
@[simp] theorem State.updCore_evLost (s : State) (c : Nat) (f : Core → Core) : (s.updCore c f).evLost = s.evLost := rfl
@[simp] theorem State.updCore_telRing (s : State) (c : Nat) (f : Core → Core) : (s.updCore c f).telRing = s.telRing := rfl
@[simp] theorem State.updCore_host (s : State) (c : Nat) (f : Core → Core) : (s.updCore c f).host = s.host := rfl
@[simp] theorem State.updCore_monitors (s : State) (c : Nat) (f : Core → Core) : (s.updCore c f).monitors = s.monitors := rfl
@[simp] theorem State.updCore_bootStat (s : State) (c : Nat) (f : Core → Core) : (s.updCore c f).bootStat = s.bootStat := rfl
@[simp] theorem State.updCore_meas (s : State) (c : Nat) (f : Core → Core) : (s.updCore c f).meas = s.meas := rfl
@[simp] theorem State.updCore_quote (s : State) (c : Nat) (f : Core → Core) : (s.updCore c f).quote = s.quote := rfl
@[simp] theorem State.updCore_life (s : State) (c : Nat) (f : Core → Core) : (s.updCore c f).life = s.life := rfl
@[simp] theorem State.updCore_keyGen (s : State) (c : Nat) (f : Core → Core) : (s.updCore c f).keyGen = s.keyGen := rfl
@[simp] theorem State.updCore_fuseEd (s : State) (c : Nat) (f : Core → Core) : (s.updCore c f).fuseEd = s.fuseEd := rfl
@[simp] theorem State.updCore_fuseMl (s : State) (c : Nat) (f : Core → Core) : (s.updCore c f).fuseMl = s.fuseMl := rfl
@[simp] theorem State.updCore_devId (s : State) (c : Nat) (f : Core → Core) : (s.updCore c f).devId = s.devId := rfl
@[simp] theorem State.updCore_dbgVal (s : State) (c : Nat) (f : Core → Core) : (s.updCore c f).dbgVal = s.dbgVal := rfl
@[simp] theorem State.updCore_dbgTag (s : State) (c : Nat) (f : Core → Core) : (s.updCore c f).dbgTag = s.dbgTag := rfl
@[simp] theorem State.updCore_outRead (s : State) (c : Nat) (f : Core → Core) : (s.updCore c f).outRead = s.outRead := rfl
@[simp] theorem State.updCore_outErr (s : State) (c : Nat) (f : Core → Core) : (s.updCore c f).outErr = s.outErr := rfl
@[simp] theorem State.updCtx_now (s : State) (c : Nat) (f : Ctx → Ctx) : (s.updCtx c f).now = s.now := rfl
@[simp] theorem State.updCtx_fresh (s : State) (c : Nat) (f : Ctx → Ctx) : (s.updCtx c f).fresh = s.fresh := rfl
@[simp] theorem State.updCtx_oracle (s : State) (c : Nat) (f : Ctx → Ctx) : (s.updCtx c f).oracle = s.oracle := rfl
@[simp] theorem State.updCtx_agenda (s : State) (c : Nat) (f : Ctx → Ctx) : (s.updCtx c f).agenda = s.agenda := rfl
@[simp] theorem State.updCtx_wait (s : State) (c : Nat) (f : Ctx → Ctx) : (s.updCtx c f).wait = s.wait := rfl
@[simp] theorem State.updCtx_curCore (s : State) (c : Nat) (f : Ctx → Ctx) : (s.updCtx c f).curCore = s.curCore := rfl
@[simp] theorem State.updCtx_curHalf (s : State) (c : Nat) (f : Ctx → Ctx) : (s.updCtx c f).curHalf = s.curHalf := rfl
@[simp] theorem State.updCtx_mem (s : State) (c : Nat) (f : Ctx → Ctx) : (s.updCtx c f).mem = s.mem := rfl
@[simp] theorem State.updCtx_mtags (s : State) (c : Nat) (f : Ctx → Ctx) : (s.updCtx c f).mtags = s.mtags := rfl
@[simp] theorem State.updCtx_mstat (s : State) (c : Nat) (f : Ctx → Ctx) : (s.updCtx c f).mstat = s.mstat := rfl
@[simp] theorem State.updCtx_mkeys (s : State) (c : Nat) (f : Ctx → Ctx) : (s.updCtx c f).mkeys = s.mkeys := rfl
@[simp] theorem State.updCtx_parts (s : State) (c : Nat) (f : Ctx → Ctx) : (s.updCtx c f).parts = s.parts := rfl
@[simp] theorem State.updCtx_clusters (s : State) (c : Nat) (f : Ctx → Ctx) : (s.updCtx c f).clusters = s.clusters := rfl
@[simp] theorem State.updCtx_dies (s : State) (c : Nat) (f : Ctx → Ctx) : (s.updCtx c f).dies = s.dies := rfl
@[simp] theorem State.updCtx_hbm (s : State) (c : Nat) (f : Ctx → Ctx) : (s.updCtx c f).hbm = s.hbm := rfl
@[simp] theorem State.updCtx_ports (s : State) (c : Nat) (f : Ctx → Ctx) : (s.updCtx c f).ports = s.ports := rfl
@[simp] theorem State.updCtx_reqs (s : State) (c : Nat) (f : Ctx → Ctx) : (s.updCtx c f).reqs = s.reqs := rfl
@[simp] theorem State.updCtx_gone (s : State) (c : Nat) (f : Ctx → Ctx) : (s.updCtx c f).gone = s.gone := rfl
@[simp] theorem State.updCtx_refusals (s : State) (c : Nat) (f : Ctx → Ctx) : (s.updCtx c f).refusals = s.refusals := rfl
@[simp] theorem State.updCtx_replies (s : State) (c : Nat) (f : Ctx → Ctx) : (s.updCtx c f).replies = s.replies := rfl
@[simp] theorem State.updCtx_bsums (s : State) (c : Nat) (f : Ctx → Ctx) : (s.updCtx c f).bsums = s.bsums := rfl
@[simp] theorem State.updCtx_bsumBuf (s : State) (c : Nat) (f : Ctx → Ctx) : (s.updCtx c f).bsumBuf = s.bsumBuf := rfl
@[simp] theorem State.updCtx_msgs (s : State) (c : Nat) (f : Ctx → Ctx) : (s.updCtx c f).msgs = s.msgs := rfl
@[simp] theorem State.updCtx_nextId (s : State) (c : Nat) (f : Ctx → Ctx) : (s.updCtx c f).nextId = s.nextId := rfl
@[simp] theorem State.updCtx_evictions (s : State) (c : Nat) (f : Ctx → Ctx) : (s.updCtx c f).evictions = s.evictions := rfl
@[simp] theorem State.updCtx_evRing (s : State) (c : Nat) (f : Ctx → Ctx) : (s.updCtx c f).evRing = s.evRing := rfl
@[simp] theorem State.updCtx_evWait (s : State) (c : Nat) (f : Ctx → Ctx) : (s.updCtx c f).evWait = s.evWait := rfl
@[simp] theorem State.updCtx_evLost (s : State) (c : Nat) (f : Ctx → Ctx) : (s.updCtx c f).evLost = s.evLost := rfl
@[simp] theorem State.updCtx_telRing (s : State) (c : Nat) (f : Ctx → Ctx) : (s.updCtx c f).telRing = s.telRing := rfl
@[simp] theorem State.updCtx_host (s : State) (c : Nat) (f : Ctx → Ctx) : (s.updCtx c f).host = s.host := rfl
@[simp] theorem State.updCtx_monitors (s : State) (c : Nat) (f : Ctx → Ctx) : (s.updCtx c f).monitors = s.monitors := rfl
@[simp] theorem State.updCtx_bootStat (s : State) (c : Nat) (f : Ctx → Ctx) : (s.updCtx c f).bootStat = s.bootStat := rfl
@[simp] theorem State.updCtx_meas (s : State) (c : Nat) (f : Ctx → Ctx) : (s.updCtx c f).meas = s.meas := rfl
@[simp] theorem State.updCtx_quote (s : State) (c : Nat) (f : Ctx → Ctx) : (s.updCtx c f).quote = s.quote := rfl
@[simp] theorem State.updCtx_life (s : State) (c : Nat) (f : Ctx → Ctx) : (s.updCtx c f).life = s.life := rfl
@[simp] theorem State.updCtx_keyGen (s : State) (c : Nat) (f : Ctx → Ctx) : (s.updCtx c f).keyGen = s.keyGen := rfl
@[simp] theorem State.updCtx_fuseEd (s : State) (c : Nat) (f : Ctx → Ctx) : (s.updCtx c f).fuseEd = s.fuseEd := rfl
@[simp] theorem State.updCtx_fuseMl (s : State) (c : Nat) (f : Ctx → Ctx) : (s.updCtx c f).fuseMl = s.fuseMl := rfl
@[simp] theorem State.updCtx_devId (s : State) (c : Nat) (f : Ctx → Ctx) : (s.updCtx c f).devId = s.devId := rfl
@[simp] theorem State.updCtx_dbgVal (s : State) (c : Nat) (f : Ctx → Ctx) : (s.updCtx c f).dbgVal = s.dbgVal := rfl
@[simp] theorem State.updCtx_dbgTag (s : State) (c : Nat) (f : Ctx → Ctx) : (s.updCtx c f).dbgTag = s.dbgTag := rfl
@[simp] theorem State.updCtx_outRead (s : State) (c : Nat) (f : Ctx → Ctx) : (s.updCtx c f).outRead = s.outRead := rfl
@[simp] theorem State.updCtx_outErr (s : State) (c : Nat) (f : Ctx → Ctx) : (s.updCtx c f).outErr = s.outErr := rfl
@[simp] theorem State.setPart_now (s : State) (p : Nat) (v : Option Part) : (s.setPart p v).now = s.now := rfl
@[simp] theorem State.setPart_fresh (s : State) (p : Nat) (v : Option Part) : (s.setPart p v).fresh = s.fresh := rfl
@[simp] theorem State.setPart_oracle (s : State) (p : Nat) (v : Option Part) : (s.setPart p v).oracle = s.oracle := rfl
@[simp] theorem State.setPart_agenda (s : State) (p : Nat) (v : Option Part) : (s.setPart p v).agenda = s.agenda := rfl
@[simp] theorem State.setPart_wait (s : State) (p : Nat) (v : Option Part) : (s.setPart p v).wait = s.wait := rfl
@[simp] theorem State.setPart_curCore (s : State) (p : Nat) (v : Option Part) : (s.setPart p v).curCore = s.curCore := rfl
@[simp] theorem State.setPart_curHalf (s : State) (p : Nat) (v : Option Part) : (s.setPart p v).curHalf = s.curHalf := rfl
@[simp] theorem State.setPart_mem (s : State) (p : Nat) (v : Option Part) : (s.setPart p v).mem = s.mem := rfl
@[simp] theorem State.setPart_mtags (s : State) (p : Nat) (v : Option Part) : (s.setPart p v).mtags = s.mtags := rfl
@[simp] theorem State.setPart_mstat (s : State) (p : Nat) (v : Option Part) : (s.setPart p v).mstat = s.mstat := rfl
@[simp] theorem State.setPart_mkeys (s : State) (p : Nat) (v : Option Part) : (s.setPart p v).mkeys = s.mkeys := rfl
@[simp] theorem State.setPart_cores (s : State) (p : Nat) (v : Option Part) : (s.setPart p v).cores = s.cores := rfl
@[simp] theorem State.setPart_clusters (s : State) (p : Nat) (v : Option Part) : (s.setPart p v).clusters = s.clusters := rfl
@[simp] theorem State.setPart_dies (s : State) (p : Nat) (v : Option Part) : (s.setPart p v).dies = s.dies := rfl
@[simp] theorem State.setPart_hbm (s : State) (p : Nat) (v : Option Part) : (s.setPart p v).hbm = s.hbm := rfl
@[simp] theorem State.setPart_ports (s : State) (p : Nat) (v : Option Part) : (s.setPart p v).ports = s.ports := rfl
@[simp] theorem State.setPart_reqs (s : State) (p : Nat) (v : Option Part) : (s.setPart p v).reqs = s.reqs := rfl
@[simp] theorem State.setPart_gone (s : State) (p : Nat) (v : Option Part) : (s.setPart p v).gone = s.gone := rfl
@[simp] theorem State.setPart_refusals (s : State) (p : Nat) (v : Option Part) : (s.setPart p v).refusals = s.refusals := rfl
@[simp] theorem State.setPart_replies (s : State) (p : Nat) (v : Option Part) : (s.setPart p v).replies = s.replies := rfl
@[simp] theorem State.setPart_bsums (s : State) (p : Nat) (v : Option Part) : (s.setPart p v).bsums = s.bsums := rfl
@[simp] theorem State.setPart_bsumBuf (s : State) (p : Nat) (v : Option Part) : (s.setPart p v).bsumBuf = s.bsumBuf := rfl
@[simp] theorem State.setPart_msgs (s : State) (p : Nat) (v : Option Part) : (s.setPart p v).msgs = s.msgs := rfl
@[simp] theorem State.setPart_nextId (s : State) (p : Nat) (v : Option Part) : (s.setPart p v).nextId = s.nextId := rfl
@[simp] theorem State.setPart_evictions (s : State) (p : Nat) (v : Option Part) : (s.setPart p v).evictions = s.evictions := rfl
@[simp] theorem State.setPart_evRing (s : State) (p : Nat) (v : Option Part) : (s.setPart p v).evRing = s.evRing := rfl
@[simp] theorem State.setPart_evWait (s : State) (p : Nat) (v : Option Part) : (s.setPart p v).evWait = s.evWait := rfl
@[simp] theorem State.setPart_evLost (s : State) (p : Nat) (v : Option Part) : (s.setPart p v).evLost = s.evLost := rfl
@[simp] theorem State.setPart_telRing (s : State) (p : Nat) (v : Option Part) : (s.setPart p v).telRing = s.telRing := rfl
@[simp] theorem State.setPart_host (s : State) (p : Nat) (v : Option Part) : (s.setPart p v).host = s.host := rfl
@[simp] theorem State.setPart_monitors (s : State) (p : Nat) (v : Option Part) : (s.setPart p v).monitors = s.monitors := rfl
@[simp] theorem State.setPart_bootStat (s : State) (p : Nat) (v : Option Part) : (s.setPart p v).bootStat = s.bootStat := rfl
@[simp] theorem State.setPart_meas (s : State) (p : Nat) (v : Option Part) : (s.setPart p v).meas = s.meas := rfl
@[simp] theorem State.setPart_quote (s : State) (p : Nat) (v : Option Part) : (s.setPart p v).quote = s.quote := rfl
@[simp] theorem State.setPart_life (s : State) (p : Nat) (v : Option Part) : (s.setPart p v).life = s.life := rfl
@[simp] theorem State.setPart_keyGen (s : State) (p : Nat) (v : Option Part) : (s.setPart p v).keyGen = s.keyGen := rfl
@[simp] theorem State.setPart_fuseEd (s : State) (p : Nat) (v : Option Part) : (s.setPart p v).fuseEd = s.fuseEd := rfl
@[simp] theorem State.setPart_fuseMl (s : State) (p : Nat) (v : Option Part) : (s.setPart p v).fuseMl = s.fuseMl := rfl
@[simp] theorem State.setPart_devId (s : State) (p : Nat) (v : Option Part) : (s.setPart p v).devId = s.devId := rfl
@[simp] theorem State.setPart_dbgVal (s : State) (p : Nat) (v : Option Part) : (s.setPart p v).dbgVal = s.dbgVal := rfl
@[simp] theorem State.setPart_dbgTag (s : State) (p : Nat) (v : Option Part) : (s.setPart p v).dbgTag = s.dbgTag := rfl
@[simp] theorem State.setPart_outRead (s : State) (p : Nat) (v : Option Part) : (s.setPart p v).outRead = s.outRead := rfl
@[simp] theorem State.setPart_outErr (s : State) (p : Nat) (v : Option Part) : (s.setPart p v).outErr = s.outErr := rfl
@[simp] theorem State.updPart_now (s : State) (p : Nat) (f : Part → Part) : (s.updPart p f).now = s.now := by
  unfold State.updPart; split <;> rfl
@[simp] theorem State.updPart_fresh (s : State) (p : Nat) (f : Part → Part) : (s.updPart p f).fresh = s.fresh := by
  unfold State.updPart; split <;> rfl
@[simp] theorem State.updPart_oracle (s : State) (p : Nat) (f : Part → Part) : (s.updPart p f).oracle = s.oracle := by
  unfold State.updPart; split <;> rfl
@[simp] theorem State.updPart_agenda (s : State) (p : Nat) (f : Part → Part) : (s.updPart p f).agenda = s.agenda := by
  unfold State.updPart; split <;> rfl
@[simp] theorem State.updPart_wait (s : State) (p : Nat) (f : Part → Part) : (s.updPart p f).wait = s.wait := by
  unfold State.updPart; split <;> rfl
@[simp] theorem State.updPart_curCore (s : State) (p : Nat) (f : Part → Part) : (s.updPart p f).curCore = s.curCore := by
  unfold State.updPart; split <;> rfl
@[simp] theorem State.updPart_curHalf (s : State) (p : Nat) (f : Part → Part) : (s.updPart p f).curHalf = s.curHalf := by
  unfold State.updPart; split <;> rfl
@[simp] theorem State.updPart_mem (s : State) (p : Nat) (f : Part → Part) : (s.updPart p f).mem = s.mem := by
  unfold State.updPart; split <;> rfl
@[simp] theorem State.updPart_mtags (s : State) (p : Nat) (f : Part → Part) : (s.updPart p f).mtags = s.mtags := by
  unfold State.updPart; split <;> rfl
@[simp] theorem State.updPart_mstat (s : State) (p : Nat) (f : Part → Part) : (s.updPart p f).mstat = s.mstat := by
  unfold State.updPart; split <;> rfl
@[simp] theorem State.updPart_mkeys (s : State) (p : Nat) (f : Part → Part) : (s.updPart p f).mkeys = s.mkeys := by
  unfold State.updPart; split <;> rfl
@[simp] theorem State.updPart_cores (s : State) (p : Nat) (f : Part → Part) : (s.updPart p f).cores = s.cores := by
  unfold State.updPart; split <;> rfl
@[simp] theorem State.updPart_clusters (s : State) (p : Nat) (f : Part → Part) : (s.updPart p f).clusters = s.clusters := by
  unfold State.updPart; split <;> rfl
@[simp] theorem State.updPart_dies (s : State) (p : Nat) (f : Part → Part) : (s.updPart p f).dies = s.dies := by
  unfold State.updPart; split <;> rfl
@[simp] theorem State.updPart_hbm (s : State) (p : Nat) (f : Part → Part) : (s.updPart p f).hbm = s.hbm := by
  unfold State.updPart; split <;> rfl
@[simp] theorem State.updPart_ports (s : State) (p : Nat) (f : Part → Part) : (s.updPart p f).ports = s.ports := by
  unfold State.updPart; split <;> rfl
@[simp] theorem State.updPart_reqs (s : State) (p : Nat) (f : Part → Part) : (s.updPart p f).reqs = s.reqs := by
  unfold State.updPart; split <;> rfl
@[simp] theorem State.updPart_gone (s : State) (p : Nat) (f : Part → Part) : (s.updPart p f).gone = s.gone := by
  unfold State.updPart; split <;> rfl
@[simp] theorem State.updPart_refusals (s : State) (p : Nat) (f : Part → Part) : (s.updPart p f).refusals = s.refusals := by
  unfold State.updPart; split <;> rfl
@[simp] theorem State.updPart_replies (s : State) (p : Nat) (f : Part → Part) : (s.updPart p f).replies = s.replies := by
  unfold State.updPart; split <;> rfl
@[simp] theorem State.updPart_bsums (s : State) (p : Nat) (f : Part → Part) : (s.updPart p f).bsums = s.bsums := by
  unfold State.updPart; split <;> rfl
@[simp] theorem State.updPart_bsumBuf (s : State) (p : Nat) (f : Part → Part) : (s.updPart p f).bsumBuf = s.bsumBuf := by
  unfold State.updPart; split <;> rfl
@[simp] theorem State.updPart_msgs (s : State) (p : Nat) (f : Part → Part) : (s.updPart p f).msgs = s.msgs := by
  unfold State.updPart; split <;> rfl
@[simp] theorem State.updPart_nextId (s : State) (p : Nat) (f : Part → Part) : (s.updPart p f).nextId = s.nextId := by
  unfold State.updPart; split <;> rfl
@[simp] theorem State.updPart_evictions (s : State) (p : Nat) (f : Part → Part) : (s.updPart p f).evictions = s.evictions := by
  unfold State.updPart; split <;> rfl
@[simp] theorem State.updPart_evRing (s : State) (p : Nat) (f : Part → Part) : (s.updPart p f).evRing = s.evRing := by
  unfold State.updPart; split <;> rfl
@[simp] theorem State.updPart_evWait (s : State) (p : Nat) (f : Part → Part) : (s.updPart p f).evWait = s.evWait := by
  unfold State.updPart; split <;> rfl
@[simp] theorem State.updPart_evLost (s : State) (p : Nat) (f : Part → Part) : (s.updPart p f).evLost = s.evLost := by
  unfold State.updPart; split <;> rfl
@[simp] theorem State.updPart_telRing (s : State) (p : Nat) (f : Part → Part) : (s.updPart p f).telRing = s.telRing := by
  unfold State.updPart; split <;> rfl
@[simp] theorem State.updPart_host (s : State) (p : Nat) (f : Part → Part) : (s.updPart p f).host = s.host := by
  unfold State.updPart; split <;> rfl
@[simp] theorem State.updPart_monitors (s : State) (p : Nat) (f : Part → Part) : (s.updPart p f).monitors = s.monitors := by
  unfold State.updPart; split <;> rfl
@[simp] theorem State.updPart_bootStat (s : State) (p : Nat) (f : Part → Part) : (s.updPart p f).bootStat = s.bootStat := by
  unfold State.updPart; split <;> rfl
@[simp] theorem State.updPart_meas (s : State) (p : Nat) (f : Part → Part) : (s.updPart p f).meas = s.meas := by
  unfold State.updPart; split <;> rfl
@[simp] theorem State.updPart_quote (s : State) (p : Nat) (f : Part → Part) : (s.updPart p f).quote = s.quote := by
  unfold State.updPart; split <;> rfl
@[simp] theorem State.updPart_life (s : State) (p : Nat) (f : Part → Part) : (s.updPart p f).life = s.life := by
  unfold State.updPart; split <;> rfl
@[simp] theorem State.updPart_keyGen (s : State) (p : Nat) (f : Part → Part) : (s.updPart p f).keyGen = s.keyGen := by
  unfold State.updPart; split <;> rfl
@[simp] theorem State.updPart_fuseEd (s : State) (p : Nat) (f : Part → Part) : (s.updPart p f).fuseEd = s.fuseEd := by
  unfold State.updPart; split <;> rfl
@[simp] theorem State.updPart_fuseMl (s : State) (p : Nat) (f : Part → Part) : (s.updPart p f).fuseMl = s.fuseMl := by
  unfold State.updPart; split <;> rfl
@[simp] theorem State.updPart_devId (s : State) (p : Nat) (f : Part → Part) : (s.updPart p f).devId = s.devId := by
  unfold State.updPart; split <;> rfl
@[simp] theorem State.updPart_dbgVal (s : State) (p : Nat) (f : Part → Part) : (s.updPart p f).dbgVal = s.dbgVal := by
  unfold State.updPart; split <;> rfl
@[simp] theorem State.updPart_dbgTag (s : State) (p : Nat) (f : Part → Part) : (s.updPart p f).dbgTag = s.dbgTag := by
  unfold State.updPart; split <;> rfl
@[simp] theorem State.updPart_outRead (s : State) (p : Nat) (f : Part → Part) : (s.updPart p f).outRead = s.outRead := by
  unfold State.updPart; split <;> rfl
@[simp] theorem State.updPart_outErr (s : State) (p : Nat) (f : Part → Part) : (s.updPart p f).outErr = s.outErr := by
  unfold State.updPart; split <;> rfl
@[simp] theorem State.updInst_now (s : State) (p i : Nat) (f : Inst → Inst) : (s.updInst p i f).now = s.now := by
  unfold State.updInst; simp
@[simp] theorem State.updInst_fresh (s : State) (p i : Nat) (f : Inst → Inst) : (s.updInst p i f).fresh = s.fresh := by
  unfold State.updInst; simp
@[simp] theorem State.updInst_oracle (s : State) (p i : Nat) (f : Inst → Inst) : (s.updInst p i f).oracle = s.oracle := by
  unfold State.updInst; simp
@[simp] theorem State.updInst_agenda (s : State) (p i : Nat) (f : Inst → Inst) : (s.updInst p i f).agenda = s.agenda := by
  unfold State.updInst; simp
@[simp] theorem State.updInst_wait (s : State) (p i : Nat) (f : Inst → Inst) : (s.updInst p i f).wait = s.wait := by
  unfold State.updInst; simp
@[simp] theorem State.updInst_curCore (s : State) (p i : Nat) (f : Inst → Inst) : (s.updInst p i f).curCore = s.curCore := by
  unfold State.updInst; simp
@[simp] theorem State.updInst_curHalf (s : State) (p i : Nat) (f : Inst → Inst) : (s.updInst p i f).curHalf = s.curHalf := by
  unfold State.updInst; simp
@[simp] theorem State.updInst_mem (s : State) (p i : Nat) (f : Inst → Inst) : (s.updInst p i f).mem = s.mem := by
  unfold State.updInst; simp
@[simp] theorem State.updInst_mtags (s : State) (p i : Nat) (f : Inst → Inst) : (s.updInst p i f).mtags = s.mtags := by
  unfold State.updInst; simp
@[simp] theorem State.updInst_mstat (s : State) (p i : Nat) (f : Inst → Inst) : (s.updInst p i f).mstat = s.mstat := by
  unfold State.updInst; simp
@[simp] theorem State.updInst_mkeys (s : State) (p i : Nat) (f : Inst → Inst) : (s.updInst p i f).mkeys = s.mkeys := by
  unfold State.updInst; simp
@[simp] theorem State.updInst_cores (s : State) (p i : Nat) (f : Inst → Inst) : (s.updInst p i f).cores = s.cores := by
  unfold State.updInst; simp
@[simp] theorem State.updInst_clusters (s : State) (p i : Nat) (f : Inst → Inst) : (s.updInst p i f).clusters = s.clusters := by
  unfold State.updInst; simp
@[simp] theorem State.updInst_dies (s : State) (p i : Nat) (f : Inst → Inst) : (s.updInst p i f).dies = s.dies := by
  unfold State.updInst; simp
@[simp] theorem State.updInst_hbm (s : State) (p i : Nat) (f : Inst → Inst) : (s.updInst p i f).hbm = s.hbm := by
  unfold State.updInst; simp
@[simp] theorem State.updInst_ports (s : State) (p i : Nat) (f : Inst → Inst) : (s.updInst p i f).ports = s.ports := by
  unfold State.updInst; simp
@[simp] theorem State.updInst_reqs (s : State) (p i : Nat) (f : Inst → Inst) : (s.updInst p i f).reqs = s.reqs := by
  unfold State.updInst; simp
@[simp] theorem State.updInst_gone (s : State) (p i : Nat) (f : Inst → Inst) : (s.updInst p i f).gone = s.gone := by
  unfold State.updInst; simp
@[simp] theorem State.updInst_refusals (s : State) (p i : Nat) (f : Inst → Inst) : (s.updInst p i f).refusals = s.refusals := by
  unfold State.updInst; simp
@[simp] theorem State.updInst_replies (s : State) (p i : Nat) (f : Inst → Inst) : (s.updInst p i f).replies = s.replies := by
  unfold State.updInst; simp
@[simp] theorem State.updInst_bsums (s : State) (p i : Nat) (f : Inst → Inst) : (s.updInst p i f).bsums = s.bsums := by
  unfold State.updInst; simp
@[simp] theorem State.updInst_bsumBuf (s : State) (p i : Nat) (f : Inst → Inst) : (s.updInst p i f).bsumBuf = s.bsumBuf := by
  unfold State.updInst; simp
@[simp] theorem State.updInst_msgs (s : State) (p i : Nat) (f : Inst → Inst) : (s.updInst p i f).msgs = s.msgs := by
  unfold State.updInst; simp
@[simp] theorem State.updInst_nextId (s : State) (p i : Nat) (f : Inst → Inst) : (s.updInst p i f).nextId = s.nextId := by
  unfold State.updInst; simp
@[simp] theorem State.updInst_evictions (s : State) (p i : Nat) (f : Inst → Inst) : (s.updInst p i f).evictions = s.evictions := by
  unfold State.updInst; simp
@[simp] theorem State.updInst_evRing (s : State) (p i : Nat) (f : Inst → Inst) : (s.updInst p i f).evRing = s.evRing := by
  unfold State.updInst; simp
@[simp] theorem State.updInst_evWait (s : State) (p i : Nat) (f : Inst → Inst) : (s.updInst p i f).evWait = s.evWait := by
  unfold State.updInst; simp
@[simp] theorem State.updInst_evLost (s : State) (p i : Nat) (f : Inst → Inst) : (s.updInst p i f).evLost = s.evLost := by
  unfold State.updInst; simp
@[simp] theorem State.updInst_telRing (s : State) (p i : Nat) (f : Inst → Inst) : (s.updInst p i f).telRing = s.telRing := by
  unfold State.updInst; simp
@[simp] theorem State.updInst_host (s : State) (p i : Nat) (f : Inst → Inst) : (s.updInst p i f).host = s.host := by
  unfold State.updInst; simp
@[simp] theorem State.updInst_monitors (s : State) (p i : Nat) (f : Inst → Inst) : (s.updInst p i f).monitors = s.monitors := by
  unfold State.updInst; simp
@[simp] theorem State.updInst_bootStat (s : State) (p i : Nat) (f : Inst → Inst) : (s.updInst p i f).bootStat = s.bootStat := by
  unfold State.updInst; simp
@[simp] theorem State.updInst_meas (s : State) (p i : Nat) (f : Inst → Inst) : (s.updInst p i f).meas = s.meas := by
  unfold State.updInst; simp
@[simp] theorem State.updInst_quote (s : State) (p i : Nat) (f : Inst → Inst) : (s.updInst p i f).quote = s.quote := by
  unfold State.updInst; simp
@[simp] theorem State.updInst_life (s : State) (p i : Nat) (f : Inst → Inst) : (s.updInst p i f).life = s.life := by
  unfold State.updInst; simp
@[simp] theorem State.updInst_keyGen (s : State) (p i : Nat) (f : Inst → Inst) : (s.updInst p i f).keyGen = s.keyGen := by
  unfold State.updInst; simp
@[simp] theorem State.updInst_fuseEd (s : State) (p i : Nat) (f : Inst → Inst) : (s.updInst p i f).fuseEd = s.fuseEd := by
  unfold State.updInst; simp
@[simp] theorem State.updInst_fuseMl (s : State) (p i : Nat) (f : Inst → Inst) : (s.updInst p i f).fuseMl = s.fuseMl := by
  unfold State.updInst; simp
@[simp] theorem State.updInst_devId (s : State) (p i : Nat) (f : Inst → Inst) : (s.updInst p i f).devId = s.devId := by
  unfold State.updInst; simp
@[simp] theorem State.updInst_dbgVal (s : State) (p i : Nat) (f : Inst → Inst) : (s.updInst p i f).dbgVal = s.dbgVal := by
  unfold State.updInst; simp
@[simp] theorem State.updInst_dbgTag (s : State) (p i : Nat) (f : Inst → Inst) : (s.updInst p i f).dbgTag = s.dbgTag := by
  unfold State.updInst; simp
@[simp] theorem State.updInst_outRead (s : State) (p i : Nat) (f : Inst → Inst) : (s.updInst p i f).outRead = s.outRead := by
  unfold State.updInst; simp
@[simp] theorem State.updInst_outErr (s : State) (p i : Nat) (f : Inst → Inst) : (s.updInst p i f).outErr = s.outErr := by
  unfold State.updInst; simp
@[simp] theorem State.updNode_now (s : State) (p i n : Nat) (f : Node → Node) : (s.updNode p i n f).now = s.now := by
  unfold State.updNode; simp
@[simp] theorem State.updNode_fresh (s : State) (p i n : Nat) (f : Node → Node) : (s.updNode p i n f).fresh = s.fresh := by
  unfold State.updNode; simp
@[simp] theorem State.updNode_oracle (s : State) (p i n : Nat) (f : Node → Node) : (s.updNode p i n f).oracle = s.oracle := by
  unfold State.updNode; simp
@[simp] theorem State.updNode_agenda (s : State) (p i n : Nat) (f : Node → Node) : (s.updNode p i n f).agenda = s.agenda := by
  unfold State.updNode; simp
@[simp] theorem State.updNode_wait (s : State) (p i n : Nat) (f : Node → Node) : (s.updNode p i n f).wait = s.wait := by
  unfold State.updNode; simp
@[simp] theorem State.updNode_curCore (s : State) (p i n : Nat) (f : Node → Node) : (s.updNode p i n f).curCore = s.curCore := by
  unfold State.updNode; simp
@[simp] theorem State.updNode_curHalf (s : State) (p i n : Nat) (f : Node → Node) : (s.updNode p i n f).curHalf = s.curHalf := by
  unfold State.updNode; simp
@[simp] theorem State.updNode_mem (s : State) (p i n : Nat) (f : Node → Node) : (s.updNode p i n f).mem = s.mem := by
  unfold State.updNode; simp
@[simp] theorem State.updNode_mtags (s : State) (p i n : Nat) (f : Node → Node) : (s.updNode p i n f).mtags = s.mtags := by
  unfold State.updNode; simp
@[simp] theorem State.updNode_mstat (s : State) (p i n : Nat) (f : Node → Node) : (s.updNode p i n f).mstat = s.mstat := by
  unfold State.updNode; simp
@[simp] theorem State.updNode_mkeys (s : State) (p i n : Nat) (f : Node → Node) : (s.updNode p i n f).mkeys = s.mkeys := by
  unfold State.updNode; simp
@[simp] theorem State.updNode_cores (s : State) (p i n : Nat) (f : Node → Node) : (s.updNode p i n f).cores = s.cores := by
  unfold State.updNode; simp
@[simp] theorem State.updNode_clusters (s : State) (p i n : Nat) (f : Node → Node) : (s.updNode p i n f).clusters = s.clusters := by
  unfold State.updNode; simp
@[simp] theorem State.updNode_dies (s : State) (p i n : Nat) (f : Node → Node) : (s.updNode p i n f).dies = s.dies := by
  unfold State.updNode; simp
@[simp] theorem State.updNode_hbm (s : State) (p i n : Nat) (f : Node → Node) : (s.updNode p i n f).hbm = s.hbm := by
  unfold State.updNode; simp
@[simp] theorem State.updNode_ports (s : State) (p i n : Nat) (f : Node → Node) : (s.updNode p i n f).ports = s.ports := by
  unfold State.updNode; simp
@[simp] theorem State.updNode_reqs (s : State) (p i n : Nat) (f : Node → Node) : (s.updNode p i n f).reqs = s.reqs := by
  unfold State.updNode; simp
@[simp] theorem State.updNode_gone (s : State) (p i n : Nat) (f : Node → Node) : (s.updNode p i n f).gone = s.gone := by
  unfold State.updNode; simp
@[simp] theorem State.updNode_refusals (s : State) (p i n : Nat) (f : Node → Node) : (s.updNode p i n f).refusals = s.refusals := by
  unfold State.updNode; simp
@[simp] theorem State.updNode_replies (s : State) (p i n : Nat) (f : Node → Node) : (s.updNode p i n f).replies = s.replies := by
  unfold State.updNode; simp
@[simp] theorem State.updNode_bsums (s : State) (p i n : Nat) (f : Node → Node) : (s.updNode p i n f).bsums = s.bsums := by
  unfold State.updNode; simp
@[simp] theorem State.updNode_bsumBuf (s : State) (p i n : Nat) (f : Node → Node) : (s.updNode p i n f).bsumBuf = s.bsumBuf := by
  unfold State.updNode; simp
@[simp] theorem State.updNode_msgs (s : State) (p i n : Nat) (f : Node → Node) : (s.updNode p i n f).msgs = s.msgs := by
  unfold State.updNode; simp
@[simp] theorem State.updNode_nextId (s : State) (p i n : Nat) (f : Node → Node) : (s.updNode p i n f).nextId = s.nextId := by
  unfold State.updNode; simp
@[simp] theorem State.updNode_evictions (s : State) (p i n : Nat) (f : Node → Node) : (s.updNode p i n f).evictions = s.evictions := by
  unfold State.updNode; simp
@[simp] theorem State.updNode_evRing (s : State) (p i n : Nat) (f : Node → Node) : (s.updNode p i n f).evRing = s.evRing := by
  unfold State.updNode; simp
@[simp] theorem State.updNode_evWait (s : State) (p i n : Nat) (f : Node → Node) : (s.updNode p i n f).evWait = s.evWait := by
  unfold State.updNode; simp
@[simp] theorem State.updNode_evLost (s : State) (p i n : Nat) (f : Node → Node) : (s.updNode p i n f).evLost = s.evLost := by
  unfold State.updNode; simp
@[simp] theorem State.updNode_telRing (s : State) (p i n : Nat) (f : Node → Node) : (s.updNode p i n f).telRing = s.telRing := by
  unfold State.updNode; simp
@[simp] theorem State.updNode_host (s : State) (p i n : Nat) (f : Node → Node) : (s.updNode p i n f).host = s.host := by
  unfold State.updNode; simp
@[simp] theorem State.updNode_monitors (s : State) (p i n : Nat) (f : Node → Node) : (s.updNode p i n f).monitors = s.monitors := by
  unfold State.updNode; simp
@[simp] theorem State.updNode_bootStat (s : State) (p i n : Nat) (f : Node → Node) : (s.updNode p i n f).bootStat = s.bootStat := by
  unfold State.updNode; simp
@[simp] theorem State.updNode_meas (s : State) (p i n : Nat) (f : Node → Node) : (s.updNode p i n f).meas = s.meas := by
  unfold State.updNode; simp
@[simp] theorem State.updNode_quote (s : State) (p i n : Nat) (f : Node → Node) : (s.updNode p i n f).quote = s.quote := by
  unfold State.updNode; simp
@[simp] theorem State.updNode_life (s : State) (p i n : Nat) (f : Node → Node) : (s.updNode p i n f).life = s.life := by
  unfold State.updNode; simp
@[simp] theorem State.updNode_keyGen (s : State) (p i n : Nat) (f : Node → Node) : (s.updNode p i n f).keyGen = s.keyGen := by
  unfold State.updNode; simp
@[simp] theorem State.updNode_fuseEd (s : State) (p i n : Nat) (f : Node → Node) : (s.updNode p i n f).fuseEd = s.fuseEd := by
  unfold State.updNode; simp
@[simp] theorem State.updNode_fuseMl (s : State) (p i n : Nat) (f : Node → Node) : (s.updNode p i n f).fuseMl = s.fuseMl := by
  unfold State.updNode; simp
@[simp] theorem State.updNode_devId (s : State) (p i n : Nat) (f : Node → Node) : (s.updNode p i n f).devId = s.devId := by
  unfold State.updNode; simp
@[simp] theorem State.updNode_dbgVal (s : State) (p i n : Nat) (f : Node → Node) : (s.updNode p i n f).dbgVal = s.dbgVal := by
  unfold State.updNode; simp
@[simp] theorem State.updNode_dbgTag (s : State) (p i n : Nat) (f : Node → Node) : (s.updNode p i n f).dbgTag = s.dbgTag := by
  unfold State.updNode; simp
@[simp] theorem State.updNode_outRead (s : State) (p i n : Nat) (f : Node → Node) : (s.updNode p i n f).outRead = s.outRead := by
  unfold State.updNode; simp
@[simp] theorem State.updNode_outErr (s : State) (p i n : Nat) (f : Node → Node) : (s.updNode p i n f).outErr = s.outErr := by
  unfold State.updNode; simp
@[simp] theorem State.updCluster_now (s : State) (k : Nat) (f : Cluster → Cluster) : (s.updCluster k f).now = s.now := rfl
@[simp] theorem State.updCluster_fresh (s : State) (k : Nat) (f : Cluster → Cluster) : (s.updCluster k f).fresh = s.fresh := rfl
@[simp] theorem State.updCluster_oracle (s : State) (k : Nat) (f : Cluster → Cluster) : (s.updCluster k f).oracle = s.oracle := rfl
@[simp] theorem State.updCluster_agenda (s : State) (k : Nat) (f : Cluster → Cluster) : (s.updCluster k f).agenda = s.agenda := rfl
@[simp] theorem State.updCluster_wait (s : State) (k : Nat) (f : Cluster → Cluster) : (s.updCluster k f).wait = s.wait := rfl
@[simp] theorem State.updCluster_curCore (s : State) (k : Nat) (f : Cluster → Cluster) : (s.updCluster k f).curCore = s.curCore := rfl
@[simp] theorem State.updCluster_curHalf (s : State) (k : Nat) (f : Cluster → Cluster) : (s.updCluster k f).curHalf = s.curHalf := rfl
@[simp] theorem State.updCluster_mem (s : State) (k : Nat) (f : Cluster → Cluster) : (s.updCluster k f).mem = s.mem := rfl
@[simp] theorem State.updCluster_mtags (s : State) (k : Nat) (f : Cluster → Cluster) : (s.updCluster k f).mtags = s.mtags := rfl
@[simp] theorem State.updCluster_mstat (s : State) (k : Nat) (f : Cluster → Cluster) : (s.updCluster k f).mstat = s.mstat := rfl
@[simp] theorem State.updCluster_mkeys (s : State) (k : Nat) (f : Cluster → Cluster) : (s.updCluster k f).mkeys = s.mkeys := rfl
@[simp] theorem State.updCluster_cores (s : State) (k : Nat) (f : Cluster → Cluster) : (s.updCluster k f).cores = s.cores := rfl
@[simp] theorem State.updCluster_parts (s : State) (k : Nat) (f : Cluster → Cluster) : (s.updCluster k f).parts = s.parts := rfl
@[simp] theorem State.updCluster_dies (s : State) (k : Nat) (f : Cluster → Cluster) : (s.updCluster k f).dies = s.dies := rfl
@[simp] theorem State.updCluster_hbm (s : State) (k : Nat) (f : Cluster → Cluster) : (s.updCluster k f).hbm = s.hbm := rfl
@[simp] theorem State.updCluster_ports (s : State) (k : Nat) (f : Cluster → Cluster) : (s.updCluster k f).ports = s.ports := rfl
@[simp] theorem State.updCluster_reqs (s : State) (k : Nat) (f : Cluster → Cluster) : (s.updCluster k f).reqs = s.reqs := rfl
@[simp] theorem State.updCluster_gone (s : State) (k : Nat) (f : Cluster → Cluster) : (s.updCluster k f).gone = s.gone := rfl
@[simp] theorem State.updCluster_refusals (s : State) (k : Nat) (f : Cluster → Cluster) : (s.updCluster k f).refusals = s.refusals := rfl
@[simp] theorem State.updCluster_replies (s : State) (k : Nat) (f : Cluster → Cluster) : (s.updCluster k f).replies = s.replies := rfl
@[simp] theorem State.updCluster_bsums (s : State) (k : Nat) (f : Cluster → Cluster) : (s.updCluster k f).bsums = s.bsums := rfl
@[simp] theorem State.updCluster_bsumBuf (s : State) (k : Nat) (f : Cluster → Cluster) : (s.updCluster k f).bsumBuf = s.bsumBuf := rfl
@[simp] theorem State.updCluster_msgs (s : State) (k : Nat) (f : Cluster → Cluster) : (s.updCluster k f).msgs = s.msgs := rfl
@[simp] theorem State.updCluster_nextId (s : State) (k : Nat) (f : Cluster → Cluster) : (s.updCluster k f).nextId = s.nextId := rfl
@[simp] theorem State.updCluster_evictions (s : State) (k : Nat) (f : Cluster → Cluster) : (s.updCluster k f).evictions = s.evictions := rfl
@[simp] theorem State.updCluster_evRing (s : State) (k : Nat) (f : Cluster → Cluster) : (s.updCluster k f).evRing = s.evRing := rfl
@[simp] theorem State.updCluster_evWait (s : State) (k : Nat) (f : Cluster → Cluster) : (s.updCluster k f).evWait = s.evWait := rfl
@[simp] theorem State.updCluster_evLost (s : State) (k : Nat) (f : Cluster → Cluster) : (s.updCluster k f).evLost = s.evLost := rfl
@[simp] theorem State.updCluster_telRing (s : State) (k : Nat) (f : Cluster → Cluster) : (s.updCluster k f).telRing = s.telRing := rfl
@[simp] theorem State.updCluster_host (s : State) (k : Nat) (f : Cluster → Cluster) : (s.updCluster k f).host = s.host := rfl
@[simp] theorem State.updCluster_monitors (s : State) (k : Nat) (f : Cluster → Cluster) : (s.updCluster k f).monitors = s.monitors := rfl
@[simp] theorem State.updCluster_bootStat (s : State) (k : Nat) (f : Cluster → Cluster) : (s.updCluster k f).bootStat = s.bootStat := rfl
@[simp] theorem State.updCluster_meas (s : State) (k : Nat) (f : Cluster → Cluster) : (s.updCluster k f).meas = s.meas := rfl
@[simp] theorem State.updCluster_quote (s : State) (k : Nat) (f : Cluster → Cluster) : (s.updCluster k f).quote = s.quote := rfl
@[simp] theorem State.updCluster_life (s : State) (k : Nat) (f : Cluster → Cluster) : (s.updCluster k f).life = s.life := rfl
@[simp] theorem State.updCluster_keyGen (s : State) (k : Nat) (f : Cluster → Cluster) : (s.updCluster k f).keyGen = s.keyGen := rfl
@[simp] theorem State.updCluster_fuseEd (s : State) (k : Nat) (f : Cluster → Cluster) : (s.updCluster k f).fuseEd = s.fuseEd := rfl
@[simp] theorem State.updCluster_fuseMl (s : State) (k : Nat) (f : Cluster → Cluster) : (s.updCluster k f).fuseMl = s.fuseMl := rfl
@[simp] theorem State.updCluster_devId (s : State) (k : Nat) (f : Cluster → Cluster) : (s.updCluster k f).devId = s.devId := rfl
@[simp] theorem State.updCluster_dbgVal (s : State) (k : Nat) (f : Cluster → Cluster) : (s.updCluster k f).dbgVal = s.dbgVal := rfl
@[simp] theorem State.updCluster_dbgTag (s : State) (k : Nat) (f : Cluster → Cluster) : (s.updCluster k f).dbgTag = s.dbgTag := rfl
@[simp] theorem State.updCluster_outRead (s : State) (k : Nat) (f : Cluster → Cluster) : (s.updCluster k f).outRead = s.outRead := rfl
@[simp] theorem State.updCluster_outErr (s : State) (k : Nat) (f : Cluster → Cluster) : (s.updCluster k f).outErr = s.outErr := rfl
@[simp] theorem State.updDie_now (s : State) (d : Nat) (f : Die → Die) : (s.updDie d f).now = s.now := rfl
@[simp] theorem State.updDie_fresh (s : State) (d : Nat) (f : Die → Die) : (s.updDie d f).fresh = s.fresh := rfl
@[simp] theorem State.updDie_oracle (s : State) (d : Nat) (f : Die → Die) : (s.updDie d f).oracle = s.oracle := rfl
@[simp] theorem State.updDie_agenda (s : State) (d : Nat) (f : Die → Die) : (s.updDie d f).agenda = s.agenda := rfl
@[simp] theorem State.updDie_wait (s : State) (d : Nat) (f : Die → Die) : (s.updDie d f).wait = s.wait := rfl
@[simp] theorem State.updDie_curCore (s : State) (d : Nat) (f : Die → Die) : (s.updDie d f).curCore = s.curCore := rfl
@[simp] theorem State.updDie_curHalf (s : State) (d : Nat) (f : Die → Die) : (s.updDie d f).curHalf = s.curHalf := rfl
@[simp] theorem State.updDie_mem (s : State) (d : Nat) (f : Die → Die) : (s.updDie d f).mem = s.mem := rfl
@[simp] theorem State.updDie_mtags (s : State) (d : Nat) (f : Die → Die) : (s.updDie d f).mtags = s.mtags := rfl
@[simp] theorem State.updDie_mstat (s : State) (d : Nat) (f : Die → Die) : (s.updDie d f).mstat = s.mstat := rfl
@[simp] theorem State.updDie_mkeys (s : State) (d : Nat) (f : Die → Die) : (s.updDie d f).mkeys = s.mkeys := rfl
@[simp] theorem State.updDie_cores (s : State) (d : Nat) (f : Die → Die) : (s.updDie d f).cores = s.cores := rfl
@[simp] theorem State.updDie_parts (s : State) (d : Nat) (f : Die → Die) : (s.updDie d f).parts = s.parts := rfl
@[simp] theorem State.updDie_clusters (s : State) (d : Nat) (f : Die → Die) : (s.updDie d f).clusters = s.clusters := rfl
@[simp] theorem State.updDie_hbm (s : State) (d : Nat) (f : Die → Die) : (s.updDie d f).hbm = s.hbm := rfl
@[simp] theorem State.updDie_ports (s : State) (d : Nat) (f : Die → Die) : (s.updDie d f).ports = s.ports := rfl
@[simp] theorem State.updDie_reqs (s : State) (d : Nat) (f : Die → Die) : (s.updDie d f).reqs = s.reqs := rfl
@[simp] theorem State.updDie_gone (s : State) (d : Nat) (f : Die → Die) : (s.updDie d f).gone = s.gone := rfl
@[simp] theorem State.updDie_refusals (s : State) (d : Nat) (f : Die → Die) : (s.updDie d f).refusals = s.refusals := rfl
@[simp] theorem State.updDie_replies (s : State) (d : Nat) (f : Die → Die) : (s.updDie d f).replies = s.replies := rfl
@[simp] theorem State.updDie_bsums (s : State) (d : Nat) (f : Die → Die) : (s.updDie d f).bsums = s.bsums := rfl
@[simp] theorem State.updDie_bsumBuf (s : State) (d : Nat) (f : Die → Die) : (s.updDie d f).bsumBuf = s.bsumBuf := rfl
@[simp] theorem State.updDie_msgs (s : State) (d : Nat) (f : Die → Die) : (s.updDie d f).msgs = s.msgs := rfl
@[simp] theorem State.updDie_nextId (s : State) (d : Nat) (f : Die → Die) : (s.updDie d f).nextId = s.nextId := rfl
@[simp] theorem State.updDie_evictions (s : State) (d : Nat) (f : Die → Die) : (s.updDie d f).evictions = s.evictions := rfl
@[simp] theorem State.updDie_evRing (s : State) (d : Nat) (f : Die → Die) : (s.updDie d f).evRing = s.evRing := rfl
@[simp] theorem State.updDie_evWait (s : State) (d : Nat) (f : Die → Die) : (s.updDie d f).evWait = s.evWait := rfl
@[simp] theorem State.updDie_evLost (s : State) (d : Nat) (f : Die → Die) : (s.updDie d f).evLost = s.evLost := rfl
@[simp] theorem State.updDie_telRing (s : State) (d : Nat) (f : Die → Die) : (s.updDie d f).telRing = s.telRing := rfl
@[simp] theorem State.updDie_host (s : State) (d : Nat) (f : Die → Die) : (s.updDie d f).host = s.host := rfl
@[simp] theorem State.updDie_monitors (s : State) (d : Nat) (f : Die → Die) : (s.updDie d f).monitors = s.monitors := rfl
@[simp] theorem State.updDie_bootStat (s : State) (d : Nat) (f : Die → Die) : (s.updDie d f).bootStat = s.bootStat := rfl
@[simp] theorem State.updDie_meas (s : State) (d : Nat) (f : Die → Die) : (s.updDie d f).meas = s.meas := rfl
@[simp] theorem State.updDie_quote (s : State) (d : Nat) (f : Die → Die) : (s.updDie d f).quote = s.quote := rfl
@[simp] theorem State.updDie_life (s : State) (d : Nat) (f : Die → Die) : (s.updDie d f).life = s.life := rfl
@[simp] theorem State.updDie_keyGen (s : State) (d : Nat) (f : Die → Die) : (s.updDie d f).keyGen = s.keyGen := rfl
@[simp] theorem State.updDie_fuseEd (s : State) (d : Nat) (f : Die → Die) : (s.updDie d f).fuseEd = s.fuseEd := rfl
@[simp] theorem State.updDie_fuseMl (s : State) (d : Nat) (f : Die → Die) : (s.updDie d f).fuseMl = s.fuseMl := rfl
@[simp] theorem State.updDie_devId (s : State) (d : Nat) (f : Die → Die) : (s.updDie d f).devId = s.devId := rfl
@[simp] theorem State.updDie_dbgVal (s : State) (d : Nat) (f : Die → Die) : (s.updDie d f).dbgVal = s.dbgVal := rfl
@[simp] theorem State.updDie_dbgTag (s : State) (d : Nat) (f : Die → Die) : (s.updDie d f).dbgTag = s.dbgTag := rfl
@[simp] theorem State.updDie_outRead (s : State) (d : Nat) (f : Die → Die) : (s.updDie d f).outRead = s.outRead := rfl
@[simp] theorem State.updDie_outErr (s : State) (d : Nat) (f : Die → Die) : (s.updDie d f).outErr = s.outErr := rfl
@[simp] theorem State.updStk_now (s : State) (k : Nat) (f : Stack → Stack) : (s.updStk k f).now = s.now := rfl
@[simp] theorem State.updStk_fresh (s : State) (k : Nat) (f : Stack → Stack) : (s.updStk k f).fresh = s.fresh := rfl
@[simp] theorem State.updStk_oracle (s : State) (k : Nat) (f : Stack → Stack) : (s.updStk k f).oracle = s.oracle := rfl
@[simp] theorem State.updStk_agenda (s : State) (k : Nat) (f : Stack → Stack) : (s.updStk k f).agenda = s.agenda := rfl
@[simp] theorem State.updStk_wait (s : State) (k : Nat) (f : Stack → Stack) : (s.updStk k f).wait = s.wait := rfl
@[simp] theorem State.updStk_curCore (s : State) (k : Nat) (f : Stack → Stack) : (s.updStk k f).curCore = s.curCore := rfl
@[simp] theorem State.updStk_curHalf (s : State) (k : Nat) (f : Stack → Stack) : (s.updStk k f).curHalf = s.curHalf := rfl
@[simp] theorem State.updStk_mem (s : State) (k : Nat) (f : Stack → Stack) : (s.updStk k f).mem = s.mem := rfl
@[simp] theorem State.updStk_mtags (s : State) (k : Nat) (f : Stack → Stack) : (s.updStk k f).mtags = s.mtags := rfl
@[simp] theorem State.updStk_mstat (s : State) (k : Nat) (f : Stack → Stack) : (s.updStk k f).mstat = s.mstat := rfl
@[simp] theorem State.updStk_mkeys (s : State) (k : Nat) (f : Stack → Stack) : (s.updStk k f).mkeys = s.mkeys := rfl
@[simp] theorem State.updStk_cores (s : State) (k : Nat) (f : Stack → Stack) : (s.updStk k f).cores = s.cores := rfl
@[simp] theorem State.updStk_parts (s : State) (k : Nat) (f : Stack → Stack) : (s.updStk k f).parts = s.parts := rfl
@[simp] theorem State.updStk_clusters (s : State) (k : Nat) (f : Stack → Stack) : (s.updStk k f).clusters = s.clusters := rfl
@[simp] theorem State.updStk_dies (s : State) (k : Nat) (f : Stack → Stack) : (s.updStk k f).dies = s.dies := rfl
@[simp] theorem State.updStk_ports (s : State) (k : Nat) (f : Stack → Stack) : (s.updStk k f).ports = s.ports := rfl
@[simp] theorem State.updStk_reqs (s : State) (k : Nat) (f : Stack → Stack) : (s.updStk k f).reqs = s.reqs := rfl
@[simp] theorem State.updStk_gone (s : State) (k : Nat) (f : Stack → Stack) : (s.updStk k f).gone = s.gone := rfl
@[simp] theorem State.updStk_refusals (s : State) (k : Nat) (f : Stack → Stack) : (s.updStk k f).refusals = s.refusals := rfl
@[simp] theorem State.updStk_replies (s : State) (k : Nat) (f : Stack → Stack) : (s.updStk k f).replies = s.replies := rfl
@[simp] theorem State.updStk_bsums (s : State) (k : Nat) (f : Stack → Stack) : (s.updStk k f).bsums = s.bsums := rfl
@[simp] theorem State.updStk_bsumBuf (s : State) (k : Nat) (f : Stack → Stack) : (s.updStk k f).bsumBuf = s.bsumBuf := rfl
@[simp] theorem State.updStk_msgs (s : State) (k : Nat) (f : Stack → Stack) : (s.updStk k f).msgs = s.msgs := rfl
@[simp] theorem State.updStk_nextId (s : State) (k : Nat) (f : Stack → Stack) : (s.updStk k f).nextId = s.nextId := rfl
@[simp] theorem State.updStk_evictions (s : State) (k : Nat) (f : Stack → Stack) : (s.updStk k f).evictions = s.evictions := rfl
@[simp] theorem State.updStk_evRing (s : State) (k : Nat) (f : Stack → Stack) : (s.updStk k f).evRing = s.evRing := rfl
@[simp] theorem State.updStk_evWait (s : State) (k : Nat) (f : Stack → Stack) : (s.updStk k f).evWait = s.evWait := rfl
@[simp] theorem State.updStk_evLost (s : State) (k : Nat) (f : Stack → Stack) : (s.updStk k f).evLost = s.evLost := rfl
@[simp] theorem State.updStk_telRing (s : State) (k : Nat) (f : Stack → Stack) : (s.updStk k f).telRing = s.telRing := rfl
@[simp] theorem State.updStk_host (s : State) (k : Nat) (f : Stack → Stack) : (s.updStk k f).host = s.host := rfl
@[simp] theorem State.updStk_monitors (s : State) (k : Nat) (f : Stack → Stack) : (s.updStk k f).monitors = s.monitors := rfl
@[simp] theorem State.updStk_bootStat (s : State) (k : Nat) (f : Stack → Stack) : (s.updStk k f).bootStat = s.bootStat := rfl
@[simp] theorem State.updStk_meas (s : State) (k : Nat) (f : Stack → Stack) : (s.updStk k f).meas = s.meas := rfl
@[simp] theorem State.updStk_quote (s : State) (k : Nat) (f : Stack → Stack) : (s.updStk k f).quote = s.quote := rfl
@[simp] theorem State.updStk_life (s : State) (k : Nat) (f : Stack → Stack) : (s.updStk k f).life = s.life := rfl
@[simp] theorem State.updStk_keyGen (s : State) (k : Nat) (f : Stack → Stack) : (s.updStk k f).keyGen = s.keyGen := rfl
@[simp] theorem State.updStk_fuseEd (s : State) (k : Nat) (f : Stack → Stack) : (s.updStk k f).fuseEd = s.fuseEd := rfl
@[simp] theorem State.updStk_fuseMl (s : State) (k : Nat) (f : Stack → Stack) : (s.updStk k f).fuseMl = s.fuseMl := rfl
@[simp] theorem State.updStk_devId (s : State) (k : Nat) (f : Stack → Stack) : (s.updStk k f).devId = s.devId := rfl
@[simp] theorem State.updStk_dbgVal (s : State) (k : Nat) (f : Stack → Stack) : (s.updStk k f).dbgVal = s.dbgVal := rfl
@[simp] theorem State.updStk_dbgTag (s : State) (k : Nat) (f : Stack → Stack) : (s.updStk k f).dbgTag = s.dbgTag := rfl
@[simp] theorem State.updStk_outRead (s : State) (k : Nat) (f : Stack → Stack) : (s.updStk k f).outRead = s.outRead := rfl
@[simp] theorem State.updStk_outErr (s : State) (k : Nat) (f : Stack → Stack) : (s.updStk k f).outErr = s.outErr := rfl
@[simp] theorem State.updPort_now (s : State) (p : Nat) (f : LinkPort → LinkPort) : (s.updPort p f).now = s.now := rfl
@[simp] theorem State.updPort_fresh (s : State) (p : Nat) (f : LinkPort → LinkPort) : (s.updPort p f).fresh = s.fresh := rfl
@[simp] theorem State.updPort_oracle (s : State) (p : Nat) (f : LinkPort → LinkPort) : (s.updPort p f).oracle = s.oracle := rfl
@[simp] theorem State.updPort_agenda (s : State) (p : Nat) (f : LinkPort → LinkPort) : (s.updPort p f).agenda = s.agenda := rfl
@[simp] theorem State.updPort_wait (s : State) (p : Nat) (f : LinkPort → LinkPort) : (s.updPort p f).wait = s.wait := rfl
@[simp] theorem State.updPort_curCore (s : State) (p : Nat) (f : LinkPort → LinkPort) : (s.updPort p f).curCore = s.curCore := rfl
@[simp] theorem State.updPort_curHalf (s : State) (p : Nat) (f : LinkPort → LinkPort) : (s.updPort p f).curHalf = s.curHalf := rfl
@[simp] theorem State.updPort_mem (s : State) (p : Nat) (f : LinkPort → LinkPort) : (s.updPort p f).mem = s.mem := rfl
@[simp] theorem State.updPort_mtags (s : State) (p : Nat) (f : LinkPort → LinkPort) : (s.updPort p f).mtags = s.mtags := rfl
@[simp] theorem State.updPort_mstat (s : State) (p : Nat) (f : LinkPort → LinkPort) : (s.updPort p f).mstat = s.mstat := rfl
@[simp] theorem State.updPort_mkeys (s : State) (p : Nat) (f : LinkPort → LinkPort) : (s.updPort p f).mkeys = s.mkeys := rfl
@[simp] theorem State.updPort_cores (s : State) (p : Nat) (f : LinkPort → LinkPort) : (s.updPort p f).cores = s.cores := rfl
@[simp] theorem State.updPort_parts (s : State) (p : Nat) (f : LinkPort → LinkPort) : (s.updPort p f).parts = s.parts := rfl
@[simp] theorem State.updPort_clusters (s : State) (p : Nat) (f : LinkPort → LinkPort) : (s.updPort p f).clusters = s.clusters := rfl
@[simp] theorem State.updPort_dies (s : State) (p : Nat) (f : LinkPort → LinkPort) : (s.updPort p f).dies = s.dies := rfl
@[simp] theorem State.updPort_hbm (s : State) (p : Nat) (f : LinkPort → LinkPort) : (s.updPort p f).hbm = s.hbm := rfl
@[simp] theorem State.updPort_reqs (s : State) (p : Nat) (f : LinkPort → LinkPort) : (s.updPort p f).reqs = s.reqs := rfl
@[simp] theorem State.updPort_gone (s : State) (p : Nat) (f : LinkPort → LinkPort) : (s.updPort p f).gone = s.gone := rfl
@[simp] theorem State.updPort_refusals (s : State) (p : Nat) (f : LinkPort → LinkPort) : (s.updPort p f).refusals = s.refusals := rfl
@[simp] theorem State.updPort_replies (s : State) (p : Nat) (f : LinkPort → LinkPort) : (s.updPort p f).replies = s.replies := rfl
@[simp] theorem State.updPort_bsums (s : State) (p : Nat) (f : LinkPort → LinkPort) : (s.updPort p f).bsums = s.bsums := rfl
@[simp] theorem State.updPort_bsumBuf (s : State) (p : Nat) (f : LinkPort → LinkPort) : (s.updPort p f).bsumBuf = s.bsumBuf := rfl
@[simp] theorem State.updPort_msgs (s : State) (p : Nat) (f : LinkPort → LinkPort) : (s.updPort p f).msgs = s.msgs := rfl
@[simp] theorem State.updPort_nextId (s : State) (p : Nat) (f : LinkPort → LinkPort) : (s.updPort p f).nextId = s.nextId := rfl
@[simp] theorem State.updPort_evictions (s : State) (p : Nat) (f : LinkPort → LinkPort) : (s.updPort p f).evictions = s.evictions := rfl
@[simp] theorem State.updPort_evRing (s : State) (p : Nat) (f : LinkPort → LinkPort) : (s.updPort p f).evRing = s.evRing := rfl
@[simp] theorem State.updPort_evWait (s : State) (p : Nat) (f : LinkPort → LinkPort) : (s.updPort p f).evWait = s.evWait := rfl
@[simp] theorem State.updPort_evLost (s : State) (p : Nat) (f : LinkPort → LinkPort) : (s.updPort p f).evLost = s.evLost := rfl
@[simp] theorem State.updPort_telRing (s : State) (p : Nat) (f : LinkPort → LinkPort) : (s.updPort p f).telRing = s.telRing := rfl
@[simp] theorem State.updPort_host (s : State) (p : Nat) (f : LinkPort → LinkPort) : (s.updPort p f).host = s.host := rfl
@[simp] theorem State.updPort_monitors (s : State) (p : Nat) (f : LinkPort → LinkPort) : (s.updPort p f).monitors = s.monitors := rfl
@[simp] theorem State.updPort_bootStat (s : State) (p : Nat) (f : LinkPort → LinkPort) : (s.updPort p f).bootStat = s.bootStat := rfl
@[simp] theorem State.updPort_meas (s : State) (p : Nat) (f : LinkPort → LinkPort) : (s.updPort p f).meas = s.meas := rfl
@[simp] theorem State.updPort_quote (s : State) (p : Nat) (f : LinkPort → LinkPort) : (s.updPort p f).quote = s.quote := rfl
@[simp] theorem State.updPort_life (s : State) (p : Nat) (f : LinkPort → LinkPort) : (s.updPort p f).life = s.life := rfl
@[simp] theorem State.updPort_keyGen (s : State) (p : Nat) (f : LinkPort → LinkPort) : (s.updPort p f).keyGen = s.keyGen := rfl
@[simp] theorem State.updPort_fuseEd (s : State) (p : Nat) (f : LinkPort → LinkPort) : (s.updPort p f).fuseEd = s.fuseEd := rfl
@[simp] theorem State.updPort_fuseMl (s : State) (p : Nat) (f : LinkPort → LinkPort) : (s.updPort p f).fuseMl = s.fuseMl := rfl
@[simp] theorem State.updPort_devId (s : State) (p : Nat) (f : LinkPort → LinkPort) : (s.updPort p f).devId = s.devId := rfl
@[simp] theorem State.updPort_dbgVal (s : State) (p : Nat) (f : LinkPort → LinkPort) : (s.updPort p f).dbgVal = s.dbgVal := rfl
@[simp] theorem State.updPort_dbgTag (s : State) (p : Nat) (f : LinkPort → LinkPort) : (s.updPort p f).dbgTag = s.dbgTag := rfl
@[simp] theorem State.updPort_outRead (s : State) (p : Nat) (f : LinkPort → LinkPort) : (s.updPort p f).outRead = s.outRead := rfl
@[simp] theorem State.updPort_outErr (s : State) (p : Nat) (f : LinkPort → LinkPort) : (s.updPort p f).outErr = s.outErr := rfl
@[simp] theorem State.memWrite_now (s : State) (pa : Nat) (bs : List Byte) : (s.memWrite pa bs).now = s.now := rfl
@[simp] theorem State.memWrite_fresh (s : State) (pa : Nat) (bs : List Byte) : (s.memWrite pa bs).fresh = s.fresh := rfl
@[simp] theorem State.memWrite_oracle (s : State) (pa : Nat) (bs : List Byte) : (s.memWrite pa bs).oracle = s.oracle := rfl
@[simp] theorem State.memWrite_agenda (s : State) (pa : Nat) (bs : List Byte) : (s.memWrite pa bs).agenda = s.agenda := rfl
@[simp] theorem State.memWrite_wait (s : State) (pa : Nat) (bs : List Byte) : (s.memWrite pa bs).wait = s.wait := rfl
@[simp] theorem State.memWrite_curCore (s : State) (pa : Nat) (bs : List Byte) : (s.memWrite pa bs).curCore = s.curCore := rfl
@[simp] theorem State.memWrite_curHalf (s : State) (pa : Nat) (bs : List Byte) : (s.memWrite pa bs).curHalf = s.curHalf := rfl
@[simp] theorem State.memWrite_mtags (s : State) (pa : Nat) (bs : List Byte) : (s.memWrite pa bs).mtags = s.mtags := rfl
@[simp] theorem State.memWrite_mstat (s : State) (pa : Nat) (bs : List Byte) : (s.memWrite pa bs).mstat = s.mstat := rfl
@[simp] theorem State.memWrite_mkeys (s : State) (pa : Nat) (bs : List Byte) : (s.memWrite pa bs).mkeys = s.mkeys := rfl
@[simp] theorem State.memWrite_cores (s : State) (pa : Nat) (bs : List Byte) : (s.memWrite pa bs).cores = s.cores := rfl
@[simp] theorem State.memWrite_parts (s : State) (pa : Nat) (bs : List Byte) : (s.memWrite pa bs).parts = s.parts := rfl
@[simp] theorem State.memWrite_clusters (s : State) (pa : Nat) (bs : List Byte) : (s.memWrite pa bs).clusters = s.clusters := rfl
@[simp] theorem State.memWrite_dies (s : State) (pa : Nat) (bs : List Byte) : (s.memWrite pa bs).dies = s.dies := rfl
@[simp] theorem State.memWrite_hbm (s : State) (pa : Nat) (bs : List Byte) : (s.memWrite pa bs).hbm = s.hbm := rfl
@[simp] theorem State.memWrite_ports (s : State) (pa : Nat) (bs : List Byte) : (s.memWrite pa bs).ports = s.ports := rfl
@[simp] theorem State.memWrite_reqs (s : State) (pa : Nat) (bs : List Byte) : (s.memWrite pa bs).reqs = s.reqs := rfl
@[simp] theorem State.memWrite_gone (s : State) (pa : Nat) (bs : List Byte) : (s.memWrite pa bs).gone = s.gone := rfl
@[simp] theorem State.memWrite_refusals (s : State) (pa : Nat) (bs : List Byte) : (s.memWrite pa bs).refusals = s.refusals := rfl
@[simp] theorem State.memWrite_replies (s : State) (pa : Nat) (bs : List Byte) : (s.memWrite pa bs).replies = s.replies := rfl
@[simp] theorem State.memWrite_bsums (s : State) (pa : Nat) (bs : List Byte) : (s.memWrite pa bs).bsums = s.bsums := rfl
@[simp] theorem State.memWrite_bsumBuf (s : State) (pa : Nat) (bs : List Byte) : (s.memWrite pa bs).bsumBuf = s.bsumBuf := rfl
@[simp] theorem State.memWrite_msgs (s : State) (pa : Nat) (bs : List Byte) : (s.memWrite pa bs).msgs = s.msgs := rfl
@[simp] theorem State.memWrite_nextId (s : State) (pa : Nat) (bs : List Byte) : (s.memWrite pa bs).nextId = s.nextId := rfl
@[simp] theorem State.memWrite_evictions (s : State) (pa : Nat) (bs : List Byte) : (s.memWrite pa bs).evictions = s.evictions := rfl
@[simp] theorem State.memWrite_evRing (s : State) (pa : Nat) (bs : List Byte) : (s.memWrite pa bs).evRing = s.evRing := rfl
@[simp] theorem State.memWrite_evWait (s : State) (pa : Nat) (bs : List Byte) : (s.memWrite pa bs).evWait = s.evWait := rfl
@[simp] theorem State.memWrite_evLost (s : State) (pa : Nat) (bs : List Byte) : (s.memWrite pa bs).evLost = s.evLost := rfl
@[simp] theorem State.memWrite_telRing (s : State) (pa : Nat) (bs : List Byte) : (s.memWrite pa bs).telRing = s.telRing := rfl
@[simp] theorem State.memWrite_host (s : State) (pa : Nat) (bs : List Byte) : (s.memWrite pa bs).host = s.host := rfl
@[simp] theorem State.memWrite_monitors (s : State) (pa : Nat) (bs : List Byte) : (s.memWrite pa bs).monitors = s.monitors := rfl
@[simp] theorem State.memWrite_bootStat (s : State) (pa : Nat) (bs : List Byte) : (s.memWrite pa bs).bootStat = s.bootStat := rfl
@[simp] theorem State.memWrite_meas (s : State) (pa : Nat) (bs : List Byte) : (s.memWrite pa bs).meas = s.meas := rfl
@[simp] theorem State.memWrite_quote (s : State) (pa : Nat) (bs : List Byte) : (s.memWrite pa bs).quote = s.quote := rfl
@[simp] theorem State.memWrite_life (s : State) (pa : Nat) (bs : List Byte) : (s.memWrite pa bs).life = s.life := rfl
@[simp] theorem State.memWrite_keyGen (s : State) (pa : Nat) (bs : List Byte) : (s.memWrite pa bs).keyGen = s.keyGen := rfl
@[simp] theorem State.memWrite_fuseEd (s : State) (pa : Nat) (bs : List Byte) : (s.memWrite pa bs).fuseEd = s.fuseEd := rfl
@[simp] theorem State.memWrite_fuseMl (s : State) (pa : Nat) (bs : List Byte) : (s.memWrite pa bs).fuseMl = s.fuseMl := rfl
@[simp] theorem State.memWrite_devId (s : State) (pa : Nat) (bs : List Byte) : (s.memWrite pa bs).devId = s.devId := rfl
@[simp] theorem State.memWrite_dbgVal (s : State) (pa : Nat) (bs : List Byte) : (s.memWrite pa bs).dbgVal = s.dbgVal := rfl
@[simp] theorem State.memWrite_dbgTag (s : State) (pa : Nat) (bs : List Byte) : (s.memWrite pa bs).dbgTag = s.dbgTag := rfl
@[simp] theorem State.memWrite_outRead (s : State) (pa : Nat) (bs : List Byte) : (s.memWrite pa bs).outRead = s.outRead := rfl
@[simp] theorem State.memWrite_outErr (s : State) (pa : Nat) (bs : List Byte) : (s.memWrite pa bs).outErr = s.outErr := rfl
@[simp] theorem State.setMemTag_now (s : State) (g : Nat) (t : Tag) : (s.setMemTag g t).now = s.now := rfl
@[simp] theorem State.setMemTag_fresh (s : State) (g : Nat) (t : Tag) : (s.setMemTag g t).fresh = s.fresh := rfl
@[simp] theorem State.setMemTag_oracle (s : State) (g : Nat) (t : Tag) : (s.setMemTag g t).oracle = s.oracle := rfl
@[simp] theorem State.setMemTag_agenda (s : State) (g : Nat) (t : Tag) : (s.setMemTag g t).agenda = s.agenda := rfl
@[simp] theorem State.setMemTag_wait (s : State) (g : Nat) (t : Tag) : (s.setMemTag g t).wait = s.wait := rfl
@[simp] theorem State.setMemTag_curCore (s : State) (g : Nat) (t : Tag) : (s.setMemTag g t).curCore = s.curCore := rfl
@[simp] theorem State.setMemTag_curHalf (s : State) (g : Nat) (t : Tag) : (s.setMemTag g t).curHalf = s.curHalf := rfl
@[simp] theorem State.setMemTag_mem (s : State) (g : Nat) (t : Tag) : (s.setMemTag g t).mem = s.mem := rfl
@[simp] theorem State.setMemTag_mstat (s : State) (g : Nat) (t : Tag) : (s.setMemTag g t).mstat = s.mstat := rfl
@[simp] theorem State.setMemTag_mkeys (s : State) (g : Nat) (t : Tag) : (s.setMemTag g t).mkeys = s.mkeys := rfl
@[simp] theorem State.setMemTag_cores (s : State) (g : Nat) (t : Tag) : (s.setMemTag g t).cores = s.cores := rfl
@[simp] theorem State.setMemTag_parts (s : State) (g : Nat) (t : Tag) : (s.setMemTag g t).parts = s.parts := rfl
@[simp] theorem State.setMemTag_clusters (s : State) (g : Nat) (t : Tag) : (s.setMemTag g t).clusters = s.clusters := rfl
@[simp] theorem State.setMemTag_dies (s : State) (g : Nat) (t : Tag) : (s.setMemTag g t).dies = s.dies := rfl
@[simp] theorem State.setMemTag_hbm (s : State) (g : Nat) (t : Tag) : (s.setMemTag g t).hbm = s.hbm := rfl
@[simp] theorem State.setMemTag_ports (s : State) (g : Nat) (t : Tag) : (s.setMemTag g t).ports = s.ports := rfl
@[simp] theorem State.setMemTag_reqs (s : State) (g : Nat) (t : Tag) : (s.setMemTag g t).reqs = s.reqs := rfl
@[simp] theorem State.setMemTag_gone (s : State) (g : Nat) (t : Tag) : (s.setMemTag g t).gone = s.gone := rfl
@[simp] theorem State.setMemTag_refusals (s : State) (g : Nat) (t : Tag) : (s.setMemTag g t).refusals = s.refusals := rfl
@[simp] theorem State.setMemTag_replies (s : State) (g : Nat) (t : Tag) : (s.setMemTag g t).replies = s.replies := rfl
@[simp] theorem State.setMemTag_bsums (s : State) (g : Nat) (t : Tag) : (s.setMemTag g t).bsums = s.bsums := rfl
@[simp] theorem State.setMemTag_bsumBuf (s : State) (g : Nat) (t : Tag) : (s.setMemTag g t).bsumBuf = s.bsumBuf := rfl
@[simp] theorem State.setMemTag_msgs (s : State) (g : Nat) (t : Tag) : (s.setMemTag g t).msgs = s.msgs := rfl
@[simp] theorem State.setMemTag_nextId (s : State) (g : Nat) (t : Tag) : (s.setMemTag g t).nextId = s.nextId := rfl
@[simp] theorem State.setMemTag_evictions (s : State) (g : Nat) (t : Tag) : (s.setMemTag g t).evictions = s.evictions := rfl
@[simp] theorem State.setMemTag_evRing (s : State) (g : Nat) (t : Tag) : (s.setMemTag g t).evRing = s.evRing := rfl
@[simp] theorem State.setMemTag_evWait (s : State) (g : Nat) (t : Tag) : (s.setMemTag g t).evWait = s.evWait := rfl
@[simp] theorem State.setMemTag_evLost (s : State) (g : Nat) (t : Tag) : (s.setMemTag g t).evLost = s.evLost := rfl
@[simp] theorem State.setMemTag_telRing (s : State) (g : Nat) (t : Tag) : (s.setMemTag g t).telRing = s.telRing := rfl
@[simp] theorem State.setMemTag_host (s : State) (g : Nat) (t : Tag) : (s.setMemTag g t).host = s.host := rfl
@[simp] theorem State.setMemTag_monitors (s : State) (g : Nat) (t : Tag) : (s.setMemTag g t).monitors = s.monitors := rfl
@[simp] theorem State.setMemTag_bootStat (s : State) (g : Nat) (t : Tag) : (s.setMemTag g t).bootStat = s.bootStat := rfl
@[simp] theorem State.setMemTag_meas (s : State) (g : Nat) (t : Tag) : (s.setMemTag g t).meas = s.meas := rfl
@[simp] theorem State.setMemTag_quote (s : State) (g : Nat) (t : Tag) : (s.setMemTag g t).quote = s.quote := rfl
@[simp] theorem State.setMemTag_life (s : State) (g : Nat) (t : Tag) : (s.setMemTag g t).life = s.life := rfl
@[simp] theorem State.setMemTag_keyGen (s : State) (g : Nat) (t : Tag) : (s.setMemTag g t).keyGen = s.keyGen := rfl
@[simp] theorem State.setMemTag_fuseEd (s : State) (g : Nat) (t : Tag) : (s.setMemTag g t).fuseEd = s.fuseEd := rfl
@[simp] theorem State.setMemTag_fuseMl (s : State) (g : Nat) (t : Tag) : (s.setMemTag g t).fuseMl = s.fuseMl := rfl
@[simp] theorem State.setMemTag_devId (s : State) (g : Nat) (t : Tag) : (s.setMemTag g t).devId = s.devId := rfl
@[simp] theorem State.setMemTag_dbgVal (s : State) (g : Nat) (t : Tag) : (s.setMemTag g t).dbgVal = s.dbgVal := rfl
@[simp] theorem State.setMemTag_dbgTag (s : State) (g : Nat) (t : Tag) : (s.setMemTag g t).dbgTag = s.dbgTag := rfl
@[simp] theorem State.setMemTag_outRead (s : State) (g : Nat) (t : Tag) : (s.setMemTag g t).outRead = s.outRead := rfl
@[simp] theorem State.setMemTag_outErr (s : State) (g : Nat) (t : Tag) : (s.setMemTag g t).outErr = s.outErr := rfl
@[simp] theorem State.setMemStat_now (s : State) (g : Nat) (v : GStat) : (s.setMemStat g v).now = s.now := rfl
@[simp] theorem State.setMemStat_fresh (s : State) (g : Nat) (v : GStat) : (s.setMemStat g v).fresh = s.fresh := rfl
@[simp] theorem State.setMemStat_oracle (s : State) (g : Nat) (v : GStat) : (s.setMemStat g v).oracle = s.oracle := rfl
@[simp] theorem State.setMemStat_agenda (s : State) (g : Nat) (v : GStat) : (s.setMemStat g v).agenda = s.agenda := rfl
@[simp] theorem State.setMemStat_wait (s : State) (g : Nat) (v : GStat) : (s.setMemStat g v).wait = s.wait := rfl
@[simp] theorem State.setMemStat_curCore (s : State) (g : Nat) (v : GStat) : (s.setMemStat g v).curCore = s.curCore := rfl
@[simp] theorem State.setMemStat_curHalf (s : State) (g : Nat) (v : GStat) : (s.setMemStat g v).curHalf = s.curHalf := rfl
@[simp] theorem State.setMemStat_mem (s : State) (g : Nat) (v : GStat) : (s.setMemStat g v).mem = s.mem := rfl
@[simp] theorem State.setMemStat_mtags (s : State) (g : Nat) (v : GStat) : (s.setMemStat g v).mtags = s.mtags := rfl
@[simp] theorem State.setMemStat_mkeys (s : State) (g : Nat) (v : GStat) : (s.setMemStat g v).mkeys = s.mkeys := rfl
@[simp] theorem State.setMemStat_cores (s : State) (g : Nat) (v : GStat) : (s.setMemStat g v).cores = s.cores := rfl
@[simp] theorem State.setMemStat_parts (s : State) (g : Nat) (v : GStat) : (s.setMemStat g v).parts = s.parts := rfl
@[simp] theorem State.setMemStat_clusters (s : State) (g : Nat) (v : GStat) : (s.setMemStat g v).clusters = s.clusters := rfl
@[simp] theorem State.setMemStat_dies (s : State) (g : Nat) (v : GStat) : (s.setMemStat g v).dies = s.dies := rfl
@[simp] theorem State.setMemStat_hbm (s : State) (g : Nat) (v : GStat) : (s.setMemStat g v).hbm = s.hbm := rfl
@[simp] theorem State.setMemStat_ports (s : State) (g : Nat) (v : GStat) : (s.setMemStat g v).ports = s.ports := rfl
@[simp] theorem State.setMemStat_reqs (s : State) (g : Nat) (v : GStat) : (s.setMemStat g v).reqs = s.reqs := rfl
@[simp] theorem State.setMemStat_gone (s : State) (g : Nat) (v : GStat) : (s.setMemStat g v).gone = s.gone := rfl
@[simp] theorem State.setMemStat_refusals (s : State) (g : Nat) (v : GStat) : (s.setMemStat g v).refusals = s.refusals := rfl
@[simp] theorem State.setMemStat_replies (s : State) (g : Nat) (v : GStat) : (s.setMemStat g v).replies = s.replies := rfl
@[simp] theorem State.setMemStat_bsums (s : State) (g : Nat) (v : GStat) : (s.setMemStat g v).bsums = s.bsums := rfl
@[simp] theorem State.setMemStat_bsumBuf (s : State) (g : Nat) (v : GStat) : (s.setMemStat g v).bsumBuf = s.bsumBuf := rfl
@[simp] theorem State.setMemStat_msgs (s : State) (g : Nat) (v : GStat) : (s.setMemStat g v).msgs = s.msgs := rfl
@[simp] theorem State.setMemStat_nextId (s : State) (g : Nat) (v : GStat) : (s.setMemStat g v).nextId = s.nextId := rfl
@[simp] theorem State.setMemStat_evictions (s : State) (g : Nat) (v : GStat) : (s.setMemStat g v).evictions = s.evictions := rfl
@[simp] theorem State.setMemStat_evRing (s : State) (g : Nat) (v : GStat) : (s.setMemStat g v).evRing = s.evRing := rfl
@[simp] theorem State.setMemStat_evWait (s : State) (g : Nat) (v : GStat) : (s.setMemStat g v).evWait = s.evWait := rfl
@[simp] theorem State.setMemStat_evLost (s : State) (g : Nat) (v : GStat) : (s.setMemStat g v).evLost = s.evLost := rfl
@[simp] theorem State.setMemStat_telRing (s : State) (g : Nat) (v : GStat) : (s.setMemStat g v).telRing = s.telRing := rfl
@[simp] theorem State.setMemStat_host (s : State) (g : Nat) (v : GStat) : (s.setMemStat g v).host = s.host := rfl
@[simp] theorem State.setMemStat_monitors (s : State) (g : Nat) (v : GStat) : (s.setMemStat g v).monitors = s.monitors := rfl
@[simp] theorem State.setMemStat_bootStat (s : State) (g : Nat) (v : GStat) : (s.setMemStat g v).bootStat = s.bootStat := rfl
@[simp] theorem State.setMemStat_meas (s : State) (g : Nat) (v : GStat) : (s.setMemStat g v).meas = s.meas := rfl
@[simp] theorem State.setMemStat_quote (s : State) (g : Nat) (v : GStat) : (s.setMemStat g v).quote = s.quote := rfl
@[simp] theorem State.setMemStat_life (s : State) (g : Nat) (v : GStat) : (s.setMemStat g v).life = s.life := rfl
@[simp] theorem State.setMemStat_keyGen (s : State) (g : Nat) (v : GStat) : (s.setMemStat g v).keyGen = s.keyGen := rfl
@[simp] theorem State.setMemStat_fuseEd (s : State) (g : Nat) (v : GStat) : (s.setMemStat g v).fuseEd = s.fuseEd := rfl
@[simp] theorem State.setMemStat_fuseMl (s : State) (g : Nat) (v : GStat) : (s.setMemStat g v).fuseMl = s.fuseMl := rfl
@[simp] theorem State.setMemStat_devId (s : State) (g : Nat) (v : GStat) : (s.setMemStat g v).devId = s.devId := rfl
@[simp] theorem State.setMemStat_dbgVal (s : State) (g : Nat) (v : GStat) : (s.setMemStat g v).dbgVal = s.dbgVal := rfl
@[simp] theorem State.setMemStat_dbgTag (s : State) (g : Nat) (v : GStat) : (s.setMemStat g v).dbgTag = s.dbgTag := rfl
@[simp] theorem State.setMemStat_outRead (s : State) (g : Nat) (v : GStat) : (s.setMemStat g v).outRead = s.outRead := rfl
@[simp] theorem State.setMemStat_outErr (s : State) (g : Nat) (v : GStat) : (s.setMemStat g v).outErr = s.outErr := rfl
@[simp] theorem State.post_now (s : State) (e : Event) : (s.post e).now = s.now := by
  unfold State.post; dsimp only; split <;> rfl
@[simp] theorem State.post_fresh (s : State) (e : Event) : (s.post e).fresh = s.fresh := by
  unfold State.post; dsimp only; split <;> rfl
@[simp] theorem State.post_oracle (s : State) (e : Event) : (s.post e).oracle = s.oracle := by
  unfold State.post; dsimp only; split <;> rfl
@[simp] theorem State.post_agenda (s : State) (e : Event) : (s.post e).agenda = s.agenda := by
  unfold State.post; dsimp only; split <;> rfl
@[simp] theorem State.post_wait (s : State) (e : Event) : (s.post e).wait = s.wait := by
  unfold State.post; dsimp only; split <;> rfl
@[simp] theorem State.post_curCore (s : State) (e : Event) : (s.post e).curCore = s.curCore := by
  unfold State.post; dsimp only; split <;> rfl
@[simp] theorem State.post_curHalf (s : State) (e : Event) : (s.post e).curHalf = s.curHalf := by
  unfold State.post; dsimp only; split <;> rfl
@[simp] theorem State.post_mem (s : State) (e : Event) : (s.post e).mem = s.mem := by
  unfold State.post; dsimp only; split <;> rfl
@[simp] theorem State.post_mtags (s : State) (e : Event) : (s.post e).mtags = s.mtags := by
  unfold State.post; dsimp only; split <;> rfl
@[simp] theorem State.post_mstat (s : State) (e : Event) : (s.post e).mstat = s.mstat := by
  unfold State.post; dsimp only; split <;> rfl
@[simp] theorem State.post_mkeys (s : State) (e : Event) : (s.post e).mkeys = s.mkeys := by
  unfold State.post; dsimp only; split <;> rfl
@[simp] theorem State.post_cores (s : State) (e : Event) : (s.post e).cores = s.cores := by
  unfold State.post; dsimp only; split <;> rfl
@[simp] theorem State.post_parts (s : State) (e : Event) : (s.post e).parts = s.parts := by
  unfold State.post; dsimp only; split <;> rfl
@[simp] theorem State.post_clusters (s : State) (e : Event) : (s.post e).clusters = s.clusters := by
  unfold State.post; dsimp only; split <;> rfl
@[simp] theorem State.post_dies (s : State) (e : Event) : (s.post e).dies = s.dies := by
  unfold State.post; dsimp only; split <;> rfl
@[simp] theorem State.post_hbm (s : State) (e : Event) : (s.post e).hbm = s.hbm := by
  unfold State.post; dsimp only; split <;> rfl
@[simp] theorem State.post_ports (s : State) (e : Event) : (s.post e).ports = s.ports := by
  unfold State.post; dsimp only; split <;> rfl
@[simp] theorem State.post_reqs (s : State) (e : Event) : (s.post e).reqs = s.reqs := by
  unfold State.post; dsimp only; split <;> rfl
@[simp] theorem State.post_gone (s : State) (e : Event) : (s.post e).gone = s.gone := by
  unfold State.post; dsimp only; split <;> rfl
@[simp] theorem State.post_refusals (s : State) (e : Event) : (s.post e).refusals = s.refusals := by
  unfold State.post; dsimp only; split <;> rfl
@[simp] theorem State.post_replies (s : State) (e : Event) : (s.post e).replies = s.replies := by
  unfold State.post; dsimp only; split <;> rfl
@[simp] theorem State.post_bsums (s : State) (e : Event) : (s.post e).bsums = s.bsums := by
  unfold State.post; dsimp only; split <;> rfl
@[simp] theorem State.post_bsumBuf (s : State) (e : Event) : (s.post e).bsumBuf = s.bsumBuf := by
  unfold State.post; dsimp only; split <;> rfl
@[simp] theorem State.post_msgs (s : State) (e : Event) : (s.post e).msgs = s.msgs := by
  unfold State.post; dsimp only; split <;> rfl
@[simp] theorem State.post_nextId (s : State) (e : Event) : (s.post e).nextId = s.nextId := by
  unfold State.post; dsimp only; split <;> rfl
@[simp] theorem State.post_evictions (s : State) (e : Event) : (s.post e).evictions = s.evictions := by
  unfold State.post; dsimp only; split <;> rfl
@[simp] theorem State.post_telRing (s : State) (e : Event) : (s.post e).telRing = s.telRing := by
  unfold State.post; dsimp only; split <;> rfl
@[simp] theorem State.post_host (s : State) (e : Event) : (s.post e).host = s.host := by
  unfold State.post; dsimp only; split <;> rfl
@[simp] theorem State.post_monitors (s : State) (e : Event) : (s.post e).monitors = s.monitors := by
  unfold State.post; dsimp only; split <;> rfl
@[simp] theorem State.post_bootStat (s : State) (e : Event) : (s.post e).bootStat = s.bootStat := by
  unfold State.post; dsimp only; split <;> rfl
@[simp] theorem State.post_meas (s : State) (e : Event) : (s.post e).meas = s.meas := by
  unfold State.post; dsimp only; split <;> rfl
@[simp] theorem State.post_quote (s : State) (e : Event) : (s.post e).quote = s.quote := by
  unfold State.post; dsimp only; split <;> rfl
@[simp] theorem State.post_life (s : State) (e : Event) : (s.post e).life = s.life := by
  unfold State.post; dsimp only; split <;> rfl
@[simp] theorem State.post_keyGen (s : State) (e : Event) : (s.post e).keyGen = s.keyGen := by
  unfold State.post; dsimp only; split <;> rfl
@[simp] theorem State.post_fuseEd (s : State) (e : Event) : (s.post e).fuseEd = s.fuseEd := by
  unfold State.post; dsimp only; split <;> rfl
@[simp] theorem State.post_fuseMl (s : State) (e : Event) : (s.post e).fuseMl = s.fuseMl := by
  unfold State.post; dsimp only; split <;> rfl
@[simp] theorem State.post_devId (s : State) (e : Event) : (s.post e).devId = s.devId := by
  unfold State.post; dsimp only; split <;> rfl
@[simp] theorem State.post_dbgVal (s : State) (e : Event) : (s.post e).dbgVal = s.dbgVal := by
  unfold State.post; dsimp only; split <;> rfl
@[simp] theorem State.post_dbgTag (s : State) (e : Event) : (s.post e).dbgTag = s.dbgTag := by
  unfold State.post; dsimp only; split <;> rfl
@[simp] theorem State.post_outRead (s : State) (e : Event) : (s.post e).outRead = s.outRead := by
  unfold State.post; dsimp only; split <;> rfl
@[simp] theorem State.post_outErr (s : State) (e : Event) : (s.post e).outErr = s.outErr := by
  unfold State.post; dsimp only; split <;> rfl
@[simp] theorem State.event_now (s : State) (kind die : Nat) (fields : List Nat) : (s.event kind die fields).now = s.now := by
  unfold State.event; simp
@[simp] theorem State.event_fresh (s : State) (kind die : Nat) (fields : List Nat) : (s.event kind die fields).fresh = s.fresh := by
  unfold State.event; simp
@[simp] theorem State.event_oracle (s : State) (kind die : Nat) (fields : List Nat) : (s.event kind die fields).oracle = s.oracle := by
  unfold State.event; simp
@[simp] theorem State.event_agenda (s : State) (kind die : Nat) (fields : List Nat) : (s.event kind die fields).agenda = s.agenda := by
  unfold State.event; simp
@[simp] theorem State.event_wait (s : State) (kind die : Nat) (fields : List Nat) : (s.event kind die fields).wait = s.wait := by
  unfold State.event; simp
@[simp] theorem State.event_curCore (s : State) (kind die : Nat) (fields : List Nat) : (s.event kind die fields).curCore = s.curCore := by
  unfold State.event; simp
@[simp] theorem State.event_curHalf (s : State) (kind die : Nat) (fields : List Nat) : (s.event kind die fields).curHalf = s.curHalf := by
  unfold State.event; simp
@[simp] theorem State.event_mem (s : State) (kind die : Nat) (fields : List Nat) : (s.event kind die fields).mem = s.mem := by
  unfold State.event; simp
@[simp] theorem State.event_mtags (s : State) (kind die : Nat) (fields : List Nat) : (s.event kind die fields).mtags = s.mtags := by
  unfold State.event; simp
@[simp] theorem State.event_mstat (s : State) (kind die : Nat) (fields : List Nat) : (s.event kind die fields).mstat = s.mstat := by
  unfold State.event; simp
@[simp] theorem State.event_mkeys (s : State) (kind die : Nat) (fields : List Nat) : (s.event kind die fields).mkeys = s.mkeys := by
  unfold State.event; simp
@[simp] theorem State.event_cores (s : State) (kind die : Nat) (fields : List Nat) : (s.event kind die fields).cores = s.cores := by
  unfold State.event; simp
@[simp] theorem State.event_parts (s : State) (kind die : Nat) (fields : List Nat) : (s.event kind die fields).parts = s.parts := by
  unfold State.event; simp
@[simp] theorem State.event_clusters (s : State) (kind die : Nat) (fields : List Nat) : (s.event kind die fields).clusters = s.clusters := by
  unfold State.event; simp
@[simp] theorem State.event_dies (s : State) (kind die : Nat) (fields : List Nat) : (s.event kind die fields).dies = s.dies := by
  unfold State.event; simp
@[simp] theorem State.event_hbm (s : State) (kind die : Nat) (fields : List Nat) : (s.event kind die fields).hbm = s.hbm := by
  unfold State.event; simp
@[simp] theorem State.event_ports (s : State) (kind die : Nat) (fields : List Nat) : (s.event kind die fields).ports = s.ports := by
  unfold State.event; simp
@[simp] theorem State.event_reqs (s : State) (kind die : Nat) (fields : List Nat) : (s.event kind die fields).reqs = s.reqs := by
  unfold State.event; simp
@[simp] theorem State.event_gone (s : State) (kind die : Nat) (fields : List Nat) : (s.event kind die fields).gone = s.gone := by
  unfold State.event; simp
@[simp] theorem State.event_refusals (s : State) (kind die : Nat) (fields : List Nat) : (s.event kind die fields).refusals = s.refusals := by
  unfold State.event; simp
@[simp] theorem State.event_replies (s : State) (kind die : Nat) (fields : List Nat) : (s.event kind die fields).replies = s.replies := by
  unfold State.event; simp
@[simp] theorem State.event_bsums (s : State) (kind die : Nat) (fields : List Nat) : (s.event kind die fields).bsums = s.bsums := by
  unfold State.event; simp
@[simp] theorem State.event_bsumBuf (s : State) (kind die : Nat) (fields : List Nat) : (s.event kind die fields).bsumBuf = s.bsumBuf := by
  unfold State.event; simp
@[simp] theorem State.event_msgs (s : State) (kind die : Nat) (fields : List Nat) : (s.event kind die fields).msgs = s.msgs := by
  unfold State.event; simp
@[simp] theorem State.event_nextId (s : State) (kind die : Nat) (fields : List Nat) : (s.event kind die fields).nextId = s.nextId := by
  unfold State.event; simp
@[simp] theorem State.event_evictions (s : State) (kind die : Nat) (fields : List Nat) : (s.event kind die fields).evictions = s.evictions := by
  unfold State.event; simp
@[simp] theorem State.event_telRing (s : State) (kind die : Nat) (fields : List Nat) : (s.event kind die fields).telRing = s.telRing := by
  unfold State.event; simp
@[simp] theorem State.event_host (s : State) (kind die : Nat) (fields : List Nat) : (s.event kind die fields).host = s.host := by
  unfold State.event; simp
@[simp] theorem State.event_monitors (s : State) (kind die : Nat) (fields : List Nat) : (s.event kind die fields).monitors = s.monitors := by
  unfold State.event; simp
@[simp] theorem State.event_bootStat (s : State) (kind die : Nat) (fields : List Nat) : (s.event kind die fields).bootStat = s.bootStat := by
  unfold State.event; simp
@[simp] theorem State.event_meas (s : State) (kind die : Nat) (fields : List Nat) : (s.event kind die fields).meas = s.meas := by
  unfold State.event; simp
@[simp] theorem State.event_quote (s : State) (kind die : Nat) (fields : List Nat) : (s.event kind die fields).quote = s.quote := by
  unfold State.event; simp
@[simp] theorem State.event_life (s : State) (kind die : Nat) (fields : List Nat) : (s.event kind die fields).life = s.life := by
  unfold State.event; simp
@[simp] theorem State.event_keyGen (s : State) (kind die : Nat) (fields : List Nat) : (s.event kind die fields).keyGen = s.keyGen := by
  unfold State.event; simp
@[simp] theorem State.event_fuseEd (s : State) (kind die : Nat) (fields : List Nat) : (s.event kind die fields).fuseEd = s.fuseEd := by
  unfold State.event; simp
@[simp] theorem State.event_fuseMl (s : State) (kind die : Nat) (fields : List Nat) : (s.event kind die fields).fuseMl = s.fuseMl := by
  unfold State.event; simp
@[simp] theorem State.event_devId (s : State) (kind die : Nat) (fields : List Nat) : (s.event kind die fields).devId = s.devId := by
  unfold State.event; simp
@[simp] theorem State.event_dbgVal (s : State) (kind die : Nat) (fields : List Nat) : (s.event kind die fields).dbgVal = s.dbgVal := by
  unfold State.event; simp
@[simp] theorem State.event_dbgTag (s : State) (kind die : Nat) (fields : List Nat) : (s.event kind die fields).dbgTag = s.dbgTag := by
  unfold State.event; simp
@[simp] theorem State.event_outRead (s : State) (kind die : Nat) (fields : List Nat) : (s.event kind die fields).outRead = s.outRead := by
  unfold State.event; simp
@[simp] theorem State.event_outErr (s : State) (kind die : Nat) (fields : List Nat) : (s.event kind die fields).outErr = s.outErr := by
  unfold State.event; simp

/-! ## Updates of a core's context -/

@[simp] theorem Ctx.setScalar_vfile (k : Ctx) (p : Nat) (v : SVal) : (k.setScalar p v).vfile = k.vfile := rfl
@[simp] theorem Ctx.setScalar_pfile (k : Ctx) (p : Nat) (v : SVal) : (k.setScalar p v).pfile = k.pfile := rfl
@[simp] theorem Ctx.setScalar_queues (k : Ctx) (p : Nat) (v : SVal) : (k.setScalar p v).queues = k.queues := rfl
@[simp] theorem Ctx.setScalar_xs (k : Ctx) (p : Nat) (v : SVal) : (k.setScalar p v).xs = k.xs := rfl
@[simp] theorem Ctx.setScalar_as_ (k : Ctx) (p : Nat) (v : SVal) : (k.setScalar p v).as_ = k.as_ := rfl
@[simp] theorem Ctx.setScalar_flight (k : Ctx) (p : Nat) (v : SVal) : (k.setScalar p v).flight = k.flight := rfl
@[simp] theorem Ctx.setScalar_pend (k : Ctx) (p : Nat) (v : SVal) : (k.setScalar p v).pend = k.pend := rfl
@[simp] theorem Ctx.setScalar_ctlab (k : Ctx) (p : Nat) (v : SVal) : (k.setScalar p v).ctlab = k.ctlab := rfl
@[simp] theorem Ctx.setScalar_ctlHalf (k : Ctx) (p : Nat) (v : SVal) : (k.setScalar p v).ctlHalf = k.ctlHalf := rfl
@[simp] theorem Ctx.setScalar_vflags (k : Ctx) (p : Nat) (v : SVal) : (k.setScalar p v).vflags = k.vflags := rfl
@[simp] theorem Ctx.setScalar_trapMuck (k : Ctx) (p : Nat) (v : SVal) : (k.setScalar p v).trapMuck = k.trapMuck := rfl
@[simp] theorem Ctx.setScalar_lspace (k : Ctx) (p : Nat) (v : SVal) : (k.setScalar p v).lspace = k.lspace := rfl
@[simp] theorem Ctx.setScalar_ddspace (k : Ctx) (p : Nat) (v : SVal) : (k.setScalar p v).ddspace = k.ddspace := rfl
@[simp] theorem Ctx.setScalar_ddwt (k : Ctx) (p : Nat) (v : SVal) : (k.setScalar p v).ddwt = k.ddwt := rfl
@[simp] theorem Ctx.setScalar_bufs (k : Ctx) (p : Nat) (v : SVal) : (k.setScalar p v).bufs = k.bufs := rfl
@[simp] theorem Ctx.setScalar_accs (k : Ctx) (p : Nat) (v : SVal) : (k.setScalar p v).accs = k.accs := rfl
@[simp] theorem Ctx.setScalar_mxq (k : Ctx) (p : Nat) (v : SVal) : (k.setScalar p v).mxq = k.mxq := rfl
@[simp] theorem Ctx.setScalar_team (k : Ctx) (p : Nat) (v : SVal) : (k.setScalar p v).team = k.team := rfl
@[simp] theorem Ctx.setScalar_tstep (k : Ctx) (p : Nat) (v : SVal) : (k.setScalar p v).tstep = k.tstep := rfl
@[simp] theorem Ctx.setScalar_tiles (k : Ctx) (p : Nat) (v : SVal) : (k.setScalar p v).tiles = k.tiles := rfl
@[simp] theorem Ctx.setScalar_wd (k : Ctx) (p : Nat) (v : SVal) : (k.setScalar p v).wd = k.wd := rfl
@[simp] theorem Ctx.setScalar_clop (k : Ctx) (p : Nat) (v : SVal) : (k.setScalar p v).clop = k.clop := rfl
@[simp] theorem Ctx.setScalar_lbops (k : Ctx) (p : Nat) (v : SVal) : (k.setScalar p v).lbops = k.lbops := rfl
@[simp] theorem Ctx.setScalar_inbox (k : Ctx) (p : Nat) (v : SVal) : (k.setScalar p v).inbox = k.inbox := rfl
@[simp] theorem Ctx.setScalar_resv (k : Ctx) (p : Nat) (v : SVal) : (k.setScalar p v).resv = k.resv := rfl
@[simp] theorem Ctx.setScalar_lastSender (k : Ctx) (p : Nat) (v : SVal) : (k.setScalar p v).lastSender = k.lastSender := rfl
@[simp] theorem Ctx.setScalar_sendWait (k : Ctx) (p : Nat) (v : SVal) : (k.setScalar p v).sendWait = k.sendWait := rfl
@[simp] theorem Ctx.setScalar_copies (k : Ctx) (p : Nat) (v : SVal) : (k.setScalar p v).copies = k.copies := rfl
@[simp] theorem Ctx.setScalar_nosts (k : Ctx) (p : Nat) (v : SVal) : (k.setScalar p v).nosts = k.nosts := rfl
@[simp] theorem Ctx.setScalar_streams (k : Ctx) (p : Nat) (v : SVal) : (k.setScalar p v).streams = k.streams := rfl
@[simp] theorem Ctx.setScalar_loads (k : Ctx) (p : Nat) (v : SVal) : (k.setScalar p v).loads = k.loads := rfl
@[simp] theorem Ctx.setScalar_atoms (k : Ctx) (p : Nat) (v : SVal) : (k.setScalar p v).atoms = k.atoms := rfl
@[simp] theorem Ctx.setScalar_stores (k : Ctx) (p : Nat) (v : SVal) : (k.setScalar p v).stores = k.stores := rfl
@[simp] theorem Ctx.setScalar_fences (k : Ctx) (p : Nat) (v : SVal) : (k.setScalar p v).fences = k.fences := rfl
@[simp] theorem Ctx.setScalar_arrived (k : Ctx) (p : Nat) (v : SVal) : (k.setScalar p v).arrived = k.arrived := rfl
@[simp] theorem Ctx.setScalar_triggered (k : Ctx) (p : Nat) (v : SVal) : (k.setScalar p v).triggered = k.triggered := rfl
@[simp] theorem Ctx.setScalar_putTrap (k : Ctx) (p : Nat) (v : SVal) : (k.setScalar p v).putTrap = k.putTrap := rfl
@[simp] theorem Ctx.setScalar_raised (k : Ctx) (p : Nat) (v : SVal) : (k.setScalar p v).raised = k.raised := rfl
@[simp] theorem Ctx.setScalar_priv (k : Ctx) (p : Nat) (v : SVal) : (k.setScalar p v).priv = k.priv := rfl
@[simp] theorem Ctx.setVector_sfile (k : Ctx) (p : Nat) (v : VVal) : (k.setVector p v).sfile = k.sfile := rfl
@[simp] theorem Ctx.setVector_pfile (k : Ctx) (p : Nat) (v : VVal) : (k.setVector p v).pfile = k.pfile := rfl
@[simp] theorem Ctx.setVector_queues (k : Ctx) (p : Nat) (v : VVal) : (k.setVector p v).queues = k.queues := rfl
@[simp] theorem Ctx.setVector_xs (k : Ctx) (p : Nat) (v : VVal) : (k.setVector p v).xs = k.xs := rfl
@[simp] theorem Ctx.setVector_as_ (k : Ctx) (p : Nat) (v : VVal) : (k.setVector p v).as_ = k.as_ := rfl
@[simp] theorem Ctx.setVector_flight (k : Ctx) (p : Nat) (v : VVal) : (k.setVector p v).flight = k.flight := rfl
@[simp] theorem Ctx.setVector_pend (k : Ctx) (p : Nat) (v : VVal) : (k.setVector p v).pend = k.pend := rfl
@[simp] theorem Ctx.setVector_ctlab (k : Ctx) (p : Nat) (v : VVal) : (k.setVector p v).ctlab = k.ctlab := rfl
@[simp] theorem Ctx.setVector_ctlHalf (k : Ctx) (p : Nat) (v : VVal) : (k.setVector p v).ctlHalf = k.ctlHalf := rfl
@[simp] theorem Ctx.setVector_vflags (k : Ctx) (p : Nat) (v : VVal) : (k.setVector p v).vflags = k.vflags := rfl
@[simp] theorem Ctx.setVector_trapMuck (k : Ctx) (p : Nat) (v : VVal) : (k.setVector p v).trapMuck = k.trapMuck := rfl
@[simp] theorem Ctx.setVector_lspace (k : Ctx) (p : Nat) (v : VVal) : (k.setVector p v).lspace = k.lspace := rfl
@[simp] theorem Ctx.setVector_ddspace (k : Ctx) (p : Nat) (v : VVal) : (k.setVector p v).ddspace = k.ddspace := rfl
@[simp] theorem Ctx.setVector_ddwt (k : Ctx) (p : Nat) (v : VVal) : (k.setVector p v).ddwt = k.ddwt := rfl
@[simp] theorem Ctx.setVector_bufs (k : Ctx) (p : Nat) (v : VVal) : (k.setVector p v).bufs = k.bufs := rfl
@[simp] theorem Ctx.setVector_accs (k : Ctx) (p : Nat) (v : VVal) : (k.setVector p v).accs = k.accs := rfl
@[simp] theorem Ctx.setVector_mxq (k : Ctx) (p : Nat) (v : VVal) : (k.setVector p v).mxq = k.mxq := rfl
@[simp] theorem Ctx.setVector_team (k : Ctx) (p : Nat) (v : VVal) : (k.setVector p v).team = k.team := rfl
@[simp] theorem Ctx.setVector_tstep (k : Ctx) (p : Nat) (v : VVal) : (k.setVector p v).tstep = k.tstep := rfl
@[simp] theorem Ctx.setVector_tiles (k : Ctx) (p : Nat) (v : VVal) : (k.setVector p v).tiles = k.tiles := rfl
@[simp] theorem Ctx.setVector_wd (k : Ctx) (p : Nat) (v : VVal) : (k.setVector p v).wd = k.wd := rfl
@[simp] theorem Ctx.setVector_clop (k : Ctx) (p : Nat) (v : VVal) : (k.setVector p v).clop = k.clop := rfl
@[simp] theorem Ctx.setVector_lbops (k : Ctx) (p : Nat) (v : VVal) : (k.setVector p v).lbops = k.lbops := rfl
@[simp] theorem Ctx.setVector_inbox (k : Ctx) (p : Nat) (v : VVal) : (k.setVector p v).inbox = k.inbox := rfl
@[simp] theorem Ctx.setVector_resv (k : Ctx) (p : Nat) (v : VVal) : (k.setVector p v).resv = k.resv := rfl
@[simp] theorem Ctx.setVector_lastSender (k : Ctx) (p : Nat) (v : VVal) : (k.setVector p v).lastSender = k.lastSender := rfl
@[simp] theorem Ctx.setVector_sendWait (k : Ctx) (p : Nat) (v : VVal) : (k.setVector p v).sendWait = k.sendWait := rfl
@[simp] theorem Ctx.setVector_copies (k : Ctx) (p : Nat) (v : VVal) : (k.setVector p v).copies = k.copies := rfl
@[simp] theorem Ctx.setVector_nosts (k : Ctx) (p : Nat) (v : VVal) : (k.setVector p v).nosts = k.nosts := rfl
@[simp] theorem Ctx.setVector_streams (k : Ctx) (p : Nat) (v : VVal) : (k.setVector p v).streams = k.streams := rfl
@[simp] theorem Ctx.setVector_loads (k : Ctx) (p : Nat) (v : VVal) : (k.setVector p v).loads = k.loads := rfl
@[simp] theorem Ctx.setVector_atoms (k : Ctx) (p : Nat) (v : VVal) : (k.setVector p v).atoms = k.atoms := rfl
@[simp] theorem Ctx.setVector_stores (k : Ctx) (p : Nat) (v : VVal) : (k.setVector p v).stores = k.stores := rfl
@[simp] theorem Ctx.setVector_fences (k : Ctx) (p : Nat) (v : VVal) : (k.setVector p v).fences = k.fences := rfl
@[simp] theorem Ctx.setVector_arrived (k : Ctx) (p : Nat) (v : VVal) : (k.setVector p v).arrived = k.arrived := rfl
@[simp] theorem Ctx.setVector_triggered (k : Ctx) (p : Nat) (v : VVal) : (k.setVector p v).triggered = k.triggered := rfl
@[simp] theorem Ctx.setVector_putTrap (k : Ctx) (p : Nat) (v : VVal) : (k.setVector p v).putTrap = k.putTrap := rfl
@[simp] theorem Ctx.setVector_raised (k : Ctx) (p : Nat) (v : VVal) : (k.setVector p v).raised = k.raised := rfl
@[simp] theorem Ctx.setVector_priv (k : Ctx) (p : Nat) (v : VVal) : (k.setVector p v).priv = k.priv := rfl
@[simp] theorem Ctx.setPred_sfile (k : Ctx) (p : Nat) (v : PVal) : (k.setPred p v).sfile = k.sfile := rfl
@[simp] theorem Ctx.setPred_vfile (k : Ctx) (p : Nat) (v : PVal) : (k.setPred p v).vfile = k.vfile := rfl
@[simp] theorem Ctx.setPred_queues (k : Ctx) (p : Nat) (v : PVal) : (k.setPred p v).queues = k.queues := rfl
@[simp] theorem Ctx.setPred_xs (k : Ctx) (p : Nat) (v : PVal) : (k.setPred p v).xs = k.xs := rfl
@[simp] theorem Ctx.setPred_as_ (k : Ctx) (p : Nat) (v : PVal) : (k.setPred p v).as_ = k.as_ := rfl
@[simp] theorem Ctx.setPred_flight (k : Ctx) (p : Nat) (v : PVal) : (k.setPred p v).flight = k.flight := rfl
@[simp] theorem Ctx.setPred_pend (k : Ctx) (p : Nat) (v : PVal) : (k.setPred p v).pend = k.pend := rfl
@[simp] theorem Ctx.setPred_ctlab (k : Ctx) (p : Nat) (v : PVal) : (k.setPred p v).ctlab = k.ctlab := rfl
@[simp] theorem Ctx.setPred_ctlHalf (k : Ctx) (p : Nat) (v : PVal) : (k.setPred p v).ctlHalf = k.ctlHalf := rfl
@[simp] theorem Ctx.setPred_vflags (k : Ctx) (p : Nat) (v : PVal) : (k.setPred p v).vflags = k.vflags := rfl
@[simp] theorem Ctx.setPred_trapMuck (k : Ctx) (p : Nat) (v : PVal) : (k.setPred p v).trapMuck = k.trapMuck := rfl
@[simp] theorem Ctx.setPred_lspace (k : Ctx) (p : Nat) (v : PVal) : (k.setPred p v).lspace = k.lspace := rfl
@[simp] theorem Ctx.setPred_ddspace (k : Ctx) (p : Nat) (v : PVal) : (k.setPred p v).ddspace = k.ddspace := rfl
@[simp] theorem Ctx.setPred_ddwt (k : Ctx) (p : Nat) (v : PVal) : (k.setPred p v).ddwt = k.ddwt := rfl
@[simp] theorem Ctx.setPred_bufs (k : Ctx) (p : Nat) (v : PVal) : (k.setPred p v).bufs = k.bufs := rfl
@[simp] theorem Ctx.setPred_accs (k : Ctx) (p : Nat) (v : PVal) : (k.setPred p v).accs = k.accs := rfl
@[simp] theorem Ctx.setPred_mxq (k : Ctx) (p : Nat) (v : PVal) : (k.setPred p v).mxq = k.mxq := rfl
@[simp] theorem Ctx.setPred_team (k : Ctx) (p : Nat) (v : PVal) : (k.setPred p v).team = k.team := rfl
@[simp] theorem Ctx.setPred_tstep (k : Ctx) (p : Nat) (v : PVal) : (k.setPred p v).tstep = k.tstep := rfl
@[simp] theorem Ctx.setPred_tiles (k : Ctx) (p : Nat) (v : PVal) : (k.setPred p v).tiles = k.tiles := rfl
@[simp] theorem Ctx.setPred_wd (k : Ctx) (p : Nat) (v : PVal) : (k.setPred p v).wd = k.wd := rfl
@[simp] theorem Ctx.setPred_clop (k : Ctx) (p : Nat) (v : PVal) : (k.setPred p v).clop = k.clop := rfl
@[simp] theorem Ctx.setPred_lbops (k : Ctx) (p : Nat) (v : PVal) : (k.setPred p v).lbops = k.lbops := rfl
@[simp] theorem Ctx.setPred_inbox (k : Ctx) (p : Nat) (v : PVal) : (k.setPred p v).inbox = k.inbox := rfl
@[simp] theorem Ctx.setPred_resv (k : Ctx) (p : Nat) (v : PVal) : (k.setPred p v).resv = k.resv := rfl
@[simp] theorem Ctx.setPred_lastSender (k : Ctx) (p : Nat) (v : PVal) : (k.setPred p v).lastSender = k.lastSender := rfl
@[simp] theorem Ctx.setPred_sendWait (k : Ctx) (p : Nat) (v : PVal) : (k.setPred p v).sendWait = k.sendWait := rfl
@[simp] theorem Ctx.setPred_copies (k : Ctx) (p : Nat) (v : PVal) : (k.setPred p v).copies = k.copies := rfl
@[simp] theorem Ctx.setPred_nosts (k : Ctx) (p : Nat) (v : PVal) : (k.setPred p v).nosts = k.nosts := rfl
@[simp] theorem Ctx.setPred_streams (k : Ctx) (p : Nat) (v : PVal) : (k.setPred p v).streams = k.streams := rfl
@[simp] theorem Ctx.setPred_loads (k : Ctx) (p : Nat) (v : PVal) : (k.setPred p v).loads = k.loads := rfl
@[simp] theorem Ctx.setPred_atoms (k : Ctx) (p : Nat) (v : PVal) : (k.setPred p v).atoms = k.atoms := rfl
@[simp] theorem Ctx.setPred_stores (k : Ctx) (p : Nat) (v : PVal) : (k.setPred p v).stores = k.stores := rfl
@[simp] theorem Ctx.setPred_fences (k : Ctx) (p : Nat) (v : PVal) : (k.setPred p v).fences = k.fences := rfl
@[simp] theorem Ctx.setPred_arrived (k : Ctx) (p : Nat) (v : PVal) : (k.setPred p v).arrived = k.arrived := rfl
@[simp] theorem Ctx.setPred_triggered (k : Ctx) (p : Nat) (v : PVal) : (k.setPred p v).triggered = k.triggered := rfl
@[simp] theorem Ctx.setPred_putTrap (k : Ctx) (p : Nat) (v : PVal) : (k.setPred p v).putTrap = k.putTrap := rfl
@[simp] theorem Ctx.setPred_raised (k : Ctx) (p : Nat) (v : PVal) : (k.setPred p v).raised = k.raised := rfl
@[simp] theorem Ctx.setPred_priv (k : Ctx) (p : Nat) (v : PVal) : (k.setPred p v).priv = k.priv := rfl
@[simp] theorem Ctx.setQueue_sfile (k : Ctx) (q : Nat) (v : Queue) : (k.setQueue q v).sfile = k.sfile := rfl
@[simp] theorem Ctx.setQueue_vfile (k : Ctx) (q : Nat) (v : Queue) : (k.setQueue q v).vfile = k.vfile := rfl
@[simp] theorem Ctx.setQueue_pfile (k : Ctx) (q : Nat) (v : Queue) : (k.setQueue q v).pfile = k.pfile := rfl
@[simp] theorem Ctx.setQueue_xs (k : Ctx) (q : Nat) (v : Queue) : (k.setQueue q v).xs = k.xs := rfl
@[simp] theorem Ctx.setQueue_as_ (k : Ctx) (q : Nat) (v : Queue) : (k.setQueue q v).as_ = k.as_ := rfl
@[simp] theorem Ctx.setQueue_flight (k : Ctx) (q : Nat) (v : Queue) : (k.setQueue q v).flight = k.flight := rfl
@[simp] theorem Ctx.setQueue_pend (k : Ctx) (q : Nat) (v : Queue) : (k.setQueue q v).pend = k.pend := rfl
@[simp] theorem Ctx.setQueue_ctlab (k : Ctx) (q : Nat) (v : Queue) : (k.setQueue q v).ctlab = k.ctlab := rfl
@[simp] theorem Ctx.setQueue_ctlHalf (k : Ctx) (q : Nat) (v : Queue) : (k.setQueue q v).ctlHalf = k.ctlHalf := rfl
@[simp] theorem Ctx.setQueue_vflags (k : Ctx) (q : Nat) (v : Queue) : (k.setQueue q v).vflags = k.vflags := rfl
@[simp] theorem Ctx.setQueue_trapMuck (k : Ctx) (q : Nat) (v : Queue) : (k.setQueue q v).trapMuck = k.trapMuck := rfl
@[simp] theorem Ctx.setQueue_lspace (k : Ctx) (q : Nat) (v : Queue) : (k.setQueue q v).lspace = k.lspace := rfl
@[simp] theorem Ctx.setQueue_ddspace (k : Ctx) (q : Nat) (v : Queue) : (k.setQueue q v).ddspace = k.ddspace := rfl
@[simp] theorem Ctx.setQueue_ddwt (k : Ctx) (q : Nat) (v : Queue) : (k.setQueue q v).ddwt = k.ddwt := rfl
@[simp] theorem Ctx.setQueue_bufs (k : Ctx) (q : Nat) (v : Queue) : (k.setQueue q v).bufs = k.bufs := rfl
@[simp] theorem Ctx.setQueue_accs (k : Ctx) (q : Nat) (v : Queue) : (k.setQueue q v).accs = k.accs := rfl
@[simp] theorem Ctx.setQueue_mxq (k : Ctx) (q : Nat) (v : Queue) : (k.setQueue q v).mxq = k.mxq := rfl
@[simp] theorem Ctx.setQueue_team (k : Ctx) (q : Nat) (v : Queue) : (k.setQueue q v).team = k.team := rfl
@[simp] theorem Ctx.setQueue_tstep (k : Ctx) (q : Nat) (v : Queue) : (k.setQueue q v).tstep = k.tstep := rfl
@[simp] theorem Ctx.setQueue_tiles (k : Ctx) (q : Nat) (v : Queue) : (k.setQueue q v).tiles = k.tiles := rfl
@[simp] theorem Ctx.setQueue_wd (k : Ctx) (q : Nat) (v : Queue) : (k.setQueue q v).wd = k.wd := rfl
@[simp] theorem Ctx.setQueue_clop (k : Ctx) (q : Nat) (v : Queue) : (k.setQueue q v).clop = k.clop := rfl
@[simp] theorem Ctx.setQueue_lbops (k : Ctx) (q : Nat) (v : Queue) : (k.setQueue q v).lbops = k.lbops := rfl
@[simp] theorem Ctx.setQueue_inbox (k : Ctx) (q : Nat) (v : Queue) : (k.setQueue q v).inbox = k.inbox := rfl
@[simp] theorem Ctx.setQueue_resv (k : Ctx) (q : Nat) (v : Queue) : (k.setQueue q v).resv = k.resv := rfl
@[simp] theorem Ctx.setQueue_lastSender (k : Ctx) (q : Nat) (v : Queue) : (k.setQueue q v).lastSender = k.lastSender := rfl
@[simp] theorem Ctx.setQueue_sendWait (k : Ctx) (q : Nat) (v : Queue) : (k.setQueue q v).sendWait = k.sendWait := rfl
@[simp] theorem Ctx.setQueue_copies (k : Ctx) (q : Nat) (v : Queue) : (k.setQueue q v).copies = k.copies := rfl
@[simp] theorem Ctx.setQueue_nosts (k : Ctx) (q : Nat) (v : Queue) : (k.setQueue q v).nosts = k.nosts := rfl
@[simp] theorem Ctx.setQueue_streams (k : Ctx) (q : Nat) (v : Queue) : (k.setQueue q v).streams = k.streams := rfl
@[simp] theorem Ctx.setQueue_loads (k : Ctx) (q : Nat) (v : Queue) : (k.setQueue q v).loads = k.loads := rfl
@[simp] theorem Ctx.setQueue_atoms (k : Ctx) (q : Nat) (v : Queue) : (k.setQueue q v).atoms = k.atoms := rfl
@[simp] theorem Ctx.setQueue_stores (k : Ctx) (q : Nat) (v : Queue) : (k.setQueue q v).stores = k.stores := rfl
@[simp] theorem Ctx.setQueue_fences (k : Ctx) (q : Nat) (v : Queue) : (k.setQueue q v).fences = k.fences := rfl
@[simp] theorem Ctx.setQueue_arrived (k : Ctx) (q : Nat) (v : Queue) : (k.setQueue q v).arrived = k.arrived := rfl
@[simp] theorem Ctx.setQueue_triggered (k : Ctx) (q : Nat) (v : Queue) : (k.setQueue q v).triggered = k.triggered := rfl
@[simp] theorem Ctx.setQueue_putTrap (k : Ctx) (q : Nat) (v : Queue) : (k.setQueue q v).putTrap = k.putTrap := rfl
@[simp] theorem Ctx.setQueue_raised (k : Ctx) (q : Nat) (v : Queue) : (k.setQueue q v).raised = k.raised := rfl
@[simp] theorem Ctx.setQueue_priv (k : Ctx) (q : Nat) (v : Queue) : (k.setQueue q v).priv = k.priv := rfl
@[simp] theorem Ctx.send_sfile (k : Ctx) (f : Flight) : (k.send f).sfile = k.sfile := rfl
@[simp] theorem Ctx.send_vfile (k : Ctx) (f : Flight) : (k.send f).vfile = k.vfile := rfl
@[simp] theorem Ctx.send_pfile (k : Ctx) (f : Flight) : (k.send f).pfile = k.pfile := rfl
@[simp] theorem Ctx.send_queues (k : Ctx) (f : Flight) : (k.send f).queues = k.queues := rfl
@[simp] theorem Ctx.send_xs (k : Ctx) (f : Flight) : (k.send f).xs = k.xs := rfl
@[simp] theorem Ctx.send_as_ (k : Ctx) (f : Flight) : (k.send f).as_ = k.as_ := rfl
@[simp] theorem Ctx.send_ctlab (k : Ctx) (f : Flight) : (k.send f).ctlab = k.ctlab := rfl
@[simp] theorem Ctx.send_ctlHalf (k : Ctx) (f : Flight) : (k.send f).ctlHalf = k.ctlHalf := rfl
@[simp] theorem Ctx.send_vflags (k : Ctx) (f : Flight) : (k.send f).vflags = k.vflags := rfl
@[simp] theorem Ctx.send_trapMuck (k : Ctx) (f : Flight) : (k.send f).trapMuck = k.trapMuck := rfl
@[simp] theorem Ctx.send_lspace (k : Ctx) (f : Flight) : (k.send f).lspace = k.lspace := rfl
@[simp] theorem Ctx.send_ddspace (k : Ctx) (f : Flight) : (k.send f).ddspace = k.ddspace := rfl
@[simp] theorem Ctx.send_ddwt (k : Ctx) (f : Flight) : (k.send f).ddwt = k.ddwt := rfl
@[simp] theorem Ctx.send_bufs (k : Ctx) (f : Flight) : (k.send f).bufs = k.bufs := rfl
@[simp] theorem Ctx.send_accs (k : Ctx) (f : Flight) : (k.send f).accs = k.accs := rfl
@[simp] theorem Ctx.send_mxq (k : Ctx) (f : Flight) : (k.send f).mxq = k.mxq := rfl
@[simp] theorem Ctx.send_team (k : Ctx) (f : Flight) : (k.send f).team = k.team := rfl
@[simp] theorem Ctx.send_tstep (k : Ctx) (f : Flight) : (k.send f).tstep = k.tstep := rfl
@[simp] theorem Ctx.send_tiles (k : Ctx) (f : Flight) : (k.send f).tiles = k.tiles := rfl
@[simp] theorem Ctx.send_wd (k : Ctx) (f : Flight) : (k.send f).wd = k.wd := rfl
@[simp] theorem Ctx.send_clop (k : Ctx) (f : Flight) : (k.send f).clop = k.clop := rfl
@[simp] theorem Ctx.send_lbops (k : Ctx) (f : Flight) : (k.send f).lbops = k.lbops := rfl
@[simp] theorem Ctx.send_inbox (k : Ctx) (f : Flight) : (k.send f).inbox = k.inbox := rfl
@[simp] theorem Ctx.send_resv (k : Ctx) (f : Flight) : (k.send f).resv = k.resv := rfl
@[simp] theorem Ctx.send_lastSender (k : Ctx) (f : Flight) : (k.send f).lastSender = k.lastSender := rfl
@[simp] theorem Ctx.send_sendWait (k : Ctx) (f : Flight) : (k.send f).sendWait = k.sendWait := rfl
@[simp] theorem Ctx.send_copies (k : Ctx) (f : Flight) : (k.send f).copies = k.copies := rfl
@[simp] theorem Ctx.send_nosts (k : Ctx) (f : Flight) : (k.send f).nosts = k.nosts := rfl
@[simp] theorem Ctx.send_streams (k : Ctx) (f : Flight) : (k.send f).streams = k.streams := rfl
@[simp] theorem Ctx.send_loads (k : Ctx) (f : Flight) : (k.send f).loads = k.loads := rfl
@[simp] theorem Ctx.send_atoms (k : Ctx) (f : Flight) : (k.send f).atoms = k.atoms := rfl
@[simp] theorem Ctx.send_stores (k : Ctx) (f : Flight) : (k.send f).stores = k.stores := rfl
@[simp] theorem Ctx.send_fences (k : Ctx) (f : Flight) : (k.send f).fences = k.fences := rfl
@[simp] theorem Ctx.send_arrived (k : Ctx) (f : Flight) : (k.send f).arrived = k.arrived := rfl
@[simp] theorem Ctx.send_triggered (k : Ctx) (f : Flight) : (k.send f).triggered = k.triggered := rfl
@[simp] theorem Ctx.send_putTrap (k : Ctx) (f : Flight) : (k.send f).putTrap = k.putTrap := rfl
@[simp] theorem Ctx.send_raised (k : Ctx) (f : Flight) : (k.send f).raised = k.raised := rfl
@[simp] theorem Ctx.send_priv (k : Ctx) (f : Flight) : (k.send f).priv = k.priv := rfl
@[simp] theorem Ctx.await_sfile (k : Ctx) (ps : List Nat) (n : Nat) : (k.await ps n).sfile = k.sfile := rfl
@[simp] theorem Ctx.await_vfile (k : Ctx) (ps : List Nat) (n : Nat) : (k.await ps n).vfile = k.vfile := rfl
@[simp] theorem Ctx.await_pfile (k : Ctx) (ps : List Nat) (n : Nat) : (k.await ps n).pfile = k.pfile := rfl
@[simp] theorem Ctx.await_queues (k : Ctx) (ps : List Nat) (n : Nat) : (k.await ps n).queues = k.queues := rfl
@[simp] theorem Ctx.await_xs (k : Ctx) (ps : List Nat) (n : Nat) : (k.await ps n).xs = k.xs := rfl
@[simp] theorem Ctx.await_as_ (k : Ctx) (ps : List Nat) (n : Nat) : (k.await ps n).as_ = k.as_ := rfl
@[simp] theorem Ctx.await_ctlab (k : Ctx) (ps : List Nat) (n : Nat) : (k.await ps n).ctlab = k.ctlab := rfl
@[simp] theorem Ctx.await_ctlHalf (k : Ctx) (ps : List Nat) (n : Nat) : (k.await ps n).ctlHalf = k.ctlHalf := rfl
@[simp] theorem Ctx.await_vflags (k : Ctx) (ps : List Nat) (n : Nat) : (k.await ps n).vflags = k.vflags := rfl
@[simp] theorem Ctx.await_trapMuck (k : Ctx) (ps : List Nat) (n : Nat) : (k.await ps n).trapMuck = k.trapMuck := rfl
@[simp] theorem Ctx.await_lspace (k : Ctx) (ps : List Nat) (n : Nat) : (k.await ps n).lspace = k.lspace := rfl
@[simp] theorem Ctx.await_ddspace (k : Ctx) (ps : List Nat) (n : Nat) : (k.await ps n).ddspace = k.ddspace := rfl
@[simp] theorem Ctx.await_ddwt (k : Ctx) (ps : List Nat) (n : Nat) : (k.await ps n).ddwt = k.ddwt := rfl
@[simp] theorem Ctx.await_bufs (k : Ctx) (ps : List Nat) (n : Nat) : (k.await ps n).bufs = k.bufs := rfl
@[simp] theorem Ctx.await_accs (k : Ctx) (ps : List Nat) (n : Nat) : (k.await ps n).accs = k.accs := rfl
@[simp] theorem Ctx.await_mxq (k : Ctx) (ps : List Nat) (n : Nat) : (k.await ps n).mxq = k.mxq := rfl
@[simp] theorem Ctx.await_team (k : Ctx) (ps : List Nat) (n : Nat) : (k.await ps n).team = k.team := rfl
@[simp] theorem Ctx.await_tstep (k : Ctx) (ps : List Nat) (n : Nat) : (k.await ps n).tstep = k.tstep := rfl
@[simp] theorem Ctx.await_tiles (k : Ctx) (ps : List Nat) (n : Nat) : (k.await ps n).tiles = k.tiles := rfl
@[simp] theorem Ctx.await_wd (k : Ctx) (ps : List Nat) (n : Nat) : (k.await ps n).wd = k.wd := rfl
@[simp] theorem Ctx.await_clop (k : Ctx) (ps : List Nat) (n : Nat) : (k.await ps n).clop = k.clop := rfl
@[simp] theorem Ctx.await_lbops (k : Ctx) (ps : List Nat) (n : Nat) : (k.await ps n).lbops = k.lbops := rfl
@[simp] theorem Ctx.await_inbox (k : Ctx) (ps : List Nat) (n : Nat) : (k.await ps n).inbox = k.inbox := rfl
@[simp] theorem Ctx.await_resv (k : Ctx) (ps : List Nat) (n : Nat) : (k.await ps n).resv = k.resv := rfl
@[simp] theorem Ctx.await_lastSender (k : Ctx) (ps : List Nat) (n : Nat) : (k.await ps n).lastSender = k.lastSender := rfl
@[simp] theorem Ctx.await_sendWait (k : Ctx) (ps : List Nat) (n : Nat) : (k.await ps n).sendWait = k.sendWait := rfl
@[simp] theorem Ctx.await_copies (k : Ctx) (ps : List Nat) (n : Nat) : (k.await ps n).copies = k.copies := rfl
@[simp] theorem Ctx.await_nosts (k : Ctx) (ps : List Nat) (n : Nat) : (k.await ps n).nosts = k.nosts := rfl
@[simp] theorem Ctx.await_streams (k : Ctx) (ps : List Nat) (n : Nat) : (k.await ps n).streams = k.streams := rfl
@[simp] theorem Ctx.await_loads (k : Ctx) (ps : List Nat) (n : Nat) : (k.await ps n).loads = k.loads := rfl
@[simp] theorem Ctx.await_atoms (k : Ctx) (ps : List Nat) (n : Nat) : (k.await ps n).atoms = k.atoms := rfl
@[simp] theorem Ctx.await_stores (k : Ctx) (ps : List Nat) (n : Nat) : (k.await ps n).stores = k.stores := rfl
@[simp] theorem Ctx.await_fences (k : Ctx) (ps : List Nat) (n : Nat) : (k.await ps n).fences = k.fences := rfl
@[simp] theorem Ctx.await_arrived (k : Ctx) (ps : List Nat) (n : Nat) : (k.await ps n).arrived = k.arrived := rfl
@[simp] theorem Ctx.await_triggered (k : Ctx) (ps : List Nat) (n : Nat) : (k.await ps n).triggered = k.triggered := rfl
@[simp] theorem Ctx.await_putTrap (k : Ctx) (ps : List Nat) (n : Nat) : (k.await ps n).putTrap = k.putTrap := rfl
@[simp] theorem Ctx.await_raised (k : Ctx) (ps : List Nat) (n : Nat) : (k.await ps n).raised = k.raised := rfl
@[simp] theorem Ctx.await_priv (k : Ctx) (ps : List Nat) (n : Nat) : (k.await ps n).priv = k.priv := rfl
@[simp] theorem Ctx.setFlags_sfile (k : Ctx) (f : BitVec 8) : (k.setFlags f).sfile = k.sfile := rfl
@[simp] theorem Ctx.setFlags_vfile (k : Ctx) (f : BitVec 8) : (k.setFlags f).vfile = k.vfile := rfl
@[simp] theorem Ctx.setFlags_pfile (k : Ctx) (f : BitVec 8) : (k.setFlags f).pfile = k.pfile := rfl
@[simp] theorem Ctx.setFlags_queues (k : Ctx) (f : BitVec 8) : (k.setFlags f).queues = k.queues := rfl
@[simp] theorem Ctx.setFlags_xs (k : Ctx) (f : BitVec 8) : (k.setFlags f).xs = k.xs := rfl
@[simp] theorem Ctx.setFlags_as_ (k : Ctx) (f : BitVec 8) : (k.setFlags f).as_ = k.as_ := rfl
@[simp] theorem Ctx.setFlags_flight (k : Ctx) (f : BitVec 8) : (k.setFlags f).flight = k.flight := rfl
@[simp] theorem Ctx.setFlags_pend (k : Ctx) (f : BitVec 8) : (k.setFlags f).pend = k.pend := rfl
@[simp] theorem Ctx.setFlags_ctlab (k : Ctx) (f : BitVec 8) : (k.setFlags f).ctlab = k.ctlab := rfl
@[simp] theorem Ctx.setFlags_ctlHalf (k : Ctx) (f : BitVec 8) : (k.setFlags f).ctlHalf = k.ctlHalf := rfl
@[simp] theorem Ctx.setFlags_trapMuck (k : Ctx) (f : BitVec 8) : (k.setFlags f).trapMuck = k.trapMuck := rfl
@[simp] theorem Ctx.setFlags_lspace (k : Ctx) (f : BitVec 8) : (k.setFlags f).lspace = k.lspace := rfl
@[simp] theorem Ctx.setFlags_ddspace (k : Ctx) (f : BitVec 8) : (k.setFlags f).ddspace = k.ddspace := rfl
@[simp] theorem Ctx.setFlags_ddwt (k : Ctx) (f : BitVec 8) : (k.setFlags f).ddwt = k.ddwt := rfl
@[simp] theorem Ctx.setFlags_bufs (k : Ctx) (f : BitVec 8) : (k.setFlags f).bufs = k.bufs := rfl
@[simp] theorem Ctx.setFlags_accs (k : Ctx) (f : BitVec 8) : (k.setFlags f).accs = k.accs := rfl
@[simp] theorem Ctx.setFlags_mxq (k : Ctx) (f : BitVec 8) : (k.setFlags f).mxq = k.mxq := rfl
@[simp] theorem Ctx.setFlags_team (k : Ctx) (f : BitVec 8) : (k.setFlags f).team = k.team := rfl
@[simp] theorem Ctx.setFlags_tstep (k : Ctx) (f : BitVec 8) : (k.setFlags f).tstep = k.tstep := rfl
@[simp] theorem Ctx.setFlags_tiles (k : Ctx) (f : BitVec 8) : (k.setFlags f).tiles = k.tiles := rfl
@[simp] theorem Ctx.setFlags_wd (k : Ctx) (f : BitVec 8) : (k.setFlags f).wd = k.wd := rfl
@[simp] theorem Ctx.setFlags_clop (k : Ctx) (f : BitVec 8) : (k.setFlags f).clop = k.clop := rfl
@[simp] theorem Ctx.setFlags_lbops (k : Ctx) (f : BitVec 8) : (k.setFlags f).lbops = k.lbops := rfl
@[simp] theorem Ctx.setFlags_inbox (k : Ctx) (f : BitVec 8) : (k.setFlags f).inbox = k.inbox := rfl
@[simp] theorem Ctx.setFlags_resv (k : Ctx) (f : BitVec 8) : (k.setFlags f).resv = k.resv := rfl
@[simp] theorem Ctx.setFlags_lastSender (k : Ctx) (f : BitVec 8) : (k.setFlags f).lastSender = k.lastSender := rfl
@[simp] theorem Ctx.setFlags_sendWait (k : Ctx) (f : BitVec 8) : (k.setFlags f).sendWait = k.sendWait := rfl
@[simp] theorem Ctx.setFlags_copies (k : Ctx) (f : BitVec 8) : (k.setFlags f).copies = k.copies := rfl
@[simp] theorem Ctx.setFlags_nosts (k : Ctx) (f : BitVec 8) : (k.setFlags f).nosts = k.nosts := rfl
@[simp] theorem Ctx.setFlags_streams (k : Ctx) (f : BitVec 8) : (k.setFlags f).streams = k.streams := rfl
@[simp] theorem Ctx.setFlags_loads (k : Ctx) (f : BitVec 8) : (k.setFlags f).loads = k.loads := rfl
@[simp] theorem Ctx.setFlags_atoms (k : Ctx) (f : BitVec 8) : (k.setFlags f).atoms = k.atoms := rfl
@[simp] theorem Ctx.setFlags_stores (k : Ctx) (f : BitVec 8) : (k.setFlags f).stores = k.stores := rfl
@[simp] theorem Ctx.setFlags_fences (k : Ctx) (f : BitVec 8) : (k.setFlags f).fences = k.fences := rfl
@[simp] theorem Ctx.setFlags_arrived (k : Ctx) (f : BitVec 8) : (k.setFlags f).arrived = k.arrived := rfl
@[simp] theorem Ctx.setFlags_triggered (k : Ctx) (f : BitVec 8) : (k.setFlags f).triggered = k.triggered := rfl
@[simp] theorem Ctx.setFlags_putTrap (k : Ctx) (f : BitVec 8) : (k.setFlags f).putTrap = k.putTrap := rfl
@[simp] theorem Ctx.setFlags_raised (k : Ctx) (f : BitVec 8) : (k.setFlags f).raised = k.raised := rfl
@[simp] theorem Ctx.setFlags_priv (k : Ctx) (f : BitVec 8) : (k.setFlags f).priv = k.priv := rfl
@[simp] theorem Ctx.land_pfile (k : Ctx) (f : Flight) : (k.land f).pfile = k.pfile := rfl
@[simp] theorem Ctx.land_queues (k : Ctx) (f : Flight) : (k.land f).queues = k.queues := rfl
@[simp] theorem Ctx.land_xs (k : Ctx) (f : Flight) : (k.land f).xs = k.xs := rfl
@[simp] theorem Ctx.land_as_ (k : Ctx) (f : Flight) : (k.land f).as_ = k.as_ := rfl
@[simp] theorem Ctx.land_flight (k : Ctx) (f : Flight) : (k.land f).flight = k.flight := rfl
@[simp] theorem Ctx.land_pend (k : Ctx) (f : Flight) : (k.land f).pend = k.pend := rfl
@[simp] theorem Ctx.land_ctlab (k : Ctx) (f : Flight) : (k.land f).ctlab = k.ctlab := rfl
@[simp] theorem Ctx.land_ctlHalf (k : Ctx) (f : Flight) : (k.land f).ctlHalf = k.ctlHalf := rfl
@[simp] theorem Ctx.land_trapMuck (k : Ctx) (f : Flight) : (k.land f).trapMuck = k.trapMuck := rfl
@[simp] theorem Ctx.land_lspace (k : Ctx) (f : Flight) : (k.land f).lspace = k.lspace := rfl
@[simp] theorem Ctx.land_ddspace (k : Ctx) (f : Flight) : (k.land f).ddspace = k.ddspace := rfl
@[simp] theorem Ctx.land_ddwt (k : Ctx) (f : Flight) : (k.land f).ddwt = k.ddwt := rfl
@[simp] theorem Ctx.land_bufs (k : Ctx) (f : Flight) : (k.land f).bufs = k.bufs := rfl
@[simp] theorem Ctx.land_accs (k : Ctx) (f : Flight) : (k.land f).accs = k.accs := rfl
@[simp] theorem Ctx.land_mxq (k : Ctx) (f : Flight) : (k.land f).mxq = k.mxq := rfl
@[simp] theorem Ctx.land_team (k : Ctx) (f : Flight) : (k.land f).team = k.team := rfl
@[simp] theorem Ctx.land_tstep (k : Ctx) (f : Flight) : (k.land f).tstep = k.tstep := rfl
@[simp] theorem Ctx.land_tiles (k : Ctx) (f : Flight) : (k.land f).tiles = k.tiles := rfl
@[simp] theorem Ctx.land_wd (k : Ctx) (f : Flight) : (k.land f).wd = k.wd := rfl
@[simp] theorem Ctx.land_clop (k : Ctx) (f : Flight) : (k.land f).clop = k.clop := rfl
@[simp] theorem Ctx.land_lbops (k : Ctx) (f : Flight) : (k.land f).lbops = k.lbops := rfl
@[simp] theorem Ctx.land_inbox (k : Ctx) (f : Flight) : (k.land f).inbox = k.inbox := rfl
@[simp] theorem Ctx.land_resv (k : Ctx) (f : Flight) : (k.land f).resv = k.resv := rfl
@[simp] theorem Ctx.land_lastSender (k : Ctx) (f : Flight) : (k.land f).lastSender = k.lastSender := rfl
@[simp] theorem Ctx.land_sendWait (k : Ctx) (f : Flight) : (k.land f).sendWait = k.sendWait := rfl
@[simp] theorem Ctx.land_copies (k : Ctx) (f : Flight) : (k.land f).copies = k.copies := rfl
@[simp] theorem Ctx.land_nosts (k : Ctx) (f : Flight) : (k.land f).nosts = k.nosts := rfl
@[simp] theorem Ctx.land_streams (k : Ctx) (f : Flight) : (k.land f).streams = k.streams := rfl
@[simp] theorem Ctx.land_loads (k : Ctx) (f : Flight) : (k.land f).loads = k.loads := rfl
@[simp] theorem Ctx.land_atoms (k : Ctx) (f : Flight) : (k.land f).atoms = k.atoms := rfl
@[simp] theorem Ctx.land_stores (k : Ctx) (f : Flight) : (k.land f).stores = k.stores := rfl
@[simp] theorem Ctx.land_fences (k : Ctx) (f : Flight) : (k.land f).fences = k.fences := rfl
@[simp] theorem Ctx.land_arrived (k : Ctx) (f : Flight) : (k.land f).arrived = k.arrived := rfl
@[simp] theorem Ctx.land_triggered (k : Ctx) (f : Flight) : (k.land f).triggered = k.triggered := rfl
@[simp] theorem Ctx.land_putTrap (k : Ctx) (f : Flight) : (k.land f).putTrap = k.putTrap := rfl
@[simp] theorem Ctx.land_raised (k : Ctx) (f : Flight) : (k.land f).raised = k.raised := rfl
@[simp] theorem Ctx.land_priv (k : Ctx) (f : Flight) : (k.land f).priv = k.priv := rfl
@[simp] theorem Ctx.updStream_sfile (k : Ctx) (h : Half) (f : Stream → Stream) : (k.updStream h f).sfile = k.sfile := by cases h <;> rfl
@[simp] theorem Ctx.updStream_vfile (k : Ctx) (h : Half) (f : Stream → Stream) : (k.updStream h f).vfile = k.vfile := by cases h <;> rfl
@[simp] theorem Ctx.updStream_pfile (k : Ctx) (h : Half) (f : Stream → Stream) : (k.updStream h f).pfile = k.pfile := by cases h <;> rfl
@[simp] theorem Ctx.updStream_queues (k : Ctx) (h : Half) (f : Stream → Stream) : (k.updStream h f).queues = k.queues := by cases h <;> rfl
@[simp] theorem Ctx.updStream_flight (k : Ctx) (h : Half) (f : Stream → Stream) : (k.updStream h f).flight = k.flight := by cases h <;> rfl
@[simp] theorem Ctx.updStream_pend (k : Ctx) (h : Half) (f : Stream → Stream) : (k.updStream h f).pend = k.pend := by cases h <;> rfl
@[simp] theorem Ctx.updStream_ctlab (k : Ctx) (h : Half) (f : Stream → Stream) : (k.updStream h f).ctlab = k.ctlab := by cases h <;> rfl
@[simp] theorem Ctx.updStream_ctlHalf (k : Ctx) (h : Half) (f : Stream → Stream) : (k.updStream h f).ctlHalf = k.ctlHalf := by cases h <;> rfl
@[simp] theorem Ctx.updStream_vflags (k : Ctx) (h : Half) (f : Stream → Stream) : (k.updStream h f).vflags = k.vflags := by cases h <;> rfl
@[simp] theorem Ctx.updStream_trapMuck (k : Ctx) (h : Half) (f : Stream → Stream) : (k.updStream h f).trapMuck = k.trapMuck := by cases h <;> rfl
@[simp] theorem Ctx.updStream_lspace (k : Ctx) (h : Half) (f : Stream → Stream) : (k.updStream h f).lspace = k.lspace := by cases h <;> rfl
@[simp] theorem Ctx.updStream_ddspace (k : Ctx) (h : Half) (f : Stream → Stream) : (k.updStream h f).ddspace = k.ddspace := by cases h <;> rfl
@[simp] theorem Ctx.updStream_ddwt (k : Ctx) (h : Half) (f : Stream → Stream) : (k.updStream h f).ddwt = k.ddwt := by cases h <;> rfl
@[simp] theorem Ctx.updStream_bufs (k : Ctx) (h : Half) (f : Stream → Stream) : (k.updStream h f).bufs = k.bufs := by cases h <;> rfl
@[simp] theorem Ctx.updStream_accs (k : Ctx) (h : Half) (f : Stream → Stream) : (k.updStream h f).accs = k.accs := by cases h <;> rfl
@[simp] theorem Ctx.updStream_mxq (k : Ctx) (h : Half) (f : Stream → Stream) : (k.updStream h f).mxq = k.mxq := by cases h <;> rfl
@[simp] theorem Ctx.updStream_team (k : Ctx) (h : Half) (f : Stream → Stream) : (k.updStream h f).team = k.team := by cases h <;> rfl
@[simp] theorem Ctx.updStream_tstep (k : Ctx) (h : Half) (f : Stream → Stream) : (k.updStream h f).tstep = k.tstep := by cases h <;> rfl
@[simp] theorem Ctx.updStream_tiles (k : Ctx) (h : Half) (f : Stream → Stream) : (k.updStream h f).tiles = k.tiles := by cases h <;> rfl
@[simp] theorem Ctx.updStream_wd (k : Ctx) (h : Half) (f : Stream → Stream) : (k.updStream h f).wd = k.wd := by cases h <;> rfl
@[simp] theorem Ctx.updStream_clop (k : Ctx) (h : Half) (f : Stream → Stream) : (k.updStream h f).clop = k.clop := by cases h <;> rfl
@[simp] theorem Ctx.updStream_lbops (k : Ctx) (h : Half) (f : Stream → Stream) : (k.updStream h f).lbops = k.lbops := by cases h <;> rfl
@[simp] theorem Ctx.updStream_inbox (k : Ctx) (h : Half) (f : Stream → Stream) : (k.updStream h f).inbox = k.inbox := by cases h <;> rfl
@[simp] theorem Ctx.updStream_resv (k : Ctx) (h : Half) (f : Stream → Stream) : (k.updStream h f).resv = k.resv := by cases h <;> rfl
@[simp] theorem Ctx.updStream_lastSender (k : Ctx) (h : Half) (f : Stream → Stream) : (k.updStream h f).lastSender = k.lastSender := by cases h <;> rfl
@[simp] theorem Ctx.updStream_sendWait (k : Ctx) (h : Half) (f : Stream → Stream) : (k.updStream h f).sendWait = k.sendWait := by cases h <;> rfl
@[simp] theorem Ctx.updStream_copies (k : Ctx) (h : Half) (f : Stream → Stream) : (k.updStream h f).copies = k.copies := by cases h <;> rfl
@[simp] theorem Ctx.updStream_nosts (k : Ctx) (h : Half) (f : Stream → Stream) : (k.updStream h f).nosts = k.nosts := by cases h <;> rfl
@[simp] theorem Ctx.updStream_streams (k : Ctx) (h : Half) (f : Stream → Stream) : (k.updStream h f).streams = k.streams := by cases h <;> rfl
@[simp] theorem Ctx.updStream_loads (k : Ctx) (h : Half) (f : Stream → Stream) : (k.updStream h f).loads = k.loads := by cases h <;> rfl
@[simp] theorem Ctx.updStream_atoms (k : Ctx) (h : Half) (f : Stream → Stream) : (k.updStream h f).atoms = k.atoms := by cases h <;> rfl
@[simp] theorem Ctx.updStream_stores (k : Ctx) (h : Half) (f : Stream → Stream) : (k.updStream h f).stores = k.stores := by cases h <;> rfl
@[simp] theorem Ctx.updStream_fences (k : Ctx) (h : Half) (f : Stream → Stream) : (k.updStream h f).fences = k.fences := by cases h <;> rfl
@[simp] theorem Ctx.updStream_arrived (k : Ctx) (h : Half) (f : Stream → Stream) : (k.updStream h f).arrived = k.arrived := by cases h <;> rfl
@[simp] theorem Ctx.updStream_triggered (k : Ctx) (h : Half) (f : Stream → Stream) : (k.updStream h f).triggered = k.triggered := by cases h <;> rfl
@[simp] theorem Ctx.updStream_putTrap (k : Ctx) (h : Half) (f : Stream → Stream) : (k.updStream h f).putTrap = k.putTrap := by cases h <;> rfl
@[simp] theorem Ctx.updStream_raised (k : Ctx) (h : Half) (f : Stream → Stream) : (k.updStream h f).raised = k.raised := by cases h <;> rfl
@[simp] theorem Ctx.updStream_priv (k : Ctx) (h : Half) (f : Stream → Stream) : (k.updStream h f).priv = k.priv := by cases h <;> rfl

/-! ## What an accessor reads after an update -/

@[simp] theorem State.core_setCore_self (s : State) (c : Nat) (k : Core) : (s.setCore c k).core c = k :=
  NMap.get_set_self _ _ _ _
theorem State.core_setCore (s : State) (c d : Nat) (k : Core) :
    (s.setCore c k).core d = if d = c then k else s.core d := NMap.get_set _ _ _ _ _
@[simp] theorem State.core_updCore_self (s : State) (c : Nat) (f : Core → Core) : (s.updCore c f).core c = f (s.core c) :=
  NMap.get_set_self _ _ _ _
theorem State.core_updCore (s : State) (c d : Nat) (f : Core → Core) :
    (s.updCore c f).core d = if d = c then f (s.core c) else s.core d := NMap.get_set _ _ _ _ _
@[simp] theorem State.core_updCtx_self (s : State) (c : Nat) (f : Ctx → Ctx) :
    (s.updCtx c f).core c = { s.core c with ctx := f (s.ctx c) } := NMap.get_set_self _ _ _ _
theorem State.core_updCtx (s : State) (c d : Nat) (f : Ctx → Ctx) :
    (s.updCtx c f).core d = if d = c then { s.core c with ctx := f (s.ctx c) } else s.core d := NMap.get_set _ _ _ _ _
@[simp] theorem State.ctx_setCore_self (s : State) (c : Nat) (k : Core) : (s.setCore c k).ctx c = k.ctx := by
  simp [State.ctx]
@[simp] theorem State.ctx_updCore_self (s : State) (c : Nat) (f : Core → Core) : (s.updCore c f).ctx c = (f (s.core c)).ctx := by
  simp [State.ctx]
@[simp] theorem State.ctx_updCtx_self (s : State) (c : Nat) (f : Ctx → Ctx) : (s.updCtx c f).ctx c = f (s.ctx c) := by
  simp [State.ctx]
theorem State.ctx_updCtx_ne (s : State) {c d : Nat} (f : Ctx → Ctx) (h : d ≠ c) : (s.updCtx c f).ctx d = s.ctx d := by
  simp [State.ctx, State.core_updCtx, h]
theorem State.core_updCtx_ne (s : State) {c d : Nat} (f : Ctx → Ctx) (h : d ≠ c) : (s.updCtx c f).core d = s.core d := by
  simp [State.core_updCtx, h]
theorem State.core_updCore_ne (s : State) {c d : Nat} (f : Core → Core) (h : d ≠ c) : (s.updCore c f).core d = s.core d := by
  simp [State.core_updCore, h]

/-- Two changes of one core's context, one after the other. -/
theorem State.task_updCtx (s : State) (c d : Nat) (f : Ctx → Ctx) : ((s.updCtx c f).core d).task = (s.core d).task := by
  rw [State.core_updCtx]; split
  · subst d; rfl
  · rfl

/-- The row of a core depends on its task alone. -/
theorem State.row_congr {s t : State} {c : Nat} (h : (s.core c).task = (t.core c).task) : s.row c = t.row c := by
  unfold State.row; rw [h]
@[simp] theorem State.row_updCtx (s : State) (c d : Nat) (f : Ctx → Ctx) : (s.updCtx c f).row d = s.row d :=
  State.row_congr (State.task_updCtx s c d f)

@[simp] theorem Ctx.scalar_setScalar_self (k : Ctx) (p : Nat) (v : SVal) : (k.setScalar p v).scalar p = v :=
  NMap.get_set_self _ _ _ _
theorem Ctx.scalar_setScalar (k : Ctx) (p q : Nat) (v : SVal) :
    (k.setScalar p v).scalar q = if q = p then v else k.scalar q := NMap.get_set _ _ _ _ _
@[simp] theorem Ctx.vector_setVector_self (k : Ctx) (p : Nat) (v : VVal) : (k.setVector p v).vector p = v :=
  NMap.get_set_self _ _ _ _
theorem Ctx.vector_setVector (k : Ctx) (p q : Nat) (v : VVal) :
    (k.setVector p v).vector q = if q = p then v else k.vector q := NMap.get_set _ _ _ _ _
@[simp] theorem Ctx.pred_setPred_self (k : Ctx) (p : Nat) (v : PVal) : (k.setPred p v).pred p = v :=
  NMap.get_set_self _ _ _ _
theorem Ctx.pred_setPred (k : Ctx) (p q : Nat) (v : PVal) :
    (k.setPred p v).pred q = if q = p then v else k.pred q := NMap.get_set _ _ _ _ _
@[simp] theorem Ctx.queue_setQueue_self (k : Ctx) (p : Nat) (v : Queue) : (k.setQueue p v).queue p = v :=
  NMap.get_set_self _ _ _ _
theorem Ctx.queue_setQueue (k : Ctx) (p q : Nat) (v : Queue) :
    (k.setQueue p v).queue q = if q = p then v else k.queue q := NMap.get_set _ _ _ _ _
@[simp] theorem Ctx.stream_updStream (k : Ctx) (h : Half) (f : Stream → Stream) :
    (k.updStream h f).stream h = f (k.stream h) := by cases h <;> rfl

@[simp] theorem State.part_updCtx (s : State) (c p : Nat) (f : Ctx → Ctx) : (s.updCtx c f).part p = s.part p := rfl
@[simp] theorem State.part_updCore (s : State) (c p : Nat) (f : Core → Core) : (s.updCore c f).part p = s.part p := rfl
@[simp] theorem State.part_setCore (s : State) (c p : Nat) (k : Core) : (s.setCore c k).part p = s.part p := rfl
@[simp] theorem State.core_setPart (s : State) (c p : Nat) (v : Option Part) : (s.setPart p v).core c = s.core c := rfl
@[simp] theorem State.core_memWrite (s : State) (c pa : Nat) (bs : List Byte) : (s.memWrite pa bs).core c = s.core c := rfl
@[simp] theorem State.core_updPart (s : State) (c p : Nat) (f : Part → Part) : (s.updPart p f).core c = s.core c := by
  simp [State.core]
@[simp] theorem State.core_updNode (s : State) (c p i n : Nat) (f : Node → Node) : (s.updNode p i n f).core c = s.core c := by
  simp [State.core]
theorem State.part_updPart (s : State) (p : Nat) (f : Part → Part) {x : Part} (h : s.parts.get none p = some x) :
    (s.updPart p f).part p = f x := by
  simp [State.updPart, h, State.part, State.setPart]
@[simp] theorem State.port_updPort_self (s : State) (p : Nat) (f : LinkPort → LinkPort) : (s.updPort p f).port p = f (s.port p) :=
  NMap.get_set_self _ _ _ _
@[simp] theorem State.stk_updStk_self (s : State) (p : Nat) (f : Stack → Stack) : (s.updStk p f).stk p = f (s.stk p) :=
  NMap.get_set_self _ _ _ _

end Sys2Proof.Machine
end

