-- ==== Sys2Proof/Laws/Issue.lean ====
section
/-! SUPPORT. What issuing a group of one move does (R82, R136), said once for every instruction word. -/

namespace Sys2Proof.Machine

/-! ## What reading a guard can change -/

@[simp] theorem State.putLrun_cores (s : State) (p sp : Nat) (x : LRun) : (s.putLrun p sp x).cores = s.cores := by
  simp [State.putLrun]
@[simp] theorem State.putLrun_now (s : State) (p sp : Nat) (x : LRun) : (s.putLrun p sp x).now = s.now := by
  simp [State.putLrun]
@[simp] theorem State.putLrun_wait (s : State) (p sp : Nat) (x : LRun) : (s.putLrun p sp x).wait = s.wait := by
  simp [State.putLrun]
@[simp] theorem State.putLrun_mem (s : State) (p sp : Nat) (x : LRun) : (s.putLrun p sp x).mem = s.mem := by
  simp [State.putLrun]

/-- A computation in a label space changes the partition's spaces and the free choices alone. -/
theorem State.label_frame {α : Type} (s : State) (p sp : Nat) (d : α) (f : LRun → LRun × α) :
    (s.label p sp d f).1.cores = s.cores ∧ (s.label p sp d f).1.now = s.now ∧ (s.label p sp d f).1.mem = s.mem ∧
    (s.label p sp d f).1.wait = s.wait := by
  unfold State.label
  split <;> simp

theorem State.hiddenTag_frame (s : State) (p sp : Nat) (t : Tag) :
    (s.hiddenTag p sp t).1.cores = s.cores ∧ (s.hiddenTag p sp t).1.now = s.now ∧ (s.hiddenTag p sp t).1.mem = s.mem ∧
    (s.hiddenTag p sp t).1.wait = s.wait := by
  unfold State.hiddenTag
  split
  · simp
  · split
    · simp
    · exact State.label_frame ..

/-- Reading a guard leaves every core, the time and home memory as they are. -/
theorem State.guard_frame (s : State) (c : Nat) (m : Move) :
    (s.guard c m).1.cores = s.cores ∧ (s.guard c m).1.now = s.now ∧ (s.guard c m).1.mem = s.mem ∧
    (s.guard c m).1.wait = s.wait := by
  unfold State.guard
  split
  · simp
  · dsimp only
    split
    · simp
    · have h := State.hiddenTag_frame s (s.spaceOf c).1 (s.spaceOf c).2 (toTag ((s.ctx c).pred (0x80 + m.g)).t)
      split <;> simp_all

/-- Joining a guard's tag leaves every core, the time and home memory as they are. -/
theorem State.guarded_frame (s : State) (c : Nat) (v : Val) (g : LTag) :
    (s.guarded c v g).1.cores = s.cores ∧ (s.guarded c v g).1.now = s.now ∧ (s.guarded c v g).1.mem = s.mem ∧
    (s.guarded c v g).1.wait = s.wait := by
  unfold State.guarded
  split
  · have h := State.label_frame s (s.spaceOf c).1 (s.spaceOf c).2 true (·.emptyJoin [0] (joinTags [v.tag, g]))
    dsimp only
    split <;> simp_all
  · simp

/-- A guard read and its tag joined with a source's: cores, time and home memory stay. -/
theorem reads_frame {s s0 s' : State} {c : Nat} {m : Move} {hid : Bool} {g : LTag} {v0 v : Val}
    (hg : s.guard c m = (s0, .open_ true hid g)) (hd : s0.guarded c v0 g = (s', none, v)) :
    s'.cores = s.cores ∧ s'.now = s.now ∧ s'.mem = s.mem ∧ s'.wait = s.wait := by
  have h1 := s.guard_frame c m
  have h2 := s0.guarded_frame c v0 g
  rw [hg] at h1
  rw [hd] at h2
  exact ⟨h2.1.trans h1.1, h2.2.1.trans h1.2.1, h2.2.2.1.trans h1.2.2.1, h2.2.2.2.trans h1.2.2.2⟩

/-- What `alone` says, piece by piece. -/
theorem alone_iff {s : State} : s.alone = true ↔ s.row s.curCore = [s.curCore] ∧ (s.core s.curCore).task.isSome = true ∧
    (s.core s.curCore).ended = false ∧ ((s.ctx s.curCore).stream s.curHalf).exited = false ∧ s.wait = false := by
  simp only [State.alone, Bool.and_eq_true, decide_eq_true_eq, Bool.not_eq_true', and_assoc]

theorem rowLive_alone {s : State} (h : s.alone = true) : s.rowLive s.curCore s.curHalf = [s.curCore] := by
  obtain ⟨h1, h2, h3, h4, -⟩ := alone_iff.mp h
  simp [State.rowLive, h1, h2, h3, h4]

theorem alignRow_alone {s : State} {c : Nat} {h : Half} (e : s.row c = [c]) : s.alignRow c h = s := by
  simp [State.alignRow, e]

theorem transferTags_one (k : Ctx) (l : Live) (x : Trig) : transferTags k [(l, x)] = x.transferJoin k l.g := by
  unfold transferTags Trig.transferJoin
  by_cases h : isTransfer x.port = true <;> simp [h]

theorem forwards_trig {l : Live} {x : Trig} (hx : x.port = l.mv.dst) (hd : l.mv.isDrop = false) :
    l.mv.forwards l.g = if isTransfer x.port then [l.g] else [] := by
  simp [Move.forwards, hx, hd]

/-- A source that counts for `State.source` is what the group reads; it is no input of a recorded member. -/
theorem source_port {s : State} {c : Nat} {t : Task} {m : Move} {p k : Nat} {v : Val} (e : m.src = .port p k)
    (h : s.source c t m = some v) :
    s.sourceAt c t 0 p = some v ∧ (isInput p && (s.core c).record.isSome) = false := by
  simp only [State.source, e] at h
  split at h
  · simp at h
  · rename_i hn
    simp only [Bool.not_eq_true] at hn
    refine ⟨?_, hn⟩
    unfold State.sourceAt
    cases hi : isInput p
    · simpa using h
    · cases hr : (s.core c).record
      · simpa [Core.served, hr] using h
      · simp [hi, hr] at hn

/-- A sole move whose source counts for `State.source` is no input that a member records. -/
theorem inputs_one {s s0 : State} {c : Nat} {t : Task} {l : Live} {v : Val} (hc : s0.cores = s.cores)
    (h : s0.source c t l.mv = some v) : (s.core c).inputs [l] = [] := by
  have e0 : s.core c = s0.core c := by unfold State.core; rw [hc]
  unfold Core.inputs
  rw [e0]
  split
  · rename_i hr
    cases e : l.mv.src with
    | imm u => simp [Move.isInput, e]
    | port p k =>
      have := (source_port e h).2
      simp [Move.isInput, e]
      simpa [hr] using this
  · rfl

/-- A sole move marks no entry: a push into `xa` and an arrival are two moves. -/
theorem markSync_one (k : Ctx) (l : Live) : k.markSync [l] = k := by
  unfold Ctx.markSync
  by_cases h1 : l.mv.dst = 0x8C <;> simp [h1]

/-- The order of a group's triggers leaves a single one as it is. -/
theorem trigOrder_one (l : Live) (h : l.isTrig = true) : trigOrder [l] = [l] := by
  unfold trigOrder
  cases hf : asksFirst l.mv.dst <;> simp only [List.filter_cons, h, hf, if_true, List.filter_nil, Bool.not_true,
    Bool.not_false, Bool.false_eq_true, if_false, List.nil_append, List.append_nil]
  generalize (decide (0x440 ≤ l.mv.dst) && decide (l.mv.dst < 0x500) || decide (0x5C0 ≤ l.mv.dst) && decide (l.mv.dst < 0x5E0)) = b
  cases b <;> simp

/-- What `starts` says, piece by piece. -/
theorem starts_iff {s s1 : State} {w : Slot} {x : Trig} {g : LTag} (h : s.starts w = some (x, s1, g)) :
    ∃ m v s' hid s0 v0, s.soleMove w = some m ∧ s.guard s.curCore m = (s0, .open_ true hid g) ∧
      s0.source s.curCore (taskOf s s.curCore) m = some v0 ∧ s0.guarded s.curCore v0 g = (s', none, v) ∧
      (s'.ctx s.curCore).moveReady s'.now m = true ∧
      (let l : Live := { idx := 0, mv := m, val := v, g := g }
       let k := ((s'.ctx s.curCore).popAll s.now [l]).noteSync s.now [l]
       l.poison = none ∧ l.isTrig = true ∧
       x = l.trig (s.ctx s.curCore) s.curCore s.curHalf ((s.ctx s.curCore).stream s.curHalf).start.toNat s.after ∧
       x.latchesReady k [m.dst] = true ∧ (x.muckTrap && x.consumesMuck k) = false ∧
       ((s.ctx s.curCore).accessHeld && isAccess x.port) = false ∧ s1 = s'.updCtx s.curCore fun _ => k) := by
  unfold State.starts State.performs at h
  simp only [Option.bind_eq_some_iff] at h
  obtain ⟨⟨s', l⟩, ⟨m, hm, h1⟩, h2⟩ := h
  split at h1
  · rename_i s'' hid g' hg
    simp only [Option.bind_eq_some_iff] at h1
    obtain ⟨v0, hv, h1⟩ := h1
    split at h1
    · rename_i s1' v hgd
      split at h1
      · rename_i hc
        simp only [Option.some.injEq, Prod.mk.injEq] at h1
        obtain ⟨rfl, rfl⟩ := h1
        dsimp only at h2
        split at h2
        · rename_i hd
          simp only [Option.some.injEq, Prod.mk.injEq] at h2
          obtain ⟨rfl, rfl, rfl⟩ := h2
          simp only [Bool.and_eq_true, Bool.not_eq_true', Option.isNone_iff_eq_none] at hc hd
          exact ⟨m, v, s1', hid, s'', v0, hm, hg, hv, hgd, hc.1, hc.2, hd.1.1.1, rfl, hd.1.1.2, hd.1.2, hd.2, rfl⟩
        · simp at h2
      · simp at h1
    · simp at h1
  · simp at h1

/-- The group of a sole trigger, on the member that performs it. -/
theorem member_of_starts {s s1 s2 : State} {w : Slot} {x : Trig} {g : LTag} {j : Bool}
    (h : s.starts w = some (x, s1, g)) (hf : fire x s1 = .done s2 j) (hw : s2.wait = false) :
    s.member s.curCore s.curHalf (parseGroup (s.closing w)).moves ((s.ctx s.curCore).stream s.curHalf).start.toNat
        s.after false [] =
      .done (s2.updCtx s.curCore (·.joinCtl s.curHalf (g :: x.transferJoin (s1.ctx s.curCore) g)))
        j (if isTransfer x.port then [g] else []) := by
  obtain ⟨m, v, s', hid, s0, v0, hm, hg, hv, hgd, hr, hp, ht, hx, hl, hc, hq, hs1⟩ := starts_iff h
  have hms : (parseGroup (s.closing w)).moves = [m] := by
    unfold State.soleMove at hm
    dsimp only at hm
    split at hm
    · split at hm
      · simp_all
      · simp at hm
    · simp at hm
  have hnd : m.isDrop = false := by
    simp only [Live.isTrig, Bool.and_eq_true, Bool.not_eq_true'] at ht; exact ht.1
  obtain ⟨l, hld⟩ : ∃ l : Live, l = { idx := 0, mv := m, val := v, g := g } := ⟨_, rfl⟩
  rw [← hld] at hp ht hx hl hc hs1
  have hga : s.gatherAll s.curCore (taskOf s s.curCore) (s.ctx s.curCore).trapMuck {} 0 [m] =
      (s', { stall := false, live := [l], gtags := [g], fwd := m.forwards g, causes := [] }) := by
    simp only [State.gatherAll, State.gatherMove, hg]
    cases e : m.src with
    | imm u =>
      simp only [State.source, e, Option.some.injEq] at hv ⊢; subst hv; simp [hgd, hr, ← hld, hp]
    | port p k => simp [(source_port e hv).1, hgd, hr, ← hld, hp]
  have hwr (k : Ctx) : k.writeAll s.now [l] = k := by
    simp [Ctx.writeAll, ht]
  have hto : trigOrder [l] = [l] := trigOrder_one l ht
  have hwn : (([l].filter fun l => !l.mv.isDrop).map (·.mv.dst)) = [m.dst] := by
    simp [hld, hnd]
  rw [hms]
  unfold State.member
  simp only [Bool.false_eq_true, if_false, hga, hwr, hto, hwn, markSync_one, List.map_cons, List.map_nil, List.foldl_cons,
    List.foldl_nil, List.any_cons, List.any_nil, Bool.or_false, Bool.false_or]
  rw [← hx, ← hs1]
  simp only [hq, Bool.false_eq_true, if_false]
  have hk : s1.ctx x.core = ((s'.ctx s.curCore).popAll s.now [l]).noteSync s.now [l] := by
    rw [hs1, hx]; simp [Live.trig]
  have hstep : Run6.step { s := s1 } l x [m.dst] = { s := s2, jump := j } := by
    unfold Run6.step
    simp only [hk, hl, hc, if_true, hf, Bool.false_or]
    simp [hw]
  have hxc : x.core = s.curCore := by rw [hx]; rfl
  rw [hstep]
  have hret : s.returns s.curCore false = false := rfl
  have hlg : l.g = g := by rw [hld]
  have hin : (s.core s.curCore).inputs [l] = [] :=
    inputs_one (s0 := s0) (t := taskOf s s.curCore) (v := v0)
      (by have h1 := s.guard_frame s.curCore m; rw [hg] at h1; exact h1.1) (by rw [hld]; exact hv)
  have hfw : m.forwards g = if isTransfer x.port then [g] else [] := by
    have := forwards_trig (l := l) (x := x) (by rw [hx]; rfl) (by rw [hld]; exact hnd)
    rwa [hlg, hld] at this
  simp only [firstCause, List.append_nil, Bool.false_eq_true, if_false, transferTags_one, hret, ← hk, hxc, hin, hfw,
    State.noteInputs, List.isEmpty_nil, Bool.not_true, Bool.false_and]
  simp [hlg]

/-- A word that closes the group of a sole trigger: the operation is performed, and the group ends (R82, R136). -/
theorem word_of_starts_row {s s1 s2 : State} {w : Slot} {x : Trig} {g : LTag} {j : Bool}
    (h : s.starts w = some (x, s1, g)) (hf : fire x s1 = .done s2 j) (hw : s2.wait = false) :
    s.word true w = .next ((s.close s2 x g (x.transferJoin (s1.ctx x.core) g) j).alignRow x.core x.half) := by
  have hm := member_of_starts h hf hw
  obtain ⟨m, v, s', hid, s0, v0, hsm, hg, hv, hgd, hr, hp, ht, hx, hl, hc, hq, hs1⟩ := starts_iff h
  have hxc : x.core = s.curCore := by rw [hx]; rfl
  have hxh : x.half = s.curHalf := by rw [hx]; rfl
  have hxn : x.next = s.after := by rw [hx]; rfl
  unfold State.soleMove at hsm
  dsimp only at hsm
  split at hsm
  · rename_i hok
    simp only [Bool.and_eq_true, Option.isNone_iff_eq_none] at hok
    obtain ⟨⟨hal, hok⟩, hb⟩ := hok
    unfold State.word
    simp only [State.closing] at hok hb hm
    simp only [if_true, hok]
    unfold State.issue
    rw [rowLive_alone hal]
    simp only [List.foldl_cons, List.foldl_nil, Along.step, bne_self_eq_false, Bool.false_eq_true, if_false]
    rw [show ((s.ctx s.curCore).stream s.curHalf).pc.toNat + 4 = s.after from rfl, hm]
    simp only [Bool.false_eq_true, if_false, List.isEmpty_nil, Bool.not_true, hb, Bool.false_or]
    unfold State.close
    simp only [hxc, hxh, hxn]
  · simp at hsm

/-- The same, where the core's row is still itself. -/
theorem word_of_starts {s s1 s2 : State} {w : Slot} {x : Trig} {g : LTag} {j : Bool}
    (h : s.starts w = some (x, s1, g)) (hf : fire x s1 = .done s2 j) (hw : s2.wait = false)
    (hrow : s2.row x.core = [x.core]) : s.word true w = .next (s.close s2 x g (x.transferJoin (s1.ctx x.core) g) j) := by
  rw [word_of_starts_row h hf hw, alignRow_alone]
  unfold State.close
  cases j <;> simp [hrow]

/-- The group of a sole trigger that its operation refuses, on the member (R384). -/
theorem member_of_refusal {s s1 : State} {w : Slot} {x : Trig} {g : LTag} {n : Nat} {tr : Trap}
    (h : s.starts w = some (x, s1, g)) (hf : fire x s1 = .trap n tr) :
    s.member s.curCore s.curHalf (parseGroup (s.closing w)).moves ((s.ctx s.curCore).stream s.curHalf).start.toNat
        s.after false [] = .trap tr := by
  obtain ⟨m, v, s', hid, s0, v0, hm, hg, hv, hgd, hr, hp, ht, hx, hl, hc, hq, hs1⟩ := starts_iff h
  have hms : (parseGroup (s.closing w)).moves = [m] := by
    unfold State.soleMove at hm
    dsimp only at hm
    split at hm
    · split at hm
      · simp_all
      · simp at hm
    · simp at hm
  have hnd : m.isDrop = false := by
    simp only [Live.isTrig, Bool.and_eq_true, Bool.not_eq_true'] at ht; exact ht.1
  obtain ⟨l, hld⟩ : ∃ l : Live, l = { idx := 0, mv := m, val := v, g := g } := ⟨_, rfl⟩
  rw [← hld] at hp ht hx hl hc hs1
  have hga : s.gatherAll s.curCore (taskOf s s.curCore) (s.ctx s.curCore).trapMuck {} 0 [m] =
      (s', { stall := false, live := [l], gtags := [g], fwd := m.forwards g, causes := [] }) := by
    simp only [State.gatherAll, State.gatherMove, hg]
    cases e : m.src with
    | imm u =>
      simp only [State.source, e, Option.some.injEq] at hv ⊢; subst hv; simp [hgd, hr, ← hld, hp]
    | port p k => simp [(source_port e hv).1, hgd, hr, ← hld, hp]
  have hwr (k : Ctx) : k.writeAll s.now [l] = k := by
    simp [Ctx.writeAll, ht]
  have hto : trigOrder [l] = [l] := trigOrder_one l ht
  have hwn : (([l].filter fun l => !l.mv.isDrop).map (·.mv.dst)) = [m.dst] := by
    simp [hld, hnd]
  rw [hms]
  unfold State.member
  simp only [Bool.false_eq_true, if_false, hga, hwr, hto, hwn, markSync_one, List.map_cons, List.map_nil, List.foldl_cons,
    List.foldl_nil, List.any_cons, List.any_nil, Bool.or_false, Bool.false_or]
  rw [← hx, ← hs1]
  simp only [hq, Bool.false_eq_true, if_false]
  have hk : s1.ctx x.core = ((s'.ctx s.curCore).popAll s.now [l]).noteSync s.now [l] := by
    rw [hs1, hx]; simp [Live.trig]
  have hstep : Run6.step { s := s1 } l x [m.dst] = { s := s1, causes := [(n, l.idx, tr)] } := by
    unfold Run6.step
    simp only [hk, hl, hc, if_true, hf]
    simp
  rw [hstep]
  simp [firstCause]

/-- The core still runs its task alone when its trigger starts. -/
theorem row_of_starts {s s1 : State} {w : Slot} {x : Trig} {g : LTag} (h : s.starts w = some (x, s1, g)) :
    s1.row x.core = [x.core] := by
  obtain ⟨m, v, s', hid, s0, v0, hsm, hg, hv, hgd, hr, hp, ht, hx, hl, hc, hq, hs1⟩ := starts_iff h
  have hxc : x.core = s.curCore := by rw [hx]; rfl
  have hf := (reads_frame hg hgd).1
  unfold State.soleMove at hsm
  dsimp only at hsm
  split at hsm
  · rename_i hok
    simp only [Bool.and_eq_true] at hok
    rw [hs1, hxc, State.row_updCtx, State.row_congr (t := s), (alone_iff.mp hok.1.1).1]
    unfold State.core
    rw [hf]
  · simp at hsm

/-- The core and half of a trigger that starts are those that execute; starting it leaves the time and home memory, and takes
no step back. -/
theorem frame_of_starts {s s1 : State} {w : Slot} {x : Trig} {g : LTag} (h : s.starts w = some (x, s1, g)) :
    x.core = s.curCore ∧ x.half = s.curHalf ∧ s1.now = s.now ∧ s1.mem = s.mem ∧ s1.wait = false := by
  obtain ⟨m, v, s', hid, s0, v0, hsm, hg, hv, hgd, hr, hp, ht, hx, hl, hc, hq, hs1⟩ := starts_iff h
  have hf := reads_frame hg hgd
  unfold State.soleMove at hsm
  dsimp only at hsm
  split at hsm
  · rename_i hok
    simp only [Bool.and_eq_true] at hok
    have hw := (alone_iff.mp hok.1.1).2.2.2.2
    refine ⟨by rw [hx]; rfl, by rw [hx]; rfl, ?_, ?_, ?_⟩ <;> rw [hs1] <;> simp [hf.2.1, hf.2.2, hw]
  · simp at hsm

/-- The same where the operation sends results of fixed latency. -/
theorem word_of_sends {s s1 : State} {w : Slot} {x : Trig} {g : LTag} {f : Flight}
    (h : s.starts w = some (x, s1, g)) (hf : fire x s1 = .done (s1.updCtx x.core (·.send f)) false)
    (ht : isTransfer x.port = false) : s.word true w = .next (s.closeSend s1 x g f) := by
  rw [word_of_starts h hf (by simp [(frame_of_starts h).2.2.2.2]) (by simp [row_of_starts h])]
  simp [State.closeSend, Trig.transferJoin, ht]

/-- The same where the operation leaves the machine as it is. -/
theorem word_of_quiet {s s1 : State} {w : Slot} {x : Trig} {g : LTag}
    (h : s.starts w = some (x, s1, g)) (hf : fire x s1 = .done s1 false)
    (ht : isTransfer x.port = false) : s.word true w = .next (s.close s1 x g [] false) := by
  rw [word_of_starts h hf (frame_of_starts h).2.2.2.2 (row_of_starts h)]
  simp [Trig.transferJoin, ht]

/-- A word whose sole trigger is refused: nothing of the group is performed, and the trap is raised (R180, R384). -/
theorem word_of_refusal {s s1 : State} {w : Slot} {x : Trig} {g : LTag} {n : Nat} {tr : Trap}
    (h : s.starts w = some (x, s1, g)) (hf : fire x s1 = .trap n tr) : s.word true w = .next (s.refuseGroup tr) := by
  have hm := member_of_refusal h hf
  obtain ⟨m, v, s', hid, s0, v0, hsm, hg, hv, hgd, hr, hp, ht, hx, hl, hc, hq, hs1⟩ := starts_iff h
  unfold State.soleMove at hsm
  dsimp only at hsm
  split at hsm
  · rename_i hok
    simp only [Bool.and_eq_true, Option.isNone_iff_eq_none] at hok
    obtain ⟨⟨hal, hok⟩, hb⟩ := hok
    have hrow : s.row s.curCore = [s.curCore] := (alone_iff.mp hal).1
    unfold State.word
    simp only [State.closing] at hok hb hm
    simp only [if_true, hok]
    unfold State.issue
    rw [rowLive_alone hal]
    simp only [List.foldl_cons, List.foldl_nil, Along.step, bne_self_eq_false, Bool.false_eq_true, if_false]
    rw [show ((s.ctx s.curCore).stream s.curHalf).pc.toNat + 4 = s.after from rfl, hm]
    simp only [Bool.false_eq_true, if_false, List.nil_append, List.isEmpty_cons, Bool.not_false, if_true]
    rw [alignRow_alone (by simp [hrow])]
    simp [State.refuseGroup, State.raise]
  · simp at hsm

/-! ## From instructions to words -/

/-- Every instruction word does what its slot does. -/
theorem exec_of_slot {i : Instr} {last : Bool} {w : Slot} (h : slotOf i = some (last, w)) (s : State) :
    exec i s = s.word last w := by
  cases i <;> simp only [slotOf, Instr.port, Instr.trigW, Option.some.injEq, Prod.mk.injEq, reduceCtorEq] at h <;>
    (try obtain ⟨rfl, rfl⟩ := h) <;> rfl

/-- The sole move of a group that a move word closes is that word's. -/
theorem sole_move_dst {s : State} {g : BitVec 3} {n imm : Bool} {d : Port} {low : BitVec 15} {m : Move}
    (h : s.soleMove (.move g n d imm low) = some m) : m.dst = d.toNat := by
  unfold State.soleMove at h
  dsimp only at h
  split at h
  · split at h
    · rename_i m' hm
      simp only [Option.some.injEq] at h
      subst h
      simp only [parseGroup, State.closing, List.foldl_append, List.foldl_cons, List.foldl_nil, Parse.slot] at hm
      have := List.append_eq_singleton_iff.mp hm
      rcases this with ⟨-, h⟩ | ⟨-, h⟩
      · simp only [List.cons.injEq, and_true] at h; rw [← h]
      · simp at h
    · simp at h
  · simp at h

theorem starts_port {s s1 : State} {g : BitVec 3} {n imm : Bool} {d : Port} {low : BitVec 15} {x : Trig} {t : LTag}
    (h : s.starts (.move g n d imm low) = some (x, s1, t)) : x.port = d.toNat := by
  obtain ⟨m, v, s', hid, s0, v0, hsm, hg, hv, hgd, hr, hp, ht, hx, hl, hc, hq, hs1⟩ := starts_iff h
  rw [hx, ← sole_move_dst hsm]; rfl

/-- The port of the trigger that a trigger word starts. -/
theorem port_of_begins {s s1 : State} {i : Instr} {x : Trig} {g : LTag} (h : s.begins i = some (x, s1, g)) {p : Nat}
    (hp : i.port = some p) : x.port = p % 2048 := by
  unfold State.begins slotOf at h
  rw [hp] at h
  cases ht : i.trigW with
  | none =>
    exfalso
    cases i <;> simp [Instr.port, Instr.trigW] at hp ht
  | some w =>
    rw [ht] at h
    cases hs : w.s
    · simp [hs] at h
    · simp only [hs] at h
      have := starts_port h
      simpa using this

/-- A trigger word performs its operation, and its group ends (R82, R136). -/
theorem exec_of_begins {i : Instr} {s s1 s2 : State} {x : Trig} {g : LTag} {j : Bool}
    (h : s.begins i = some (x, s1, g)) (hf : fire x s1 = .done s2 j) (hw : s2.wait = false)
    (hrow : s2.row x.core = [x.core]) :
    exec i s = .next (s.close s2 x g (x.transferJoin (s1.ctx x.core) g) j) := by
  unfold State.begins at h
  split at h
  · rw [exec_of_slot ‹_›]; exact word_of_starts h hf hw hrow
  · simp at h

/-- The same, whatever becomes of the core's row. -/
theorem exec_of_begins_row {i : Instr} {s s1 s2 : State} {x : Trig} {g : LTag} {j : Bool}
    (h : s.begins i = some (x, s1, g)) (hf : fire x s1 = .done s2 j) (hw : s2.wait = false) :
    exec i s = .next ((s.close s2 x g (x.transferJoin (s1.ctx x.core) g) j).alignRow x.core x.half) := by
  unfold State.begins at h
  split at h
  · rw [exec_of_slot ‹_›]; exact word_of_starts_row h hf hw
  · simp at h

theorem row_of_begins {i : Instr} {s s1 : State} {x : Trig} {g : LTag} (h : s.begins i = some (x, s1, g)) :
    s1.row x.core = [x.core] := by
  unfold State.begins at h
  split at h
  · exact row_of_starts h
  · simp at h

/-- The same for results of fixed latency. -/
theorem exec_of_sends {i : Instr} {s s1 : State} {x : Trig} {g : LTag} {f : Flight}
    (h : s.begins i = some (x, s1, g)) (hf : fire x s1 = .done (s1.updCtx x.core (·.send f)) false)
    (ht : isTransfer x.port = false) : exec i s = .next (s.closeSend s1 x g f) := by
  unfold State.begins at h
  split at h
  · rw [exec_of_slot ‹_›]; exact word_of_sends h hf ht
  · simp at h

/-- A trigger word whose operation is refused. -/
theorem exec_of_refusal {i : Instr} {s s1 : State} {x : Trig} {g : LTag} {n : Nat} {tr : Trap}
    (h : s.begins i = some (x, s1, g)) (hf : fire x s1 = .trap n tr) : exec i s = .next (s.refuseGroup tr) := by
  unfold State.begins at h
  split at h
  · rw [exec_of_slot ‹_›]; exact word_of_refusal h hf
  · simp at h

/-- The core, half, time and memory with which a trigger word begins are those of the state, and no step is taken back. -/
theorem frame_of_begins {i : Instr} {s s1 : State} {x : Trig} {g : LTag} (h : s.begins i = some (x, s1, g)) :
    x.core = s.curCore ∧ x.half = s.curHalf ∧ s1.now = s.now ∧ s1.mem = s.mem ∧ s1.wait = false := by
  unfold State.begins at h
  split at h
  · exact frame_of_starts h
  · simp at h

/-! ## From an operation to its instruction -/

/-- An instruction does what its trigger's operation does. -/
theorem does_of_fire {i : Instr} {p : Nat} {P : Trig → State → Prop} {f : Trig → State → State} (hp : i.port = some p)
    (ht : isTransfer (p % 2048) = false) (h : ∀ x s, x.port = p % 2048 → P x s → fire x s = .done (f x s) false)
    (hw : ∀ x s, P x s → s.wait = false → (f x s).wait = false)
    (hrow : ∀ x s, P x s → s.row x.core = [x.core] → (f x s).row x.core = [x.core]) : Does i P f := by
  intro s s1 x g hb hP
  have e := port_of_begins hb hp
  rw [exec_of_begins hb (h x s1 e hP) (hw x s1 hP (frame_of_begins hb).2.2.2.2) (hrow x s1 hP (row_of_begins hb))]
  simp [Trig.transferJoin, e, ht]

/-- The same, whatever becomes of the core's row. -/
theorem doesRow_of_fire {i : Instr} {p : Nat} {P : Trig → State → Prop} {f : Trig → State → State} (hp : i.port = some p)
    (ht : isTransfer (p % 2048) = false) (h : ∀ x s, x.port = p % 2048 → P x s → fire x s = .done (f x s) false)
    (hw : ∀ x s, P x s → s.wait = false → (f x s).wait = false) :
    DoesRow i P f := by
  intro s s1 x g hb hP
  have e := port_of_begins hb hp
  rw [exec_of_begins_row hb (h x s1 e hP) (hw x s1 hP (frame_of_begins hb).2.2.2.2)]
  simp [Trig.transferJoin, e, ht]

/-- The same, where its operation is refused. -/
theorem refused_of_fire {i : Instr} {p : Nat} {P : Trig → State → Prop} {t : Trig → State → Trap} (hp : i.port = some p)
    (h : ∀ x s, x.port = p % 2048 → P x s → ∃ n, fire x s = .trap n (t x s)) : Refused i P t := by
  intro s s1 x g hb hP
  obtain ⟨n, hf⟩ := h x s1 (port_of_begins hb hp) hP
  exact exec_of_refusal hb hf

/-- The same, where its operation transfers control. -/
theorem transfers_of_fire {i : Instr} {p : Nat} {P : Trig → State → Prop} {f : Trig → State → Nat × List RsEntry × Nat}
    (hp : i.port = some p)
    (h : ∀ x s, x.port = p % 2048 → P x s → fire x s = .done (s.updCtx x.core fun k => k.updStream x.half fun m =>
      { m with pc := BitVec.ofNat 17 (f x s).1, start := BitVec.ofNat 17 (f x s).1, open_ := []
               ready := s.now + 2 * (f x s).2.2, past := 0x20000 ≤ (f x s).1, stack := (f x s).2.1 }) true) : Transfers i P f := by
  intro s s1 x g hb hP
  exact exec_of_begins hb (h x s1 (port_of_begins hb hp) hP) (by simp [(frame_of_begins hb).2.2.2.2])
    (by simp [row_of_begins hb])

/-- The same, where it transfers no control. -/
theorem notTaken_of_fire {i : Instr} {p : Nat} {P : Trig → State → Prop} (hp : i.port = some p)
    (h : ∀ x s, x.port = p % 2048 → P x s → fire x s = .done s false) : NotTaken i P := by
  intro s s1 x g hb hP
  exact exec_of_begins hb (h x s1 (port_of_begins hb hp) hP) (frame_of_begins hb).2.2.2.2 (row_of_begins hb)

end Sys2Proof.Machine
end

