-- ==== Sys2Proof/Laws/Reads.lean ====
section
/-! SUPPORT. What a read by an agent of the device can change: the correction count of a die and the error mark of a
granule, and no partition. -/

namespace Sys2Proof.Machine

theorem correct_parts (s : State) (pa : Nat) : (s.correct pa).parts = s.parts := by
  unfold State.correct
  split <;> rfl

theorem readHome_parts (s : State) (key pa n : Nat) (a : Dword) : (s.readHome key pa n a).1.parts = s.parts := by
  unfold State.readHome
  split
  · rfl
  · split
    · rfl
    · exact correct_parts s pa

theorem readEntry_parts (s : State) (p : Part) (table i : Nat) (a : Dword) : (s.readEntry p table i a).1.parts = s.parts := by
  have h := readHome_parts s 0 (table + 8 * i) 8 a
  unfold State.readEntry
  split
  · rfl
  · split <;> rename_i he <;> rw [← h, he]

theorem walk_parts (s : State) (p : Part) (va : Nat) (a : Dword) : (s.walk p va a).1.parts = s.parts := by
  have h3 := readEntry_parts s p (p.ptbase.toNat * 2 ^ 13) (field va 47 38) a
  unfold State.walk
  split
  · rename_i he
    rw [← h3, he]
  · rename_i s3 e3 he
    rw [he] at h3
    split
    · exact h3
    · rename_i t2 _
      have h2 := (readEntry_parts s3 p t2 (field va 37 27) a).trans h3
      split
      · rename_i hd
        rw [← h2, hd]
      · rename_i s2 e2 hd
        rw [hd] at h2
        split
        · exact h2
        · split
          · exact h2
          · rename_i t1 _
            have h1 := (readEntry_parts s2 p t1 (field va 26 16) a).trans h2
            split <;> rename_i hc <;> rw [← h1, hc]

theorem devLocate_parts (s : State) (p : Nat) (k : AccessKind) (a : Dword) : (s.devLocate p k a).1.parts = s.parts := by
  unfold State.devLocate
  split
  · rfl
  · have h := walk_parts s (s.part p) (a.toNat % 2 ^ 48) a
    dsimp only
    split <;> rename_i he <;> rw [he] at h
    · exact h
    · split <;> exact h

theorem devPlaces_parts (s : State) (p : Nat) (k : AccessKind) (ps : List (Dword × Nat)) :
    (s.devPlaces p k ps).1.parts = s.parts := by
  induction ps generalizing s with
  | nil => rfl
  | cons e ps ih =>
    obtain ⟨a, n⟩ := e
    have h := devLocate_parts s p k a
    simp only [State.devPlaces]
    split
    · rename_i he
      rw [← h, he]
    · rename_i s' pa key he
      have h2 := ih s'
      rw [he] at h
      split <;> rename_i hd <;> (rw [hd] at h2; exact h2.trans h)

theorem devBytes_parts (s : State) (ps : List DevPart) : (s.devBytes ps).1.parts = s.parts := by
  induction ps generalizing s with
  | nil => rfl
  | cons e ps ih =>
    obtain ⟨pa, n, a, key⟩ := e
    have h := readHome_parts s key pa n a
    simp only [State.devBytes]
    split
    · rename_i he
      rw [← h, he]
    · rename_i s' b t he
      have h2 := ih s'
      rw [he] at h
      split <;> rename_i hd <;> (rw [hd] at h2; exact h2.trans h)

/-- A read by an agent of the device changes no partition. -/
theorem devRead_parts (s : State) (p : Nat) (a : Dword) (n : Nat) : (s.devRead p a n).1.parts = s.parts := by
  have h := devPlaces_parts s p .read (partsOf a n)
  unfold State.devRead
  split <;> rename_i he <;> rw [he] at h
  · exact h
  · exact (devBytes_parts _ _).trans h

theorem devGranule_parts (s : State) (p : Nat) (a : Dword) : (s.devGranule p a).1.parts = s.parts := by
  have h := devRead_parts s p a 64
  unfold State.devGranule
  split <;> rename_i he <;> rw [← h, he]

theorem readDirectory_parts (s : State) (p : Nat) (obj : Dword) (i n : Nat) : (s.readDirectory p obj i n).1.parts = s.parts := by
  induction n generalizing s i with
  | zero => rfl
  | succ n ih =>
    have h := devGranule_parts s p (obj + BitVec.ofNat 64 (64 * i))
    simp only [State.readDirectory]
    split
    · rename_i he
      rw [← h, he]
    · rename_i s' e he
      have h2 := ih s' (i + 1)
      rw [he] at h
      split <;> rename_i hd <;> (rw [hd] at h2; exact h2.trans h)

theorem readDecl_parts (s : State) (p : Nat) (a : Dword) : (s.readDecl p a).1.parts = s.parts := by
  have h := devRead_parts s p a 8
  unfold State.readDecl
  split
  · rename_i he
    rw [← h, he]
  · rename_i s' b he
    rw [he] at h
    dsimp only
    split
    · exact h
    · have h2 := devRead_parts s' p (a + 8)
        (8 * (dfield (BitVec.ofNat 64 (ofBytes b)) 37 32 + dfield (BitVec.ofNat 64 (ofBytes b)) 41 38))
      split <;> rename_i hd <;> rw [hd] at h2
      · exact h2.trans h
      · split <;> exact h2.trans h

theorem imageOf_parts (s : State) (p : Nat) (r : Vec) (obj : Dword) (e : Vec) : (s.imageOf p r obj e).1.parts = s.parts := by
  have h := readDecl_parts s p (obj + BitVec.ofNat 64 (dfield (dwordOf e 7) 31 0))
  unfold State.imageOf
  dsimp only
  split <;> rename_i he <;> rw [he] at h
  · exact h
  · split
    · exact h
    · split
      · split <;> exact h
      · exact h

/-- A selection reads; it changes no partition. -/
theorem select_parts (s : State) (p : Nat) (r : Vec) (f : Bool) : (s.select p r f).1.parts = s.parts := by
  have h := devGranule_parts s p (recObj r)
  unfold State.select
  dsimp only
  split
  · rename_i he
    rw [← h, he]
  · rename_i s' g he
    rw [he] at h
    split
    · exact h
    · have h2 := readDirectory_parts s' p (recObj r) 1 (dfield (dwordOf g 0) 11 8)
      split <;> rename_i hd <;> rw [hd] at h2
      · exact h2.trans h
      · split
        · exact h2.trans h
        · split
          · exact (imageOf_parts _ _ _ _ _).trans (h2.trans h)
          · exact h2.trans h

end Sys2Proof.Machine
end

