-- ==== Sys2Proof/Tests/Slice0.lean ====
section
/-! SUPPORT. Tests. Expected values are worked by hand from the rules cited. A theorem `wit_<Statement>` shows states and
operands that meet the hypotheses of the statement of that name, clause by clause. -/

open Sys2Proof Sys2Proof.Machine

set_option maxRecDepth 20000
set_option Elab.async false

namespace Sys2Proof.Tests

/-! ## Words -/

/-- Each check of a word refuses a term that is ill formed by it alone: a guard that makes a hint (R131), a reserved
destination, a trigger as a plain destination (R146), an A destination of an X source (R145), a reserved source (R149),
a reserved MOD (R129), a drop of a register (R129), an event, which is no word. -/
theorem test_wf_refuses :
    ([.alAdd ⟨true, 0, true, true, 0⟩, .move ⟨true, 0, false, 0x130, true, 0⟩, .move ⟨true, 0, false, 0x108, true, 0⟩,
      .move ⟨true, 0, false, 0x090, false, 0x001⟩, .move ⟨true, 0, false, 0x001, false, 0x0E0⟩,
      .move ⟨true, 0, false, 0x001, false, 0x2801⟩, .queueDrop ⟨true, 0, false, 0x001⟩, .eventRingWrite] :
      List Instr).map Instr.wf = List.replicate 8 false := by decide

theorem test_wf_admits :
    ([.alAdd ⟨true, 0, false, true, 0⟩, .move ⟨true, 7, true, 0x001, false, 0x002⟩, .queueDrop ⟨true, 0, false, 0x088⟩,
      .limm ⟨false, 0xFFFFFF⟩] : List Instr).map Instr.wf = List.replicate 4 true := by decide

/-- One word of every family, bit by bit (R126, R129 to R131, R146). -/
theorem test_decode_families :
    [1#1 ++ 0#3 ++ 0#1 ++ 0b00100001001#11 ++ 0#1 ++ 0#4 ++ 5#11,   -- al.sub (0x109) of s5
     1#1 ++ 0#3 ++ 0#1 ++ 0b00110001011#11 ++ 1#1 ++ 7#15,          -- md.div (0x18B) of 7
     1#1 ++ 3#3 ++ 0#1 ++ 0b01000011010#11 ++ 0#1 ++ 0#4 ++ 0x043#11, -- vx.and (0x21A) of v3 under p3
     1#1 ++ 0#3 ++ 0#1 ++ 0b01100001010#11 ++ 0#1 ++ 0#4 ++ 0#11,   -- mx.fill (0x30A) of s0
     1#1 ++ 0#3 ++ 0#1 ++ 0b01110001010#11 ++ 0#1 ++ 0#4 ++ 0#11,   -- lb.merge (0x38A) of s0
     1#1 ++ 0#3 ++ 0#1 ++ 0b01111001001#11 ++ 0#1 ++ 0#4 ++ 0#11,   -- cl.ite (0x3C9) of s0
     1#1 ++ 0#3 ++ 0#1 ++ 0b10000001000#11 ++ 0#1 ++ 0#4 ++ 0#11,   -- ms.send (0x408) of s0
     1#1 ++ 0#3 ++ 0#1 ++ 0b10001001000#11 ++ 1#1 ++ 0x40#15,       -- ct.jmp (0x448) to 0x40
     1#1 ++ 0#3 ++ 0#1 ++ 0b10100001010#11 ++ 0#1 ++ 0#4 ++ 0x091#11, -- ag.st (0x50A) of d1
     1#1 ++ 0#3 ++ 0#1 ++ 0b10110001000#11 ++ 0#1 ++ 0#4 ++ 0x090#11, -- aa.add (0x588) of d0
     1#1 ++ 0#3 ++ 0#1 ++ 0b10111001100#11 ++ 1#1 ++ 0#15,          -- ac.wait (0x5CC) of 0
     1#1 ++ 0#3 ++ 0#1 ++ 0b10111110010#11 ++ 0#1 ++ 0#4 ++ 0x090#11, -- at.cas (0x5F2) of d0
     1#1 ++ 0#3 ++ 0#1 ++ 0b11000001001#11 ++ 0#1 ++ 0#4 ++ 0x090#11, -- ce.try (0x609) of d0
     1#1 ++ 1#4 ++ 2#3 ++ 0#24, 1#1 ++ 1#4 ++ 3#3 ++ 9#24, 0#1 ++ 1#4 ++ 1#3 ++ 0#24].map decodeWord =
    ([.alSub ⟨true, 0, false, false, 5⟩, .mdDiv ⟨true, 0, false, true, 7⟩, .vxAnd ⟨true, 3, false, false, 0x43⟩,
      .mxFill ⟨true, 0, false, false, 0⟩, .lbMerge ⟨true, 0, false, false, 0⟩, .clIte ⟨true, 0, false, false, 0⟩,
      .msSend ⟨true, 0, false, false, 0⟩, .ctJmp ⟨true, 0, false, true, 0x40⟩, .agSt ⟨true, 0, false, false, 0x91⟩,
      .aaAdd ⟨true, 0, false, false, 0x90⟩, .acWait ⟨true, 0, false, true, 0⟩, .atCas ⟨true, 0, false, false, 0x90⟩,
      .ceTry ⟨true, 0, false, false, 0x90⟩, .modx ⟨true, 0⟩, .brk ⟨true, 9⟩, .sched ⟨false, 0⟩] : List Instr).map .ok := by
  decide +kernel

/-- LI takes two words after its own, low half first; a word with a non-zero unused field, or with its extension word missing, is
refused (R141, R142). -/
theorem test_portable_words : decodePortable [0xF9050000, 0x89ABCDEF, 0x01234567, 7] = some (.li 5 0x0123456789ABCDEF, 3) ∧
    decodePortable [0xF8050601] = none ∧ decodePortable [0xF8050600] = some (.move 5 6, 1) ∧ decodePortable [0x0F070102] = none ∧
    decodePortable [0x0E070102] = none ∧ decodePortable [0xF9050000, 1] = none := by decide +kernel

theorem wit_EncodeDecode : Instr.wf (.alAdd ⟨true, 0, false, false, 0x001⟩) ∧
    decodeWord (1#1 ++ 0#3 ++ 0#1 ++ 0x108#11 ++ 0#1 ++ 0#4 ++ 0x001#11) = .ok (.alAdd ⟨true, 0, false, false, 0x001⟩) := by
  decide +kernel

/-! ## A core that executes one trigger -/

/-- A trigger word alone in its group, of s1 or d1. -/
def tw (h : Half) : TrigW := { s := true, g := 0, n := false, imm := false, low := if h = .x then 1 else 0x91 }

/-- A segment over the whole instruction store. -/
def seg : CodeSeg := { lo := 0, hi := 0x20000, priv := 1 }

/-- A partition of cluster 0, with a label space of four assumptions tied to a diagram space of four variables, in homes 1
and 2. -/
def part0 : Part := {
  w := 4, h := 4, maxNodes := 8, ptbase := 0x18000, lspaces := [(0, some { na := 4, limit := 8, base := paOf 1 0 })]
  dspaces := [(0, some { nv := 4, nn := 16, tied := some 0, order := [0, 1, 2, 3], base := paOf 2 0 })] }

/-- Core 0 about to execute a word of half `h`: partition 0 holds the core, which `k` makes what it is. -/
def demo (h : Half) (k : Core → Core) : State :=
  { State.reset with
    parts := [(0, some part0)], curHalf := h
    cores := [(0, k { task := some {}, ctx := { xs := { seg := seg, hseg := seg }, as_ := { seg := seg, hseg := seg } } })] }

/-- Scalar-class storage by port, T's register at 1 or 0x91. -/
def regs (l : List (Nat × Dword)) (k : Core) : Core :=
  { k with ctx := { k.ctx with sfile := l.map fun e => (e.1, { v := e.2 }) } }

/-- What trigger `i` has in hand where it starts alone on a core that `k` makes. -/
def inHand (h : Half) (i : TrigW → Instr) (k : Core → Core) : Option (Trig × State × LTag) := (demo h k).begins (i (tw h))

/-- Trigger `i` starts there, and `p` holds of what it has in hand. -/
def meets (h : Half) (i : TrigW → Instr) (k : Core → Core) (p : Trig → State → Prop) [∀ x s, Decidable (p x s)] : Bool :=
  match inHand h i k with
  | some (x, s, _) => decide (p x s)
  | none => false

/-- What trigger `i` sends: ports and values. -/
def sends (h : Half) (i : TrigW → Instr) (l : List (Nat × Dword)) : List (Nat × Dword) :=
  match exec (i (tw h)) (demo h (regs l)) with
  | .next t => (t.ctx 0).flight.flatMap fun f => f.sw.map fun w => (w.1, w.2.v)
  | _ => []

/-- Every trigger, with the half of its port: each unit's first port and how many it has (R146). -/
def trigs : List (Half × Instr) :=
  ([(0x108, 40), (0x188, 8), (0x210, 56), (0x308, 10), (0x388, 16), (0x3C8, 15), (0x408, 4), (0x448, 17), (0x508, 9), (0x588, 8),
    (0x5C8, 6), (0x5E8, 11), (0x608, 2)] : List (Nat × Nat)).flatMap fun e =>
    let h : Half := if e.1 < 0x500 then .x else .a
    (List.range e.2).filterMap fun i => (Instr.ofPort (e.1 + i) (tw h)).map fun i => (h, i)

/-- Every trigger can begin alone in its group: the hypothesis of AlAddSub, AlLogicAndCompares, AlBitsFieldsSelect, AlFloating,
MdAaArithmetic, and of the frame of results. -/
theorem wit_begins : trigs.length = 202 ∧ trigs.all (fun i => ((demo i.1 id).begins i.2).isSome) = true := by decide +kernel

/-! ## Values of the scalar units -/

/-- 2^64 − 1 plus 1 is 0 with a carry and no overflow (R158). -/
theorem test_alAdd_wraps : sends .x .alAdd [(1, 1), (0x100, -1)] = [(0x17D, 0), (0x17F, 1)] := by decide +kernel
/-- The least integer minus 1 overflows, without a borrow (R158). -/
theorem test_alSub_overflows : sends .x .alSub [(1, 1), (0x100, 0x8000000000000000)] = [(0x17D, 0x7FFFFFFFFFFFFFFF), (0x17F, 2)] := by
  decide +kernel
/-- A shift takes the low six bits of T (R159). -/
theorem test_alShl_masks : sends .x .alShl [(1, 65), (0x100, 3)] = [(0x17D, 6)] := by decide +kernel
theorem test_alSar_keeps_sign : sends .x .alSar [(1, 4), (0x100, 0x8000000000000000)] = [(0x17D, 0xF800000000000000)] := by
  decide +kernel
/-- Counts of zero are 64 (R160). -/
theorem test_alClz_zero : sends .x .alClz [(1, 0)] = [(0x17D, 64)] ∧ sends .x .alCtz [(1, 0)] = [(0x17D, 64)] := by decide +kernel
/-- An 8-bit field at bit 60 has four bits within the dword (R161). -/
theorem test_alExt_at_top : sends .x .alExt [(1, 0x83C), (0x100, -1)] = [(0x17D, 0xF)] := by decide +kernel
/-- Signed and unsigned compares differ for −1 (R162). -/
theorem test_alLt_signed : sends .x .alLt [(1, 0), (0x100, -1)] = [(0x17D, 1), (0x17F, 1)] ∧
    sends .x .alLtu [(1, 0), (0x100, -1)] = [(0x17D, 0), (0x17F, 0)] := by decide +kernel
/-- 1.5 + 2.25 = 3.75 in FP32 (R164). -/
theorem test_alFadd : sends .x .alFadd [(1, 0x40100000), (0x100, 0x3FC00000)] = [(0x17D, 0x40700000)] := by decide +kernel
/-- −7 by 2 is −3, remainder −1; by 0, all ones and the dividend (R168). -/
theorem test_mdDiv : sends .x .mdDiv [(1, 2), (0x180, -7)] = [(0x1BD, -3), (0x1BE, -1), (0x1BF, 0)] ∧
    sends .x .mdDiv [(1, 0), (0x180, 9)] = [(0x1BD, -1), (0x1BE, 9), (0x1BF, 1)] := by decide +kernel
/-- (2^64 − 1)² + 1 has its high half 2^64 − 2 and its low half 2 (R167). -/
theorem test_mdMulu : sends .x .mdMulu [(1, -1), (0x180, -1), (0x181, 1)] = [(0x1BD, 2), (0x1BE, -2)] := by decide +kernel
theorem test_aaShr : sends .a .aaShr [(0x91, 63), (0x580, -1)] = [(0x5BD, 1)] := by decide +kernel

/-! ## The vector unit -/

/-- Trigger `i` of `vx` starts with clean control operands and a type control that Table 2 of R196 and `ok` admit. -/
def vxMeets (i : TrigW → Instr) (ty : Dword) (ok : VxIn → Bool) : Bool :=
  meets .x i (regs [(0x204, ty)]) fun x s => x.vxClean s && vxTyOk (x.vxIn s).ty && ok (x.vxIn s)

/-- The mucked type control of R199. -/
def mucky (p : Nat) (k : Core) : Core := { k with ctx := { k.ctx with sfile := [(p, { t := [mucked] })] } }

/-- The first and the last type that VxArithmetic, VxBits, VxComparesAndMasks and VxPermutationsAndReductions admit for these. -/
theorem wit_vx :
    ([.vxAdd, .vxSub, .vxMul, .vxFma, .vxFms, .vxFnma, .vxMin, .vxMax, .vxAbs, .vxNeg, .vxAnd, .vxOr, .vxXor, .vxAndn, .vxBlend,
      .vxEq, .vxNe, .vxLt, .vxLe, .vxSel, .vxAny, .vxAll, .vxPerm, .vxShuf, .vxRot, .vxRsum, .vxRmax, .vxRmin] :
      List (TrigW → Instr)).all (fun i => vxMeets i 0 (·.et ≤ 10) && vxMeets i 10 (·.et ≤ 10)) = true := by decide +kernel

/-- The same for operations on integers alone. -/
theorem wit_vx_integer :
    ([.vxMulh, .vxAvg, .vxShl, .vxShr, .vxSar, .vxPopc, .vxClz, .vxCls, .vxIota, .vxRandb, .vxRorb, .vxRxorb] :
      List (TrigW → Instr)).all (fun i => vxMeets i 0 (·.et ≤ 7) && vxMeets i 7 (·.et ≤ 7)) = true := by decide +kernel

theorem wit_VxFloatingFunctions :
    ([.vxRcp, .vxRsqrt, .vxExp2] : List (TrigW → Instr)).all (fun i => vxMeets i 8 (·.et = 8)) = true ∧
    ([.vxDiv, .vxSqrt, .vxRndi] : List (TrigW → Instr)).all (fun i =>
      vxMeets i 8 (fun v => 8 ≤ v.et && v.et ≤ 10) && vxMeets i 10 fun v => 8 ≤ v.et && v.et ≤ 10) = true := by decide +kernel

/-- Insertion at the last element of int8; conversions of each kind that VxConversions admits. -/
theorem wit_VxConversions :
    vxMeets .vxIns 0x3F0000 (fun v => v.et ≤ 10 && v.idx < 512 / v.e.w) ∧ vxMeets .vxCvt 0x98 cvtPerm ∧
    vxMeets .vxCvts 0x98 (fun v => cvtPerm v && (toSigned 32 (elem 32 v.b 0)).natAbs ≤ 4000) ∧
    vxMeets .vxPack 0x02 (fun v => 2 ≤ v.et && v.et ≤ 7 && v.et2 ≤ 7 && 2 * v.e2.w = v.e.w) ∧
    vxMeets .vxUnpk 0x1000020 (fun v => v.et ≤ 5 && v.et2 ≤ 7 && v.e2.w = 2 * v.e.w && v.sel ≤ 1) ∧
    vxMeets .vxT5un 0x320000 (fun v => [0, 2, 4].contains v.et2 && v.idx + (512 / v.e2.w + 4) / 5 ≤ 64) ∧
    vxMeets .vxI4un 0x200000 (fun v => [0, 2, 4].contains v.et2 && v.idx + 512 / v.e2.w / 2 ≤ 64) ∧
    vxMeets .vxBfpk 0xC8 (fun v => 8 ≤ v.et && v.et ≤ 10 && (v.et2 = 11 || v.et2 = 12)) ∧
    vxMeets .vxBfun 0x100008B (fun v => (v.et = 11 || v.et = 12) && 8 ≤ v.et2 && v.et2 ≤ 10 && v.sel ≤ 1 && v.et2 = 8) ∧
    vxMeets .vxDot 3 (·.et ≤ 3) ∧ vxMeets .vxDot 9 (·.et = 9) := by decide +kernel

/-- VxControl and VxIntegerElements: a mucked type control, a reserved field, an active element, a saturated integer. -/
theorem wit_VxControl : meets .x .vxAdd (mucky 0x204) (fun x s => !x.vxClean s) ∧
    meets .x .vxAdd (regs [(0x204, 0x300)]) (fun x s => x.vxClean s && !vxTyOk (x.vxIn s).ty) ∧
    Instr.port (.vxAdd (tw .x)) = some 0x210 ∧ Instr.port (.vxRndi (tw .x)) = some 0x247 ∧
    (let v : VxIn := { ty := 0x102, m := 2, sat := true }
     v.active 1 ∧ v.active 0 = false ∧ v.msk = 1 ∧ (v.e = .int true 16 ∨ v.e = .int false 16)) := by decide +kernel

/-- The lanes of a result vector of `w` bits each. -/
def lanes (i : TrigW → Instr) (w : Nat) (ty : Dword) (a b t : List Nat) : List Nat :=
  let k (k : Core) : Core := { k with ctx := { k.ctx with
    sfile := [(0x204, { v := ty })]
    vfile := [(0x41, { v := BitVec.ofNat 512 (ofElems w t) }), (0x200, { v := BitVec.ofNat 512 (ofElems w a) }),
      (0x201, { v := BitVec.ofNat 512 (ofElems w b) })] } }
  match exec (i { tw .x with low := 0x41 }) (demo .x k) with
  | .next s => match (s.ctx 0).flight.flatMap (·.vw) with
    | (_, r) :: _ => (List.range t.length).map (elem w r.v)
    | [] => []
  | _ => []

/-- 127 + 1 saturates in int8, and wraps in uint8 at 255 (R29, R201). -/
theorem test_vxAdd : lanes .vxAdd 8 0 [127, 255] [] [1, 1] = [128, 0] ∧ lanes .vxAdd 8 1 [255, 2] [] [1, 1] = [0, 3] := by decide +kernel
/-- −3 · 2 + 7 in int32 (R203). -/
theorem test_vxFma : lanes .vxFma 32 4 [0xFFFFFFFD] [2] [7] = [1] := by decide +kernel
/-- The dot product of four bytes and an addend (R223). -/
theorem test_vxDot : lanes .vxDot 8 0 [1, 2, 3, 255] [10] [1, 1, 1, 1] = [15, 0, 0, 0] := by decide +kernel
/-- Rotation by 1 takes element i from i + 1 (R213). -/
theorem test_vxRot : lanes .vxRot 16 2 [5, 6, 7] [] [1, 0] = [6, 7] := by decide +kernel
/-- A tree of additions (R214). -/
theorem test_vxRsum : lanes .vxRsum 32 4 [] [] [1, 2, 3, 4, 5] = [15, 0, 0, 0, 0] := by decide +kernel
/-- A T5 byte of 121 zeros: (121 = 1·81 + 1·27 + 1·9 + 1·3 + 1) is five zeros (R46). -/
theorem test_vxT5un : lanes .vxT5un 8 0 [] [] [121] = [0] := by decide +kernel

/-! ## The matrix unit -/

/-- A core whose task owns slot 0 in role A and slot 1 in role B, may claim two more, and holds bank 0. -/
def mxCore (l : List (Nat × Dword)) (k : Core) : Core :=
  regs l { k with
    task := some { nslot := 4, banks := 1, gw := 2, gh := 2 }, slots := [(0, { owner := .task }), (1, { owner := .task, roleB := true })] }

theorem wit_MxSlots :
    meets .x .mxClaim (mxCore [(1, 2)]) (fun x s => x.mxClean s ∧ dfield x.t.v 63 5 = 0 ∧ (s.ctx x.core).mxq = []) ∧
    meets .x .mxRelease (mxCore [(1, 15)]) (fun x s => x.mxClean s ∧ dfield x.t.v 63 4 = 0) := by decide +kernel

/-- A fill of slot 0 in role A from int8 rows of 64 bytes that end with bank 0, and one of role B from its start. -/
theorem wit_MxFill :
    ([([(1, 0), (0x300, 0x7000), (0x301, 64)], 1), ([(1, 0x11), (0x300, 0), (0x301, 0x400)], 1)] : List (List (Nat × Dword) × Nat)).all
      (fun e => meets .x .mxFill (fun k => { mxCore e.1 k with bfmt := [(0, BitVec.ofNat 64 e.2)] }) fun x s =>
        let k := s.core x.core
        let a : Nat := (x.latch s 0x300).v.toNat
        let b : Int := (x.latch s 0x301).v.toInt
        let fmt := bfmtFmt (k.bfmtOf (a / 0x8000))
        let roleB := dfield x.t.v 4 4 = 1
        let n : Nat := ((if roleB then 64 else 32) + fmtElems fmt - 1) / fmtElems fmt * fmtUnit fmt
        let ranges := (List.range (if roleB then 32 else 64)).map fun (i : Nat) => (((a : Int) + i * b).toNat, n)
        x.mxClean s ∧ k.owns (dfield x.t.v 3 0) ∧ dfield x.t.v 10 5 ≤ 32 ∧ dfield x.t.v 63 11 = 0 ∧ a < 0xA0000 ∧
        [1, 2, fmtT5, fmtI4, fmtBfp8, fmtBfp12].contains fmt ∧ fmtIsBfp fmt = false ∧
        (∀ i ∈ List.range (if roleB then 32 else 64), (0 : Int) ≤ a + i * b ∧ (a : Int) + i * b + n ≤ 0x8000) ∧
        k.rangesRefusal false ranges = none ∧ k.rangesBad ranges = none ∧
        (s.turnFor x.core 2).wait = false ∧ (s.turnFor x.core 2).drained x.core) = true := by decide +kernel

theorem wit_MxArithmetic :
    meets .x .mxMma (mxCore [(1, 0x710)]) (fun x s => let k := s.core x.core
      x.mxClean s ∧ dfield x.t.v 63 11 = 0 ∧ k.owns (dfield x.t.v 3 0) ∧ !k.roleOf (dfield x.t.v 3 0) ∧
        k.owns (dfield x.t.v 7 4) ∧ k.roleOf (dfield x.t.v 7 4)) ∧
    meets .x .mxMmat (fun k => let k := mxCore [(1, 0x10)] k
      { k with ctx := { k.ctx with team := 0x22000 } }) (fun x s => let k := s.core x.core
      let t := taskOf s x.core
      x.mxClean s ∧ dfield x.t.v 63 11 = 0 ∧ k.ctx.team ≠ 0 ∧
        (sendsA t k.ctx.team → k.owns (dfield x.t.v 3 0) ∧ !k.roleOf (dfield x.t.v 3 0)) ∧
        (sendsB t k.ctx.team → k.owns (dfield x.t.v 7 4) ∧ k.roleOf (dfield x.t.v 7 4)) ∧ sendsA t k.ctx.team ∧ sendsB t k.ctx.team) ∧
    meets .x .mxDrain (mxCore [(1, 0x1F - 8), (0x300, 0), (0x301, 512)]) (fun x s =>
      let a := (x.latch s 0x300).v.toNat
      let b := (x.latch s 0x301).v.toNat
      let form := dfield x.t.v 3 2
      let n := if form = 0 then 256 else 512
      let ranges := (List.range 64).map fun r => (a + r * b, n)
      x.mxClean s ∧ form ≠ 3 ∧ dfield x.t.v 63 5 = 0 ∧ a % 64 = 0 ∧ b % 64 = 0 ∧ n ≤ b ∧ a < 0xA0000 ∧
      (a + 63 * b + n - 1) / 2 ^ 15 = a / 2 ^ 15 ∧ (s.core x.core).rangesRefusal true ranges = none ∧
      (s.turnFor x.core 2).wait = false ∧ (s.turnFor x.core 2).drained x.core ∧
      (s.turnFor x.core 2).drainReady x.core (dfield x.t.v 1 0) x.ctl = some (s.turnFor x.core 2, none)) ∧
    meets .x .mxZero (mxCore [(1, 7)]) (fun x s => x.mxClean s ∧ dfield x.t.v 63 3 = 0 ∧ (s.ctx x.core).mxq = []) := by decide +kernel

theorem wit_MxTeamsAndSums :
    meets .x .mxTeam (mxCore [(1, 0x22000 - 0)]) (fun x s => x.mxClean s ∧ dfield x.t.v 63 19 = 0 ∧
      (x.t.v.setWidth 19 = (0 : BitVec 19) ∨ teamOk (taskOf s x.core) (x.t.v.setWidth 19))) ∧
    meets .x .mxBsum (mxCore [(1, 3), (0x300, 0x7FE0), (0x301, 0x1000000001000)]) (fun x s =>
      let k := s.core x.core
      let n := dfield x.t.v 11 0 + 1
      let a := (x.latch s 0x300).v.toNat
      x.mxClean s ∧ dfield x.t.v 63 12 = 0 ∧ a % 8 = 0 ∧ a < 0xA0000 ∧ (a + 8 * n - 1) / 2 ^ 15 = a / 2 ^ 15 ∧
      decodeAddr x.core (taskOf s x.core) (x.latch s 0x301).v = some (some (.spad 0 0x1000)) ∧ 0x1000 % 64 = 0 ∧
      (0x1000 + 63 + 16 * n) / 2 ^ 15 = 0x1000 / 2 ^ 15 ∧ k.rangesRefusal false [(a, 8 * n)] = none ∧ k.rangesBad [(a, 8 * n)] = none ∧
      (s.turnFor x.core 2).wait = false ∧ (s.turnFor x.core 2).drained x.core) ∧
    meets .x .mxProg (mxCore [(1, 2)]) (fun x s => x.mxClean s ∧ x.t.v.toNat ≤ 2) ∧
    ([.mxClaim, .mxRelease, .mxFill, .mxMma, .mxMmat, .mxDrain, .mxBsum, .mxZero, .mxTeam, .mxProg] : List (TrigW → Instr)).all
      (fun i => meets .x i (mucky 0x301) fun x s => ¬ x.mxClean s) = true := by decide +kernel

/-- One multiply step: 3 · 5 in element (0, 0) of an accumulator that is EMPTY, at exponent 0 (R232, R233). -/
theorem test_mma : (let one (n : Nat) (rb : Bool) : OpSlot := { owner := .task, roleB := rb, el := [(0, Re36.ofInt n)] }
    let a : Acc := (({} : Acc).multiply (one 3 false) (one 5 true) false 0 32 [])
    (a.el.get {} 0 = Re36.ofInt 15 ∧ a.ae = some 0)) := by decide +kernel

/-! ## The label unit and the Carillon -/

theorem wit_LbLabels :
    ([.lbAssume, .lbJoin, .lbMerge, .lbTag, .lbRetag, .lbCommit, .lbHolds, .lbEnvs, .lbEnv, .lbMin] : List (TrigW → Instr)).all
      (fun i => meets .x i (regs [(1, 3)]) fun x s => (x.lspaceOf s).isSome) = true ∧
    meets .x .lbAssume (regs [(1, 3)]) (fun x s => dfield x.t.v 63 6 = 0 ∧ dfield x.t.v 5 0 < ((x.lspaceOf s).getD {}).na) ∧
    meets .x .lbRetag (regs [(1, 0xFFFF)]) (fun x _ => dfield x.t.v 63 16 = 0 ∧ dfield x.t.v 15 0 = 0xFFFF) ∧
    meets .x .lbRetag (regs []) (fun x _ => dfield x.t.v 63 16 = 0 ∧ dfield x.t.v 15 0 = 0) := by decide +kernel

/-- Core 0 about to execute a trigger, with label space 0 full: its two entries, all that its limit allows, are taken. -/
def fullSpace (k : Core → Core) : State :=
  let e (n : Nat) : LEntry := { form := .inline [BitVec.ofNat 64 n] }
  { demo .x k with parts := [(0, some { part0 with lspaces := [(0, some { na := 4, limit := 2, ents := [(1, e 1), (2, e 2)], base := paOf 1 0 })] })] }

/-- No table is full, for a test; and the table is full, for an assumption that it does not hold. -/
theorem wit_LbLabels_table : meets .x .lbCommit (regs [(0x380, 15)]) (fun x s =>
    (s.label (s.spaceOf x.core).1 (s.spaceOf x.core).2 [] fun q =>
      let (q, u) := q.single x.t.t
      let (q, h) := q.holds u ((x.latch s 0x380).v.toNat % 2 ^ q.l.na)
      (q, ([(0x3BD, { v := x.t.v, t := if h then [] else [mucked] })] : LWrite))).2.1 = none) ∧
    (match (fullSpace (regs [(1, 3)])).begins (.lbAssume (tw .x)) with
      | some (x, s, _) => (s.label (s.spaceOf x.core).1 (s.spaceOf x.core).2 [] fun q =>
          match q.intern (minimise q.nogoods [2 ^ dfield x.t.v 5 0]) with
          | (q, some u) => (q, ([(0x3BD, { t := tagOf u })] : LWrite))
          | (q, none) => (q, [])).2.1.isSome
      | none => false) = true := by decide +kernel

theorem wit_LbWholeSpace :
    meets .x .lbContra (regs []) (fun x s => ((x.lspaceOf s).getD {}).epoch < 2 ^ 40 - 1 ∧ s.drained x.core ∧
      (s.label (s.spaceOf x.core).1 (s.spaceOf x.core).2 [] fun q =>
        let (q, u) := q.single (joinTags [x.t.t, x.ctl])
        if q.stuck then (q, []) else
        let (q, n) := q.contra u
        (q, ([(0x3BD, { v := BitVec.ofNat 64 n }), (0x3BE, { v := BitVec.ofNat 64 q.l.epoch })] : LWrite))).2.1 = none) ∧
    meets .x .lbCount (fun k => regs [(0x380, 0x1000000000040)] { k with task := some { banks := 1 } }) (fun x s =>
      let a := x.latch s 0x380
      let at_ := s.place x.core (taskOf s x.core) .read a.v 512
      a.v.toNat % 64 = 0 ∧ s.drained x.core ∧ (match at_.2 with
        | .ok ps =>
          let rd := at_.1.readParts x.core at_.1.nextId ps
          rd.2.isOk && !rd.1.wait && (rd.1.label (rd.1.spaceOf x.core).1 (rd.1.spaceOf x.core).2 [] fun q =>
            let (q, u) := q.single x.t.t
            let (q, p) := q.probability u fun _ => 0
            (q, ([(0x3BD, { v := BitVec.ofNat 64 p })] : LWrite))).2.1.isNone
        | .error _ => false : Bool) = true) ∧
    meets .x .lbCensus (regs []) (fun x s => (x.lspaceOf s).isSome ∧ s.drained x.core) ∧
    ({ op := 6 } : LbOp).path = [false] := by decide +kernel

theorem wit_LbControl :
    meets .x .lbCtlset (regs []) (fun x s => isMuck x.t.t = false ∧ (let r := s.ctlabOf x.core x.t
      r.2 = (none, []) ∧ (r.1.resolveTags (r.1.spaceOf x.core).1 (r.1.spaceOf x.core).2 []).2 = (none, 0))) ∧
    meets .x .lbCtlget (regs []) (fun x _ => unresolved x.ctl = false) ∧ meets .x .lbSpace (regs [(1, 3)]) (fun x _ => x.t.v.toNat ≤ 3) ∧
    ([.lbAssume, .lbJoin, .lbMerge, .lbContra, .lbCommit, .lbHolds, .lbTag, .lbRetag, .lbEnvs, .lbEnv, .lbCount, .lbMin,
      .lbCensus] : List (TrigW → Instr)).all (fun i => meets .x i (fun k => { k with ctx := { k.ctx with lspace := 9 } }) fun x s =>
        x.lspaceOf s = none) = true := by decide +kernel

/-- Each operation of the Carillon, with its number (R292). -/
def cls : List ((TrigW → Instr) × Nat) :=
  [(.clVar, 0), (.clIte, 1), (.clApply, 2), (.clNot, 3), (.clRestrict, 4), (.clExists, 5), (.clCount, 6), (.clWcount, 7), (.clSat, 8),
    (.clRef, 9), (.clUnref, 10), (.clSwap, 11), (.clSize, 12), (.clGc, 13), (.clMincount, 14)]

theorem wit_ClIssue :
    cls.all (fun e => meets .x e.1 (regs []) fun x s =>
      (s.ctx x.core).clop = none ∧ isMuck x.t.t = false ∧ isMuck (x.latch s 0x3C0).t = false ∧ isMuck (x.latch s 0x3C1).t = false ∧
      clArgReserved e.2 (x.latch s 0x3C0).v x.t.v = false ∧ x.ddspace < 8 ∧
      ((s.part (s.partNo x.core)).dspaces.get none x.ddspace).isSome ∧
      (∀ z ∈ clHandles e.2 0 0 0, hConst z ∨ hSp z = x.ddspace) ∧ s.drained x.core) = true ∧
    cls.all (fun e => [1, 3, 5, 6, 7, 8, 9, 10, 13, 14].contains e.2 || meets .x e.1 (mucky 1) fun x s =>
      (s.ctx x.core).clop = none ∧ (clControl e.2 (x.latch s 0x3C0) x.t).any (isMuck ·.t)) = true ∧
    cls.all (fun e => [0, 2, 4, 11, 12, 13].contains e.2 || meets .x e.1 (mucky 1) fun x s =>
      (s.ctx x.core).clop = none ∧ (clControl e.2 (x.latch s 0x3C0) x.t).any (isMuck ·.t) = false ∧ isMuck x.t.t ∧ (clReads e.2).2.2 ∧
      clArgReserved e.2 (x.latch s 0x3C0).v x.t.v = false ∧ x.ddspace < 8 ∧
      ((s.part (s.partNo x.core)).dspaces.get none x.ddspace).isSome ∧ (∀ z ∈ clHandles e.2 0 0 0, hConst z ∨ hSp z = x.ddspace)) = true ∧
    cls.all (fun e => meets .x e.1 (fun k => { k with ctx := { k.ctx with ddspace := 8 } }) fun x s =>
      isMuck x.t.t = false ∧ clArgReserved e.2 (x.latch s 0x3C0).v x.t.v = false ∧ 8 ≤ x.ddspace) = true := by decide +kernel

/-! ## Messages and copies -/

/-- A task of two by one members whose second member is core 1. -/
def pair (l : List (Nat × Dword)) (k : Core) : Core := regs l { k with task := some { gw := 2, gh := 1, banks := 1 } }

theorem wit_MsOperations :
    meets .x .msSend (pair [(0x400, 0x40FF000)]) (fun x s =>
      let a := x.latch s 0x400
      let t := taskOf s x.core
      isMuck a.t = false ∧ dfield a.v 5 0 < t.gw ∧ dfield a.v 11 6 < t.gh ∧ dfield a.v 26 20 ≤ 64 ∧
      dfield a.v 63 27 = 0 ∧ t.duplex = false ∧ s.drained x.core ∧
      (s.joinFor x.core (joinTags [x.t.t, a.t, x.ctl])).2.1 = none ∧ s.boxRoom t 0 0 255 ∧ s.sendBehind x.core t 0 0 = false ∧
      s.box t 0 0 ≠ .gone) ∧
    meets .x .msPut (pair [(1, 0x1000000000FC0), (0x400, 0x4000001)]) (fun x s =>
      let a := x.latch s 0x400
      let t := taskOf s x.core
      isMuck a.t = false ∧ isMuck x.t.t = false ∧ dfield a.v 5 0 < t.gw ∧ dfield a.v 11 6 < t.gh ∧ dfield a.v 63 27 = 0 ∧
      dfield a.v 26 20 = 64 ∧ decodeAddr x.core t x.t.v = some (some (.spad 0 0xFC0)) ∧ t.isProtected = false) ∧
    meets .x .msPoll (pair [(1, 0x1FF)]) (fun x _ => isMuck x.t.t = false ∧ dfield x.t.v 63 9 = 0) ∧
    meets .x .msChan (pair [(1, 0x40FF)]) (fun x _ => isMuck x.t.t = false ∧ dfield x.t.v 63 15 = 0 ∧ dfield x.t.v 14 8 ≤ 64) := by
  decide +kernel

/-- `n` copies under way. -/
def busy (n : Nat) (k : Core) : Core := { k with ctx := { k.ctx with copies := List.replicate n {} } }

theorem wit_CeAcceptance :
    ([.ceGo, .ceTry] : List (TrigW → Instr)).all (fun i => meets .a i (busy 7) fun x s =>
      (∀ v ∈ [x.latch s 0x600, x.latch s 0x601, x.latch s 0x602, x.t], isMuck v.t = false) ∧
      (s.ctx x.core).copies.length + (s.ctx x.core).nosts.length < 8 ∧ (s.ctx x.core).portPending (x.copy s s.nextId).dPort = false) = true ∧
    ([.ceGo, .ceTry] : List (TrigW → Instr)).all (fun i => meets .a i (mucky 0x601) fun x s => isMuck (x.latch s 0x601).t ∧
      (s.ctx x.core).copies.length + (s.ctx x.core).nosts.length < 8 ∧ (s.ctx x.core).portPending (x.copy s s.nextId).dPort = false) = true ∧
    meets .a .ceTry (busy 8) (fun x s => 8 ≤ (s.ctx x.core).copies.length + (s.ctx x.core).nosts.length ∧
      (s.ctx x.core).portPending (x.copy s s.nextId).dPort = false) := by decide +kernel

/-! ## Control -/

/-- A return stack of `n` loops above `es`. -/
def stacked (n : Nat) (es : List RsEntry) (l : List (Nat × Dword)) (k : Core) : Core :=
  let f (m : Stream) : Stream := { m with stack := List.replicate n (.loop 0x40 0x80 3) ++ es }
  let k := regs l k
  { k with ctx := { k.ctx with xs := f k.ctx.xs, as_ := f k.ctx.as_ } }

/-- An aligned target at the segment's last word, one at its end, and one that is misaligned; a stack of fifteen and of
sixteen; a loop of one pass and of none. -/
theorem wit_ControlTransfers :
    let inside (x : Trig) (s : State) (v : Dword) : Prop :=
      v.toNat % 4 = 0 ∧ ((s.ctx x.core).segOf x.half).lo ≤ v.toNat ∧ v.toNat < ((s.ctx x.core).segOf x.half).hi
    let depth (x : Trig) (s : State) : Nat := (x.stream s).stack.length
    ([(.x, .ctJmp, .ctCall, .ctRet, .ctLoop, 1, 0x440), (.a, .acJmp, .acCall, .acRet, .acLoop, 0x91, 0x5C0)] :
      List (Half × (TrigW → Instr) × (TrigW → Instr) × (TrigW → Instr) × (TrigW → Instr) × Nat × Nat)).all (fun (h, jmp, call, ret, loop, t, a) =>
      [jmp, call].all (fun i => meets h i (stacked 15 [] [(t, 0x1FFFC)]) (fun x s => isMuck x.t.t = false ∧ inside x s x.t.v ∧ depth x s < 16)
        && meets h i (regs [(t, 0x20000)]) (fun x s => ¬ inside x s x.t.v) && meets h i (regs [(t, 2)]) fun x s => ¬ inside x s x.t.v)
      && [jmp, call, ret, loop].all (fun i => meets h i (mucky t) fun x _ => isMuck x.t.t)
      && meets h call (stacked 16 [] [(t, 0)]) (fun x s => inside x s x.t.v ∧ 16 ≤ depth x s)
      && meets h ret (stacked 2 [.call 0x100] []) (fun x s => (topCall (x.stream s).stack).isSome)
      && meets h ret (stacked 2 [] []) (fun x s => topCall (x.stream s).stack = none)
      && [(15, 1), (16, 1), (0, 0)].all (fun e => meets h loop (stacked e.1 [] [(t, BitVec.ofNat 64 e.2), (a, 0x1FFFC)]) fun x s =>
        anyMuck [x.t.t, (x.latch s x.ctlA).t] = false ∧ x.next ≤ (x.latch s x.ctlA).v.toNat ∧
        (x.latch s x.ctlA).v.toNat < ((s.ctx x.core).segOf x.half).hi ∧ dfield x.t.v 31 0 = e.2 ∧ depth x s = e.1)) = true := by
  decide +kernel

theorem wit_ControlWaits :
    ([.ctWait, .acWait] : List (TrigW → Instr)).all (fun i => meets (halfOf (i (tw .x))) i (busy 0) fun x s => isMuck x.t.t = false ∧
      (s.ctx x.core).loads = [] ∧ (s.ctx x.core).atoms = [] ∧ (s.ctx x.core).stores = [] ∧ (s.ctx x.core).copies.length ≤ dfield x.t.v 11 8 ∧
      (s.ctx x.core).nosts = [] ∧ (s.ctx x.core).mxq = [] ∧ s.bsums = []) = true ∧
    [0, 1, 2, 3].all (fun k => meets .x .ctFence (regs [(1, 4), (0x440, BitVec.ofNat 64 k)]) fun x s => let a := x.latch s 0x440
      isMuck x.t.t = false ∧ isMuck a.t = false ∧ dfield a.v 1 0 = k ∧
      (s.scopeOf x.core (taskOf s x.core) x.t.v).any (fun sc => s.scopesMeet x.core sc sc) ∧
      s.performed x.core ∧ s.drained x.core ∧ s.paired x.core) = true ∧
    meets .x .ctFence (regs [(1, 0), (0x440, 3)]) (fun x s => dfield (x.latch s 0x440).v 1 0 = 3 ∧
      (s.scopeOf x.core (taskOf s x.core) x.t.v).any (fun sc => !s.scopesMeet x.core sc sc)) ∧
    ([.ctWait, .acWait] : List (TrigW → Instr)).all (fun i => let h := halfOf (i (tw .x))
      meets h i (mucky (tw h).low.toNat) fun x _ => isMuck x.t.t) = true ∧
    meets .x .ctFence (mucky 0x440) (fun x s => anyMuck [x.t.t, (x.latch s 0x440).t]) ∧
    meets .x .ctFence (regs [(1, 15), (0x440, 1)]) (fun x s =>
      dfield (x.latch s 0x440).v 1 0 ≠ 0 ∧ s.scopeOf x.core (taskOf s x.core) x.t.v = none) := by decide +kernel

/-- Supervisor privilege. -/
def super (l : List (Nat × Dword)) (k : Core) : Core := let k := regs l k
  { k with ctx := { k.ctx with priv := true } }

/-- User privilege, in a segment of privilege `p`. -/
def userIn (p : Nat) (l : List (Nat × Dword)) (k : Core) : Core := let k := regs l k
  { k with ctx := { k.ctx with xs := { k.ctx.xs with seg := { seg with priv := p } } } }

theorem wit_ControlSystemRegisters :
    ([.ctRsr, .acRsr] : List (TrigW → Instr)).all (fun i => meets (halfOf (i (tw .x))) i (regs [(1, 1), (0x91, 1)]) fun x s =>
      sysRefused (dfield x.t.v 11 0) false = false ∧ isMuck x.t.t = false ∧ s.sysStalls x.core (dfield x.t.v 11 0) false = false ∧
      (s.sysInput x.core (dfield x.t.v 11 0)).1.wait = false) = true ∧
    [super [(1, 0x20)], userIn 1 [(1, 0x20)]].all (fun k =>
      meets .x .ctRsrs k fun x s => x.privileged s ∧ s.sysStalls x.core (dfield x.t.v 11 0) false = false ∧
        (s.sysInput x.core (dfield x.t.v 11 0)).1.wait = false) = true ∧
    meets .x .ctWsr (regs [(1, 1)]) (fun x s => sysRefused (dfield x.t.v 11 0) true = false ∧ isMuck (x.latch s 0x440).t = false ∧
      s.sysStalls x.core (dfield x.t.v 11 0) true = false ∧ (s.sysWrite x.core (dfield x.t.v 11 0) (x.latch s 0x440)).2 = none) ∧
    meets .x .ctWsrs (super [(1, 0x24)]) (fun x s => x.privileged s ∧ isMuck (x.latch s 0x440).t = false ∧
      s.sysStalls x.core (dfield x.t.v 11 0) true = false ∧
      (s.sysWrite x.core (dfield x.t.v 11 0) (x.latch s 0x440)).2 = none) ∧
    ([(.ctRsr, false), (.acRsr, false), (.ctWsr, true)] : List ((TrigW → Instr) × Bool)).all (fun e =>
      meets (halfOf (e.1 (tw .x))) e.1 (regs [(1, 0x20), (0x91, 0x20)]) fun x _ => sysRefused (dfield x.t.v 11 0) e.2) = true ∧
    (let s := demo .x (userIn 0 [])
     (tw .x).s = true ∧ (s.core s.curCore).segPriv s.curHalf = 0) := by
  decide +kernel

theorem wit_ControlGang :
    meets .x .ctTrick (regs []) (fun x s => isMuck x.t.t = false ∧ (s.ctx x.core).arrived = none ∧ s.arrivable x.core) ∧
    [0, 2].all (fun v => meets .x .ctBar (regs [(1, v)]) fun x s => isMuck x.t.t = false ∧ (s.ctx x.core).arrived = none ∧
      s.drained x.core ∧ (s.barRect x.core (taskOf s x.core) x.t.v).isSome) = true ∧
    ([.ctTrick, .ctBar] : List (TrigW → Instr)).all (fun i => meets .x i (fun k => { k with ctx := { k.ctx with priv := true, arrived := some {} } })
      fun x s => isMuck x.t.t = false ∧ (s.ctx x.core).arrived.isSome) = true ∧
    meets .x .ctTrigger (regs []) (fun x s => isMuck x.t.t = false ∧ s.drained x.core ∧
      ((s.updCore x.core fun k => { k with irrev := true }).countTrigger x.core (taskOf s x.core)).wait = false) ∧
    meets .x .ctLaunch (regs [(1, 32)]) (fun x s => isMuck x.t.t = false ∧ s.drained x.core ∧ x.t.v.toNat % 64 ≠ 0) ∧
    meets .x .ctLaunch (pair [(1, 0x1000000000000)]) (fun x s =>
      let at_ := s.place x.core (taskOf s x.core) .read x.t.v 64
      isMuck x.t.t = false ∧ s.drained x.core ∧ x.t.v.toNat % 64 = 0 ∧ (match at_.2 with
        | .ok ps => (at_.1.readParts x.core at_.1.nextId ps).2.isOk && !(at_.1.readParts x.core at_.1.nextId ps).1.wait
        | .error _ => false : Bool) = true) ∧
    meets .x .ctExit (regs []) (fun x _ => isMuck x.t.t = false) := by decide +kernel

theorem wit_ControlModes :
    [(0, true), (63, false)].all (fun e => meets .x .ctWdrive (regs [(1, BitVec.ofNat 64 e.1)]) fun x s => isMuck x.t.t = false ∧
      (taskOf s x.core).follow = false ∧ s.drained x.core ∧ ((x.t.v.toNat % 64 = 0) ↔ e.2 = true)) = true ∧
    meets .x .ctEret (super []) (fun x s => x.privileged s ∧ isMuck x.t.t = false) ∧
    (let s := demo .x (userIn 0 [])
     (s.core s.curCore).segPriv s.curHalf = 0) := by decide +kernel

/-! ## Memory access -/

/-- A latch of value `v` with tag 0xFFFF. -/
def muckyBad (p : Nat) (v : Dword) (k : Core) : Core := { k with ctx := { k.ctx with sfile := [(p, { v := v, t := [mucked] })] } }

/-- A core whose cache maps virtual page 0, readable and writable, to the start of home 0, with the word of scratchpad bank
0 and an entry in its first store queue. -/
def ported (l : List (Nat × Dword)) (k : Core) : Core :=
  let k := regs l { k with task := some { banks := 1 }, tlb := [{ pte := 7 }] }
  { k with ctx := { k.ctx with queues := [(4, { ents := [{ v := 9 }] })] } }

/-- An address in the own scratchpad's bank and one in home memory, of one byte and of a granule; a mucked control; a
reserved one. -/
theorem wit_AgLoads :
    ([(.agLd, false), (.agLds, true)] : List ((TrigW → Instr) × Bool)).all (fun e =>
      [(0x1000000000000, 0), (0x1000000007FC0, 0x60), (0, 0x60)].all (fun (a, q) =>
        meets .a e.1 (ported [(0x500, a), (0x502, 4), (0x503, q)]) fun x s =>
          let q := (x.latch s 0x503).v
          let ea := (x.latch s 0x500).v + x.t.v
          let r := s.checkAccess x.core (taskOf s x.core) .read ea (2 ^ dfield q 6 4)
          dfield q 6 4 ≠ 7 ∧ dfield q 3 2 = 0 ∧ dfield q 63 8 = 0 ∧ (s.scopeOf x.core (taskOf s x.core) (x.latch s 0x502).v).isSome ∧
          (s.ctx x.core).loadRoom r.1.now (dfield q 1 0) ∧ (match r.2 with
            | .ok ps => !r.1.goneBefore x.core (if e.2 then s.scopeOf x.core (taskOf s x.core) (x.latch s 0x502).v else none) false ps &&
              !r.1.strongHeld x.core (if e.2 then s.scopeOf x.core (taskOf s x.core) (x.latch s 0x502).v else none) ps
              && !(r.1.pushLoad x.core (taskOf s x.core) (dfield q 1 0) (2 ^ dfield q 6 4) false ea [] none ps).wait
            | .error _ => false : Bool) = true)
      && meets .a e.1 (mucky 0x500) (fun x s => isMuck (x.latch s 0x500).t ∧ (s.ctx x.core).loadRoom s.now 0)
      && meets .a e.1 (muckyBad 0x503 0x70) (fun x s => isMuck (x.latch s 0x503).t ∧ dfield (x.latch s 0x503).v 6 4 = 7)
      && [0x70, 4, 0x100].all (fun q => meets .a e.1 (regs [(0x503, q)]) fun x s =>
        let q := (x.latch s 0x503).v
        dfield q 6 4 = 7 ∨ dfield q 3 2 ≠ 0 ∨ dfield q 63 8 ≠ 0)) = true := by decide +kernel

theorem wit_AgStores :
    ([.agSt, .agSts, .agStd, .agStds] : List (TrigW → Instr)).all (fun i =>
      [0x1000000007FF8, 8].all (fun a => meets .a i (ported [(0x500, a), (0x502, 4), (0x503, 0x30)]) fun x s =>
          let q := (x.latch s 0x503).v
          let ea := (x.latch s 0x500).v + x.t.v
          let r := s.checkAccess x.core (taskOf s x.core) .write ea (2 ^ dfield q 6 4)
          dfield q 6 4 ≠ 7 ∧ dfield q 3 2 = 0 ∧ dfield q 63 8 = 0 ∧ ((s.ctx x.core).storeHead s.now (dfield q 1 0)).isSome ∧
          (match r.2 with
            | .ok ps =>
              let w := r.1.performStore x.core (taskOf s x.core) ea (bytesOf 8 9) [] none ps
              !r.1.goneBefore x.core none true ps && !r.1.strongHeld x.core none ps && !r.1.fenceHeld x.core ps && w.2.isNone && !w.1.wait
            | .error _ => false : Bool) = true)
      && meets .a i (muckyBad 0x503 0x70) (fun x s => isMuck (x.latch s 0x503).t ∧ dfield (x.latch s 0x503).v 6 4 = 7)
      && meets .a i (fun k => let k := ported [] k
        { k with ctx := { k.ctx with sfile := [(0x500, { t := [mucked] })] } }) (fun x s => isMuck (x.latch s 0x500).t ∧
          ((s.ctx x.core).storeHead s.now (dfield (x.latch s 0x503).v 1 0)).isSome)
      && meets .a i (ported [(0x503, 0x70)]) (fun x s => dfield (x.latch s 0x503).v 6 4 = 7)) = true := by decide +kernel

theorem wit_AgStreams :
    ([(.agStrm, false), (.agStrw, true)] : List ((TrigW → Instr) × Bool)).all (fun e => meets .a e.1 (ported [(0x91, 1), (0x503, 3)]) fun x s =>
      let q := (x.latch s 0x503).v
      dfield q 6 4 ≠ 7 ∧ dfield q 3 2 = 0 ∧ dfield q 63 8 = 0 ∧ (s.ctx x.core).streaming e.2 (dfield q 1 0) = false ∧
      dfield x.t.v 31 0 ≠ 0) = true ∧
    ([.agStrm, .agStrw] : List (TrigW → Instr)).all (fun i =>
      meets .a i (ported [(0x91, 0x100000000)]) (fun x s => (s.ctx x.core).streaming false 0 = false ∧
        (s.ctx x.core).streaming true 0 = false ∧ dfield x.t.v 31 0 = 0)
      && meets .a i (muckyBad 0x503 0x70) (fun x s => isMuck (x.latch s 0x503).t ∧ dfield (x.latch s 0x503).v 6 4 = 7)
      && meets .a i (ported [(0x503, 0x70)]) (fun x s => isMuck (x.latch s 0x503).t = false ∧ dfield (x.latch s 0x503).v 6 4 = 7)) = true ∧
    (inHand .a .agPf id).isSome := by decide +kernel

theorem wit_AtIssue :
    ([(.atAdd, 0), (.atFadd, 4), (.atMin, 4), (.atMax, 3), (.atAmax, 4), (.atAmaxr, 2), (.atAnd, 3), (.atOr, 0), (.atXor, 1), (.atXchg, 3),
      (.atCas, 3)] : List ((TrigW → Instr) × Dword)).all (fun e =>
      meets .a e.1 (ported [(0x5E0, 0xFFF8), (0x5E2, 0x400 + e.2)]) (fun x s =>
        let a := x.latch s 0x5E0
        let c := (x.latch s 0x5E2).v
        dfield c 7 5 = 0 ∧ dfield c 15 12 = 0 ∧ dfield c 63 48 = 0 ∧ dfield c 3 0 = e.2.toNat ∧
        (s.scopeOf x.core (taskOf s x.core) (BitVec.ofNat 64 (dfield c 47 8))).isSome ∧
        (s.locate x.core (taskOf s x.core) .atomic a.v).2.isOk = true ∧ a.v.toNat % 8 = 0 ∧ (taskOf s x.core).duplex = false ∧
        (s.locate x.core (taskOf s x.core) .atomic a.v).1.wait = false)
      && meets .a e.1 (mucky 0x5E2) (fun x s => isMuck (x.latch s 0x5E2).t)
      && [0x20, 0xF].all (fun c => meets .a e.1 (regs [(0x5E2, c)]) fun x s =>
        dfield (x.latch s 0x5E2).v 7 5 ≠ 0 ∨ 4 < dfield (x.latch s 0x5E2).v 3 0)) = true := by decide +kernel

/-! ## Words, groups and steps -/

theorem wit_WordsJoin :
    slotOf (.alAdd { tw .x with s := false }) = some (false, .move 0 false 0x108 false 1) ∧
    (demo .x id).moveless (.hint 4 0) = some none ∧ (demo .x id).moveless (.hint 3 7) = some (some 7) ∧
    slotOf (.sched ⟨true, 0⟩) = some (true, .hint 1 0) := by decide +kernel

/-- A copy of s1 into s2, a drop of the first load queue's head, and a move under p1, which is 0 at reset. -/
theorem wit_MovesWrite :
    (match (demo .x id).performs (.move 0 false 2 false 1) with
      | some (_, l) => !l.isTrig && !l.mv.isDrop
      | none => false) = true ∧
    (match (demo .x fun k => { k with ctx := { k.ctx with queues := [(0, { ents := [{ v := 5 }] })] } }).performs
        (.move 0 false 0 false (dropLow 0x088)) with
      | some (_, l) => l.mv.isDrop
      | none => false) = true ∧
    slotOf (.move ⟨true, 1, false, 2, false, 1⟩) = some (true, .move 1 false 2 false 1) ∧
    (match (demo .x id).soleMove (.move 1 false 2 false 1) with
      | some m => match (demo .x id).guard 0 m with
        | (_, .open_ p h _) => !p && !h
        | _ => false
      | none => false) = true := by decide +kernel

/-- One LIMM before an immediate: 1 · 2^15 + 0x7FFF (R132). -/
theorem wit_MoveValues :
    ((parseGroup ([1#24].map (Slot.hint 0) ++ [.move 0 false 2 true 0x7FFF])).moves.map (·.src)) = [.imm 0xFFFF] ∧
    modxOf 0x8 = some { sat := true } ∧ 0 < 512 / ewBits ({} : Modx).ew := by decide +kernel

/-- Core 0 with `al.add` of s1 at offset 0 of its store, about to fetch. -/
def fetching : State :=
  { demo .x (fun k => { k with istore := [(0, 0x81080001)] }) with agenda := [.fetch 0 .x] }

theorem wit_StepRunsDecoded :
    (let s0 : State := { fetching with agenda := [], wait := false }
     let s1 := (s0.row 0).foldl State.landDue s0
     fetching.agenda = .fetch 0 .x :: [] ∧ s1.boundaryTraps 0 .x = [] ∧ s1.rowReady 0 .x ∧ ((s1.ctx 0).stream .x).past = false ∧
     decodeWord ((s1.core 0).istore.get 0 0) = .ok (.alAdd (tw .x))) ∧ encode .eventRingWrite = none := by decide +kernel

/-- The machine that the host places a word in runs it (R126). -/
theorem test_withFetchWord : (match step (State.reset.withFetchWord 32 0x81080001) with
    | .next t => decide (((t.ctx 0).flight.flatMap (·.sw)).map (fun w => (w.1, w.2.v)) = [(0x17D, 0), (0x17F, 0)] ∧ (t.ctx 0).xs.pc = 4)
    | _ => false) = true := by decide +kernel

theorem test_decodeTableWord : decodeTableWord 32 0x81080001 = some (.alAdd (tw .x)) := by decide +kernel

/-! ## Registers, buffers and memory -/

/-- The machine with core 0 as `k` makes it. -/
def world (k : Core → Core) : State := demo .x k

/-- Context fields of core 0. -/
def inCtx (f : Ctx → Ctx) (k : Core) : Core := { k with ctx := f k.ctx }

theorem wit_RegisterEvents :
    ((world fun k => { k with task := some { banks := 1 } }).core 0).declareBad 31 0x7FC0 64 = false ∧
    ((world id).core 0).declareBad 31 0x7FC0 128 = true ∧ ((world id).core 0).declareBad 0 1 64 = true ∧
    ((world id).core 0).task.isSome ∧
    [(0, 0), (1, 0), (2, 3), (3, 2)].all (fun e => (((world (inCtx fun k => { k with bufs := [(31, { st := BitVec.ofNat 2 e.1 })] })).ctx 0).bufs.get {} 31).st
      = BitVec.ofNat 2 e.1) = true ∧
    (((world (stacked 15 [] [])).ctx 0).stream .a).stack.length < 16 ∧
    ((world (stacked 1 [.call 8] [])).ctx 0).xs.stack = [.loop 0x40 0x80 3] ++ [.call 8] ∧
    ((world id).ctlabOf 0 { v := 0xFFFF }).2 = (none, [mucked]) ∧
    ((world id).part 0).xlBusy = false ∧ dfield 0xFFFF0005 2 1 ≠ 3 ∧
    (({ world id with parts := [(0, some { part0 with xlBusy := true })] } : State).part 0).xlBusy ∧
    (let s : State := { world id with ports := [(12, { up := true, replay := List.replicate 255 {} })] }
     (s.port 12).up ∧ (s.port 12).replay.length < 256 ∧ s.wait = false ∧ s.quotesOnly = false ∧
     ((s.accepted 12).updDie 0 id).wait = false) := by decide +kernel

/-- A request of core 0, first in the list. -/
def asking (r : Req) : State := { world (fun k => { k with task := some { banks := 1 } }) with reqs := [r] }

/-- A load and a store at the last granule of home 0 and at the scratchpad's bank; each of them, in home memory, where its stack
is gone; a store from another die; a refusal. -/
theorem wit_RequestEvents :
    [Loc.mem (paOf 0 0xFFFFFC0), .spad 0 0x7FC0].all (fun l =>
      [ReqKind.load 0, .store (List.replicate 64 1) []].all fun k =>
        let r : Req := { loc := l, len := 64, kind := k }
        let s : State := { asking r with oracle := [0] }
        let s0 := match l with
          | .mem _ => s
          | .spad c _ => s.remoteTurn c
        let s1 := s0.takeReq 0 r
        decide (s.servable 0 = some r ∧ s.locGone l = false ∧ r.vec = none ∧ s1.lost r = false)
        && (match k with
          | .store bs t =>
            let w := s1.writeLoc r.core r.key l bs t 0
            w.2.isNone && !(w.1.storeDone r.core r.id).wait
          | _ =>
            let p := s1.readLoc r.core r.key l r.len r.addr
            !(p.1.overlay r.core r.id l p.2).1.wait)) = true ∧
    [ReqKind.load 0, .store [1] []].all (fun k =>
      let r : Req := { kind := k }
      let s : State := { asking r with hbm := [(0, { state := 3, srOver := true })] }
      decide (s.servable 0 = some r ∧ s.homeGone 0 ∧ r.vec = none ∧ r.isAtomic = false ∧ s.wait = false)) = true ∧
    (let r : Req := { core := 24, loc := .mem 0, kind := .store [1] [], vec := some [0, 0, 0, 0] }
     let s := asking r
     let s0 := s.placeTurn r.core r.loc
     let w := (s0.takeReq 0 r).writeLoc 24 0 (.mem 0) [1] [] 0
     s.servable 0 = some r ∧ r.vec = some [0, 0, 0, 0] ∧ s.locGone r.loc = false ∧
     ({ s with reqs := s.reqs.eraseIdx 0 } : State).covers (locDie r.loc) [0, 0, 0, 0] = false ∧ (s0.takeReq 0 r).lost r = false ∧
     w.2 = none ∧ (w.1.storeDone 24 0).wait = false) ∧
    (({ world id with refusals := [(0, 3, { cause := 5 })] } : State).refusals.find? (·.1 = 0)) = some (0, 3, { cause := 5 }) ∧
    ((world id).ctx 0).as_.trap = none := by decide +kernel

theorem wit_ReplyEvents :
    (let l : Load := { q := 3, size := 8, pieces := [some { bytes := List.replicate 8 0x80 }] }
     let s := world (inCtx fun k => { k with loads := [l] })
     (s.ctx 0).loads.find? (·.q = 3) = some l ∧ l.pieces = [({ bytes := List.replicate 8 0x80 } : Piece)].map some ∧
     ∀ p ∈ [({ bytes := List.replicate 8 0x80 } : Piece)], p.fail = none) ∧
    ({ world id with replies := [(0, 1, {})] } : State).replies.find? (·.1 = 0) = some (0, 1, {}) ∧
    (let m : AgStream := { q := 3, size := 8, base := 0x1000000000000, left := 1 }
     let s := world fun k => inCtx (fun k => { k with streams := [m] }) { k with task := some { banks := 1 } }
     (s.core 0).task = some { banks := 1 } ∧ (s.ctx 0).streams[0]? = some m ∧ m.write = false ∧ m.muck = false ∧ (s.ctx 0).raised = none ∧
     (s.core 0).halted = false ∧ (s.core 0).leaving = false ∧ ((s.ctx 0).queue 3).room 16 (s.clock 0) ((s.ctx 0).owed 3) 1 ∧
     (let r := s.checkAccess 0 { banks := 1 } .read m.base m.size
      match r.2 with
      | .ok ps => !r.1.goneBefore 0 none false ps && !r.1.strongHeld 0 none ps &&
        !(r.1.pushLoad 0 { banks := 1 } m.q m.size m.signed m.base m.atag none ps true).wait
      | .error _ => false) = true) := by decide +kernel

/-- −1 in a 32-bit load under SX, and 0xFFFFFFFF without (R186). -/
theorem test_load_extends : [true, false].map (fun sx =>
    let l : Load := { q := 0, size := 4, signed := sx, pieces := [some { bytes := List.replicate 4 0xFF }] }
    match exec (.loadDataReturn 0 0) (world (inCtx fun k => { k with loads := [l] })) with
    | .next t => (((t.ctx 0).queue 0).ents.map (·.v.toNat))
    | _ => []) = [[2 ^ 64 - 1], [2 ^ 32 - 1]] := by decide +kernel

/-- An atomic of core 0 at the last dword of home 0. -/
def atomic0 : Req := { loc := .mem (paOf 0 0xFFFFFF8), kind := .atomic .add 1 5 [] 0 [] }

theorem wit_AtomicsPerformed :
    (let s := { asking atomic0 with mem := [(paOf 0 0xFFFFFF8, 7)] }
     let r := s.readHome 0 (paOf 0 0xFFFFFF8) 8 0
     s.homeGone (paOf 0 0xFFFFFF8) = false ∧ s.lost atomic0 = false ∧ r.2.fail = none ∧ (r.1.joinFor 0 (joinTags [r.2.tag, []])).2.1 = none) ∧
    [atomic0, { atomic0 with core := 4, port := some (4, 0) }].all (fun r =>
      let s := asking r
      let t := ({ s with reqs := [] } : State).performAtomic r (paOf 0 0xFFFFFF8)
      decide (s.atomicsAt 0 = [(0, r)] ∧ (clusterOf r.core = 0 ∨ r.port = some (4, 0)) ∧ r.vec = none ∧
        ((s.core r.core).task.map fun t => t.duplex) ≠ some true ∧ (t.core r.core).task = (s.core r.core).task ∧ t.wait = false ∧
        r.source 0 = some (if r.core = 0 then 0 else 20, 0) ∧ r.twin = none ∧ s.wait = false ∧ s.gone = [] ∧
        s.homeGone (paOf 0 0xFFFFFF8) = false ∧ s.granuleFault r.key (paOf 0 0xFFFFFF8) 8 r.addr = none ∧
        unresolved (joinTags [tagOf (s.memTag (paOf 0 0xFFFFFF8 / 64)), []]) = false)) = true ∧
    nextSource 20 [3, 20] = 3 ∧ nextSource 2 [3, 20] = 3 := by decide +kernel

/-- 7 + 5, and the old value on its way back (R102). -/
theorem test_atomic_adds : (match exec (.atomicEngineGrant 0) { asking atomic0 with mem := [(paOf 0 0xFFFFFF8, 7)] } with
    | .next t => decide (t.memByte (paOf 0 0xFFFFFF8) = 12 ∧ t.replies.map (fun r => r.2.2.v) = [7])
    | _ => false) = true := by decide +kernel

/-! ## Graphs and the dealer -/

/-- A granule of dwords. -/
def granule (l : List Nat) : Vec := BitVec.ofNat 512 (ofElems 64 l)

/-- A launch record of KIND `k` with OBJ `o`, of one core. -/
def rec (k o : Nat) : Vec := granule [0x96 + 256 * k, o, 65]

/-- The machine whose partition 0 is `p`, core 0 idle. -/
def dealing (p : Part → Part) : State := { world (fun _ => {}) with parts := [(0, some (p part0))] }

/-- One instance, whose node 0 is `n`. -/
def withNode (n : Node) (p : Part) : Part := { p with insts := [(0, some { nnodes := 1, nodes := [(0, n)] })] }

/-- The first 128 MiB of the virtual space mapped to home 0 by a table in home 3 (R87, R89), with `ws` as its first
dwords. -/
def mapped (ws : List Nat) (s : State) : State :=
  { s with mem := NMap.ofFn 0 0 (8 * ws.length) (fun i => BitVec.ofNat 8 (ws.getD (i / 8) 0 / 256 ^ (i % 8)))
    ++ [(0x30000000, 1), (0x30000001, 0x40), (0x30000003, 0x30), (0x30004000, 0x47)] }

/-- A graph header of one node. -/
def header : List Nat := [0x100000096, 0x1000, 0x2000, 0, 0, 0, 0, 0]

theorem wit_LaunchesAndNodes :
    ((dealing id).parts.get none 0).isSome ∧ ((dealing fun p => { p with launchQ := List.replicate 63 0 }).part 0).launchQ.length < 64 ∧
    64 ≤ ((dealing fun p => { p with launchQ := List.replicate 64 0 }).part 0).launchQ.length ∧
    (let s := dealing fun p => { p with launchQ := [rec 3 0] }
     (s.part 0).launchQ = rec 3 0 :: [] ∧ (s.part 0).children = [] ∧ recVer (rec 3 0) = 0x96 ∧ recKind (rec 3 0) < 4 ∧
     recReserved (rec 3 0) = false ∧ (s.part 0).liveNodes + 1 ≤ (s.part 0).maxNodes ∧
     ((s.updPart 0 fun q => { q with launchQ := [] }).createSingle 0 (rec 3 0)).wait = false) ∧
    (let s := mapped header (dealing fun p => { p with launchQ := [rec 4 0] })
     recKind (rec 4 0) = 4 ∧ recReserved (rec 4 0) = false ∧ (s.devGranule 0 (recObj (rec 4 0))).2 = .ok (granule header) ∧
     hdrBad (granule header) = false ∧ hdrNnodes (granule header) ≤ (s.part 0).maxNodes ∧
     (let s1 := (s.devGranule 0 (recObj (rec 4 0))).1
      s1.part 0 = s.part 0 ∧ (s.part 0).liveNodes + hdrNnodes (granule header) ≤ (s.part 0).maxNodes ∧
      ((s1.updPart 0 fun q => { q with launchQ := [] }).createGraph 0 (granule header) none).wait = false)) ∧
    recKind (rec 5 0) = 5 ∧ recVer 0 ≠ 0x96 ∧
    ((((dealing fun p => { p with nextInst := 1 }).freeDword.2).partEvent 0 0x11 [0, 6]).wait = false) ∧
    (let s := dealing (withNode { phase := .ready, record := rec 3 9 })
     s.nextNode 0 = some (0, 0) ∧ recKind (s.node 0 0 0).record = 3 ∧ ((s.partEvent 0 0x15 [0, 0, 9]).endNode 0 0 0 0).wait = false) ∧
    (let s := mapped header (dealing (withNode { phase := .ready, record := rec 2 0 }))
     s.nextNode 0 = some (0, 0) ∧ recKind (s.node 0 0 0).record = 2 ∧ (s.devGranule 0 (recObj (s.node 0 0 0).record)).2 = .ok (granule header) ∧
     hdrBad (granule header) = false ∧ hdrNnodes (granule header) ≤ (s.part 0).maxNodes ∧
     (s.devGranule 0 (recObj (s.node 0 0 0).record)).1.wait = false) ∧
    (let s := mapped header (dealing fun p => { withNode { child := granule header } p with children := [(0, 0)] })
     (s.part 0).children = (0, 0) :: [] ∧ (s.part 0).liveNodes + hdrNnodes (granule header) ≤ (s.part 0).maxNodes ∧
     ((s.updPart 0 fun q => { q with children := [] }).createGraph 0 (granule header) (some (0, 0))).wait = false) ∧
    (let x : Inst := { nnodes := 2, nodes := [(0, { code := some 0 }), (1, { code := some 8 })] }
     (x.nodes.get {} 1).code = some 8 ∧ (x.nodes.get {} 0).code = some 0) := by decide +kernel

/-- The node of a placement, with its image. -/
def placing (ph : Phase) : Node := { phase := ph, record := rec 0 0, img := some {}, issued := true }

/-- An attempt for node 0 on core 0, as the dealer knows it. -/
def attempt (c : Bool) (r : Reply) : Attempt := { gangs := [{}], cores := [(0, r)], commit := c }

/-- Core 0 reserved as `r`, with attempt `a` under way at mesh cycle `now`. -/
def reserving (r : Reserve) (a : Attempt) (now : Nat) : State :=
  { dealing (fun p => { withNode (placing .ready) p with attempt := some a }) with cores := [(0, { resv := r })], now := now }

theorem wit_Placement :
    (let s := dealing (withNode (placing .ready))
     (s.part 0).attempt = none ∧ s.nextNode 0 = some (0, 0) ∧ recKind (s.node 0 0 0).record = 0 ∧ (s.node 0 0 0).img = some {} ∧
     s.staleSel 0 (s.node 0 0 0) = false ∧ s.placeable 0 (s.node 0 0 0).record {} ∧ (s.candidates 0 (s.node 0 0 0)).isSome) ∧
    [(attempt false .probed, false, Reply.probed), (attempt true .asked, true, .asked), (attempt false .granted, false, .granted),
      (attempt true .acked, true, .acked), (attempt false .refused, false, .refused), (attempt true .denied, true, .denied)].all (fun e =>
        decide (((reserving .idle e.1 0).part 0).attempt = some e.1 ∧ ((reserving .idle e.1 0).node 0 0 0).img = some {} ∧ e.1.commit = e.2.1 ∧ e.1.cores = [(0, e.2.2)])) = true ∧
    ((reserving .idle (attempt false .refused) 0).node 0 0 0).failures + 1 < 8 ∧
    ((reserving (.granted 0 0) (attempt true .asked) 256).core 0).resv = .granted 0 0 ∧ (256 : Nat) ≤ 0 + 256 ∧
    (dealing id).wanted 0 0 = false ∧
    ((dealing (withNode { backoff := some 64 })).node 0 0 0).backoff = some 64 ∧
    (let s := dealing fun p => { withNode { placing .ready with gangs := [{}] } p with escalated := some (0, 0) }
     (s.part 0).escalated = some (0, 0) ∧ (s.node 0 0 0).tiebreak = false ∧ s.staleSel 0 (s.node 0 0 0) = false ∧
     s.regionMeets (s.node 0 0 0) ((s.node 0 0 0).gangs.flatMap (·.cores)) ∧ (s.node 0 0 0).gangs ≠ [] ∧
     (∀ c ∈ (s.node 0 0 0).gangs.flatMap (·.cores), (s.core c).idle ∧ (s.core c).halted = false ∧ (s.core c).resv = .idle ∧
       (s.core c).freeArea.isSome)) ∧
    (let s : State := { dealing id with bootStat := 3 }
     s.fwRuns ∧ s.hasPart 0) := by decide +kernel

/-- An object of portable code alone: 64 bytes at 64. -/
def object : List Nat := [0x1096, 0x4000000040, 0, 0, 0, 0, 0, 0]

/-- The translation that the cache holds under key `k`. -/
def image0 : Translated :=
  { words := [0], xLen := 1, xEnt := 0, aEnt := 0, nv := 0, ns := 0, nd := 0, nslot := 0, banks := 0, bufs := [] }
def cached (k : BitVec 384) : State :=
  mapped object (dealing fun p => { withNode { phase := .translating, record := rec 0 0, selKey := part0.selKey } p with xcache := [(k, image0)] })

/-- The key of its code, 64 zero bytes, for this partition (R342). -/
def key0 : BitVec 384 := part0.xlKey (List.replicate 64 0)

/-- Translation of that object, with its image in the cache, and with the cache empty. -/
theorem wit_Placement_translation :
    let s := cached key0
    let r := s.select 0 (s.node 0 0 0).record true
    let d := r.1.devRead 0 64 64
    let q := d.1.part 0
    (s.node 0 0 0).phase = .translating ∧ (s.node 0 0 0).selKey = (s.part 0).selKey ∧ r.2 = .translate 64 64 0 ∧
      d.2 = .ok (List.replicate 64 0) ∧ declFits (d.1.part 0) (d.1.node 0 0 0).record (Translated.decl image0) ∧
      q.xcache.find? (·.1 = q.xlKey (List.replicate 64 0)) = some (q.xlKey (List.replicate 64 0), image0) ∧
      d.1.translationFits 0 (d.1.node 0 0 0).record image0 ∧ d.1.wait = false := by
  have h : let s := cached key0
      let r := s.select 0 (s.node 0 0 0).record true
      let d := r.1.devRead 0 64 64
      (d.1.part 0).eff = part0.eff ∧ (d.1.part 0).dfv1 = part0.dfv1 ∧ (d.1.part 0).dfv2 = part0.dfv2 ∧
      (s.node 0 0 0).phase = .translating ∧ (s.node 0 0 0).selKey = (s.part 0).selKey ∧ r.2 = .translate 64 64 0 ∧
      d.2 = .ok (List.replicate 64 0) ∧ declFits (d.1.part 0) (d.1.node 0 0 0).record (Translated.decl image0) = true ∧
      d.1.translationFits 0 (d.1.node 0 0 0).record image0 = true ∧ d.1.wait = false := by decide +kernel
  obtain ⟨h1, h2, h3, h4, h9, h5, h6, h10, h7, h8⟩ := h
  refine ⟨h4, h9, h5, h6, h10, ?_, h7, h8⟩
  have hk : ((((cached key0).select 0 ((cached key0).node 0 0 0).record true).1.devRead 0 64 64).1.part 0).xlKey (List.replicate 64 0)
      = key0 := by
    unfold Part.xlKey
    rw [h1, h2, h3]
    rfl
  have hp := (devRead_parts ((cached key0).select 0 ((cached key0).node 0 0 0).record true).1 0 64 64).trans (select_parts _ _ _ _)
  simp only [hk]
  simp only [State.part, hp]
  simp [cached, mapped, dealing, withNode, NMap.get]

/-- With no image in the cache the translator's part begins: whatever program the object's bytes are, nothing waits. -/
theorem wit_Placement_translator :
    let s := mapped object (dealing (withNode { phase := .translating, record := rec 0 0 }))
    let r := s.select 0 (s.node 0 0 0).record true
    let d := r.1.devRead 0 64 64
    r.2 = .translate 64 64 0 ∧ d.2 = .ok (List.replicate 64 0) ∧ (d.1.part 0).xcache = [] ∧
      (d.1.endNode 0 0 0 6).wait = false ∧ (d.1.endNode 0 0 0 1).wait = false := by decide +kernel

/-! ## Members, traps and the debug port -/

/-- A node that runs, or starts, on core 0 alone. -/
def running (f : Node → Node) : State :=
  { world id with parts := [(0, some (withNode (f { phase := .running, record := rec 0 0, img := some {}, gangs := [{}] }) part0))] }

theorem wit_Members :
    (let s : State := { running (fun n => { n with phase := .starting }) with cores := [(0, { resv := .committed 0 })] }
     let nd := s.node 0 0 0
     nd.img = some {} ∧ nd.phase = .starting ∧ nd.gangs = [{ ox := 0, oy := 0, gw := 1, gh := 1 }] ∧ nd.oldPlaces = [] ∧
     s.allCommitted 0 nd.gangs ∧ ({} : Img).bufs = [] ∧ recDuplex nd.record = false ∧ recRollback nd.record = false ∧
     (s.loadList 0 {}).2.isSome ∧ (s.taskStart 0 0 0).wait = false) ∧
    [none, some ({ cause := 7 } : Trap)].all (fun p =>
      let s := world (inCtx fun k => { k with arrived := some { release := some 0 }, putTrap := p })
      decide ((s.core 0).task.isSome ∧ (s.ctx 0).arrived = some { release := some 0 } ∧ (0 : Nat) ≤ s.now ∧ (s.core 0).ended = false ∧
        (s.core 0).leaving = false ∧ (s.ctx 0).putTrap = p ∧ (s.core 0).halted = false ∧ (s.ctx 0).priv = false ∧ (s.ctx 0).raised = none) && !(s.releaseMember 0).wait) = true ∧
    (let s := world (inCtx fun k => { k with xs := { k.xs with exited := true } })
     (s.core 0).task = some {} ∧ (s.core 0).ended = false ∧ (s.core 0).halted = false ∧ (s.core 0).poisoned = none ∧
     (s.ctx 0).xs.exited ∧ (s.ctx 0).raised = none ∧ (s.ctx 0).as_.trap = none ∧ s.counts 0 = (0, 0, 0, 0) ∧ s.exitsHeld 0 = false ∧
     (s.finishMember 0).wait = false) ∧
    (let x : Inst := { nnodes := 2, nodes := [(0, { phase := .running, record := rec 0 0 }), (1, { phase := .ready, record := rec 0 0, failures := 1 })] }
     let s : State := { dealing (fun p => { p with insts := [(0, some x)], quantum := 1 }) with now := 4096 }
     let nd := s.node 0 0 0
     nd.phase = .running ∧ nd.evictReq = false ∧ nd.tiebreak = false ∧ (s.part 0).quantum ≠ 0 ∧
     nd.quantumAt + 4096 * (s.part 0).quantum.toNat ≤ s.now ∧ s.presses 0 (recPrio nd.record)) ∧
    [false, true].all (fun l =>
      let s := world fun k => inCtx (fun k => { k with arrived := some {} }) { k with evict := true, leaving := l }
      decide ((s.core 0).task = some {} ∧ (s.core 0).evict ∧ ({} : Task).follow = false ∧ s.standing 0 ∧ (s.core 0).leaving = l ∧ s.atBlock 0 ∧
        s.evictable 0)) = true ∧
    (let s := running id
     (s.node 0 0 0).phase = .running ∧ (s.node 0 0 0).ending = none ∧ (s.node 0 0 0).code = none ∧ (s.killTask 0 0 0).wait = false) ∧
    (let s := dealing (withNode { phase := .evicted, record := rec 0 0 })
     (s.node 0 0 0).phase = .evicted ∧ (s.killTask 0 0 0).wait = false) ∧
    (let s := running fun n => { n with ending := some 4 }
     (s.core 0).task = some {} ∧ (s.node 0 0 0).ending.isSome ∧ (s.core 0).ended = false ∧ (s.ctx 0).stores = [] ∧
     (s.ctx 0).copies = [] ∧ (s.part 0).held = [] ∧ (s.haltStop 0).wait = false) := by decide +kernel

/-- A core with a privilege trap raised and `v` in TVEC. -/
def trapped (v : Dword) : State := world fun k => inCtx (fun k => { k with raised := some { trap := some (privilegeTrap 0x20) } }) { k with tvec := v }

/-- The machine whose first page holds `ws`, with X in its leaf or without. -/
def executable (x : Bool) (ws : List Nat) : State :=
  let s := mapped ws (dealing id)
  { s with mem := s.mem.filter (·.1 != 0x30004000) ++ [(0x30004000, if x then 0x4B else 0x47)] }

theorem wit_TrapsAndDebug :
    [(0x8000010000000200 : Dword), 0].all (fun v => let s := trapped v
      decide ((s.core 0).task = some {} ∧ (s.ctx 0).raised = some { trap := some (privilegeTrap 0x20) } ∧ (privilegeTrap 0x20).cause ≠ 16 ∧
        (s.core 0).ended = false ∧ (s.core 0).halted = false ∧ (s.core 0).haltReq = false ∧ s.quiet 0 ∧
        (s.ctx 0).mxq = [] ∧ (s.ctx 0).priv = false)) = true ∧
    dfield 0x8000010000000200 63 63 = 1 ∧
    (let s := (trapped 0).updCtx 0 fun k => { k with priv := true }
     (s.ctx 0).priv ∧ (s.ctx 0).raised = some { trap := some (privilegeTrap 0x20) } ∧ s.quiet 0) ∧
    (let k := (trapped 0).core 0
     k.ctx.flight = [] ∧ NMap.wf ({} : SVal) k.ctx.sfile ∧ NMap.wf ({} : VVal) k.ctx.vfile) ∧
    [dealing id, world id].all (fun s => decide (s.life.benchOpen ∧ (s.core 0).halted = false ∧ (s.core 0).ended = false ∧
      ((s.core 0).task = none ∨ ((s.core 0).poisoned = none ∧ (s.ctx 0).raised = none ∧ s.quiet 0 ∧ (s.ctx 0).mxq = [])))) = true ∧
    (let s := world fun k => { k with halted := true }
     s.life.benchOpen ∧ (s.core 0).halted) ∧
    [(true, 0x8C000000), (false, 0x8C000000), (true, 0x8D000000)].all (fun e =>
      let s := executable e.1 [e.2]
      let d := s.declaredVregs 0 64
      let v := d.1.declaredVers 0 0
      let r := v.1.scan { half := .x, priv := 0, need := d.2, prof := declaredProfiles v.2 } 0 0 4
      decide ((s.parts.get none 0).isSome ∧ (r.2.isNone = (e = (true, 0x8C000000)))) && !(s.scanSegment 0 .x 0 0 4 64 0).wait) = true := by
  decide +kernel

/-- Trap entry puts cause and half into TRAPCAUSE and the X stream at the handler (R180). -/
theorem test_trap_entry : (match exec (.trapEntry 0) (trapped 0x8000010000000200) with
    | .next t => decide ((t.core 0).trapCause = 14 ∧ (t.core 0).trapVal = 0x20 ∧ (t.ctx 0).xs.pc = 0x200 ∧ (t.ctx 0).as_.pc = 0x100 ∧
        (t.ctx 0).priv = true)
    | _ => false) = true := by decide +kernel

/-- Offsets of Table 16 of R181: `cl` at 0x22B8, `ce` at 0x23F8 (`ce.f` last, at 0x2420). -/
theorem test_image_ports : imageScalarPorts.getD ((0x22B8 - 0x2200) / 8) 0 = 0x3C0 ∧
    imageScalarPorts.getD ((0x23F8 - 0x2200) / 8) 0 = 0x600 ∧ imageScalarPorts.getD ((0x2420 - 0x2200) / 8) 0 = 0x63F ∧
    imageScalarPorts.length = 69 := by decide

/-- A queue whose head stands in slot 15 has its second entry in slot 0 (R181, Table 17). -/
theorem test_image_queue :
    (let i : Image := { queues := [(0, { ents := [{ v := 5 }, { v := 9 }], head := 15 })] }
     (i.dword {} 0 0, i.dword {} 0 (15 * 8), i.dword {} 0 (0x2900 / 8))) = (9, 5, 0x2F) := by decide +kernel

/-! ## Engines -/

/-- The head of core 0's queue is `k`, the core has bank 0 and home 0's first page, `m` lies in memory. -/
def copying (k : Copy) (m : List Host.Cell) : State :=
  { world (fun c => inCtx (fun x => { x with copies := [k] }) { c with task := some { banks := 1 }, tlb := [{ pte := 7 }] }) with
    parts := [(0, some { part0 with thLogn := 1 })], mem := m }

/-- A command: word 0, source, destination, word 3. -/
def cmd (a b c d : Dword) : Copy := { w0 := { v := a }, w1 := { v := b }, w2 := { v := c }, w3 := { v := d } }

/-- A tensor handle at slot 0: valid, one row of 64 bytes at 0x1000. -/
def handle : List Host.Cell := [(1, 0x10), (6, 0), (7, 1), (8, 1), (12, 64)].filter (·.2 ≠ (0 : Byte))

theorem wit_Copies_start :
    [cmd 0x1000000000 0 0x100 0, cmd 0x4000020001 0 0x100 0, cmd 0x1000000004 5 0x1000000000000 0,
      cmd 0x4000010006 0 0x1000000000040 0, cmd 0x1000000007 0 0 0].all (fun k =>
        let s : State := { copying k [] with ports := [(0, { up := true })] }
        decide ((s.ctx 0).copies = k :: [] ∧ (s.core 0).task = some { banks := 1 } ∧ k.started = false ∧ k.cmd ∈ [0, 1, 4, 6, 7] ∧
          s.settledBefore 0 k.token ∧
          k.bad 0 { banks := 1 } = false ∧ k.count ≠ 0 ∧ k.rows ≠ 0 ∧ k.hasHs = false ∧ k.hasHd = false ∧ k.packed = false ∧ k.convs = [] ∧
          k.rows * k.count < 2 ^ 24 ∧ (k.cmd = 7 → k.port ≤ 11 ∧ (s.port k.port).isDown = false) ∧
          (k.sw → ([16, 32, 64, 128, 256, 512, 1024, 2048, 4096].contains k.count ∧ ∀ r ∈ List.range k.rows,
            (k.w2.v + BitVec.ofInt 64 (r * k.dstr)).toNat % 2 ^ 20 % k.count = 0))) && !(s.startHead 0 k.cmd).wait) = true ∧
    (let k := cmd 0x2000 0 0 0
     k.cmd < 8 ∧ k.refused 0 {} ∧ k.unacked = [] ∧ ((copying k []).startHead 0 0).wait = false) := by decide +kernel

/-- A gather and a scatter of one row through the handle, whose index is 0; an expansion of a chain of one block. -/
theorem wit_Copies_rows :
    [(cmd 0x4000010102 0 0x2000 0x20000000, true), (cmd 0x4000010203 0x2000 0 0x20000000, false)].all (fun e =>
      let k := e.1
      let s := copying k handle
      (match s.takeHandle 0 { banks := 1 } (if e.2 then k.w1.v else k.w2.v) with
      | (s1, .ok h) => decide (k.bad 0 { banks := 1 } = false ∧ k.count ≠ 0 ∧ k.nidx = 1 ∧ k.sw = false ∧ k.packed = false ∧
          k.hasHs = e.2 ∧ k.hasHd = !e.2 ∧ k.nidx * k.count < 2 ^ 24 ∧ k.count ≤ h.rbytes ∧ k.index % 4 = 0 ∧
          (match (s1.readIndices 0 { banks := 1 } k.token k.index k.nidx).2 with
            | .ok is => decide (is = [(0, [])] ∧ h.rows = 1)
            | _ => false) = true)
      | _ => false) && !(s.startHead 0 k.cmd).wait) = true ∧
    (let k := cmd 0x4000000005 0 0x100 0
     let s := copying k [(0, 0xB6), (64, 1)]
     (s.chainTotal 0 { banks := 1 } { k with started := true } 2 0 0).2 < 2 ^ 24 ∧ k.packed ∧ k.bad 0 { banks := 1 } = false ∧
     k.count ≠ 0 ∧ k.hasHs = false ∧ k.hasHd = false ∧ k.w1.v.toNat % 64 = 0 ∧ k.count % 64 = 0 ∧ (s.startHead 0 5).wait = false) := by
  decide +kernel

theorem wit_Copies_chunk :
    (let r : Run := { src := .addr 0, dst := 0x103F, len := 5000 }
     let k : Copy := { cmd 0x138800000000 0 0x103F 0 with started := true, runs := [r] }
     let s := copying k []
     (s.ctx 0).copies = k :: [] ∧ k.done = none ∧ s.copyTurn 0 ∧ min (r.len - r.pos) 4096 = 4096 ∧ k.cmd ≠ 7 ∧ k.packed = false ∧
     k.chainLen ≤ k.chain ∧
     (match s.engineRead 0 { banks := 1 } k.token 0 4096 with
      | (s1, .ok bs) => (s1.engineWrite 0 { banks := 1 } 0x103F bs []).2 == (4096, none)
      | _ => false) = true ∧ (s.copyStep 0).wait = false) ∧
    (let k : Copy := { oor := 15, dbytes := 2 ^ 24 - 1, sbytes := 1 }
     k.oor < 16 ∧ k.dbytes < 2 ^ 24 ∧ k.sbytes < 2 ^ 24) ∧
    [16, 4096].all (fun n => decide ((List.replicate n ((0 : Byte), ([] : LTag))).length = n)) = true := by decide +kernel

/-- A fill of one row of role A, of int8 elements. -/
def fill0 (ti : Bool) (fmt b : Nat) : MxOp := .fill 0 false 32 fmt [(List.replicate 64 (BitVec.ofNat 8 b), [], 0, [])] ti []

theorem wit_MatrixEvents :
    (let at_ (o : MxOp) : State := world (fun k => inCtx (fun c => { c with mxq := [o] }) { k with task := some { banks := 1 } })
     [fill0 false 1 3, fill0 true fmtT5 255, .mma 0 1 0 false 0 [], .drain 0 0 false 0 256 0 [] []].all (fun o =>
       decide (((at_ o).ctx 0).mxq = [o] ∧ ((at_ o).ctx 0).xs.trap = none)) = true ∧
     ((at_ (.mmat 0 1 0 false 0x22000 0 false (some ({}, {})) 0 [])).ctx 0).mxq.length = 1 ∧
     (firstIllegal fmtT5 [(List.replicate 64 255, [], 0, [])]).isSome ∧ firstIllegal fmtT5 [(List.replicate 64 3, [], 0, [])] = none ∧ mmaPending {} {} {} = false ∧ rowsPending {} = false ∧
     (let s := at_ (.drain 0 0 false 0 256 0 [] [])
      ((s.turnFor 0 2).drainRows 0 {} 0 0 256 [] (List.range 64)).2 = none ∧ ((s.turnFor 0 2).mxComplete 0).wait = false)) ∧
    (let t (b : Bool) : Tile := { team := 0x22000, step := 0, roleB := b, left := [0] }
     let o : MxOp := .mmat 0 1 0 false 0x22000 0 true none 0 []
     let s := world fun k => inCtx (fun c => { c with tiles := [t false, t true], mxq := [o] }) { k with task := some {} }
     (s.ctx 0).mxq = [o] ∧ (s.core 0).task = some {} ∧
     ((s.ctx 0).tiles.find? (Tile.isFor 0 0x22000 0 false)) = some (t false) ∧
     ((s.ctx 0).tiles.find? (Tile.isFor 0 0x22000 0 true)) = some (t true) ∧
     ({} : Task).member (teamFields 0x22000).1 0 = 0 ∧ ({} : Task).member 0 (teamFields 0x22000).2.1 = 0) ∧
    (let b : BsumSet := { off := 0x40, sums := [(5, [])] }
     let s (m : List (Nat × Byte)) : State := { world (fun k => { k with task := some { banks := 1 }, spad := m }) with bsums := [b] }
     (s []).bsums[0]? = some b ∧ (s []).bsumBuf = [] ∧ ((s []).ctx 0).xs.trap = none ∧
     ((s [(0x4F, 0x80)]).core 0).admits b = none ∧
     (let z := s [(0x42, 1), (0x44, 1)]
      let h := (z.core 0).bsumHead 0x40
      let s' := ({ z.turnFor 0 2 with bsums := [] } : State).noteVec none 0 0
      let r := State.bsumRecords { s' with bsumBuf := [b] } 0 0x40 0 0 0 b.sums
      z.bsumCovered b ∧ (z.core 0).admits b = some h.applied ∧ r.2 = none ∧ (r.1.core 0).bsumHead 0x40 = h ∧ r.1.wait = false)) := by
  decide +kernel

/-! ## Weight blocks -/

/-- Core 0 in weight-driven mode at a block of these header dwords at 0 (R241), with what its opcode needs: slots, a buffer. -/
def block (l : List Nat) : State :=
  let k (k : Core) : Core := inCtx (fun c => { c with wd := some {}, bufs := [(0, { len := 64 })] }) { mxCore [] k with
    tlb := [{ pte := 0x13 }], slots := [(0, { owner := .task }), (1, { owner := .task })] }
  { world k with mem := NMap.ofFn 0 0 (8 * l.length) fun i => BitVec.ofNat 8 (l.getD (i / 8) 0 / 256 ^ (i % 8)) }

/-- A header: opcode, method, SLEN, ELEN, dwords 2 and 3, SKIND. -/
def hdr (op m slen elen d2 d3 sk : Nat) : List Nat := [0xB6 + 256 * m + 2 ^ 16 * op + 2 ^ 32 * slen, elen, d2, d3, sk, 0, 0, 0]

/-- Each opcode's block opens, as its header gives it, and its step answers. -/
theorem wit_WeightBlocks_open :
    [(0, hdr 0 0 0 0 0 0 0), (1, hdr 1 0 64 64 0x1000001 0x4000000100 0), (2, hdr 2 0 64 64 0 0x1000000 0),
      (3, hdr 3 0 64 64 0x1000001 0 0), (4, hdr 4 0 64 64 0x1000001 0 0),
      (5, hdr 5 0 0 0 0x1000001 0x1000140000 0), (6, hdr 6 3 64 100 0x1000001 0 0),
      (7, hdr 7 0 0 0 2 0x1000040100 0), (8, hdr 8 0 0 0 3 0x800040100 0), (9, hdr 9 0 64 64 0 0 4),
      (10, hdr 10 0 0 0 0 2 0), (11, hdr 11 0 0 0 0 7 0), (12, hdr 12 0 0 0 0 9 0)].all (fun e => (match (block e.2).blockOpens 0 e.1 with
        | some (_, w, h, s) => !(s.ctx 0).anyPending (spanRegs h.num 32 h.off h.ncol) && !w.stuck h
        | none => false) && !((block e.2).wdBlock 0 e.1).wait) = true := by decide +kernel

theorem wit_WeightBlocks_effects :
    (match (block (hdr 7 0 0 0 2 0x1000040100 0)).blockOpens 0 7 with
      | some (t, w, h, s) => decide ((s.ctx 0).anyPending h.srcRegs = false ∧ ((s.ctx 0).srcBytes h).length = 64 ∧
          ((s.ctx 0).bufs.get {} h.num).base = 0 ∧ (s.core 0).spadRefusal (s.core 0).banks h.off 64 true (BitVec.ofNat 64 w.block) = none ∧
          ((s.turnFor 0 1).writeBytes 0 t (s.ctx 0).ctlab
            ((partsOf (spadAddr h.off) 64).map fun p => (Loc.spad 0 (p.1.toNat % 2 ^ 20), p.2, p.1, 0)) ((s.ctx 0).srcBytes h)).2.2 = none)
      | none => false) = true ∧
    (match (block (hdr 8 0 0 0 3 0x800040100 0)).blockOpens 0 8 with
      | some (t, w, h, s) => let d := (s.ctx 0).sendDword h w.sent
          !(s.ctx 0).anyPending h.srcRegs && decide (w.sent < h.dwords) && (match s.send 0 t h.dx h.dy h.num d.1 d.2 with
            | .sent _ => true
            | _ => false)
      | none => false) = true ∧
    (match (block (hdr 9 0 64 64 0 0 4)).blockOpens 0 9 with
      | some (t, w, h, s) =>
          let s' := s.updCtx 0 fun k => { k with wd := some { w with phase := .successor } }
          let v := (s'.ctx 0).selectValue h
          decide (h.skind = 4 ∧ (s'.ctx 0).portPending v.2.2 = false ∧ isMuck v.2.1 = false ∧ 0 ≤ toSigned 32 v.1 ∧
            toSigned 32 v.1 < (h.slen / 4 : Nat)) && (match s'.hiddenTag (s'.spaceOf 0).1 (s'.spaceOf 0).2 (toTag v.2.1) with
              | (s3, none, false) => (s3.blockRead 0 t w.block (w.block + 64)).2.isOk
              | _ => false)
      | none => false) = true ∧
    (match (block (hdr 10 0 0 0 0 2 0)).blockOpens 0 10 with
      | some (t, _, h, s) => decide ((s.ctx 0).barrierBusy = false ∧ s.reqs = [] ∧ s.unpaired = [] ∧ s.refusalDue 0 = false ∧
          (match s.barRect 0 t (h.arg &&& BitVec.ofNat 64 (2 ^ 40 - 1)) with
            | some (some _) => true
            | _ => false) = true)
      | none => false) = true := by decide +kernel

/-- The mode in the payload of an MVACC of one granule, and of an MMACC; of a NOP and of a SELECT. -/
theorem wit_WeightBlocks_payload :
    [(1, hdr 1 0 64 64 0x1000001 0x4000000100 0), (2, hdr 2 0 64 64 0 0x1000000 0)].all (fun e =>
      match (block e.2).blockOpens 0 e.1 with
      | some (t, w, h, s) => decide (s.wdReady 0 = some (t, w) ∧ (s.ctx 0).xs.trap = none ∧ w.phase = .payload ∧ hdrOf w.hdr = h ∧
          w.restart < h.total ∧ h.whole = decide (e.1 = 2) ∧ (s.ctx 0).anyPending (h.mvSrc 0) = false ∧ (s.ctx 0).mxq = [] ∧
          mmaPending ((s.core 0).slot h.abase) {} ((s.ctx 0).acc h.num) = false ∧ (s.payloadRead 0 t w.block 0 h.grans).2.isOk ∧
          h.illegal (s.ctx 0) (List.replicate 64 0) = none) && !(s.wdPayload 0).wait
      | none => false) = true ∧
    [(0, hdr 0 0 64 0 0 0 0), (9, hdr 9 0 64 64 0 0 4)].all (fun e =>
      match (block e.2).wdReady 0 with
      | some (t, w) =>
        let w : WDrive := { w with phase := .payload, hdr := granule e.2 }
        let s := (block e.2).updCtx 0 fun k => { k with wd := some w }
        let h := hdrOf w.hdr
        decide (s.wdReady 0 = some (t, w) ∧ (s.ctx 0).xs.trap = none ∧ h.op = e.1 ∧ w.restart < h.total ∧
          (s.payloadRead 0 t w.block 0 h.grans).2.isOk) && !(s.wdPayload 0).wait
      | none => false) = true := by decide +kernel

/-! ## Replies of other units -/

/-- A partition whose first instance's node 0 is a ready XFORM node with OBJ 64. -/
def xforming : State := mapped object (dealing (withNode { phase := .ready, record := rec 1 64 }))

theorem wit_UnitReplies :
    (let s := world (inCtx fun k => { k with lbops := [{ op := 1 }] })
     (s.resolveCore 0).2 = {} ∧ ((s.resolveCore 0).1.lbRetry 0).2 = none ∧ (s.ctx 0).raised = none ∧ (s.ctx 0).lbops = { op := 1 } :: [] ∧
     (s.lbPerform 0 { op := 1 }).2.1 = none) ∧
    (let o : ClOp := { op := 3 }
     let s := world (inCtx fun k => { k with clop := some o })
     (s.core 0).task = some {} ∧ (s.ctx 0).clop = some o ∧ (s.ctx 0).xs.trap = none ∧ (s.ctx 0).raised = none ∧
     ((s.part 0).dspaces.get none 0).isSome ∧ (s.clRun 0 {} o (((s.part 0).dspaces.get none 0).getD {})).2.isSome ∧
     (s.carillon 0).wait = false) ∧
    (let s : State := { world id with msgs := [({} : Mail)] }
     s.msgs[0]? = some ({} : Mail) ∧ (match ({ s with msgs := [] } : State).box {} 0 0 with
       | .live k => decide (k = 0)
       | _ => false) = true) ∧
    (let s := xforming
     s.nextNode 0 = some (0, 0) ∧ recKind (s.node 0 0 0).record = 1 ∧ (s.devGranule 0 (recObj (s.node 0 0 0).record)).2.isOk ∧
     ((s.devGranule 0 (recObj (s.node 0 0 0).record)).1.xformEnd 0 0 0 false).wait = false) ∧
    (let r : Run := { src := .addr 0, dst := 64, len := 64 }
     let x : XRun := { inst := 0, node := 0, cmd := .copy 0x4000000000 0 64 0, copy := { cmd 0x4000000000 0 64 0 with started := true, runs := [r] } }
     let s := mapped [7] (dealing fun p => { withNode { phase := .engine, record := rec 1 0 } p with xforms := [x] })
     (s.part 0).xforms[0]? = some x ∧ x.copy.done = none ∧ (s.xformGo 0 0).wait = false) := by
  decide +kernel

/-! ## Links, containment, stacks and the platform -/

/-- Port 0 as `f` makes it. -/
def port0 (x : LinkPort) : State := { mapped [] (world id) with ports := [(0, x)] }

theorem wit_Links :
    ((port0 { up := true, lanes := 16 }).port 0).up ∧ ({} : LinkPort).failed = 0 ∧ lanesOf 0x8000 = some (8, false) ∧ lanesOf 1 = some (8, true) ∧
    lanesOf 0x8001 = none ∧
    (let x : LinkPort := { training := some 0, meth := 1 }
     ((port0 x).port 0).training = some 0 ∧ lanesOf x.failed = some (16, false) ∧ x.meth ≠ 0) ∧
    (let s := { port0 {} with now := 1700000 }
     (s.port 0).isDown ∧ (s.port 0).downAt + 1700000 ≤ s.now) ∧
    ((port0 {}).portReset 0).wait = false ∧ ((port0 {}).peerReset 11).wait = false ∧
    (let q : Packet := { seq := 5 }
     let s := { port0 { up := true, replay := [{ seq := 4 }] ++ q :: [{ seq := 6 }] } with now := 3400 }
     (s.port 0).up ∧ (∀ e ∈ [({ seq := 4 } : Packet)] ++ [{ seq := 6 }], e.seq ≠ 5) ∧ (s.port 0).sentAt + 3400 ≤ s.now ∧
     (s.linkAck 0 5 false).wait = false) ∧
    (let x : LinkPort := { up := true, rxSeq := 0xFFFFFFFF, bound := some 0 }
     ((port0 x).outsideWrite 0 0 [1]).2 = none ∧ ((port0 x).outsideWrite 0 (2 ^ 27) [1]).2.isSome ∧ (2 : Nat) ∉ x.refused ∧
     LinkData.expanded { bytes := [1] } = some [1] ∧
     ((port0 x).packet 0 0xFFFFFFFF 2 0 { bytes := [1] }).wait = false ∧
     ((port0 x).packet 0 0xFFFFFFFF 2 (2 ^ 27) { bytes := [1] }).wait = false ∧
     0 ≠ x.rxSeq ∧ ((0 : BitVec 32) - x.rxSeq).toNat < 2 ^ 31 ∧ ((port0 x).packet 0 0 2 0 { bytes := [1] }).wait = false) ∧
    (let s : State := { mapped [] (world id) with ports := [(12, { up := true })], bootStat := 3
                                                  parts := [(0, some { part0 with windows := [(6, some (2 ^ 27, 64)), (7, some (0, 64))] })] }
     (s.part 0).windows.get none 7 = some (0, 64) ∧ (s.port 12).up ∧ [(1 : Byte)] ≠ [] ∧ 63 + [(1 : Byte)].length ≤ 64 ∧
     (s.outsideWrite 0 63 [1]).2 = none ∧ (s.outsideRead 0 63 1).2 = none ∧ (s.outsideWrite 0 (2 ^ 27) [1]).2.isSome ∧
     (s.outsideRead 0 (2 ^ 27) 1).2.isSome ∧ [true, false].all (fun wr => [6, 7].all fun w =>
       !(s.hostAccess 0 w 0 wr [1]).wait) = true ∧
     s.fwRuns ∧ s.hasPart 0 ∧ 0xFFFF00000000 + 2 ^ 32 ≤ 2 ^ 48) := by decide +kernel

/-- A running duplex node of two cores in different clusters, and the tiebreak's. -/
def duplex (g : List Gang) (h1 h2 : BitVec 64) : State :=
  let t (q : Nat) : Task := { duplex := true, partner := q, ox := 4 * q }
  let k (q : Nat) : Core := { task := some (t q), ctx := { arrived := some {} } }
  { world id with
    parts := [(0, some { withNode { phase := .running, gangs := g, tiebreak := true } part0 with w := 12 })]
    cores := [(0, k 0), (4, { k 1 with hash := h1 }), (8, { k 2 with hash := h2 })] }

theorem wit_Containment :
    [false, true].all (fun irr =>
      let s : State := { running id with cores := [(0, { task := some {}, poisoned := some 0x40, irrev := irr, snap := some {} })] }
      decide ((s.core 0).poisoned = some 0x40 ∧ (s.core 0).task = some {} ∧ (s.core 0).ended = false ∧ (s.node 0 0 0).ending = none ∧
        ({} : Task).members.filter (fun m => (s.core m).inGang {}) = [0] ∧ (s.core 0).irrev = irr ∧ s.evictedOf {} = [] ∧
        s.snapBad 0 0 = false ∧ ({ s with mstat := [((s.part 0).snapbase.toNat * 0x400, .uncorrectable)] } : State).snapBad 0 0 ∧ (s.rollBack 0).wait = false ∧
        (State.rollBack { s with mstat := [((s.part 0).snapbase.toNat * 0x400, .uncorrectable)] } 0).wait = false ∧
        (s.core 0).snap = some {} ∧ ({} : Task).sameGang {} ∧ (s.core 0).haltReq = false ∧ (s.core 0).halted = false)) = true ∧
    (let e : Item := { arrived := false }
     [none, some (0 : BitVec 64), some 7].all (fun o =>
       let f : Item := { partner := 1, arrived := true, hash := o.getD 0 }
       let s : State := { running id with parts := [(0, some { withNode { phase := .running } part0 with items := e :: (if o.isSome then [f] else []) })] }
       let s1 := s.updItem e fun x => { x with arrived := true }
       decide (s.allItems[0]? = some e ∧ (s1.allItems.find? fun x => x.mate e && x.arrived && !x.paired) = (o.map fun _ => f) ∧
         (s.node 0 0 0).tiebreak = false ∧ (s.itemArrives 0).wait = false)) = true) ∧
    (let s : State := { running id with parts := [(0, some { withNode { tiebreak := true } part0 with items := [{ arrived := false }] })] }
     s.allItems[0]? = some { arrived := false } ∧ (s.node 0 0 0).tiebreak ∧ (s.itemArrives 0).wait = false) ∧
    (let e : Item := { arrived := true }
     let s : State := { dealing (fun p => { p with items := [e] }) with now := 2 ^ 20 }
     s.allItems[0]? = some e ∧ e.paired = false ∧ e.partner < 2 ∧ e.sentAt + 2 ^ 20 ≤ s.now ∧ (s.itemTimeout 0).wait = false) ∧
    (let g : List Gang := [{}, { ox := 4 }, { ox := 8 }]
     let s := duplex g 0 7
     let t : Task := { duplex := true }
     let u (q : Nat) : Task := (s.node 0 0 0).partnerTask t q
     (s.node 0 0 0).gangs = g ∧ (s.node 0 0 0).tiebreak ∧ (s.node 0 0 0).phase = .running ∧ (s.node 0 0 0).ending = none ∧
     (∀ m ∈ (u 2).members, s.stands (u 2) m) ∧ s.reqs = [] ∧
     [(0, 0, true, true), (7, 0, true, false), (7, 7, false, true), (0, 7, false, false)].all (fun e =>
       let s := duplex g (BitVec.ofNat 64 e.1) (BitVec.ofNat 64 e.2.1)
       (s.differ {} { ox := 8 } == []) == e.2.2.1 && (s.differ { ox := 4 } { ox := 8 } == []) == e.2.2.2) = true) ∧
    (let s : State := { dealing id with cores := [(0, { score := 32, quarantine := true })], now := 2 ^ 37 }
     (s.core 0).score ≠ 0 ∧ (s.core 0).scoreAt + 2 ^ 37 ≤ s.now ∧ (s.core 0).quarantine ∧ (s.core 0).idle ∧ (s.core 0).resv = .idle ∧
     s.partOf 0 = some 0 ∧ ({ s with parts := [] } : State).partOf 0 = none) ∧
    (∀ c ∈ clusterCores 95, ((dealing id).core c).idle ∧ ((dealing id).core c).resv = .idle) ∧
    (clusterCores 0).filter [0].contains = [0] ∧
    (let s := asking {}
     s.life.benchOpen ∧ s.reqs.head? = some {} ∧ (world id).reqs = []) := by decide +kernel

theorem wit_Stacks :
    (let s (k : Stack) (n : Nat) : State := { State.reset with hbm := [(7, k)], now := n }
     ((s {} 0).stk 7).mapped = false ∧ ((s { mapped := true } 0).stk 7).mapped ∧
     ((s { state := 3 } 85000000).stk 7).over 85000000 ∧ ((s { state := 3 } 0).stk 7).over 84999999 = false ∧ ((s {} 0).stk 7).state = 0 ∧ ((s {} 0).stk 7).fallback = false ∧
     ((s { state := 1 } 1700000000).stk 7).warnAt + 1700000000 ≤ (s { state := 1 } 1700000000).now ∧
     ((s { state := 2 } 0).stk 7).state = 2 ∧ ((s { state := 3 } 85000000).stk 7).srAt + 85000000 ≤ (s { state := 3 } 85000000).now ∧
     (∀ g ∈ [(paOf 1175 0x1000000) / 64], stackOf (paHome (64 * g)) = stackOf 1175 ∧ paOff (64 * g) / 0x1000000 = 1 ∧ paHome (64 * g) < 1536)) := by
  decide +kernel

theorem wit_Monitoring :
    (let r : Ring := { en := true, logn := 2 }
     let e : Event := { kind := 0x39, fields := [7] }
     let big : Event := { kind := 0x3A, fields := [0, 0, 0], extra := [[1]] }
     let s (e : Event) : State := { State.reset with evWait := [e], evRing := r, telRing := r, ports := [(12, { up := true })], now := 1700000 }
     (s e).evWait = e :: [] ∧ e.kind ≠ 0x3A ∧ e.kind < 256 ∧ e.die < 4 ∧ e.fields.length ≤ 6 ∧ e.extra = [] ∧ r.en ∧ ((s e).port 12).up ∧
     1 ≤ r.free ∧ e.total ≤ r.free ∧ e.total < 256 ∧ big.total ≤ r.free ∧ big.total < 256 ∧
     ((s e).die 3).telAt + 1700000 ≤ (s e).now ∧ (s e).telRing.free ≠ 0 ∧ ({} : Ring).en = false ∧
     (let full : Ring := { r with head := 3 }
      full.en ∧ full.free = 0) ∧ (s e).wait = false ∧ (s e).quotesOnly = false ∧ (s e).writeEvent.wait = false ∧
     (s big).writeEvent.wait = false) ∧
    [0x300000, 0x300006, 0x300007].all (fun c =>
      let s : State := { State.reset with monitors := [(15, { ctl := c, due := [9] })], now := 512, ports := [(12, { up := true })] }
      decide ((s.monitor 15).en ∧ ((s.monitor 15).src ≤ 5 ∨ (s.monitor 15).src = 6 ∨ (s.monitor 15).src = 7) ∧
        (s.monitor 15).due = 9 :: [] ∧ (s.monitor 15).last + 512 ≤ s.now ∧ s.quotesOnly = false ∧ (s.port 12).up ∧
        (s.monitor 15).dump ∧ (s.monDump 15).wait = false ∧ ({} : Monitor).en = false ∧ dfield 0x100000 20 20 = 1)) = true := by
  decide +kernel

theorem wit_BootAndReset :
    State.reset.bootStat = 1 ∧ State.reset.life.rank < 4 ∧ State.reset.bootStat ≠ 2 ∧ (3 : Nat) ≤ (Life.ofRank 3).rank ∧
    (let s : State := { State.reset with quote := some (1, 0), ports := [(12, { up := true })] }
     s.quote = some (1, 0) ∧ (s.port 12).up ∧ (s.quoteStep (some (1, 0))).wait = false) := by decide +kernel

/-- A bank that boot found bad leaves its core 48 vector registers, and four leave it none and quarantined (R21). -/
theorem test_resetWipe_banks : (match exec (.resetWipe [(5, 0xB), (1535, 0)]) State.reset with
    | .next t => decide ((t.core 5).vregs = 48 ∧ (t.core 5).quarantined = false ∧ (t.core 1535).vregs = 0 ∧ (t.core 1535).quarantined ∧
        (t.core 4).vregs = 64)
    | _ => false) = true := by decide +kernel

theorem wit_PartitionsAndSpaces :
    (let p : Part := { x0 := 44, y0 := 28, w := 4, h := 4, maxNodes := 1, curX := 44, curY := 28 }
     let s : State := { State.reset with bootStat := 3 }
     s.fwRuns ∧ s.hasPart 31 = false ∧ p.legal ∧ s.parts = [] ∧ p.holds 1535) ∧
    (let s : State := { dealing id with bootStat := 3 }
     let q := s.part 0
     s.fwRuns ∧ s.hasPart 0 ∧ s.partIdle 0 ∧ q.dspaces.get none 0 = some (((q.dspaces.get none 0).getD {})) ∧
     q.lspaces.get none 7 = none ∧ q.dspaces.get none 7 = none ∧ s.dieSpaces 0 < 8 ∧ (∃ c ∈ q.cores, dieOf c = 0) ∧ orderOk 1 [0] ∧
     tieOk q 1 (some 7) ∧ regionFits q (paOf 3 0x100000) (({ nn := 1, logNb := 4 } : DSpace).bytes) (fun h => dieOf h = 0)) ∧
    (let s : State := { dealing (fun p => { p with lspaces := [], dspaces := p.dspaces.map fun e => (e.1, e.2.map fun d => { d with tied := some 7 }) })
       with bootStat := 3 }
     let q := s.part 0
     (q.dspaces.get none 0).map (fun d => (d.tied, d.nv)) = some (some 7, 4) ∧ (∀ e ∈ q.lspaces, e.2.isNone) ∧
     regionFits q (paOf 3 0) (0x140 + 64 * 65534) (fun _ => true) ∧ paOff (paOf 3 0) + (0x140 + 64 * 65534) ≤ 0xF000000) := by
  decide +kernel

/-! ## Frames and the invariant -/

theorem wit_FrameOfResults : Instr.port (.alAdd (tw .x)) = some 0x108 ∧ unitOf 0x108 = some uAl ∧
    ((demo .x id).begins (.alAdd (tw .x))).isSome ∧ (match exec (.alAdd (tw .x)) (demo .x id) with
      | .next _ => true
      | _ => false) = true := by decide +kernel

theorem wit_FrameOfStores :
    (let r : Req := { loc := .mem 64, kind := .store [1] [] }
     (asking r).reqs[0]? = some r ∧ (match exec (.homeRequest 0) (asking r) with
       | .next t => decide (t.memByte 64 = 1 ∧ t.memByte 65 = 0)
       | _ => false) = true) ∧
    (match exec (.atomicEngineGrant 0) (asking atomic0) with
      | .next _ => true
      | _ => false) = true ∧
    (match exec (.agStd (tw .a)) (demo .a (ported [(0x500, 0x1000000000040), (0x501, 7)])) with
      | .next t => decide ((t.core 0).spad.get 0 0x40 = 7 ∧ (t.core 0).spad.get 0 0x41 = 0)
      | _ => false) = true := by decide +kernel

theorem wit_MemoryStaysCanonical : Memory.wf State.reset.mem ∧ NMap.wf (0 : Tag) State.reset.mtags ∧
    NMap.wf GStat.clean State.reset.mstat ∧ (match step fetching with
      | .next _ => true
      | _ => false) = true := by decide +kernel

end Sys2Proof.Tests
end

section
/-! PROOFS. What reset leaves (O59). -/

namespace Sys2Proof.Machine

/-- Settles O59: the state after reset lists nothing, so that every register reads its default. -/
theorem reset : Obligations.Reset := by
  refine ⟨NMap.wf_nil _, fun a => rfl, fun n => ⟨rfl, rfl⟩, fun c => ?_, fun p => rfl, rfl, rfl, rfl,
    fun k => ⟨rfl, rfl, rfl⟩, fun p => rfl⟩
  exact ⟨rfl, rfl, rfl, fun o => rfl, fun n => rfl, fun b => rfl, fun i => rfl, fun i => rfl, fun r => ⟨rfl, rfl, rfl⟩,
    fun n => rfl, rfl, rfl, rfl⟩

end Sys2Proof.Machine
end

section
/-! PROOFS. Register writes and what they come to (O37): each operation of a register row said once, and the statement from
them. -/

namespace Sys2Proof.Machine

/-- A field at the bottom of a dword, kept at its own width. -/
theorem ofNat_dfield_low (v : Dword) (n : Nat) : BitVec.ofNat (n + 1) (dfield v n 0) = v.setWidth (n + 1) := by
  apply BitVec.eq_of_toNat_eq; simp [dfield, field]

/-- A field of a dword, kept at its own width. -/
theorem ofNat_dfield (v : Dword) (lo n : Nat) : BitVec.ofNat (n + 1) (dfield v (lo + n) lo) = v.extractLsb' lo (n + 1) := by
  apply BitVec.eq_of_toNat_eq
  simp [dfield, field, Nat.shiftRight_eq_div_pow]

/-- A refused operation raises its trap in its running writer. -/
theorem State.written_refused {s : State} {c : Nat} {t : Trap} (h : (s.core c).task.isSome = true) :
    State.written (s, some t) c = s.raise c .x t := by simp [State.written, h]

theorem State.bufDeclareOp_admitted {s : State} {c n : Nat} {v : Dword}
    (h : (s.core c).declareBad n (dfield v 19 0) (dfield v 35 20) = false) :
    s.bufDeclareOp c n v = (s.updCtx c fun k => { k with bufs := k.bufs.set {} n {
      base := v.setWidth 20, len := v.extractLsb' 20 16, fmt := v.extractLsb' 40 5 } }, none) := by
  have hb := ofNat_dfield_low v 19
  have hl := ofNat_dfield v 20 15
  have hf := ofNat_dfield v 40 4
  simp only [Nat.reduceAdd] at hb hl hf
  rw [State.bufDeclareOp, if_neg (by simp [h]), hb, hl, hf]

theorem State.bufDeclareOp_refused {s : State} {c n : Nat} {v : Dword}
    (h : (s.core c).declareBad n (dfield v 19 0) (dfield v 35 20) = true) :
    s.bufDeclareOp c n v = (s, some (bufRefusal n)) := by simp [State.bufDeclareOp, h]

/-- The buffer `b` moved to state `st`: a change of state sets CNT to 0 (R97). -/
def Buf.moved (b : Buf) (st : BitVec 2) : Buf := if b.st = st then b else { b with st := st, cnt := 0 }

/-- A descriptor operation that moves a buffer, unless it stands in `bad` (R97, Table 7). -/
theorem exec_bufMove {i : Instr} {c n : Nat} {st : BitVec 2} {bad : Option (BitVec 2)} {s : State} (hn : n < 32)
    (hi : exec i s = .next (s.bufEvent c n (·.bufMove c n st bad))) :
    (bad ≠ some ((s.ctx c).bufs.get {} n).st → exec i s = .next (s.updCtx c fun k =>
      { k with bufs := k.bufs.set {} n (((s.ctx c).bufs.get {} n).moved st) })) ∧
    (bad = some ((s.ctx c).bufs.get {} n).st → (s.core c).task.isSome = true →
      exec i s = .next (s.raise c .x (bufRefusal n))) := by
  rw [hi, State.bufEvent, if_pos hn]
  constructor
  · intro h
    rw [State.bufMove, if_neg h]
    rfl
  · intro h ht
    rw [State.bufMove, if_pos h, State.written_refused ht]

/-- A write of CTLAB (R264). -/
theorem State.sysWrite_ctlab {s s2 : State} {c : Nat} {v : SVal} {u : LTag} (h : s.ctlabOf c v = (s2, none, u)) :
    s.sysWrite c 3 v = (s2.updCtx c fun k => { k with ctlab := u }, none) := by
  cases h
  rfl

theorem exec_returnStackPopRead {c : Nat} {h : Half} {s : State} {es : List RsEntry} {e : RsEntry}
    (hs : ((s.ctx c).stream h).stack = es ++ [e]) : exec (.returnStackPopRead c h) s = .next (s.updCtx c fun k =>
      (k.updStream h fun m => { m with stack := es }).setScalar 0x4BD { v := e.word }) := by
  have hp : (s.ctx c).popOldest h = ((s.ctx c).updStream h fun m => { m with stack := es }, e.word) := by
    simp [Ctx.popOldest, hs]
  change Host.Outcome.next (s.updCtx c fun _ => ((s.ctx c).popOldest h).1.setScalar ctR { v := ((s.ctx c).popOldest h).2 }) = _
  rw [hp]
  rfl

theorem exec_returnStackInsert {c : Nat} {h : Half} {v : Dword} {s : State}
    (hs : ((s.ctx c).stream h).stack.length < 16) : exec (.returnStackInsert c h v) s = .next (s.updCtx c fun k =>
      k.updStream h fun m => { m with stack := m.stack ++ [RsEntry.ofWord v] }) := by
  have hp : (s.ctx c).insertOldest h v =
      (s.ctx c).updStream h fun m => { m with stack := m.stack ++ [RsEntry.ofWord v] } := by
    simp [Ctx.insertOldest, hs, Ctx.updStream]
  change Host.Outcome.next (s.setCore c { s.core c with ctx := (s.ctx c).insertOldest h v }) = _
  rw [hp]
  rfl

/-- A step that is taken back where it would have to wait answers its state where it need not (log entry 52). -/
theorem State.whole_of_wait {s : State} {f : State → State} (h : (f s).wait = false) : s.whole f = f s := by
  simp [State.whole, h]

/-- An access to the management window that takes a write (R345, R380). -/
theorem answers_mgmtWrite {c off : Nat} {v : Dword} {s : State} (hu : (s.port 12).up = true) (hq : s.quotesOnly = false) :
    Answers (.registerWrite true c off (some v)) s ((s.accepted 12).mgmtWrite off v) := by
  have e : s.mgmtAccess off (some v) = (s.accepted 12).mgmtWrite off v := by simp [State.mgmtAccess, hu, hq]
  intro hw
  rw [← e] at hw ⊢
  exact congrArg Host.Outcome.next (State.whole_of_wait (f := (·.mgmtAccess off (some v))) hw)

/-- An effective limit of 1 to 49 becomes 50 (R373). -/
theorem didt_floor (v : Dword) : BitVec.ofNat 16 (if 0 < dfield v 15 0 && dfield v 15 0 < 50 then 50 else dfield v 15 0) =
    if 0 < dfield v 15 0 ∧ dfield v 15 0 < 50 then 50 else v.setWidth 16 := by
  have e := ofNat_dfield_low v 15
  by_cases h : 0 < dfield v 15 0 ∧ dfield v 15 0 < 50
  · simp [h]
  · rw [if_neg (by simpa using h), if_neg h]; exact e

@[simp] theorem State.accepted_evRing (s : State) (p : Nat) : (s.accepted p).evRing = s.evRing := rfl
@[simp] theorem State.accepted_wait (s : State) (p : Nat) : (s.accepted p).wait = s.wait := rfl

/-- A reply goes out where the host port is up with room in its replay buffer. -/
theorem State.reply_accepted {s : State} {a : Dword} {bs : List Byte} (hu : (s.port 12).up = true)
    (hr : (s.port 12).replay.length < 256) (hw : s.wait = false) :
    (((s.accepted 12).reply a bs).wait = false) ∧ ((s.accepted 12).reply a bs).outRead = bs ∧
      ((s.accepted 12).reply a bs).outErr = false := by
  refine ⟨?_, rfl, rfl⟩
  have hu' : ((s.accepted 12).port 12).up = true := by simp [State.accepted, hu]
  have hr' : ¬ 256 ≤ ((s.accepted 12).port 12).replay.length := by simp [State.accepted]; omega
  simp [State.reply, State.sendHost, hu', hr', State.updPort, hw]

/-- A read in the management window that the device answers (R345, R380). -/
theorem exec_mgmtRead {c off : Nat} {s : State} (hu : (s.port 12).up = true) (hr : (s.port 12).replay.length < 256)
    (hw : s.wait = false) (ho : off = 0xF00 ∨ s.quotesOnly = false) :
    ∃ t, exec (.registerWrite true c off none) s = .next t ∧ t.outRead = bytesOf 8 (s.mgmtRead off).toNat ∧
      t.outErr = false := by
  obtain ⟨h1, h2, h3⟩ := State.reply_accepted (a := BitVec.ofNat 64 off) (bs := bytesOf 8 (s.mgmtRead off).toNat) hu hr hw
  have e : s.mgmtAccess off none = (s.accepted 12).reply (BitVec.ofNat 64 off) (bytesOf 8 (s.mgmtRead off).toNat) := by
    rcases ho with rfl | ho <;> simp [State.mgmtAccess, *]
  exact ⟨s.mgmtAccess off none, congrArg Host.Outcome.next (State.whole_of_wait (f := (·.mgmtAccess off none)) (e ▸ h1)),
    by rw [e, h2], by rw [e, h3]⟩

/-- What the registers of the management window read (R345, R352, R354, R355, R380). -/
theorem mgmtRead_ports {s : State} (hq : s.quotesOnly = false) {p : Nat} (hp : p < 13) :
    s.mgmtRead (0x100 + 16 * p) = (s.port p).stat ∧ s.mgmtRead (0x108 + 16 * p) = 0 := by
  constructor
  · have e : (256 + 16 * p - 256) / 16 = p := by omega
    unfold State.mgmtRead
    have h : (256 + 16 * p) % 8 = 0 := by omega
    rw [if_neg (by omega), if_neg (by simp [hq, h]), if_neg (by simp; omega), if_neg (by simp; omega),
      if_neg (by simp; omega), if_pos (by simp; omega), if_pos (by omega), e]
  · unfold State.mgmtRead
    have h : (264 + 16 * p) % 8 = 0 := by omega
    rw [if_neg (by omega), if_neg (by simp [hq, h]), if_neg (by simp; omega), if_neg (by simp; omega),
      if_neg (by simp; omega), if_pos (by simp; omega), if_neg (by omega)]

theorem mgmtRead_stack {s : State} (hq : s.quotesOnly = false) {k : Nat} (hk : k < 8) :
    s.mgmtRead (0x200 + 8 * k) = (s.stk k).stat := by
  have h : (512 + 8 * k) % 8 = 0 := by omega
  have e : (512 + 8 * k - 512) / 8 = k := by omega
  unfold State.mgmtRead
  rw [if_neg (by omega), if_neg (by simp [hq, h]), if_neg (by simp; omega), if_neg (by simp; omega),
    if_neg (by simp; omega), if_neg (by simp; omega), if_pos (by simp; omega), e]

/-- A write of XLINV, which is ignored while BUSY is 1 and with KIND 3 (R93). -/
theorem State.partWrite_xlinv (s : State) (p : Nat) (v : Dword) : s.partWrite p 0x14 v =
    if dfield v 2 1 = 3 || (s.part p).xlBusy then s
    else s.updPart p fun q => { q with
      xlBusy := dfield v 0 0 = 1, xlKind := BitVec.ofNat 2 (dfield v 2 1), xlVpn := BitVec.ofNat 32 (dfield v 47 16) } := rfl

theorem exec_xlinvWrite {p : Nat} {v : Dword} {s : State} (hb : (s.part p).xlBusy = false) (hk : dfield v 2 1 ≠ 3) :
    exec (.xlinvWrite p v) s = .next (s.updPart p fun q => { q with
      xlBusy := dfield v 0 0 = 1, xlKind := v.extractLsb' 1 2, xlVpn := v.extractLsb' 16 32 }) := by
  have e1 := ofNat_dfield v 1 1
  have e2 := ofNat_dfield v 16 31
  simp only [Nat.reduceAdd] at e1 e2
  change Host.Outcome.next (s.partWrite p 0x14 v) = _
  rw [State.partWrite_xlinv, if_neg (by simp [hb, hk]), e1, e2]

/-- Every value of a canonical store changed in place by `f`, which keeps the default. -/
theorem NMap.get_foldl_set {α : Type} [DecidableEq α] (d : α) (f : α → α) (l m : NMap α) (k : Nat)
    (hw : l.Pairwise fun e e' => e.1 < e'.1) :
    (l.foldl (fun m e => m.set d e.1 (f e.2)) m).get d k = if k ∈ l.map (·.1) then f (l.get d k) else m.get d k := by
  induction l generalizing m with
  | nil => simp
  | cons e l ih =>
    obtain ⟨i, v⟩ := e
    obtain ⟨h1, h2⟩ := List.pairwise_cons.mp hw
    rw [List.foldl_cons, ih _ h2]
    by_cases hk : k = i
    · subst k
      have : i ∉ l.map (·.1) := by
        intro h
        obtain ⟨e, he, hi⟩ := List.mem_map.mp h
        have := h1 e he
        simp at this; omega
      rw [if_neg this, NMap.get_set_self]
      simp [NMap.get]
    · rw [NMap.get_set_ne _ _ _ hk]
      by_cases hm : k ∈ l.map (·.1)
      · have : i < k := by
          obtain ⟨e, he, hi⟩ := List.mem_map.mp hm
          have := h1 e he
          simp at this hi; omega
        rw [if_pos hm, if_pos (by simp [hm])]
        simp only [NMap.get]
        rw [if_neg (by omega), if_neg (by omega)]
      · rw [if_neg hm, if_neg (by simpa [hk] using hm)]

theorem NMap.get_of_not_mem {α : Type} (d : α) (m : NMap α) (k : Nat) (h : k ∉ m.map (·.1)) : m.get d k = d := by
  induction m with
  | nil => rfl
  | cons e m ih =>
    obtain ⟨i, v⟩ := e
    simp only [List.map_cons, List.mem_cons, not_or] at h
    simp only [NMap.get, if_neg (Ne.symm h.1)]
    split
    · rfl
    · exact ih h.2

/-- The same in the store itself. -/
theorem NMap.get_foldl_set_self {α : Type} [DecidableEq α] (d : α) (f : α → α) (hd : f d = d) (m : NMap α)
    (hw : NMap.wf d m = true) (k : Nat) : (m.foldl (fun m e => m.set d e.1 (f e.2)) m).get d k = f (m.get d k) := by
  rw [NMap.get_foldl_set d f m m k ((NMap.wf_iff d m).mp hw).1]
  split
  · rfl
  · rw [NMap.get_of_not_mem d m k ‹_›, hd]

/-- XLINV_COMPLETE leaves no named entry in any cache, and clears BUSY (R93). -/
theorem exec_xlinvComplete {p : Nat} {s : State} (hb : (s.part p).xlBusy = true) :
    ∃ t, exec (.xlinvComplete p) s = .next t ∧ (t.part p).xlBusy = false ∧
    (NMap.wf ({} : Core) s.cores → ∀ c, (t.core c).tlb = (s.core c).tlb.filter fun x => !x.dropped p (s.part p)) ∧
    (NMap.wf ({} : Cluster) s.clusters → ∀ k, (t.cluster k).tlb = (s.cluster k).tlb.filter fun x => !x.dropped p (s.part p)) := by
  obtain ⟨x, hx⟩ : ∃ x, s.parts.get none p = some x := by
    cases h : s.parts.get none p with
    | none => simp [State.part, h] at hb
    | some x => exact ⟨x, rfl⟩
  refine ⟨_, if_neg (by simp [hb]), ?_, ?_, ?_⟩
  · exact congrArg Part.xlBusy (State.part_updPart (x := x) _ p _ (by exact hx))
  · intro hw c
    rw [State.core_updPart]
    exact congrArg Core.tlb (NMap.get_foldl_set_self {}
      (fun k : Core => { k with tlb := k.tlb.filter fun t => !t.dropped p (s.part p) }) rfl s.cores hw c)
  · intro hw k
    rw [State.cluster, State.updPart_clusters]
    exact congrArg Cluster.tlb (NMap.get_foldl_set_self {}
      (fun k : Cluster => { k with tlb := k.tlb.filter fun t => !t.dropped p (s.part p) }) rfl s.clusters hw k)

/-- Settles O37, clause by clause: each write by what its operation answers, the completed invalidation by induction on the
listed caches. -/
theorem registerEvents : Obligations.RegisterEvents := by
  refine ⟨fun c n v s hn hb => ?_, fun c n v s hn hb ht => ?_, ?_, fun c v s => rfl, fun c b v s hb => ?_,
    fun c v t s s2 u hc => ?_, fun c h s es e hs => exec_returnStackPopRead hs, fun c h v s hs => exec_returnStackInsert hs,
    fun c v s => ⟨rfl, rfl, fun hu hq => ⟨answers_mgmtWrite hu hq, ?_⟩⟩, fun c off x s hu hr hw h => ?_,
    fun p v s hb hk => exec_xlinvWrite hb hk, fun p s hb => exec_xlinvComplete hb⟩
  · change Host.Outcome.next (s.bufEvent c n (·.bufDeclareOp c n v)) = _
    rw [State.bufEvent, if_pos hn, State.bufDeclareOp_admitted hb]
    rfl
  · change Host.Outcome.next (s.bufEvent c n (·.bufDeclareOp c n v)) = _
    rw [State.bufEvent, if_pos hn, State.bufDeclareOp_refused hb, State.written_refused ht]
  · intro e he c n s hn
    simp only [List.mem_cons, List.not_mem_nil, or_false] at he
    rcases he with rfl | rfl | rfl
    · obtain ⟨h1, -⟩ := exec_bufMove (i := .bufReset c n) (st := 0) (bad := none) hn rfl
      exact ⟨fun _ => h1 (by simp), by simp⟩
    · obtain ⟨h1, h2⟩ := exec_bufMove (i := .bufSetfull c n) (st := 2) (bad := some 3) hn rfl
      exact ⟨fun h => h1 (by simpa [eq_comm] using h), fun h => h2 (by simpa [eq_comm] using h)⟩
    · obtain ⟨h1, h2⟩ := exec_bufMove (i := .bufSetempty c n) (st := 0) (bad := some 1) hn rfl
      exact ⟨fun h => h1 (by simpa [eq_comm] using h), fun h => h2 (by simpa [eq_comm] using h)⟩
  · change Host.Outcome.next (if b < 20 then s.updCore c (·.writeBfmt b v) else s) = _
    rw [if_pos hb]
    rfl
  · change Host.Outcome.next (State.written (s.sysWrite c 3 { v := v, t := t }) c) = _
    rw [State.sysWrite_ctlab hc]
    rfl
  · have h := answers_mgmtWrite (c := c) (off := 0x060) (v := v) hu hq
    simp only [State.mgmtWrite, didt_floor v] at h
    exact h
  · have hx : x = s.mgmtRead off ∧ (off = 0xF00 ∨ s.quotesOnly = false) := by
      rcases h with ⟨rfl, rfl⟩ | ⟨hq, h⟩
      · exact ⟨rfl, .inl rfl⟩
      · refine ⟨?_, .inr hq⟩
        rcases h with ⟨rfl, rfl⟩ | ⟨p, hp, ⟨rfl, rfl⟩ | ⟨rfl, rfl⟩⟩ | ⟨k, hk, rfl, rfl⟩
        · simp [State.mgmtRead, hq, Ring.dword]
        · exact (mgmtRead_ports hq hp).1.symm
        · exact (mgmtRead_ports hq hp).2.symm
        · exact (mgmtRead_stack hq hk).symm
    rw [hx.1]
    exact exec_mgmtRead hu hr hw hx.2

end Sys2Proof.Machine
end

section
/-! PROOFS. Every step keeps memory canonical (O60).

The invariant is `State.Canon`: home memory, its tags and its error marks are each in canonical form. Only six operations write
them: `memWrite`, `setMemTag`, `setMemStat`, `wipeRange`, `wipeHomes` and `loseTop`; `NMap.wf_set`, `NMap.wf_filter` and
`Memory.wf_write` say why these keep it. Each other function that gives a state has one rule, `State.Canon.<function>` or
`<function>_canon`, in the order of the model: along the branches of the function, by the rules of the functions that it calls. -/

namespace Sys2Proof.Machine

/-! ## The invariant -/

/-- Home memory, its tags and its error marks in canonical form (R8, R100, R368; log entry 48). -/
def Canonical (m : List Host.Cell) (t : NMap Tag) (g : NMap GStat) : Prop :=
  Memory.wf m = true ∧ NMap.wf (0 : Tag) t = true ∧ NMap.wf GStat.clean g = true

/-- The invariant of the machine. -/
def State.Canon (s : State) : Prop := Canonical s.mem s.mtags s.mstat

/-- The invariant in what a trigger leaves. -/
def Fired.Canon : Fired → Prop
  | .done s _ => s.Canon
  | .hold s => s.Canon
  | .stall => True
  | .trap _ _ => True

/-- The invariant in what a send leaves. -/
def SendOut.Canon : SendOut → Prop
  | .sent s => s.Canon
  | .wait s => s.Canon
  | .trap _ => True

/-- The invariant in what a group leaves on a member. -/
def Member.Canon : Member → Prop
  | .done s _ _ => s.Canon
  | .stall s => s.Canon
  | .trap _ => True

/-- The invariant in what a fetch leaves. -/
def Fetched.Canon : Fetched → Prop
  | .quiet s => s.Canon
  | .word _ s => s.Canon
  | .bad => True

/-- The invariant in what an instruction or an event leaves. -/
def OutcomeCanon : Host.Outcome State Fault Refusal → Prop
  | .next s => s.Canon
  | .fault _ => True
  | .refused _ => True

variable {s : State}

theorem ite_canon {p : Prop} [Decidable p] {t u : State} (ht : t.Canon) (hu : u.Canon) : (if p then t else u).Canon := by
  split <;> assumption

theorem ite_fst_canon {β : Type} {p : Prop} [Decidable p] {r q : State × β} (hr : r.1.Canon) (hq : q.1.Canon) :
    (if p then r else q).1.Canon := by
  split <;> assumption

theorem State.Canon.fst {β : Type} {r : State × β} (hr : r.1.Canon) {t : State} {b : β} (e : r = (t, b)) : t.Canon := by
  rw [e] at hr
  exact hr

/-- A state that holds the memory of `s`. -/
theorem State.Canon.keep (hs : s.Canon) {t : State}
    (h : (t.mem, t.mtags, t.mstat) = (s.mem, s.mtags, s.mstat) := by rfl) : t.Canon := by
  simp only [Prod.mk.injEq] at h
  obtain ⟨hm, ht, hg⟩ := h
  rw [State.Canon, hm, ht, hg]
  exact hs

theorem SendOut.Canon.ite {p : Prop} [Decidable p] {a b : SendOut} (ha : a.Canon) (hb : b.Canon) :
    (if p then a else b).Canon := by
  split <;> assumption

theorem Fetched.Canon.ite {p : Prop} [Decidable p] {a b : Fetched} (ha : a.Canon) (hb : b.Canon) :
    (if p then a else b).Canon := by
  split <;> assumption

theorem OutcomeCanon.ite {p : Prop} [Decidable p] {a b : Host.Outcome State Fault Refusal} (ha : OutcomeCanon a)
    (hb : OutcomeCanon b) : OutcomeCanon (if p then a else b) := by
  split <;> assumption

theorem Fired.Canon.ite {p : Prop} [Decidable p] {a b : Fired} (ha : a.Canon) (hb : b.Canon) :
    (if p then a else b).Canon := by
  split <;> assumption

theorem foldl_canon {α : Type} {f : State → α → State} (hf : ∀ s a, s.Canon → (f s a).Canon) (l : List α) (hs : s.Canon) :
    (l.foldl f s).Canon :=
  List.foldlRecOn (motive := State.Canon) l f hs fun s hs a _ => hf s a hs

theorem foldl_fst_canon {α β : Type} {f : State × β → α → State × β} (hf : ∀ r a, r.1.Canon → (f r a).1.Canon) (l : List α)
    {r : State × β} (hr : r.1.Canon) : (l.foldl f r).1.Canon :=
  List.foldlRecOn (motive := fun r => r.1.Canon) l f hr fun r hr a _ => hf r a hr

/-- A state whose memory is part of `s`'s. -/
theorem State.Canon.filter (hs : s.Canon) {t : State} {p : Nat × Byte → Bool} {q : Nat × Tag → Bool} {r : Nat × GStat → Bool}
    (h : t.mem = s.mem.filter p ∧ t.mtags = s.mtags.filter q ∧ t.mstat = s.mstat.filter r) : t.Canon := by
  obtain ⟨hm, ht, hg⟩ := hs
  obtain ⟨em, et, eg⟩ := h
  rw [State.Canon, em, et, eg]
  exact ⟨NMap.wf_filter _ _ _ hm, NMap.wf_filter _ _ _ ht, NMap.wf_filter _ _ _ hg⟩

/-! ## The state -/

theorem State.Canon.reset : State.reset.Canon := ⟨rfl, rfl, rfl⟩

/-! ## Operations on the state -/

theorem State.Canon.setCore (hs : s.Canon) (c k) : (s.setCore c k).Canon := hs

theorem State.Canon.updCore (hs : s.Canon) (c f) : (s.updCore c f).Canon := hs.setCore ..

theorem State.Canon.updCtx (hs : s.Canon) (c f) : (s.updCtx c f).Canon := hs.updCore ..

theorem State.Canon.setPart (hs : s.Canon) (p v) : (s.setPart p v).Canon := hs

theorem State.Canon.updPart (hs : s.Canon) (p f) : (s.updPart p f).Canon := by
  unfold State.updPart
  split
  · exact hs.setPart ..
  · exact hs

theorem State.Canon.updCluster (hs : s.Canon) (k f) : (s.updCluster k f).Canon := hs

theorem State.Canon.updDie (hs : s.Canon) (d f) : (s.updDie d f).Canon := hs

theorem State.Canon.updStk (hs : s.Canon) (k f) : (s.updStk k f).Canon := hs

theorem State.Canon.updPort (hs : s.Canon) (p f) : (s.updPort p f).Canon := hs

theorem State.Canon.updInst (hs : s.Canon) (p i f) : (s.updInst p i f).Canon := hs.updPart ..

theorem State.Canon.updNode (hs : s.Canon) (p i n f) : (s.updNode p i n f).Canon := hs.updInst ..

theorem State.Canon.choose (hs : s.Canon) : (s.choose).2.Canon := by
  unfold State.choose
  split <;> exact hs

theorem State.Canon.freeDword (hs : s.Canon) : (s.freeDword).2.Canon := hs

theorem State.Canon.newId (hs : s.Canon) : (s.newId).2.Canon := hs

theorem State.Canon.memWrite (hs : s.Canon) (pa bs) : (s.memWrite pa bs).Canon := ⟨Memory.wf_write s pa bs hs.1, hs.2⟩

theorem State.Canon.setMemTag (hs : s.Canon) (g t) : (s.setMemTag g t).Canon := ⟨hs.1, NMap.wf_set _ _ _ _ hs.2.1, hs.2.2⟩

theorem State.Canon.setMemStat (hs : s.Canon) (g v) : (s.setMemStat g v).Canon := ⟨hs.1, hs.2.1, NMap.wf_set _ _ _ _ hs.2.2⟩

theorem State.Canon.landDue (hs : s.Canon) (c) : (s.landDue c).Canon := hs.updCtx ..

theorem State.Canon.post (hs : s.Canon) (e) : (s.post e).Canon := ite_canon hs hs

theorem State.Canon.event (hs : s.Canon) (kind die fields) : (s.event kind die fields).Canon := hs.post ..

theorem State.Canon.sendHost (hs : s.Canon) (q) : (s.sendHost q).Canon := ite_canon hs (hs.updPort ..)

theorem State.Canon.accepted (hs : s.Canon) (p) : (s.accepted p).Canon := hs.updPort ..

theorem State.Canon.reply (hs : s.Canon) (a bs) : (s.reply a bs).Canon := hs.sendHost ..

theorem State.Canon.replyError (hs : s.Canon) (a) : (s.replyError a).Canon := hs.sendHost ..

theorem State.Canon.sampled (hs : s.Canon) (src c n) : (s.sampled src c n).Canon := hs

theorem State.Canon.observe (hs : s.Canon) (src c t) : (s.observe src c t).Canon := hs.sampled ..

theorem State.Canon.whole {f : State → State} (hs : s.Canon) (hf : (f s).Canon) : (s.whole f).Canon := ite_canon hs hf

theorem State.Canon.turnFor (hs : s.Canon) (k place) : (s.turnFor k place).Canon := ite_canon hs (ite_canon hs (hs.updCore ..))

theorem State.Canon.remoteTurn (hs : s.Canon) (k) : (s.remoteTurn k).Canon := hs.choose.turnFor ..

theorem State.Canon.lastTurn (hs : s.Canon) (k) : (s.lastTurn k).Canon := hs.updCore ..

theorem State.Canon.haltGang (hs : s.Canon) (c a) : (s.haltGang c a).Canon := by
  unfold State.haltGang
  dsimp only
  split
  · exact hs
  · exact foldl_canon (fun _ _ h => h.updCore ..) _ (hs.updCore ..)

theorem State.Canon.raiseRow (hs : s.Canon) (row h ts) : (s.raiseRow row h ts).Canon := by
  unfold State.raiseRow
  split
  · exact foldl_canon (fun _ _ h => h.updCtx ..) _ hs
  · exact foldl_canon (fun _ _ h => h.haltGang ..) _ hs

theorem State.Canon.raise (hs : s.Canon) (c h t) : (s.raise c h t).Canon := hs.raiseRow ..

theorem State.Canon.endTask (hs : s.Canon) (t code) : (s.endTask t code).Canon := hs.updNode ..

theorem State.Canon.sendEnd (hs : s.Canon) (c t) : (s.sendEnd c t).Canon := (ite_canon (hs.updCore ..) hs).endTask ..

theorem State.Canon.tookGone (hs : s.Canon) (c t) : (s.tookGone c t).Canon := ite_canon hs hs

theorem State.Canon.trapEntry (hs : s.Canon) (c) : (s.trapEntry c).Canon := by
  grind [State.trapEntry, sendEnd, tookGone, setCore, updCtx, event]

/-! ## Label and diagram spaces -/

theorem State.Canon.putLrun (hs : s.Canon) (p sp x) : (s.putLrun p sp x).Canon := hs.updPart ..

theorem State.Canon.label {α : Type} (hs : s.Canon) (p) (sp) (d : α) (f : LRun → LRun × α) : (s.label p sp d f).1.Canon := by
  unfold State.label
  split
  · exact hs
  · exact hs.putLrun ..

theorem State.Canon.resolveTags (hs : s.Canon) (p sp t) : (s.resolveTags p sp t).1.Canon := by
  unfold State.resolveTags
  split
  · exact hs
  · exact hs
  · exact hs.label ..

theorem State.Canon.hiddenTag (hs : s.Canon) (p sp t) : (s.hiddenTag p sp t).1.Canon :=
  ite_fst_canon hs (ite_fst_canon hs (hs.label ..))

/-! ## Addresses and home memory -/

theorem State.Canon.correct (hs : s.Canon) (pa) : (s.correct pa).Canon := by
  unfold State.correct
  split
  · exact (hs.setMemStat ..).updDie ..
  · exact hs

theorem State.Canon.readHome (hs : s.Canon) (key pa len a) : (s.readHome key pa len a).1.Canon := by
  unfold State.readHome
  split
  · exact hs
  split
  · exact hs
  · exact hs.correct ..

theorem State.Canon.readEntry (hs : s.Canon) (p table i a) : (s.readEntry p table i a).1.Canon := by
  unfold State.readEntry
  dsimp only
  split
  · exact hs
  split
  · rename_i e
    exact (hs.readHome ..).fst e
  · rename_i e
    exact (hs.readHome ..).fst e

theorem State.Canon.walk (hs : s.Canon) (p va a) : (s.walk p va a).1.Canon := by
  unfold State.walk
  split
  · rename_i e
    exact (hs.readEntry ..).fst e
  rename_i e
  have h1 := (hs.readEntry ..).fst e
  split
  · exact h1
  split
  · rename_i e
    exact (h1.readEntry ..).fst e
  rename_i e
  have h2 := (h1.readEntry ..).fst e
  split
  · exact h2
  split
  · exact h2
  split
  · rename_i e
    exact (h2.readEntry ..).fst e
  · rename_i e
    exact (h2.readEntry ..).fst e

theorem State.Canon.leafFor (hs : s.Canon) (c part va a) : (s.leafFor c part va a).1.Canon := by
  unfold State.leafFor
  dsimp only
  split
  · exact hs
  split
  · exact hs.updCore ..
  split
  · rename_i e
    exact (hs.walk ..).fst e
  rename_i e
  have h1 := (hs.walk ..).fst e
  exact ite_fst_canon h1 ((h1.updCore ..).updCluster ..)

theorem State.Canon.translate (hs : s.Canon) (c part kind a) : (s.translate c part kind a).1.Canon := by
  unfold State.translate
  dsimp only
  split
  · rename_i e
    exact (hs.leafFor ..).fst e
  rename_i e
  have h1 := (hs.leafFor ..).fst e
  split <;> exact h1

theorem State.Canon.locate (hs : s.Canon) (c t kind a) : (s.locate c t kind a).1.Canon := by
  unfold State.locate
  split
  · exact hs
  · exact ite_fst_canon hs (ite_fst_canon hs hs)
  split
  · rename_i e
    exact (hs.translate ..).fst e
  · rename_i e
    exact (hs.translate ..).fst e

theorem State.Canon.joinFor (hs : s.Canon) (c t) : (s.joinFor c t).1.Canon := hs.resolveTags ..

theorem State.Canon.seal (hs : s.Canon) (key g) : (s.seal key g).Canon := hs

theorem State.Canon.writeHome (hs : s.Canon) (c key pa bs t a) : (s.writeHome c key pa bs t a).1.Canon := by
  unfold State.writeHome
  dsimp only
  split
  · exact hs
  split
  · exact hs
  split
  · rename_i e
    exact ((ite_canon hs (hs.correct ..)).joinFor ..).fst e
  · rename_i e
    exact ((((((ite_canon hs (hs.correct ..)).joinFor ..).fst e).memWrite ..).setMemTag ..).setMemStat ..).seal ..

theorem State.Canon.rawWrite (hs : s.Canon) (pa bs t) : (s.rawWrite pa bs t).Canon := by
  unfold State.rawWrite
  extract_lets s1
  have h1 : s1.Canon := ((hs.memWrite ..).setMemTag ..).setMemStat ..
  exact h1

theorem State.Canon.copyOld (hs : s.Canon) (k g) : (s.copyOld k g).Canon := by
  unfold State.copyOld
  dsimp only
  split
  · exact hs
  · exact ite_canon hs ((hs.rawWrite ..).updCore ..)

theorem State.Canon.writeSpad (hs : s.Canon) (c k off bs t a) : (s.writeSpad c k off bs t a).1.Canon := by
  unfold State.writeSpad
  dsimp only
  split
  · exact hs
  split
  · rename_i e
    exact (hs.joinFor ..).fst e
  · rename_i e
    exact (((hs.joinFor ..).fst e).copyOld ..).updCore ..

theorem State.Canon.writeSpadAll (hs : s.Canon) (c k t a xs xs') : (s.writeSpadAll c k t a xs xs').1.Canon := by
  induction xs generalizing s a xs' with
  | nil => exact hs
  | cons x xs ih => grind [State.writeSpadAll, writeSpad]

theorem State.Canon.readLoc (hs : s.Canon) (c key l len a) : (s.readLoc c key l len a).1.Canon := by
  unfold State.readLoc
  split
  · exact hs.readHome ..
  split
  · exact hs
  · exact hs.updCtx ..

theorem State.Canon.writeLoc (hs : s.Canon) (c key l bs t a) : (s.writeLoc c key l bs t a).1.Canon := by
  unfold State.writeLoc
  split
  · exact hs.writeHome ..
  split
  · exact hs
  · exact (hs.writeSpadAll ..).updCtx ..

theorem State.Canon.locateAll (hs : s.Canon) (c t kind xs) : (s.locateAll c t kind xs).1.Canon := by
  induction xs generalizing s with
  | nil => exact hs
  | cons x xs ih => grind [State.locateAll, locate]

theorem State.Canon.place (hs : s.Canon) (c t kind a len) : (s.place c t kind a len).1.Canon := by
  unfold State.place
  dsimp only
  split
  · exact hs
  · exact hs.locateAll ..

theorem State.Canon.applied (hs : s.Canon) (d o v) : (s.applied d o v).Canon := hs.updDie ..

theorem State.Canon.noteVec (hs : s.Canon) (v d o) : (s.noteVec v d o).Canon := by
  unfold State.noteVec
  split
  · exact hs.applied ..
  · exact hs

theorem State.Canon.stamp (hs : s.Canon) (c l) : (s.stamp c l).1.Canon := ite_fst_canon hs (hs.updDie ..)

theorem State.Canon.crossWrite (hs : s.Canon) (c l) : (s.crossWrite c l).Canon := by
  unfold State.crossWrite
  split
  · rename_i e
    exact (hs.stamp ..).fst e
  rename_i e
  have h1 := (hs.stamp ..).fst e
  exact ite_canon h1 (h1.applied ..)

/-! ## Operands -/

theorem Trig.result_canon (hs : s.Canon) (x L ws tags flags fp) : (Trig.result x s L ws tags flags fp).Canon := hs.updCtx ..

theorem Trig.resultV_canon (hs : s.Canon) (x L ws tags flags fp) : (Trig.resultV x s L ws tags flags fp).Canon := hs.updCtx ..

theorem Trig.muckResult_canon (hs : s.Canon) (x ports) : (Trig.muckResult x s ports).Canon := hs.updCtx ..

/-! ## System registers -/

theorem State.Canon.sysRead (hs : s.Canon) (c n) : (s.sysRead c n).1.Canon := by
  unfold State.sysRead
  dsimp only
  split
  iterate 13 exact hs
  · exact hs.updCtx ..
  · exact hs.updCtx ..
  · exact hs
  · exact ite_fst_canon hs (ite_fst_canon hs (ite_fst_canon hs (ite_fst_canon hs (ite_fst_canon hs hs))))

theorem State.Canon.partWrite (hs : s.Canon) (p n v) : (s.partWrite p n v).Canon := by
  unfold State.partWrite
  dsimp only
  split
  · exact hs.updPart ..
  · exact hs.updPart ..
  · exact ite_canon (hs.updPart ..) hs
  · exact hs.updPart ..
  · exact ite_canon hs (hs.updPart ..)
  iterate 4 exact hs.updPart ..
  · exact ite_canon (hs.updPart ..) hs
  · exact hs.updPart ..

theorem State.Canon.bufDeclareOp (hs : s.Canon) (c n v) : (s.bufDeclareOp c n v).1.Canon := ite_fst_canon hs (hs.updCtx ..)

theorem State.Canon.bufMove (hs : s.Canon) (c n to_ bad) : (s.bufMove c n to_ bad).1.Canon := ite_fst_canon hs (hs.updCtx ..)

theorem State.Canon.bufResetOp (hs : s.Canon) (c n) : (s.bufResetOp c n).1.Canon := hs.bufMove ..

theorem State.Canon.bufSetfullOp (hs : s.Canon) (c n) : (s.bufSetfullOp c n).1.Canon := hs.bufMove ..

theorem State.Canon.bufSetemptyOp (hs : s.Canon) (c n) : (s.bufSetemptyOp c n).1.Canon := hs.bufMove ..

theorem State.Canon.bufWrite (hs : s.Canon) (c n v) : (s.bufWrite c n v).1.Canon := by
  unfold State.bufWrite
  split
  · exact hs.bufDeclareOp ..
  · exact hs.bufResetOp ..
  · exact hs.bufSetfullOp ..
  · exact hs.bufSetemptyOp ..

theorem State.Canon.ctlabOf (hs : s.Canon) (c v) : (s.ctlabOf c v).1.Canon := hs

theorem State.Canon.stkAck (hs : s.Canon) (k v) : (s.stkAck k v).Canon := ite_canon (hs.updStk ..) hs

theorem State.Canon.sysWrite (hs : s.Canon) (c n v) : (s.sysWrite c n v).1.Canon := by
  unfold State.sysWrite
  dsimp only
  split
  · exact hs.updCtx ..
  · exact hs.updCtx ..
  · exact ite_canon (hs.ctlabOf ..) ((hs.ctlabOf ..).updCtx ..)
  iterate 3 exact hs.updCtx ..
  iterate 5 exact hs.updCore ..
  · exact hs.updCtx ..
  · exact hs.updCtx ..
  · exact ite_fst_canon (hs.partWrite ..) (ite_fst_canon (hs.updCore ..) (ite_fst_canon (hs.bufWrite ..) (ite_fst_canon
      (hs.stkAck ..) hs)))

/-! ## Portable images -/

theorem State.Canon.devLocate (hs : s.Canon) (p kind a) : (s.devLocate p kind a).1.Canon := by
  unfold State.devLocate
  dsimp only
  split
  · exact hs
  split
  · rename_i e
    exact (hs.walk ..).fst e
  rename_i e
  have h1 := (hs.walk ..).fst e
  split <;> exact h1

theorem State.Canon.devPlaces (hs : s.Canon) (p kind xs) : (s.devPlaces p kind xs).1.Canon := by
  induction xs generalizing s with
  | nil => exact hs
  | cons x xs ih => grind [State.devPlaces, devLocate]

theorem State.Canon.devBytes (hs : s.Canon) (xs) : (s.devBytes xs).1.Canon := by
  induction xs generalizing s with
  | nil => exact hs
  | cons x xs ih => grind [State.devBytes, readHome]

theorem State.Canon.devRead (hs : s.Canon) (p a n) : (s.devRead p a n).1.Canon := by
  unfold State.devRead
  split
  · rename_i e
    exact (hs.devPlaces ..).fst e
  · rename_i e
    exact ((hs.devPlaces ..).fst e).devBytes ..

theorem State.Canon.devFill (hs : s.Canon) (c xs xs') : (s.devFill c xs xs').1.Canon := by
  induction xs generalizing s xs' with
  | nil => exact hs
  | cons x xs ih => grind [State.devFill, crossWrite, writeHome]

theorem State.Canon.devPut (hs : s.Canon) (c ps bs) : (s.devPut c ps bs).1.Canon := by
  unfold State.devPut
  split
  · exact hs
  · exact hs.devFill ..

theorem State.Canon.devWrite (hs : s.Canon) (p a bs) : (s.devWrite p a bs).1.Canon := by
  unfold State.devWrite
  split
  · rename_i e
    exact (hs.devPlaces ..).fst e
  · rename_i e
    exact ((hs.devPlaces ..).fst e).devPut ..

theorem State.Canon.devGranule (hs : s.Canon) (p a) : (s.devGranule p a).1.Canon := by
  unfold State.devGranule
  split
  · rename_i e
    exact (hs.devRead ..).fst e
  · rename_i e
    exact (hs.devRead ..).fst e

theorem State.Canon.recPut (hs : s.Canon) (p n xs) : (s.recPut p n xs).Canon := by
  induction xs generalizing s n with
  | nil => exact hs
  | cons x xs ih => grind [State.recPut, devWrite]

theorem State.Canon.recMark (hs : s.Canon) (p i) : (s.recMark p i).Canon := by
  unfold State.recMark
  split
  · rename_i e
    exact ((hs.devGranule ..).fst e).recPut ..
  · rename_i e
    exact (hs.devGranule ..).fst e

theorem State.Canon.recordIn (hs : s.Canon) (c bs t) : (s.recordIn c bs t).Canon := by
  unfold State.recordIn
  split
  · rename_i r k _ _
    cases e : (s.node k.part k.inst k.node).recFirst <;>
      grind [updNode, recMark, recPut, updPart, updCore]
  · exact hs

theorem State.Canon.inputIn (hs : s.Canon) (c v t) : (s.inputIn c v t).1.Canon := by
  unfold State.inputIn
  split
  · exact hs
  split
  · exact hs.updCore ..
  · exact hs.recordIn ..

theorem State.Canon.refreshDfv (hs : s.Canon) (p) : (s.refreshDfv p).Canon := hs.updPart ..

theorem State.Canon.readDirectory (hs : s.Canon) (p obj i n) : (s.readDirectory p obj i n).1.Canon := by
  induction n generalizing s i with
  | zero => exact hs
  | succ n ih => grind [State.readDirectory, devGranule]

theorem State.Canon.readDecl (hs : s.Canon) (p a) : (s.readDecl p a).1.Canon := by
  unfold State.readDecl
  dsimp only
  split
  · rename_i e
    exact (hs.devRead ..).fst e
  rename_i e
  have h1 := (hs.devRead ..).fst e
  split
  · exact h1
  split
  · rename_i e
    exact (h1.devRead ..).fst e
  rename_i e
  have h2 := (h1.devRead ..).fst e
  exact ite_fst_canon h2 h2

theorem State.Canon.imageOf (hs : s.Canon) (p r obj e) : (s.imageOf p r obj e).1.Canon := by
  unfold State.imageOf
  dsimp only
  split
  · rename_i e
    exact (hs.readDecl ..).fst e
  rename_i e
  have h1 := (hs.readDecl ..).fst e
  split
  · exact h1
  · split <;> exact h1

theorem State.Canon.select (hs : s.Canon) (p r forced) : (s.select p r forced).1.Canon := by
  unfold State.select
  dsimp only
  split
  · rename_i e
    exact (hs.devGranule ..).fst e
  rename_i e
  have h1 := (hs.devGranule ..).fst e
  split
  · exact h1
  split
  · rename_i e
    exact (h1.readDirectory ..).fst e
  rename_i e
  have h2 := (h1.readDirectory ..).fst e
  split
  · exact h2
  split
  · exact h2.imageOf ..
  · exact h2

/-! ## Save areas -/

theorem State.Canon.wipeRange (hs : s.Canon) (lo hi) : (s.wipeRange lo hi).Canon := hs.filter ⟨rfl, rfl, rfl⟩

theorem State.Canon.putArea (hs : s.Canon) (at_ v banks) : (s.putArea at_ v banks).Canon := by
  unfold State.putArea
  extract_lets s1 s2 s3
  have h1 : s1.Canon := hs.wipeRange ..
  have h2 : s2.Canon := foldl_canon (fun _ _ h => ite_canon h (h.memWrite ..)) _ h1
  have h3 : s3.Canon := foldl_canon (fun _ _ h => h.setMemTag ..) _ h2
  exact ite_canon (foldl_canon (fun _ _ h => h.setMemTag ..) _ (foldl_canon (fun _ _ h => h.memWrite ..) _ h3)) h3

theorem State.Canon.putAreas (hs : s.Canon) (c) : (s.putAreas c).Canon := by
  grind [State.putAreas, putArea, foldl_canon]

/-! ## Gangs -/

theorem State.Canon.sendItem (hs : s.Canon) (c t kind addr bs tag req held) : (s.sendItem c t kind addr bs tag req held).Canon :=
  ite_canon hs ((hs.updCore ..).updPart ..)

theorem State.Canon.placeTurn (hs : s.Canon) (c l) : (s.placeTurn c l).Canon := by
  unfold State.placeTurn
  split
  · exact hs
  · exact ite_canon (hs.turnFor ..) (hs.remoteTurn ..)

theorem State.Canon.deliverTurn (hs : s.Canon) (l) : (s.deliverTurn l).Canon := by
  unfold State.deliverTurn
  split
  · exact hs
  · exact hs.lastTurn ..

theorem State.Canon.deliverOne (hs : s.Canon) (h) : (s.deliverOne h).Canon := by
  grind [State.deliverOne, crossWrite, writeLoc, deliverTurn, updCtx]

theorem State.Canon.dropOne (hs : s.Canon) (h) : (s.dropOne h).Canon := hs.updCtx ..

theorem State.Canon.dropHeld (hs : s.Canon) (t) : (s.dropHeld t).Canon :=
  foldl_canon (fun _ _ h => h.dropOne ..) _ (hs.updPart ..)

theorem State.Canon.deliver (hs : s.Canon) (t outward) : (s.deliver t outward).Canon :=
  foldl_canon (fun _ _ h => ite_canon (h.deliverOne ..) (h.dropOne ..)) _ (hs.updPart ..)

theorem State.Canon.overlay (hs : s.Canon) (c id l p) : (s.overlay c id l p).1.Canon := by
  unfold State.overlay
  dsimp only
  split
  · exact hs
  split
  · exact hs
  split
  · rename_i e
    exact (hs.joinFor ..).fst e
  · rename_i e
    exact (hs.joinFor ..).fst e

theorem State.Canon.putMail (hs : s.Canon) (m) : (s.putMail m).Canon := by
  unfold State.putMail
  split
  · exact hs.updCtx ..
  · exact (hs.updCore ..).putAreas ..
  · exact hs

theorem State.Canon.putAllMail (hs : s.Canon) (t) : (s.putAllMail t).Canon := foldl_canon (fun _ _ h => h.putMail ..) _ hs

theorem State.Canon.putSnap (hs : s.Canon) (c) : (s.putSnap c).Canon := by
  unfold State.putSnap
  split
  · exact hs.putArea ..
  · exact hs

theorem State.Canon.takeSnap (hs : s.Canon) (c) : (s.takeSnap c).Canon := by
  unfold State.takeSnap
  dsimp only
  split
  · exact hs.updCore ..
  · exact ite_canon hs ((hs.updCore ..).putSnap ..)

theorem State.Canon.setReleases (hs : s.Canon) (t r) : (s.setReleases t r).Canon := by
  grind [State.setReleases, updCtx, foldl_canon]

theorem State.Canon.endSuperstep (hs : s.Canon) (t outward) : (s.endSuperstep t outward).Canon := by
  unfold State.endSuperstep
  extract_lets s1 s2 s3
  have h1 : s1.Canon := hs.deliver ..
  have h2 : s2.Canon := ite_canon (h1.putAllMail ..) h1
  have h3 : s3.Canon := h2.setReleases ..
  exact ite_canon (foldl_canon (fun _ _ h => h.takeSnap ..) _ h3) h3

theorem State.Canon.nextSuperstep (hs : s.Canon) (t) : (s.nextSuperstep t).Canon := hs.updNode ..

theorem State.Canon.kill (hs : s.Canon) (t cause) : (s.kill t cause).Canon := (hs.event ..).endTask ..

theorem State.Canon.disagree (hs : s.Canon) (t) : (s.disagree t).Canon := by
  grind [State.disagree, updNode, kill, dropHeld, event]

theorem State.Canon.dropItems (hs : s.Canon) (t) : (s.dropItems t).Canon := hs.updPart ..

theorem State.Canon.tryDuplex (hs : s.Canon) (t) : (s.tryDuplex t).Canon :=
  ite_canon hs (ite_canon (hs.disagree ..) (ite_canon ((((hs.dropItems ..).endSuperstep ..).endSuperstep ..).nextSuperstep ..)
    (ite_canon (hs.disagree ..) hs)))

theorem State.Canon.tryRelease (hs : s.Canon) (t rect) : (s.tryRelease t rect).Canon :=
  ite_canon hs (ite_canon (hs.setReleases ..) (ite_canon hs (ite_canon (hs.tryDuplex ..)
    ((hs.endSuperstep ..).nextSuperstep ..))))

theorem State.Canon.arrive (hs : s.Canon) (c t rect sync) : (s.arrive c t rect sync).Canon := (hs.updCtx ..).tryRelease ..

theorem State.Canon.recheck (hs : s.Canon) (t) : (s.recheck t).Canon := by
  unfold State.recheck
  extract_lets rects s1
  have h1 : s1.Canon := foldl_canon (fun _ _ h => h.tryRelease ..) _ hs
  exact ite_canon (h1.tryDuplex ..) h1

/-! ## Graphs -/

theorem State.Canon.partEvent (hs : s.Canon) (p kind fields) : (s.partEvent p kind fields).Canon := hs.event ..

theorem State.Canon.writeStatus (hs : s.Canon) (p n i a v) : (s.writeStatus p n i a v).Canon := by
  refine ite_canon hs ?_
  split
  · rename_i e
    exact (hs.devWrite ..).fst e
  · rename_i e
    exact ((hs.devWrite ..).fst e).partEvent ..

theorem State.Canon.setOver (hs : s.Canon) (p i) : (s.setOver p i).Canon := hs.updInst ..

theorem State.Canon.successors (hs : s.Canon) (p i a n) : (s.successors p i a n).1.Canon := by
  induction n generalizing s a with
  | zero => exact hs
  | succ n ih => grind [State.successors, setOver, devRead]

theorem State.Canon.takeSel (hs : s.Canon) (p i n r forced) : (s.takeSel p i n r forced).1.Canon := by
  unfold State.takeSel
  dsimp only
  split
  · rename_i e
    exact ((hs.select ..).fst e).updNode ..
  · rename_i e
    exact ((hs.select ..).fst e).updNode ..
  · rename_i e
    exact (hs.select ..).fst e

theorem State.Canon.selectNode (hs : s.Canon) (p i n) : (s.selectNode p i n).1.Canon := by
  unfold State.selectNode
  dsimp only
  split
  · rename_i e
    have h1 := (hs.takeSel ..).fst e
    split
    · exact ite_fst_canon h1 (h1.takeSel ..)
    · exact h1
  · rename_i e
    exact (hs.takeSel ..).fst e

theorem State.Canon.nodeReady (hs : s.Canon) (p i n r) : (s.nodeReady p i n r).1.Canon := by
  unfold State.nodeReady
  dsimp only
  split
  · exact hs.updNode ..
  · exact ite_fst_canon ((hs.updNode ..).selectNode ..) (hs.updNode ..)

theorem State.Canon.readRecord (hs : s.Canon) (p i n) : (s.readRecord p i n).1.Canon := ite_fst_canon hs (hs.devGranule ..)

theorem State.Canon.release (hs : s.Canon) (p i n ok) : (s.release p i n ok).1.Canon := ite_fst_canon hs (hs.successors ..)

theorem State.Canon.freeRegion (hs : s.Canon) (p i n) : (s.freeRegion p i n).Canon :=
  ite_canon (foldl_canon (fun _ _ h => h.updCore ..) _ (hs.updPart ..)) hs

theorem State.Canon.closeNode (hs : s.Canon) (p i n code) : (s.closeNode p i n code).1.Canon := by
  grind [State.closeNode, updNode, writeStatus, partEvent, freeRegion, updPart, freeDword, release]

theorem State.Canon.finishNode (hs : s.Canon) (p i n code) : (s.finishNode p i n code).1.Canon :=
  ite_fst_canon hs (hs.closeNode ..)

theorem State.Canon.job (hs : s.Canon) (p i a) : (s.job p i a).1.Canon := by
  unfold State.job
  dsimp only
  split
  · split
    · exact hs.setOver ..
    split
    · exact ite_canon (hs.setOver ..) hs
    · exact ite_fst_canon (hs.setOver ..) (hs.updNode ..)
  · split
    · rename_i e
      exact (hs.readRecord ..).fst e
    · rename_i e
      exact ((hs.readRecord ..).fst e).nodeReady ..
  · exact hs.finishNode ..
  · split
    · exact hs.setOver ..
    split
    · exact hs
    split
    · rename_i e
      exact (hs.readRecord ..).fst e
    · rename_i e
      exact ((hs.readRecord ..).fst e).updNode ..
  · exact ite_fst_canon hs (foldl_canon (fun _ _ h => h.updNode ..) _ ((hs.updNode ..).partEvent ..))
  · split
    · rename_i e
      exact (((hs.readRecord ..).fst e).updNode ..).partEvent ..
    · rename_i e
      exact (((hs.readRecord ..).fst e).updNode ..).closeNode ..
  · exact ite_fst_canon hs ((hs.updInst ..).writeStatus ..)

theorem State.Canon.settle (hs : s.Canon) (p n xs) : (s.settle p n xs).Canon := by
  induction n generalizing s xs with
  | zero => exact hs
  | succ n ih =>
    cases xs with
    | nil => exact hs
    | cons x xs => exact ih (hs.job ..) _

theorem State.Canon.endNode (hs : s.Canon) (p i n code) : (s.endNode p i n code).Canon := hs.settle ..

theorem State.Canon.enqueueLaunch (hs : s.Canon) (p rec) : (s.enqueueLaunch p rec).1.Canon := ite_fst_canon (hs.updPart ..) hs

theorem State.Canon.launchStore (hs : s.Canon) (p off bytes) : (s.launchStore p off bytes).Canon :=
  ite_canon hs (ite_canon hs (ite_canon (hs.updPart ..) (ite_canon hs (ite_canon (hs.enqueueLaunch ..)
    ((hs.updPart ..).partEvent ..)))))

theorem State.Canon.takeNumber (hs : s.Canon) (p) : (s.takeNumber p).2.Canon := hs.updPart ..

theorem State.Canon.readDeps (hs : s.Canon) (p base n n') : (s.readDeps p base n n').1.Canon := by
  induction n' generalizing s p base n with
  | zero => exact hs
  | succ n ih => grind [State.readDeps, devRead]

theorem State.Canon.createGraph (hs : s.Canon) (p h parent) : (s.createGraph p h parent).Canon :=
  (((hs.takeNumber ..).readDeps ..).updPart ..).settle ..

theorem State.Canon.createSingle (hs : s.Canon) (p r) : (s.createSingle p r).Canon := ((hs.takeNumber ..).updPart ..).settle ..

theorem State.Canon.removeLaunch (hs : s.Canon) (p code gstat) : (s.removeLaunch p code gstat).Canon :=
  ((hs.takeNumber ..).freeDword.writeStatus ..).partEvent ..

theorem State.Canon.dequeueLaunch (hs : s.Canon) (p) : (s.dequeueLaunch p).Canon := by
  unfold State.dequeueLaunch
  dsimp only
  split
  · exact hs
  refine ite_canon hs ?_
  refine ite_canon ((hs.updPart ..).removeLaunch ..) ?_
  refine ite_canon (ite_canon hs ((hs.updPart ..).createSingle ..)) ?_
  split
  · rename_i e
    exact (((hs.devGranule ..).fst e).updPart ..).removeLaunch ..
  rename_i e
  have h1 := (hs.devGranule ..).fst e
  exact ite_canon ((h1.updPart ..).removeLaunch ..) (ite_canon ((h1.updPart ..).removeLaunch ..) (ite_canon h1
    ((h1.updPart ..).createGraph ..)))

theorem State.Canon.startEvent (hs : s.Canon) (p) : (s.startEvent p).Canon := by
  unfold State.startEvent
  split
  · exact hs
  · exact (hs.partEvent ..).endNode ..

theorem State.Canon.serveSubgraph (hs : s.Canon) (p) : (s.serveSubgraph p).Canon := by
  unfold State.serveSubgraph
  split
  · exact hs
  split
  · rename_i e
    exact ((hs.devGranule ..).fst e).endNode ..
  rename_i e
  have h1 := (hs.devGranule ..).fst e
  exact ite_canon (h1.endNode ..) (ite_canon (h1.endNode ..) ((h1.updNode ..).updPart ..))

theorem State.Canon.admitChild (hs : s.Canon) (p) : (s.admitChild p).Canon := by
  unfold State.admitChild
  dsimp only
  split
  · exact hs
  · exact ite_canon hs ((hs.updPart ..).createGraph ..)

/-! ## The control unit -/

theorem Trig.goto_canon (hs : s.Canon) (x o stack) : (Trig.goto x s o stack).Canon := hs.updCtx ..

theorem Trig.undone_canon (hs : s.Canon) (x ports) : (Trig.undone x s ports).Canon := Trig.muckResult_canon hs ..

theorem jumpOp_canon (hs : s.Canon) (x) : (jumpOp x s).Canon := .ite hs (.ite trivial (Trig.goto_canon hs ..))

theorem callOp_canon (hs : s.Canon) (x) : (callOp x s).Canon := .ite hs (.ite trivial (.ite trivial (Trig.goto_canon hs ..)))

theorem retOp_canon (hs : s.Canon) (x) : (retOp x s).Canon := by
  refine .ite hs ?_
  split
  · trivial
  · exact Trig.goto_canon hs ..

theorem loopOp_canon (hs : s.Canon) (x) : (loopOp x s).Canon :=
  .ite hs (.ite trivial (.ite trivial (.ite (Trig.goto_canon hs ..) (hs.updCtx ..))))

theorem waitOp_canon (hs : s.Canon) (x) : (waitOp x s).Canon := .ite hs (.ite hs trivial)

theorem State.Canon.sysInput (hs : s.Canon) (c n) : (s.sysInput c n).1.Canon :=
  ite_fst_canon ((hs.sysRead ..).inputIn ..) (hs.sysRead ..)

theorem readSysOp_canon (hs : s.Canon) (priv x) : (readSysOp priv x s).Canon :=
  .ite trivial (.ite (Trig.undone_canon hs ..) (.ite trivial ((hs.sysInput ..).updCtx ..)))

theorem writeSysOp_canon (hs : s.Canon) (priv x) : (writeSysOp priv x s).Canon := by
  refine .ite trivial ?_
  refine .ite hs ?_
  refine .ite trivial ?_
  split
  · rename_i e
    exact (hs.sysWrite ..).fst e
  · trivial

theorem Trig.needPriv_canon {f : Fired} (hf : f.Canon) (x n) : (Trig.needPriv x s n f).Canon := .ite hf trivial

theorem State.Canon.releaseFence (hs : s.Canon) (c) : (s.releaseFence c).Canon := hs.newId.updCtx ..

theorem fireCtFence_canon (hs : s.Canon) (x) : (fireCtFence x s).Canon := by
  refine .ite hs ?_
  refine .ite hs ?_
  split
  · trivial
  · exact .ite hs (.ite (.ite hs trivial) (.ite (.ite (hs.releaseFence ..) trivial) (.ite hs trivial)))

theorem fireCtTrick_canon (hs : s.Canon) (x) : (fireCtTrick x s).Canon := .ite hs (.ite trivial (.ite trivial (hs.arrive ..)))

theorem fireCtBar_canon (hs : s.Canon) (x) : (fireCtBar x s).Canon := by
  refine .ite hs ?_
  refine .ite trivial ?_
  split
  · trivial
  refine .ite trivial ?_
  split
  · exact hs
  · exact hs.arrive ..

theorem State.Canon.countTrigger (hs : s.Canon) (c t) : (s.countTrigger c t).Canon := by
  refine ite_canon hs ?_
  extract_lets s1 nd
  have h1 : s1.Canon := (hs.updCtx ..).updNode ..
  exact ite_canon h1 (((h1.updNode ..).release ..).settle ..)

theorem fireCtTrigger_canon (hs : s.Canon) (x) : (fireCtTrigger x s).Canon :=
  .ite hs (.ite trivial ((hs.updCore ..).countTrigger ..))

theorem State.Canon.readParts (hs : s.Canon) (c id xs) : (s.readParts c id xs).1.Canon := by
  induction xs generalizing s with
  | nil => exact hs
  | cons x xs ih => grind [State.readParts, placeTurn, overlay, readLoc]

theorem Fired.fault_canon (n t) : (Fired.fault s n t).Canon := .ite trivial trivial

theorem fireCtLaunch_canon (hs : s.Canon) (x) : (fireCtLaunch x s).Canon := by
  refine .ite (Trig.undone_canon hs ..) ?_
  refine .ite trivial ?_
  refine .ite (Trig.result_canon hs ..) ?_
  split
  · exact Fired.fault_canon ..
  rename_i e
  have h1 := (hs.place ..).fst e
  split
  · exact Fired.fault_canon ..
  · rename_i e
    exact Trig.result_canon ((((h1.readParts ..).fst e).enqueueLaunch ..).updCore ..) ..

theorem fireCtExit_canon (hs : s.Canon) (x) : (fireCtExit x s).Canon := .ite hs (hs.updCtx ..)

theorem fireCtEret_canon (hs : s.Canon) (x) : (fireCtEret x s).Canon := by
  unfold fireCtEret
  refine Trig.needPriv_canon ?_ ..
  exact .ite hs (hs.updCore ..)

/-! ## The access units -/

theorem State.Canon.checkAccess (hs : s.Canon) (c t kind a len) : (s.checkAccess c t kind a len).1.Canon := by
  unfold State.checkAccess
  dsimp only
  split
  · rename_i e
    exact (hs.place ..).fst e
  rename_i e
  have h1 := (hs.place ..).fst e
  split <;> exact ite_canon (h1.turnFor ..) h1

theorem State.Canon.issueLoad (hs : s.Canon) (c t id strong ps n) : (s.issueLoad c t id strong ps n).Canon := by
  induction ps generalizing s n with
  | nil => exact hs
  | cons x xs ih => grind [State.issueLoad, updCtx, readLoc, State.Canon]

theorem State.Canon.pushLoad (hs : s.Canon) (c t q size signed a atag strong ps strm) :
    (s.pushLoad c t q size signed a atag strong ps strm).Canon :=
  (hs.newId.updCtx ..).issueLoad ..

theorem State.Canon.pushMucked (hs : s.Canon) (c q size) : (s.pushMucked c q size).Canon := hs.newId.updCtx ..

theorem State.Canon.pushPoison (hs : s.Canon) (c q size t) : (s.pushPoison c q size t).Canon := hs.newId.updCtx ..

theorem State.Canon.logWrite (hs : s.Canon) (c t h) : (s.logWrite c t h).Canon := by
  refine ite_canon (hs.kill ..) ?_
  extract_lets n s1 s2
  have h1 : s1.Canon := hs.updPart ..
  have h2 : s2.Canon := h1.rawWrite ..
  split
  · exact h2.sendItem ..
  · exact h2

theorem State.Canon.addStore (hs : s.Canon) (c id) : (s.addStore c id).Canon := hs.updCtx ..

theorem State.Canon.issueStore (hs : s.Canon) (c t id ea strong tag ps xs) :
    (s.issueStore c t id ea strong tag ps xs).1.Canon := by
  induction ps generalizing s xs with
  | nil => exact hs
  | cons x xs ih => grind [State.issueStore, logWrite, stamp, writeLoc, addStore, State.Canon]

theorem State.Canon.performStore (hs : s.Canon) (c t ea bs tag strong ps) : (s.performStore c t ea bs tag strong ps).1.Canon :=
  hs.newId.issueStore ..

theorem agLoad_canon (hs : s.Canon) (strong x) : (agLoad strong x s).Canon := by
  refine .ite (.ite hs (.ite trivial (hs.pushMucked ..))) ?_
  refine .ite trivial ?_
  split
  · trivial
  split
  · exact Fired.fault_canon ..
  · rename_i e
    exact .ite trivial (.ite trivial (((hs.checkAccess ..).fst e).pushLoad ..))

theorem agStore_canon (hs : s.Canon) (fromQ strong x) : (agStore fromQ strong x s).Canon := by
  refine .ite (.ite hs (.ite trivial (ite_canon (hs.updCtx ..) hs))) ?_
  refine .ite trivial ?_
  split
  · trivial
  split
  · exact Fired.fault_canon ..
  rename_i e
  have h1 := (hs.checkAccess ..).fst e
  split
  · trivial
  refine .ite trivial ?_
  refine .ite trivial ?_
  split
  · exact Fired.fault_canon ..
  rename_i e
  have h2 := (h1.performStore ..).fst e
  exact ite_canon (h2.updCtx ..) h2

theorem agStream_canon (hs : s.Canon) (write x) : (agStream write x s).Canon :=
  .ite hs (.ite trivial (.ite trivial (.ite hs (hs.updCtx ..))))

theorem State.Canon.streamElement (hs : s.Canon) (c i) : (s.streamElement c i).Canon := by
  unfold State.streamElement
  dsimp only
  split
  · refine ite_canon hs ?_
    refine ite_canon ?_ ?_
    · split
      · exact hs
      refine ite_canon hs ?_
      refine ite_canon ((hs.updCtx ..).updCtx ..) ?_
      split
      · rename_i e
        exact ((((hs.checkAccess ..).fst e).updCtx ..).updCtx ..).updCtx ..
      rename_i e
      have h1 := (hs.checkAccess ..).fst e
      refine ite_canon (((h1.updCtx ..).updCtx ..).updCtx ..) ?_
      refine ite_canon h1 ?_
      split
      · rename_i e
        exact ((((h1.performStore ..).fst e).updCtx ..).updCtx ..).updCtx ..
      · rename_i e
        exact (((h1.performStore ..).fst e).updCtx ..).updCtx ..
    refine ite_canon hs ?_
    refine ite_canon ((hs.pushMucked ..).updCtx ..) ?_
    split
    · rename_i e
      exact (((hs.checkAccess ..).fst e).pushPoison ..).updCtx ..
    rename_i e
    have h1 := (hs.checkAccess ..).fst e
    exact ite_canon ((h1.pushPoison ..).updCtx ..) (ite_canon h1 ((h1.pushLoad ..).updCtx ..))
  · exact hs

theorem atOp_canon (hs : s.Canon) (op x) : (atOp op x s).Canon := by
  refine .ite (Trig.undone_canon hs ..) ?_
  refine .ite trivial ?_
  split
  · trivial
  split
  · exact Fired.fault_canon ..
  rename_i e
  have h1 := (hs.locate ..).fst e
  exact .ite (Fired.fault_canon ..) ((ite_canon ((ite_fst_canon h1.newId (h1.newId.stamp ..)).sendItem ..) (ite_fst_canon h1.newId
    (h1.newId.stamp ..)).keep).updCtx ..)

/-! ## The matrix unit -/

theorem Trig.mxGate_canon {f : Fired} (hs : s.Canon) (hf : f.Canon) (x ports) : (Trig.mxGate x s ports f).Canon :=
  .ite (Trig.undone_canon hs ..) hf

theorem State.Canon.drainRows (hs : s.Canon) (c a form off stride ctl xs) : (s.drainRows c a form off stride ctl xs).1.Canon := by
  induction xs generalizing s with
  | nil => exact hs
  | cons x xs ih => grind [State.drainRows, joinFor, updCore]

theorem State.Canon.drainTags (hs : s.Canon) (c acc ctl xs) : (s.drainTags c acc ctl xs).1.Canon := by
  induction xs generalizing s with
  | nil => exact hs
  | cons x xs ih => grind [State.drainTags, joinFor]

theorem State.Canon.drainReady (hs : s.Canon) (c acc ctl) : ∀ r ∈ s.drainReady c acc ctl, r.1.Canon := by
  grind [State.drainReady, drainTags]

theorem State.Canon.doFill (hs : s.Canon) (c slot roleB kn fmt rows trapIll ctl) :
    (s.doFill c slot roleB kn fmt rows trapIll ctl).Canon := by
  unfold State.doFill
  dsimp only
  split
  · exact hs.updCtx ..
  · exact (hs.updCore ..).updCtx ..

theorem State.Canon.doDrain (hs : s.Canon) (c acc form za off stride token ctl rtag) :
    (s.doDrain c acc form za off stride token ctl rtag).1.Canon := by
  grind [State.doDrain, updCore, drainRows, updCtx]

theorem State.Canon.mxPerform (hs : s.Canon) (c o) : (s.mxPerform c o).1.Canon := by
  unfold State.mxPerform
  dsimp only
  split
  · exact ite_fst_canon hs (hs.doFill ..)
  · exact ite_fst_canon hs (hs.updCtx ..)
  · split
    · exact ite_fst_canon hs (hs.updCtx ..)
    · exact hs
  · exact ite_fst_canon hs (hs.doDrain ..)
  · exact hs.updCtx ..
  · exact hs.updCore ..

theorem State.Canon.mxFlush (hs : s.Canon) (c n) : (s.mxFlush c n).Canon := by
  induction n generalizing s with
  | zero => exact hs
  | succ n ih => grind [State.mxFlush, mxPerform, updCtx]

theorem State.Canon.mxComplete (hs : s.Canon) (c) : (s.mxComplete c).Canon := by
  unfold State.mxComplete
  split
  · split
    · rename_i e
      exact (((hs.mxPerform ..).fst e).updCtx ..).mxFlush ..
    · rename_i e
      exact (hs.mxPerform ..).fst e
  · exact hs

theorem State.Canon.mxStop (hs : s.Canon) (c n) : (s.mxStop c n).Canon := by
  induction n generalizing s with
  | zero => exact hs
  | succ n ih =>
    unfold State.mxStop
    grind [choose, updCtx, mxPerform]

theorem Trig.mxRefuse_canon (x reason) : (Trig.mxRefuse x reason).Canon := trivial

theorem Trig.mxResult_canon (hs : s.Canon) (x ws) : (Trig.mxResult x s ws).Canon := Trig.result_canon hs ..

theorem fireMxClaim_canon (hs : s.Canon) (x) : (fireMxClaim x s).Canon := by
  unfold fireMxClaim
  dsimp only
  refine Trig.mxGate_canon hs ?_ ..
  refine .ite (Trig.mxRefuse_canon ..) ?_
  refine .ite trivial ?_
  refine .ite (Trig.mxResult_canon hs ..) ?_
  refine .ite (.ite (Trig.mxResult_canon hs ..) (Trig.mxResult_canon ((hs.updCore ..).putAreas ..) ..)) ?_
  split
  · exact Trig.mxResult_canon ((hs.updCore ..).putAreas ..) ..
  · exact Trig.mxResult_canon ((hs.updCore ..).putAreas ..) ..
  · exact Trig.mxResult_canon hs ..

theorem fireMxRelease_canon (hs : s.Canon) (x) : (fireMxRelease x s).Canon := by
  unfold fireMxRelease
  dsimp only
  refine Trig.mxGate_canon hs ?_ ..
  exact .ite (Trig.mxRefuse_canon ..) (.ite (Trig.mxResult_canon hs ..) (.ite (Trig.mxResult_canon (hs.updCtx ..) ..)
    (Trig.mxResult_canon (hs.updCore ..) ..)))

theorem fireMxFill_canon (hs : s.Canon) (x) : (fireMxFill x s).Canon := by
  grind [fireMxFill, Fired.fault_canon, State.Canon.turnFor, Trig.mxGate_canon, Trig.mxRefuse_canon, State.Canon.updCtx,
    Fired.Canon]

theorem fireMxMma_canon (hs : s.Canon) (x) : (fireMxMma x s).Canon := by
  unfold fireMxMma
  dsimp only
  refine Trig.mxGate_canon hs ?_ ..
  exact .ite (Trig.mxRefuse_canon ..) (.ite (Trig.mxRefuse_canon ..) (hs.updCtx ..))

theorem fireMxMmat_canon (hs : s.Canon) (x) : (fireMxMmat x s).Canon := by
  unfold fireMxMmat
  dsimp only
  refine Trig.mxGate_canon hs ?_ ..
  exact .ite (Trig.mxRefuse_canon ..) (.ite (Trig.mxRefuse_canon ..) (.ite (Trig.mxRefuse_canon ..) (hs.updCtx ..)))

theorem fireMxDrain_canon (hs : s.Canon) (x) : (fireMxDrain x s).Canon := by
  unfold fireMxDrain
  extract_lets k a b form n rs t
  have ht : t.Canon := hs.turnFor ..
  refine Trig.mxGate_canon hs (.ite (Trig.mxRefuse_canon ..) (.ite (Trig.mxRefuse_canon ..) ?_)) ..
  split
  · exact Fired.fault_canon ..
  · refine .ite trivial ?_
    split
    · trivial
    · trivial
    · rename_i u hu
      exact ((ht.drainReady _ _ _ _ hu).newId).updCtx ..

theorem fireMxBsum_canon (hs : s.Canon) (x) : (fireMxBsum x s).Canon := by
  grind [fireMxBsum, Fired.fault_canon, State.Canon.stamp, State.Canon.turnFor, State.Canon.newId, Trig.mxGate_canon,
    Trig.mxRefuse_canon, State.Canon.updCtx, Fired.Canon, State.Canon]

theorem fireMxZero_canon (hs : s.Canon) (x) : (fireMxZero x s).Canon := by
  unfold fireMxZero
  dsimp only
  refine Trig.mxGate_canon hs ?_ ..
  exact .ite (Trig.mxRefuse_canon ..) (hs.updCtx ..)

theorem fireMxTeam_canon (hs : s.Canon) (x) : (fireMxTeam x s).Canon := by
  unfold fireMxTeam
  dsimp only
  refine Trig.mxGate_canon hs ?_ ..
  exact .ite (Trig.mxRefuse_canon ..) (.ite (Trig.mxRefuse_canon ..) (hs.updCtx ..))

theorem fireMxProg_canon (hs : s.Canon) (x) : (fireMxProg x s).Canon := by
  unfold fireMxProg
  dsimp only
  refine Trig.mxGate_canon hs ?_ ..
  exact .ite (hs.updCtx ..) (.ite (hs.updCtx ..) (.ite (hs.updCtx ..) (Trig.mxRefuse_canon ..)))

theorem State.Canon.bsumRecords (hs : s.Canon) (c off e c' n xs) : (s.bsumRecords c off e c' n xs).1.Canon := by
  induction xs generalizing s n with
  | nil => exact hs
  | cons x xs ih => grind [State.bsumRecords, writeSpad, updCtx]

theorem State.Canon.bsumApply (hs : s.Canon) (b) : (s.bsumApply b).1.Canon := by
  unfold State.bsumApply
  dsimp only
  split
  · rename_i e
    exact (hs.bsumRecords ..).fst e
  · rename_i e
    exact ((hs.bsumRecords ..).fst e).updCore ..

theorem State.Canon.bsumDrain (hs : s.Canon) (b n) : (s.bsumDrain b n).1.Canon := by
  induction n generalizing s with
  | zero => exact hs
  | succ n ih => grind [State.bsumDrain, bsumApply, updCore, State.Canon]

theorem State.Canon.bsumArrives (hs : s.Canon) (i b) : (s.bsumArrives i b).Canon := by
  unfold State.bsumArrives
  extract_lets s1 s2 twice
  have h1 : s1.Canon := ite_canon (hs.turnFor ..) (hs.remoteTurn ..)
  have h2 : s2.Canon := h1.keep.noteVec ..
  refine ite_canon (h2.updCore ..) ?_
  split
  · rename_i e
    exact (h2.keep.bsumDrain ..).fst e
  · exact h1.updCtx ..

/-! ## Label operations -/

theorem State.Canon.lbPerform (hs : s.Canon) (c o) : (s.lbPerform c o).1.Canon := hs.label ..

theorem State.Canon.pathTime (hs : s.Canon) (xs) : (s.pathTime xs).2.Canon := by
  induction xs generalizing s with
  | nil => exact hs
  | cons x xs ih => cases x <;> grind [State.pathTime, choose]

theorem State.Canon.lbSend (hs : s.Canon) (c o ws) : (s.lbSend c o ws).Canon := ((hs.pathTime ..).sampled ..).updCtx ..

theorem Trig.lb_canon (hs : s.Canon) (x o) : (Trig.lb x s o).Canon := by
  unfold Trig.lb
  dsimp only
  split
  · rename_i e
    exact ((hs.lbPerform ..).fst e).lbSend ..
  · rename_i e
    exact ((hs.lbPerform ..).fst e).newId.updCtx ..

theorem lbOpOf_canon (hs : s.Canon) (op bad x) : (lbOpOf op bad x s).Canon := by
  unfold lbOpOf
  split
  · trivial
  split
  · trivial
  · exact Trig.lb_canon hs ..

theorem fireLbContra_canon (hs : s.Canon) (x) : (fireLbContra x s).Canon := by
  grind [fireLbContra, lbOpOf_canon, State.Canon.updCore, Fired.Canon]

theorem fireLbRetag_canon (hs : s.Canon) (a) : (fireLbRetag a s).Canon := lbOpOf_canon hs ..

theorem fireLbCount_canon (hs : s.Canon) (x) : (fireLbCount x s).Canon := by
  unfold fireLbCount
  dsimp only
  split
  · trivial
  refine .ite trivial ?_
  refine .ite trivial ?_
  split
  · exact Fired.fault_canon ..
  rename_i e
  have h1 := (hs.place ..).fst e
  split
  · exact Fired.fault_canon ..
  · rename_i e
    exact Trig.lb_canon ((h1.readParts ..).fst e) ..

theorem fireLbCensus_canon (hs : s.Canon) (x) : (fireLbCensus x s).Canon := by
  unfold fireLbCensus
  dsimp only
  split
  · trivial
  · exact .ite trivial (hs.newId.updCtx ..)

theorem fireLbCtlset_canon (hs : s.Canon) (x) : (fireLbCtlset x s).Canon := by
  grind [fireLbCtlset, State.Canon.ctlabOf, State.Canon.resolveTags, State.Canon.newId, State.Canon.updCtx, Fired.Canon]

theorem fireLbCtlget_canon (hs : s.Canon) (x) : (fireLbCtlget x s).Canon := .ite trivial (hs.updCtx ..)

theorem fireLbSpace_canon (hs : s.Canon) (x) : (fireLbSpace x s).Canon := .ite trivial (hs.updCtx ..)

theorem State.Canon.resolveOne (hs : s.Canon) (c h tr t) : (s.resolveOne c h tr t).1.Canon := by
  grind [State.resolveOne, resolveTags]

theorem State.Canon.resolveIn {α : Type} (hs : s.Canon) (get : α → LTag) (put : α → LTag → α) (waits : α → Bool) (half : α → Half)
    (c) (tr) (xs : List α) : (s.resolveIn get put waits half c tr xs).1.Canon := by
  induction xs generalizing s tr with
  | nil => exact hs
  | cons x xs ih => grind [State.resolveIn, resolveOne]

theorem State.Canon.resolveMap {α : Type} (hs : s.Canon) (get : α → LTag) (put : α → LTag → α) (home) (c) (tr) (m : NMap α) :
    (s.resolveMap get put home c tr m).1.Canon :=
  hs.resolveIn ..

theorem State.Canon.resolveQueues (hs : s.Canon) (c tr xs) : (s.resolveQueues c tr xs).1.Canon := by
  induction xs generalizing s tr with
  | nil => exact hs
  | cons x xs ih => grind [State.resolveQueues, resolveIn]

theorem State.Canon.resolveAccs (hs : s.Canon) (c tr xs) : (s.resolveAccs c tr xs).1.Canon := by
  induction xs generalizing s tr with
  | nil => exact hs
  | cons x xs ih => grind [State.resolveAccs, resolveMap]

theorem State.Canon.resolveSlots (hs : s.Canon) (c tr xs) : (s.resolveSlots c tr xs).1.Canon := by
  induction xs generalizing s tr with
  | nil => exact hs
  | cons x xs ih => grind [State.resolveSlots, resolveMap]

theorem State.Canon.resolveCore (hs : s.Canon) (c) : (s.resolveCore c).1.Canon := by
  grind [State.resolveCore, resolveQueues, resolveOne, setCore, resolveIn, resolveMap, resolveAccs, resolveSlots]

theorem State.Canon.lbFinish (hs : s.Canon) (c o ws) : (s.lbFinish c o ws).Canon := hs.updCore ..

theorem State.Canon.lbRetry (hs : s.Canon) (c) : (s.lbRetry c).1.Canon := by
  unfold State.lbRetry
  dsimp only
  split
  · exact hs
  split
  · exact ite_fst_canon ((hs.label ..).lbFinish ..) hs
  split
  · exact ite_fst_canon hs (hs.lbFinish ..)
  split
  · rename_i e
    exact ((hs.lbPerform ..).fst e).lbFinish ..
  · rename_i e
    exact (hs.lbPerform ..).fst e

/-! ## The Carillon unit -/

theorem clOp_canon (hs : s.Canon) (op x) : (clOp op x s).Canon :=
  .ite trivial (.ite (Trig.undone_canon hs ..) (.ite trivial (.ite trivial (.ite (Trig.undone_canon hs ..) (.ite trivial
    ((hs.newId.updCtx ..).updCore ..))))))

theorem State.Canon.readWeights (hs : s.Canon) (c t base xs) : (s.readWeights c t base xs).1.Canon := by
  induction xs generalizing s with
  | nil => exact hs
  | cons x xs ih => grind [State.readWeights, readParts, place]

theorem State.Canon.clRun (hs : s.Canon) (c t o d) : (s.clRun c t o d).1.Canon := by
  unfold State.clRun
  dsimp only
  split
  · rename_i e
    exact (ite_fst_canon (hs.readWeights ..) hs).fst e
  rename_i e
  have h1 := (ite_fst_canon (hs.readWeights ..) hs).fst e
  exact ite_fst_canon (h1.updPart ..) (h1.updPart ..)

theorem State.Canon.carillon (hs : s.Canon) (c) : (s.carillon c).Canon := by
  unfold State.carillon
  dsimp only
  split
  · refine ite_canon hs ?_
    split
    · exact hs
    split
    · rename_i e
      exact (((hs.clRun ..).fst e).observe ..).updCore ..
    · rename_i e
      exact ((hs.clRun ..).fst e).updCtx ..
  · exact hs

/-! ## Requests at their homes -/

theorem State.Canon.dropReq (hs : s.Canon) (i) : (s.dropReq i).Canon := hs

theorem State.Canon.storeDone (hs : s.Canon) (c id) : (s.storeDone c id).Canon := ite_canon hs (hs.updCtx ..)

theorem State.Canon.refuse (hs : s.Canon) (c id t) : (s.refuse c id t).Canon := hs

theorem State.Canon.refuseReq (hs : s.Canon) (r t) : (s.refuseReq r t).Canon := by
  unfold State.refuseReq
  split
  · exact hs.updCtx ..
  · exact hs.refuse ..
  · exact foldl_canon (fun _ _ h => h.refuse ..) _ hs

theorem State.Canon.serveGone (hs : s.Canon) (r) : (s.serveGone r).Canon := foldl_canon (fun _ _ h => h.refuseReq ..) _ hs

theorem State.Canon.takeReq (hs : s.Canon) (i r) : (s.takeReq i r).Canon := ite_canon ((hs.dropReq ..).observe ..) (hs.dropReq ..)

theorem State.Canon.serve (hs : s.Canon) (i r) : (s.serve i r).Canon := by
  unfold State.serve
  extract_lets s1
  have h1 : s1.Canon := hs.takeReq ..
  refine ite_canon (h1.serveGone ..) ?_
  split
  · exact ((h1.readLoc ..).overlay ..).updCtx ..
  · split
    · rename_i e
      exact ((h1.writeLoc ..).fst e).storeDone ..
    · rename_i e
      exact ((h1.writeLoc ..).fst e).refuse ..
  · exact h1

theorem State.Canon.noteApplied (hs : s.Canon) (r) : (s.noteApplied r).Canon := hs.noteVec ..

theorem State.Canon.performAtomic (hs : s.Canon) (r pa) : (s.performAtomic r pa).Canon := by
  unfold State.performAtomic
  dsimp only
  split
  · refine ite_canon (hs.serveGone ..) ?_
    split
    · exact (hs.readHome ..).refuseReq ..
    split
    · rename_i e
      exact (((hs.readHome ..).joinFor ..).fst e).refuseReq ..
    · rename_i e
      exact foldl_canon (fun _ _ h => h.updCore ..) _ ((((((hs.readHome ..).joinFor ..).fst e).memWrite ..).setMemTag ..).seal ..)
  · exact hs

theorem State.Canon.enterPorts (hs : s.Canon) (k xs) : (s.enterPorts k xs).Canon := by
  induction xs generalizing s with
  | nil => exact hs
  | cons x xs ih => grind [State.enterPorts, choose, newId, State.Canon]

theorem State.Canon.retryDuplex (hs : s.Canon) (r) : (s.retryDuplex r).Canon := by
  unfold State.retryDuplex
  split
  · exact ite_canon (hs.tryDuplex ..) hs
  · exact hs

theorem State.Canon.recordLoad (hs : s.Canon) (c e) : (s.recordLoad c e).Canon := ite_canon hs (hs.recordIn ..)

/-! ## The copy engine -/

theorem State.Canon.copyError (hs : s.Canon) (t) : (s.copyError t).1.Canon := by
  unfold State.copyError
  split
  iterate 5 exact hs
  · exact ite_fst_canon hs hs.choose

theorem State.Canon.partsCount (hs : s.Canon) (write ps) : (s.partsCount write ps).Canon := by
  grind [State.partsCount, updCtx, foldl_canon]

theorem State.Canon.engineTurn (hs : s.Canon) (c ps) : (s.engineTurn c ps).Canon := by
  grind [State.engineTurn, turnFor, remoteTurn, foldl_canon]

theorem State.Canon.readBytes (hs : s.Canon) (c id ps) : (s.readBytes c id ps).1.Canon := by
  induction ps generalizing s with
  | nil => exact hs
  | cons e ps ih =>
    unfold State.readBytes
    grind [readHome, overlay]

theorem State.Canon.engineParts (hs : s.Canon) (c t kind a len) : (s.engineParts c t kind a len).1.Canon := by
  unfold State.engineParts
  dsimp only
  split
  · rename_i e
    exact (hs.place ..).fst e
  rename_i e
  have h1 := (hs.place ..).fst e
  split <;> exact h1.engineTurn ..

theorem State.Canon.enginePeek (hs : s.Canon) (c t id a len) : (s.enginePeek c t id a len).1.Canon := by
  unfold State.enginePeek
  split
  · rename_i e
    exact (hs.engineParts ..).fst e
  · rename_i e
    exact ((hs.engineParts ..).fst e).readBytes ..

theorem State.Canon.engineRead (hs : s.Canon) (c t id a len) : (s.engineRead c t id a len).1.Canon := by
  unfold State.engineRead
  split
  · rename_i e
    exact (hs.engineParts ..).fst e
  rename_i e
  have h1 := (hs.engineParts ..).fst e
  split
  · rename_i e
    exact (h1.readBytes ..).fst e
  · rename_i e
    exact ((h1.readBytes ..).fst e).partsCount ..

theorem State.Canon.writeBytes (hs : s.Canon) (c t more ps xs) : (s.writeBytes c t more ps xs).1.Canon := by
  induction ps generalizing s xs with
  | nil => exact hs
  | cons e ps ih =>
    unfold State.writeBytes
    grind [newId, logWrite, crossWrite, writeHome, writeSpad]

theorem State.Canon.engineWrite (hs : s.Canon) (c t a bs more) : (s.engineWrite c t a bs more).1.Canon := by
  unfold State.engineWrite
  split
  · rename_i e
    exact (hs.engineParts ..).fst e
  · rename_i e
    exact (((hs.engineParts ..).fst e).writeBytes ..).partsCount ..

theorem copyOp_canon (hs : s.Canon) (isTry x) : (copyOp isTry x s).Canon :=
  .ite trivial (.ite (.ite (ite_canon (Trig.result_canon hs ..) hs) trivial) (.ite (ite_canon (Trig.muckResult_canon (ite_canon hs
    (hs.updCtx ..)) ..) (ite_canon hs (hs.updCtx ..))) (ite_canon (Trig.result_canon (hs.newId.updCtx ..) ..)
    (hs.newId.updCtx ..))))

theorem State.Canon.putUse (hs : s.Canon) (c key pa use) : (s.putUse c key pa use).Canon :=
  ((hs.crossWrite ..).memWrite ..).seal ..

theorem State.Canon.dropUse (hs : s.Canon) (c h) : (s.dropUse c h).1.Canon := by
  unfold State.dropUse
  grind [copyError, readHome, putUse]

theorem State.Canon.dropUses (hs : s.Canon) (c k err) : (s.dropUses c k err).1.Canon := (hs.dropUse ..).dropUse ..

theorem State.Canon.statusIn (hs : s.Canon) (c k err) : (s.statusIn c k err).Canon := (hs.inputIn ..).updCore ..

theorem State.Canon.copyEnd (hs : s.Canon) (c k err) : (s.copyEnd c k err).Canon := by
  grind [State.copyEnd, observe, dropUses, statusIn, updCtx]

theorem State.Canon.copyPut (hs : s.Canon) (c k) : (s.copyPut c k).Canon := by
  unfold State.copyPut
  split
  · exact ite_canon (hs.copyEnd ..) (hs.updCtx ..)
  · exact hs.updCtx ..

theorem State.Canon.takeHandle (hs : s.Canon) (c t h) : (s.takeHandle c t h).1.Canon := by
  unfold State.takeHandle
  dsimp only
  split
  · exact hs
  split
  · rename_i e
    exact ((hs.locate ..).fst e).copyError ..
  · rename_i e
    exact (hs.locate ..).fst e
  rename_i e
  have h1 := (hs.locate ..).fst e
  split
  · exact (h1.readHome ..).copyError ..
  · exact ite_fst_canon (h1.readHome ..) ((h1.readHome ..).putUse ..)

theorem State.Canon.readIndices (hs : s.Canon) (c t id n n') : (s.readIndices c t id n n').1.Canon := by
  induction n' generalizing s n with
  | zero => exact hs
  | succ n ih => grind [State.readIndices, engineRead]

theorem State.Canon.chainTotal (hs : s.Canon) (c t k n n' n'') : (s.chainTotal c t k n n' n'').1.Canon := by
  induction n generalizing s n' n'' with
  | zero => exact hs
  | succ n ih => grind [State.chainTotal, enginePeek]

theorem State.Canon.indexRuns (hs : s.Canon) (c t k swz) : (s.indexRuns c t k swz).1.Canon := by
  unfold State.indexRuns
  dsimp only
  split
  · rename_i e
    exact ((hs.readIndices ..).fst e).copyError ..
  · rename_i e
    exact (hs.readIndices ..).fst e

theorem State.Canon.copyRuns (hs : s.Canon) (c t k) : (s.copyRuns c t k).1.Canon := by
  grind [State.copyRuns, indexRuns, chainTotal]

theorem State.Canon.takeEnd (hs : s.Canon) (c t has h) : (s.takeEnd c t has h).1.Canon := by
  unfold State.takeEnd
  split
  · exact hs
  split
  · rename_i e
    exact (hs.takeHandle ..).fst e
  · rename_i e
    exact (hs.takeHandle ..).fst e

theorem State.Canon.copyOpen (hs : s.Canon) (c t k) : (s.copyOpen c t k).1.Canon := by
  unfold State.copyOpen
  dsimp only
  split
  · exact hs
  split
  · rename_i e
    exact (hs.takeEnd ..).fst e
  rename_i e
  have h1 := (hs.takeEnd ..).fst e
  split
  · rename_i e
    exact (h1.takeEnd ..).fst e
  rename_i e
  have h2 := (h1.takeEnd ..).fst e
  split
  · exact h2
  split
  · rename_i e
    exact (h2.copyRuns ..).fst e
  · rename_i e
    exact (h2.copyRuns ..).fst e

theorem State.Canon.copyStart (hs : s.Canon) (c t k) : (s.copyStart c t k).Canon :=
  ite_canon hs (ite_canon (hs.copyPut ..) (((hs.copyOpen ..).updCore ..).copyPut ..))

theorem State.Canon.startHead (hs : s.Canon) (c cmd) : (s.startHead c cmd).Canon := by
  unfold State.startHead
  split
  · exact ite_canon (hs.copyStart ..) hs
  · exact hs

theorem State.Canon.chunkFail (hs : s.Canon) (k e) : (s.chunkFail k e).1.Canon := hs.copyError ..

theorem State.Canon.chunkOut (hs : s.Canon) (c t k r bs used) : (s.chunkOut c t k r bs used).1.Canon := by
  unfold State.chunkOut
  dsimp only
  split
  · exact (hs.engineWrite ..).chunkFail ..
  · exact hs.engineWrite ..

theorem State.Canon.readRanges (hs : s.Canon) (c t id xs) : (s.readRanges c t id xs).1.Canon := by
  induction xs generalizing s with
  | nil => exact hs
  | cons x xs ih => grind [State.readRanges, engineRead]

theorem State.Canon.writeRanges (hs : s.Canon) (c t more xs xs') : (s.writeRanges c t more xs xs').1.Canon := by
  induction xs generalizing s xs' with
  | nil => exact hs
  | cons x xs ih => grind [State.writeRanges, engineWrite]

theorem State.Canon.convChunk (hs : s.Canon) (c t k r a x y) : (s.convChunk c t k r a x y).1.Canon := by
  grind [State.convChunk, chunkFail, readRanges, chunkOut, engineRead, updCtx, writeRanges]

theorem State.Canon.sendChunk (hs : s.Canon) (c k r bs used) : (s.sendChunk c k r bs used).1.Canon :=
  ite_fst_canon hs (hs.updPort ..)

theorem State.Canon.runChunk (hs : s.Canon) (c t k r) : (s.runChunk c t k r).1.Canon := by
  unfold State.runChunk
  dsimp only
  split
  · split
    · rename_i e
      exact ((hs.engineRead ..).fst e).chunkFail ..
    rename_i e
    have h1 := (hs.engineRead ..).fst e
    split
    · exact ite_fst_canon ((h1.updCtx ..).sendChunk ..) ((h1.updCtx ..).chunkOut ..)
    · exact ite_fst_canon (h1.sendChunk ..) (h1.chunkOut ..)
  iterate 3 exact ite_fst_canon (hs.sendChunk ..) (hs.chunkOut ..)

theorem State.Canon.nextBlock (hs : s.Canon) (c t k dpos) : (s.nextBlock c t k dpos).1.Canon := by
  unfold State.nextBlock
  dsimp only
  split
  · rename_i e
    exact ((hs.engineRead ..).fst e).chunkFail ..
  rename_i e
  have h1 := (hs.engineRead ..).fst e
  split
  · exact h1
  split
  · exact h1
  split
  · exact h1
  split
  · rename_i e
    exact ((h1.engineRead ..).fst e).chunkFail ..
  rename_i e
  have h2 := (h1.engineRead ..).fst e
  split
  · exact h2
  · exact ite_fst_canon h2 (h2.updCtx ..)

theorem State.Canon.copyChunk (hs : s.Canon) (c t k) : (s.copyChunk c t k).1.Canon := by
  unfold State.copyChunk
  dsimp only
  split
  · split
    · exact ite_fst_canon (hs.runChunk ..) (hs.convChunk ..)
    · exact hs.runChunk ..
  · exact ite_fst_canon (hs.nextBlock ..) hs

theorem State.Canon.copyStep (hs : s.Canon) (c) : (s.copyStep c).Canon := by
  unfold State.copyStep
  split
  · exact ite_canon hs (ite_canon (hs.copyStart ..) (((hs.copyChunk ..).updCluster ..).copyPut ..))
  · exact hs

/-! ## Messages -/

theorem State.Canon.setBoxLast (hs : s.Canon) (t gx gy i) : (s.setBoxLast t gx gy i).Canon := by
  unfold State.setBoxLast
  dsimp only
  split
  · exact hs.updCtx ..
  · exact hs.updCore ..
  · exact hs

theorem msgCtl_canon (v) : (msgCtl v).Canon := trivial

theorem State.Canon.send (hs : s.Canon) (c t gx gy ch v tag) : (s.send c t gx gy ch v tag).Canon := by
  unfold State.send
  dsimp only
  split
  · trivial
  rename_i e
  have h1 := (hs.joinFor ..).fst e
  refine .ite (hs.updCtx ..) ?_
  split
  · exact (h1.updCtx ..).sendItem ..
  · exact ((h1.updCtx ..).sendItem ..).setBoxLast ..

theorem fireMsSend_canon (hs : s.Canon) (x) : (fireMsSend x s).Canon := by
  grind [fireMsSend, msgCtl_canon, State.Canon.send, Fired.Canon, SendOut.Canon]

theorem fireMsPut_canon (hs : s.Canon) (x) : (fireMsPut x s).Canon := by
  grind [fireMsPut, State.Canon.logWrite, msgCtl_canon, State.Canon.addStore, State.Canon.newId, State.Canon.updPart, Fired.Canon]

theorem fireMsPoll_canon (hs : s.Canon) (x) : (fireMsPoll x s).Canon :=
  .ite (Trig.undone_canon hs ..) (.ite (msgCtl_canon ..) (Trig.result_canon hs ..))

theorem fireMsChan_canon (hs : s.Canon) (x) : (fireMsChan x s).Canon :=
  .ite (Trig.undone_canon hs ..) (.ite (msgCtl_canon ..) (.ite (Trig.result_canon hs ..) (Trig.result_canon (hs.updCtx ..) ..)))

/-! ## The vector unit -/

theorem vxRun_canon (hs : s.Canon) (reads ports perm lat fp op x) : (vxRun reads ports perm lat fp op x s).Canon :=
  .ite (hs.updCtx ..) (.ite trivial (Trig.resultV_canon hs ..))

theorem vxT5un_canon (hs : s.Canon) (a) : (vxT5un a s).Canon := vxRun_canon hs ..

/-! ## The block sequencer -/

theorem fireCtWdrive_canon (hs : s.Canon) (x) : (fireCtWdrive x s).Canon :=
  .ite (Trig.undone_canon hs ..) (.ite trivial (.ite (hs.updCtx ..) (.ite trivial (hs.newId.updCtx ..))))

theorem State.Canon.wdEnd (hs : s.Canon) (c w how code) : (s.wdEnd c w how code).Canon := (hs.updCore ..).updCtx ..

theorem State.Canon.blockRead (hs : s.Canon) (c t hva va) : (s.blockRead c t hva va).1.Canon := by
  unfold State.blockRead
  split
  · rename_i e
    exact (hs.engineParts ..).fst e
  rename_i e
  have h1 := (hs.engineParts ..).fst e
  split
  · rename_i e
    exact (h1.readBytes ..).fst e
  · rename_i e
    exact (h1.readBytes ..).fst e

theorem State.Canon.payloadRead (hs : s.Canon) (c t hva n n') : (s.payloadRead c t hva n n').1.Canon := by
  induction n' generalizing s n with
  | zero => exact hs
  | succ n ih => grind [State.payloadRead, blockRead]

theorem State.Canon.wdTrap (hs : s.Canon) (c t) : (s.wdTrap c t).Canon := hs.raise ..

theorem State.Canon.wdSelect (hs : s.Canon) (c t w h) : (s.wdSelect c t w h).Canon := by
  refine ite_canon hs ?_
  split
  · rename_i e
    exact ((hs.hiddenTag ..).fst e).wdTrap ..
  rename_i e
  have h1 := (hs.hiddenTag ..).fst e
  refine ite_canon (ite_canon (h1.wdTrap ..) (h1.wdEnd ..)) ?_
  refine ite_canon (h1.wdTrap ..) ?_
  split
  · rename_i e
    exact ((h1.blockRead ..).fst e).wdTrap ..
  · rename_i e
    exact ((h1.blockRead ..).fst e).updCtx ..

theorem State.Canon.wdSuccessor (hs : s.Canon) (c t w h) : (s.wdSuccessor c t w h).Canon := by
  grind [State.wdSuccessor, wdTrap, wdSelect, updCtx, wdEnd]

theorem State.Canon.wdBoundary (hs : s.Canon) (c) : ∀ t ∈ s.wdBoundary c, t.Canon := by
  intro t ht
  obtain ⟨e, -, rfl⟩ := Option.mem_map.mp ht
  exact (hs.updCtx ..).wdTrap ..

theorem State.Canon.wdStore (hs : s.Canon) (c t w h) : (s.wdStore c t w h).Canon := by
  grind [State.wdStore, wdTrap, writeBytes, wdSuccessor, turnFor, updCtx]

theorem State.Canon.wdSend (hs : s.Canon) (c t w h) : (s.wdSend c t w h).Canon := by
  grind [State.wdSend, wdTrap, wdSuccessor, updCtx, send, SendOut.Canon]

theorem State.Canon.wdSync (hs : s.Canon) (c t w h) : (s.wdSync c t w h).Canon := by
  refine ite_canon (hs.wdTrap ..) ?_
  split
  · exact hs.wdTrap ..
  refine ite_canon hs ?_
  split
  · exact hs.wdSuccessor ..
  · exact (hs.updCtx ..).arrive ..

theorem State.Canon.wdOpen (hs : s.Canon) (c t w h) : (s.wdOpen c t w h).Canon :=
  ite_canon (ite_canon hs ((hs.updCtx ..).wdSuccessor ..)) (ite_canon (hs.wdStore ..) (ite_canon (hs.wdSend ..) (ite_canon
    (hs.wdSync ..) (ite_canon (hs.wdEnd ..) (ite_canon ((ite_canon (hs.updCtx ..) (hs.wdSuccessor ..)).wdTrap ..) (ite_canon
    (hs.wdSuccessor ..) hs))))))

theorem State.Canon.wdHeader (hs : s.Canon) (c t w op) : (s.wdHeader c t w op).Canon := by
  unfold State.wdHeader
  dsimp only
  split
  · rename_i e
    exact ((hs.blockRead ..).fst e).wdTrap ..
  rename_i e
  have h1 := (hs.blockRead ..).fst e
  refine ite_canon hs ?_
  split
  · exact h1.wdTrap ..
  refine ite_canon ?_ ((h1.updCtx ..).wdOpen ..)
  split
  · rename_i e
    exact ((h1.payloadRead ..).fst e).wdTrap ..
  rename_i e
  have h2 := (h1.payloadRead ..).fst e
  exact ite_canon (h2.wdTrap ..) (ite_canon (h2.wdTrap ..) ((h2.updCtx ..).wdOpen ..))

theorem State.Canon.wdBlock (hs : s.Canon) (c op) : (s.wdBlock c op).Canon := by
  grind [State.wdBlock, wdBoundary, wdOpen, wdSuccessor, wdHeader]

theorem State.Canon.wdWhole (hs : s.Canon) (c t w h) : (s.wdWhole c t w h).Canon := by
  refine ite_canon hs ?_
  split
  · rename_i e
    exact ((hs.payloadRead ..).fst e).wdTrap ..
  rename_i e
  have h1 := (hs.payloadRead ..).fst e
  refine ite_canon (h1.wdSuccessor ..) ?_
  split
  · exact h1.wdTrap ..
  refine ite_canon ((h1.updCore ..).wdSuccessor ..) ?_
  split
  · exact h1.wdTrap ..
  · exact (h1.updCtx ..).wdSuccessor ..

theorem State.Canon.wdGranule (hs : s.Canon) (c t w h) : (s.wdGranule c t w h).Canon := by
  refine ite_canon hs ?_
  split
  · rename_i e
    exact ((hs.blockRead ..).fst e).wdTrap ..
  rename_i e
  have h1 := (hs.blockRead ..).fst e
  split
  · exact h1.wdTrap ..
  · exact ite_canon ((h1.updCtx ..).wdSuccessor ..) ((h1.updCtx ..).updCtx ..)

theorem State.Canon.wdPayload (hs : s.Canon) (c) : (s.wdPayload c).Canon := by
  grind [State.wdPayload, wdGranule, wdBoundary, wdWhole]

/-! ## Issue -/

theorem fireScalar_canon (hs : s.Canon) (x) : (fireScalar x s).Canon := by
  unfold fireScalar
  split <;> exact hs

theorem fireVxT5un_canon (hs : s.Canon) (x) : (fireVxT5un x s).Canon := by
  have h := vxT5un_canon hs x
  unfold fireVxT5un
  split
  · rename_i e
    rw [e] at h
    dsimp only
    split
    · exact .ite trivial h
    · exact h
  · exact h

theorem fireVector_canon (hs : s.Canon) (x) : (fireVector x s).Canon := by
  unfold fireVector
  split
  iterate 41 exact vxRun_canon hs ..
  · exact fireVxT5un_canon hs ..
  iterate 14 exact vxRun_canon hs ..
  · exact hs

theorem fireMatrix_canon (hs : s.Canon) (x) : (fireMatrix x s).Canon := by
  unfold fireMatrix
  split
  · exact fireMxClaim_canon hs ..
  · exact fireMxRelease_canon hs ..
  · exact fireMxFill_canon hs ..
  · exact fireMxMma_canon hs ..
  · exact fireMxMmat_canon hs ..
  · exact fireMxDrain_canon hs ..
  · exact fireMxBsum_canon hs ..
  · exact fireMxZero_canon hs ..
  · exact fireMxTeam_canon hs ..
  · exact fireMxProg_canon hs ..
  · exact hs

theorem fireLabel_canon (hs : s.Canon) (x) : (fireLabel x s).Canon := by
  unfold fireLabel
  split
  iterate 3 exact lbOpOf_canon hs ..
  · exact fireLbContra_canon hs ..
  iterate 3 exact lbOpOf_canon hs ..
  · exact fireLbRetag_canon hs ..
  iterate 2 exact lbOpOf_canon hs ..
  · exact fireLbCount_canon hs ..
  · exact lbOpOf_canon hs ..
  · exact fireLbCensus_canon hs ..
  · exact fireLbCtlset_canon hs ..
  · exact fireLbCtlget_canon hs ..
  · exact fireLbSpace_canon hs ..
  iterate 15 exact clOp_canon hs ..
  · exact hs

theorem fireMessage_canon (hs : s.Canon) (x) : (fireMessage x s).Canon := by
  unfold fireMessage
  split
  · exact fireMsSend_canon hs ..
  · exact fireMsPut_canon hs ..
  · exact fireMsPoll_canon hs ..
  · exact fireMsChan_canon hs ..
  iterate 2 exact copyOp_canon hs ..
  · exact hs

theorem fireControl_canon (hs : s.Canon) (x) : (fireControl x s).Canon := by
  unfold fireControl
  split
  · exact jumpOp_canon hs ..
  · exact callOp_canon hs ..
  · exact retOp_canon hs ..
  · exact loopOp_canon hs ..
  · exact waitOp_canon hs ..
  · exact fireCtFence_canon hs ..
  · exact fireCtTrick_canon hs ..
  · exact fireCtBar_canon hs ..
  · exact fireCtTrigger_canon hs ..
  · exact fireCtLaunch_canon hs ..
  · exact fireCtExit_canon hs ..
  · exact fireCtWdrive_canon hs ..
  · exact readSysOp_canon hs ..
  · exact writeSysOp_canon hs ..
  · exact fireCtEret_canon hs ..
  · exact Trig.needPriv_canon (readSysOp_canon hs ..) ..
  · exact Trig.needPriv_canon (writeSysOp_canon hs ..) ..
  · exact jumpOp_canon hs ..
  · exact callOp_canon hs ..
  · exact retOp_canon hs ..
  · exact loopOp_canon hs ..
  · exact waitOp_canon hs ..
  · exact readSysOp_canon hs ..
  · exact hs

theorem fireAccess_canon (hs : s.Canon) (x) : (fireAccess x s).Canon := by
  unfold fireAccess
  split
  iterate 2 exact agLoad_canon hs ..
  iterate 4 exact agStore_canon hs ..
  iterate 2 exact agStream_canon hs ..
  · exact hs
  iterate 11 exact atOp_canon hs ..
  · exact hs

theorem fire_canon (hs : s.Canon) (x) : (fire x s).Canon := by
  have hscalar := fireScalar_canon hs x
  have hcontrol := fireControl_canon hs x
  have haccess := fireAccess_canon hs x
  have hmessage := fireMessage_canon hs x
  have hvector := fireVector_canon hs x
  have hmatrix := fireMatrix_canon hs x
  have hlabel := fireLabel_canon hs x
  exact .ite hscalar <| .ite hvector <| .ite hmatrix <| .ite hlabel <| .ite hmessage <| .ite hcontrol <|
    .ite haccess <| .ite hscalar <| .ite hcontrol <| .ite haccess hmessage

theorem State.Canon.guard (hs : s.Canon) (c m) : (s.guard c m).1.Canon := by
  unfold State.guard
  dsimp only
  split
  · exact hs
  split
  · exact hs
  split
  · rename_i e
    exact (hs.hiddenTag ..).fst e
  · rename_i e
    exact (hs.hiddenTag ..).fst e
  · rename_i e
    exact (hs.hiddenTag ..).fst e

theorem State.Canon.guarded (hs : s.Canon) (c v g) : (s.guarded c v g).1.Canon := by
  grind [State.guarded, label]

theorem State.Canon.gatherMove (hs : s.Canon) (c t trapMuck a i m) : (s.gatherMove c t trapMuck a i m).1.Canon := by
  unfold State.gatherMove
  dsimp only
  split
  · rename_i e
    exact (hs.guard ..).fst e
  · rename_i e
    exact (hs.guard ..).fst e
  · rename_i e
    exact (hs.guard ..).fst e
  rename_i e
  have h1 := (hs.guard ..).fst e
  split
  · exact h1
  split
  · rename_i e
    exact (h1.guarded ..).fst e
  · rename_i e
    exact (h1.guarded ..).fst e

theorem State.Canon.gatherAll (hs : s.Canon) (c t trapMuck a i ms) : (s.gatherAll c t trapMuck a i ms).1.Canon := by
  induction ms generalizing s c t trapMuck a i with
  | nil => exact hs
  | cons x xs ih => grind [State.gatherAll, gatherMove]

theorem Run6.step_canon {r : Run6} (hs : r.s.Canon) (l x written) : (Run6.step r l x written).s.Canon := by
  have hf := fire_canon hs x
  unfold Run6.step
  grind [Fired.Canon]

theorem State.Canon.noteInputs (hs : s.Canon) (c ls) : (s.noteInputs c ls).Canon := by
  induction ls generalizing s with
  | nil => exact hs
  | cons x xs ih => grind [State.noteInputs, inputIn]

theorem State.Canon.member (hs : s.Canon) (c h moves pc next follower fwd) : (s.member c h moves pc next follower fwd).Canon := by
  unfold State.member
  extract_lets t k0 ms
  have hg := hs.gatherAll c t k0.trapMuck {} 0 ms
  generalize s.gatherAll c t k0.trapMuck {} 0 ms = r0 at hg ⊢
  obtain ⟨s', a⟩ := r0
  dsimp -zeta only at hg ⊢
  extract_lets k s1 xs written r
  have hr : r.s.Canon := by
    unfold r
    split
    · exact hg.updCtx ..
    · exact List.foldlRecOn (motive := fun r : Run6 => r.s.Canon) _ _ (hg.updCtx ..) fun r hr e _ => Run6.step_canon hr ..
  grind [Member.Canon, updCtx, noteInputs, updCore]

theorem Along.step_canon {a : Along} (hs : a.s.Canon) (c h moves pc next follower) :
    (Along.step a c h moves pc next follower).s.Canon := by
  grind [Along.step, State.Canon.member, Member.Canon, State.Canon]

theorem State.Canon.alignRow (hs : s.Canon) (c h) : (s.alignRow c h).Canon := foldl_canon (fun _ _ h => h.updCtx ..) _ hs

theorem State.Canon.issue (hs : s.Canon) (c h p pc next) : (s.issue c h p pc next).Canon := by
  have ha (l : List Nat) : ∀ a : Along, a.s.Canon →
      (l.foldl (fun a m => a.step m h p.moves pc next (m != c)) a).s.Canon := by
    induction l with
    | nil => exact fun a ha => ha
    | cons m l ih => exact fun a ha => ih _ (Along.step_canon ha ..)
  have := ha (s.rowLive c h) { s := s } hs
  unfold State.issue
  grind [alignRow, updCtx, foldl_canon, raiseRow]

theorem State.Canon.word (hs : s.Canon) (last w) : OutcomeCanon (s.word last w) :=
  .ite (.ite (hs.issue ..) trivial) (hs.updCtx ..)

/-! ## Fetch -/

theorem State.Canon.dropTraps (hs : s.Canon) (h ts) : (s.dropTraps h ts).Canon := foldl_canon (fun _ _ h => h.updCtx ..) _ hs

theorem State.Canon.fetch (hs : s.Canon) (c h) : (s.fetch c h).Canon := by
  unfold State.fetch
  extract_lets s1 m ts
  have h1 : s1.Canon := foldl_canon (fun _ _ h => h.landDue ..) _ hs
  refine .ite ((h1.dropTraps ..).raiseRow ..) ?_
  refine .ite h1 ?_
  refine .ite ((h1.updCtx ..).raise ..) ?_
  split
  · exact h1
  · trivial

/-! ## Placement -/

theorem State.Canon.dropAreas (hs : s.Canon) (p i n) : (s.dropAreas p i n).Canon :=
  (foldl_canon (fun _ _ h => h.updCore ..) _ hs).updNode ..

theorem State.Canon.escalate (hs : s.Canon) (p i n) : (s.escalate p i n).Canon := by
  unfold State.escalate
  dsimp only
  split
  · exact hs
  · exact foldl_canon (fun _ _ h => foldl_canon (fun _ _ h => h.updCore ..) _ h) _ ((hs.updPart ..).updNode ..)

theorem State.Canon.failAttempt (hs : s.Canon) (p a) : (s.failAttempt p a).Canon := by
  unfold State.failAttempt
  extract_lets g s1 f s2
  have h1 : s1.Canon := hs.updPart ..
  have h2 : s2.Canon := h1.updNode ..
  split
  · exact h2.escalate ..
  · exact h2

theorem State.Canon.settlePlace (hs : s.Canon) (p i n gs) : (s.settlePlace p i n gs).Canon := hs.updNode ..

theorem State.Canon.reselect (hs : s.Canon) (p i n) : (s.reselect p i n).Canon := (hs.selectNode ..).settle ..

theorem State.Canon.neverFits (hs : s.Canon) (p i n g) : (s.neverFits p i n g).Canon :=
  ite_canon ((hs.dropAreas ..).endNode ..) ((hs.takeSel ..).settle ..)

theorem State.Canon.attempt (hs : s.Canon) (p) : (s.attempt p).Canon := by
  refine ite_canon hs ?_
  split
  · exact hs
  refine ite_canon (hs.reselect ..) ?_
  split
  · exact hs
  refine ite_canon (hs.neverFits ..) ?_
  split
  · exact hs
  · exact hs.updPart ..

theorem State.Canon.setReply (hs : s.Canon) (p c r) : (s.setReply p c r).Canon := hs.updPart ..

theorem State.Canon.probe (hs : s.Canon) (p c) : (s.probe p c).Canon := by
  unfold State.probe
  split
  · exact hs
  refine ite_canon hs ?_
  split
  · exact hs.setReply ..
  · exact ite_canon ((hs.updCore ..).setReply ..) (hs.setReply ..)

theorem State.Canon.probed (hs : s.Canon) (p) : (s.probed p).Canon := by
  unfold State.probed
  split
  · exact hs
  · exact ite_canon hs (ite_canon (hs.updPart ..) (hs.failAttempt ..))

theorem State.Canon.commit (hs : s.Canon) (p c) : (s.commit p c).Canon := by
  unfold State.commit
  split
  · exact hs
  refine ite_canon hs ?_
  split
  · exact ite_canon ((hs.updCore ..).setReply ..) (hs.setReply ..)
  · exact hs.setReply ..

theorem State.Canon.committed (hs : s.Canon) (p) : (s.committed p).Canon := by
  unfold State.committed
  split
  · exact hs
  · exact ite_canon hs (ite_canon ((hs.updPart ..).settlePlace ..) (hs.failAttempt ..))

theorem State.Canon.releaseGrant (hs : s.Canon) (c) : (s.releaseGrant c).Canon := by
  unfold State.releaseGrant
  split
  · exact hs
  · exact ite_canon hs (hs.updCore ..)
  · exact ite_canon hs (hs.updCore ..)

theorem State.Canon.lapse (hs : s.Canon) (c) : (s.lapse c).Canon := by
  unfold State.lapse
  split
  · exact ite_canon (hs.updCore ..) hs
  · exact hs

theorem State.Canon.backoffOver (hs : s.Canon) (p i n) : (s.backoffOver p i n).Canon := by
  unfold State.backoffOver
  split
  · exact ite_canon (hs.updNode ..) hs
  · exact hs

theorem State.Canon.loseRegion (hs : s.Canon) (p i n) : (s.loseRegion p i n).Canon := (hs.freeRegion ..).updNode ..

theorem State.Canon.placeEscalated (hs : s.Canon) (p) : (s.placeEscalated p).Canon := by
  unfold State.placeEscalated
  dsimp only
  split
  · split
    · exact ite_canon hs (hs.escalate ..)
    · exact hs
  · exact ite_canon ((hs.loseRegion ..).reselect ..) (ite_canon (hs.loseRegion ..) (ite_canon (((foldl_canon (fun _ _ h =>
      h.updCore ..) _ hs).updPart ..).settlePlace ..) hs))

theorem State.Canon.takeTranslation (hs : s.Canon) (p i n key t) : (s.takeTranslation p i n key t).Canon :=
  ite_canon (hs.endNode ..) (ite_canon (hs.updNode ..) (hs.endNode ..))

theorem State.Canon.translateNode (hs : s.Canon) (p i n img) : (s.translateNode p i n img).Canon := by
  have h1 := hs.select p (s.node p i n).record true
  unfold State.translateNode
  dsimp only
  split
  · exact hs
  split
  · grind [reselect]
  split <;> rename_i he <;> rw [he] at h1
  · rename_i s' va len vers
    have h2 := h1.devRead p (BitVec.ofNat 64 va) len
    split <;> rename_i hd <;> rw [hd] at h2
    · exact h2.endNode ..
    · grind [endNode, takeTranslation, updPart]
  · exact h1.endNode ..
  · exact h1

theorem State.Canon.dropTranslation (hs : s.Canon) (p key) : (s.dropTranslation p key).Canon := hs.updPart ..

/-! ## Members of gangs -/

theorem State.Canon.codePlaces (hs : s.Canon) (p xs) : (s.codePlaces p xs).1.Canon := by
  induction xs generalizing s with
  | nil => exact hs
  | cons x xs ih => grind [State.codePlaces, walk]

theorem State.Canon.codeBytes (hs : s.Canon) (p va n) : (s.codeBytes p va n).1.Canon := by
  unfold State.codeBytes
  split
  · rename_i e
    exact (hs.codePlaces ..).fst e
  rename_i e
  have h1 := (hs.codePlaces ..).fst e
  split
  · rename_i e
    exact (h1.devBytes ..).fst e
  · rename_i e
    exact (h1.devBytes ..).fst e

theorem State.Canon.loadList (hs : s.Canon) (p g) : (s.loadList p g).1.Canon := by
  unfold State.loadList
  extract_lets first
  have h1 : first.1.Canon := by grind [codeBytes]
  generalize first = r at h1
  split
  · exact h1
  · exact foldl_fst_canon (fun r h hr => by grind [codeBytes]) _ h1

theorem State.Canon.declareBufs (hs : s.Canon) (c n xs) : (s.declareBufs c n xs).Canon := by
  induction xs generalizing s n with
  | nil => exact hs
  | cons x xs ih => grind [State.declareBufs, bufDeclareOp, updCtx]

theorem State.Canon.startMember (hs : s.Canon) (c t r g l) : (s.startMember c t r g l).Canon :=
  (((hs.updCore ..).putAreas ..).declareBufs ..).takeSnap ..

theorem State.Canon.loadTraffic (hs : s.Canon) (z) : (s.loadTraffic z).Canon := hs

theorem State.Canon.restoreMember (hs : s.Canon) (t c) : (s.restoreMember t c).Canon := by
  unfold State.restoreMember
  dsimp only
  split
  · exact ite_canon hs ((ite_canon ((hs.setCore ..).updNode ..) (hs.setCore ..)).loadTraffic ..)
  · exact hs

theorem State.Canon.takeOut (hs : s.Canon) (c old a) : (s.takeOut c old a).1.Canon := by
  grind [State.takeOut, updCore, putAreas]

theorem State.Canon.resumeMember (hs : s.Canon) (c t l old a v) : (s.resumeMember c t l old a v).Canon := by
  unfold State.resumeMember
  extract_lets s1 s2 s3 s4
  have h1 : s1.Canon := hs.updPart ..
  have h2 : s2.Canon := h1.updCore ..
  have h3 : s3.Canon := h2.putAreas ..
  have h4 : s4.Canon := ite_canon (h3.restoreMember ..) h3
  split
  · exact ite_canon h4 (h4.tryRelease ..)
  · exact h4

theorem State.Canon.resumeFinished (hs : s.Canon) (c t old a v) : (s.resumeFinished c t old a v).Canon :=
  (hs.updCore ..).putAreas ..

theorem State.Canon.startGang (hs : s.Canon) (p i n nd g) : (s.startGang p i n nd g).Canon := by
  have h1 := hs.loadList p g
  unfold State.startGang
  split <;> rename_i he <;> rw [he] at h1
  · exact ((foldl_canon (fun _ _ h => foldl_canon (fun _ _ h => h.updCore ..) _ h) _ h1).dropAreas ..).endNode ..
  · extract_lets resumed out s2 s3
    have h2 : out.1.Canon := foldl_fst_canon (fun r m hr => by grind [takeOut]) _ h1
    have h3 : s3.Canon := foldl_canon
      (fun s m h => by grind [resumeFinished, resumeMember, startMember]) _ (h2.updNode ..)
    split
    · exact foldl_canon (fun s e h => h.recheck ..) _ h3
    · exact h3

theorem State.Canon.startTiebreak (hs : s.Canon) (p i n nd g) : (s.startTiebreak p i n nd g).Canon := by
  grind [State.startTiebreak, updCore, loadTraffic, putSnap, loadList, putAreas, foldl_canon]

theorem State.Canon.taskStart (hs : s.Canon) (p i n) : (s.taskStart p i n).Canon := by
  unfold State.taskStart
  dsimp only
  split
  · exact hs
  · exact ite_canon (hs.startGang ..) (ite_canon (hs.startTiebreak ..) hs)

theorem State.Canon.raiseRelease (hs : s.Canon) (c own t) : (s.raiseRelease c own t).Canon :=
  ite_canon (hs.updCore ..) (ite_canon (hs.updCtx ..) (hs.raise ..))

theorem State.Canon.releaseMember (hs : s.Canon) (c) : (s.releaseMember c).Canon := by
  unfold State.releaseMember
  dsimp only
  split
  · split
    · exact hs
    refine ite_canon hs ?_
    split
    · exact ite_canon (((((hs.observe ..).updCtx ..).updCore ..).updCtx ..).raiseRelease ..)
        (((hs.observe ..).updCtx ..).updCore ..)
    · exact ((hs.observe ..).updCtx ..).updCore ..
  · exact hs

theorem State.Canon.dropTraffic (hs : s.Canon) (t) : (s.dropTraffic t).Canon := hs.updPart ..

theorem State.Canon.logGang (hs : s.Canon) (p i n nd) : (s.logGang p i n nd).Canon :=
  foldl_canon (fun _ _ h => h.updCluster ..) _ hs

theorem State.Canon.completeNode (hs : s.Canon) (t) : (s.completeNode t).Canon :=
  ite_canon hs (((foldl_canon (fun _ _ h => h.updCore ..) _ (foldl_canon (fun _ _ h => h.dropTraffic ..) _
    (hs.logGang ..))).dropAreas ..).endNode ..)

theorem State.Canon.evictMember (hs : s.Canon) (c t) : (s.evictMember c t).Canon := by
  grind [State.evictMember, updNode, updCore, updPart, mxStop, putAreas, State.Canon]

theorem State.Canon.evicted (hs : s.Canon) (t) : (s.evicted t).Canon := by
  grind [State.evicted, updNode, evictMember, logGang, foldl_canon]

theorem State.Canon.leave (hs : s.Canon) (c t) : (s.leave c t).Canon := by
  grind [State.leave, updNode, recheck, updCore, evicted, completeNode, State.Canon]

theorem State.Canon.finishMember (hs : s.Canon) (c) : (s.finishMember c).Canon := by
  unfold State.finishMember
  dsimp only
  split
  · exact hs
  · exact ite_canon hs (ite_canon (hs.tryRelease ..) (ite_canon hs (((hs.updCtx ..).countTrigger ..).leave ..)))

theorem State.Canon.evictAt (hs : s.Canon) (c) : (s.evictAt c).Canon := by
  unfold State.evictAt
  dsimp only
  split
  · exact hs
  · exact ite_canon hs (ite_canon (foldl_canon (fun _ _ h => h.updCore ..) _ hs) (ite_canon (ite_canon (foldl_canon (fun _ _ h =>
      h.updCore ..) _ hs) hs) (ite_canon ((foldl_canon (fun _ _ h => h.evictMember ..) _ hs).evicted ..) hs)))

theorem State.Canon.quantumOver (hs : s.Canon) (p i n) : (s.quantumOver p i n).Canon :=
  ite_canon (foldl_canon (fun _ _ h => h.updCore ..) _ (hs.updNode ..)) hs

theorem State.Canon.setHandlerSegs (hs : s.Canon) (c t) : (s.setHandlerSegs c t).Canon := hs.updCtx ..

theorem State.Canon.enterTrap (hs : s.Canon) (c) : (s.enterTrap c).Canon := by
  unfold State.enterTrap
  dsimp only
  split
  · exact hs
  · exact ite_canon hs (ite_canon (((hs.mxStop ..).trapEntry ..).setHandlerSegs ..) ((hs.mxStop ..).trapEntry ..))

theorem State.Canon.haltNow (hs : s.Canon) (c) : (s.haltNow c).Canon := by
  refine ite_canon hs ?_
  refine ite_canon (hs.setCore ..) ?_
  refine ite_canon hs ?_
  split
  · exact ite_canon (hs.enterTrap ..) hs
  · exact (hs.updCtx ..).enterTrap ..

theorem State.Canon.killTask (hs : s.Canon) (p i n) : (s.killTask p i n).Canon :=
  ite_canon (hs.endTask ..) (ite_canon ((hs.dropAreas ..).endNode ..) hs)

theorem State.Canon.flushHeld (hs : s.Canon) (c t) : (s.flushHeld c t).Canon :=
  foldl_canon (fun _ _ h => ite_canon (h.dropOne ..) (h.deliverOne ..)) _ (hs.updPart ..)

theorem State.Canon.stopMember (hs : s.Canon) (c t) : (s.stopMember c t).Canon := by
  unfold State.stopMember
  extract_lets s1
  have h1 : s1.Canon := (hs.flushHeld ..).updCore ..
  exact h1

theorem State.Canon.haltStop (hs : s.Canon) (c) : (s.haltStop c).Canon := by
  unfold State.haltStop
  dsimp only
  split
  · exact hs
  · exact ite_canon hs (ite_canon (((ite_canon (hs.flushHeld ..) (hs.stopMember ..)).keep.updCtx ..).leave ..) ((ite_canon
      (hs.flushHeld ..) (hs.stopMember ..)).keep.updCtx ..))

/-! ## Debug -/

theorem State.Canon.debugHalt (hs : s.Canon) (c) : (s.debugHalt c).Canon := ite_canon hs ((hs.updCore ..).haltNow ..)

theorem State.Canon.debugWrite (hs : s.Canon) (c item v t) : (s.debugWrite c item v t).Canon := by
  unfold State.debugWrite
  dsimp only
  split
  · exact hs.updCtx ..
  · split
    · rename_i e
      exact (hs.sysWrite ..).fst e
    · exact hs
  iterate 7 exact hs.updCore ..
  · exact hs.updCtx ..
  iterate 3 exact hs

theorem State.Canon.debugOut (hs : s.Canon) (v t) : (s.debugOut v t).Canon := hs

theorem State.Canon.debugRead (hs : s.Canon) (c item) : (s.debugRead c item).Canon := by
  unfold State.debugRead
  dsimp only
  split
  · exact hs.debugOut ..
  · exact (hs.sysRead ..).debugOut ..
  · exact hs.debugOut ..
  · split <;> exact hs.debugOut ..
  · exact hs
  · exact hs
  iterate 5 exact hs.debugOut ..
  · split
    · exact hs.debugOut ..
    · exact hs
  split
  · exact hs.debugOut ..
  · exact hs

/-! ## Engine -/

theorem State.Canon.xformDiagram (hs : s.Canon) (c t op space a b v) : (s.xformDiagram c t op space a b v).1.Canon := by
  grind [State.xformDiagram, clRun]

theorem State.Canon.asEngine {α : Type} {f : State → State × α} (hf : ∀ s, s.Canon → (f s).1.Canon) (hs : s.Canon) (c lsp) :
    (s.asEngine c lsp f).1.Canon :=
  (hf _ (hs.updCtx ..)).updCtx ..

theorem State.Canon.xformEnd (hs : s.Canon) (p i n ok) : (s.xformEnd p i n ok).Canon := (hs.updPart ..).endNode ..

theorem State.Canon.xformCopyEnd (hs : s.Canon) (p i n k) : (s.xformCopyEnd p i n k).Canon := by
  grind [State.xformCopyEnd, dropUses, xformEnd]

theorem State.Canon.xformBegin (hs : s.Canon) (p i n cmd) : (s.xformBegin p i n cmd).Canon := by
  unfold State.xformBegin
  grind [updNode, xformEnd, updPart, asEngine, copyOpen, xformDiagram]

theorem State.Canon.xformGo (hs : s.Canon) (p j) : (s.xformGo p j).Canon := by
  grind [State.xformGo, copyChunk, label, xformEnd, xformCopyEnd, updPart, asEngine, State.Canon]

theorem State.Canon.startXform (hs : s.Canon) (p) : (s.startXform p).Canon := by
  unfold State.startXform
  split
  · exact hs
  split
  · rename_i e
    exact ((hs.devGranule ..).fst e).xformEnd ..
  rename_i e
  have h1 := (hs.devGranule ..).fst e
  split
  · exact h1.xformEnd ..
  · exact h1.xformBegin ..

theorem State.Canon.xformStep (hs : s.Canon) (p a) : (s.xformStep p a).Canon := by
  unfold State.xformStep
  split
  · exact hs.startXform ..
  · exact hs.xformGo ..

/-! ## Register events -/

theorem State.Canon.written {r : State × Option Trap} (hs : r.1.Canon) (c) : (State.written r c).Canon := by
  unfold State.written
  split
  · exact hs
  · exact ite_canon (hs.raise ..) hs

theorem State.Canon.bufEvent {f : State → State × Option Trap} (hs : s.Canon) (hf : (f s).1.Canon) (c n) :
    (s.bufEvent c n f).Canon :=
  ite_canon (hf.written ..) hs

theorem State.Canon.mgmtWrite (hs : s.Canon) (off v) : (s.mgmtWrite off v).Canon :=
  ite_canon hs (ite_canon hs (ite_canon hs (ite_canon hs (ite_canon hs (ite_canon hs (ite_canon (hs.updDie ..) (ite_canon hs
    hs)))))))

theorem State.Canon.mgmtAccess (hs : s.Canon) (off v) : (s.mgmtAccess off v).Canon := by
  refine ite_canon hs ?_
  split
  · exact ite_canon (hs.accepted ..) ((hs.accepted ..).mgmtWrite ..)
  · exact ite_canon (hs.accepted ..) ((hs.accepted ..).reply ..)

/-! ## The platform -/

theorem State.Canon.hostWrite (hs : s.Canon) (a bs) : (s.hostWrite a bs).Canon := by
  grind [State.hostWrite, sendHost, State.Canon, foldl_canon]

theorem State.Canon.putGranules (hs : s.Canon) (r i xs) : (s.putGranules r i xs).Canon := by
  induction xs generalizing s i with
  | nil => exact hs
  | cons x xs ih => grind [State.putGranules, hostWrite]

theorem State.Canon.writeEvent (hs : s.Canon) : s.writeEvent.Canon := by
  grind [State.writeEvent, putGranules, freeDword, State.Canon]

theorem State.Canon.passTime (hs : s.Canon) (n) : (s.passTime n).Canon := by
  grind [State.passTime, updDie, State.Canon, foldl_canon]

theorem State.Canon.telemetry (hs : s.Canon) (d) : (s.telemetry d).Canon := by
  grind [State.telemetry, updDie, hostWrite, choose, freeDword, State.Canon]

theorem State.Canon.updMonitor (hs : s.Canon) (u f) : (s.updMonitor u f).Canon := hs

theorem State.Canon.monSample (hs : s.Canon) (u v) : (s.monSample u v).Canon := by
  refine ite_canon hs ?_
  refine ite_canon ?_ (ite_canon (ite_canon hs (hs.updMonitor ..)) (ite_canon (hs.updMonitor ..) hs))
  split
  · exact hs
  · exact hs.updMonitor ..

theorem State.Canon.monEnable (hs : s.Canon) (u v) : (s.monEnable u v).Canon := ite_canon hs ((hs.accepted ..).updMonitor ..)

theorem State.Canon.monDump (hs : s.Canon) (u) : (s.monDump u).Canon := ite_canon hs ((hs.hostWrite ..).updMonitor ..)

theorem State.Canon.measure (hs : s.Canon) (xs) : (s.measure xs).Canon := by
  induction xs generalizing s with
  | nil => exact hs
  | cons x xs ih => grind [State.measure, State.Canon]

theorem State.Canon.bootVerify (hs : s.Canon) (pubs images) : (s.bootVerify pubs images).Canon :=
  ite_canon hs (ite_canon (hs.measure ..) hs)

theorem State.Canon.quoteStep (hs : s.Canon) (req) : (s.quoteStep req).Canon := by
  unfold State.quoteStep
  grind [accepted, hostWrite, State.Canon]

theorem State.Canon.wiped (l) : (s.wiped l).Canon := State.Canon.reset

theorem State.Canon.bootCore (hs : s.Canon) (c v) : (s.bootCore c v).Canon := ite_canon ((hs.setCore ..).event ..) (hs.setCore ..)

theorem State.Canon.resetWipe (banks) : (s.resetWipe banks).Canon :=
  foldl_canon (fun _ _ h => ite_canon (h.bootCore ..) h) _ (wiped ..)

theorem State.Canon.keepBanks (hs : s.Canon) (old) : (s.keepBanks old).Canon := foldl_canon (fun _ _ h => h.bootCore ..) _ hs

theorem State.Canon.lifeStep (hs : s.Canon) (target token) : (s.lifeStep target token).Canon :=
  ite_canon ((wiped ..).keepBanks ..) hs

/-! ## Firmware -/

theorem State.Canon.wipeHomes (hs : s.Canon) (p) : (s.wipeHomes p).Canon := hs.filter ⟨rfl, rfl, rfl⟩

theorem State.Canon.createPart (hs : s.Canon) (n p) : (s.createPart n p).Canon :=
  ite_canon hs (((foldl_canon (fun _ _ h => h.updCore ..) _ (hs.wipeHomes ..)).setPart ..).refreshDfv ..)

theorem State.Canon.destroyPart (hs : s.Canon) (n) : (s.destroyPart n).Canon := by
  refine ite_canon hs ?_
  extract_lets keep s1
  have h1 : s1.Canon := hs.setPart ..
  exact h1

theorem State.Canon.createLSpace (hs : s.Canon) (p n x) : (s.createLSpace p n x).Canon := by
  unfold State.createLSpace
  dsimp only
  split
  · exact hs
  · exact ite_canon hs (hs.updPart ..)

theorem State.Canon.destroyLSpace (hs : s.Canon) (p n) : (s.destroyLSpace p n).Canon := ite_canon (hs.updPart ..) hs

theorem State.Canon.createDSpace (hs : s.Canon) (p n x) : (s.createDSpace p n x).Canon := ite_canon hs (hs.updPart ..)

theorem State.Canon.destroyDSpace (hs : s.Canon) (p n) : (s.destroyDSpace p n).Canon := by
  unfold State.destroyDSpace
  dsimp only
  split
  · exact hs
  · exact ite_canon hs (foldl_canon (fun _ _ h => h.wipeRange ..) _ (hs.updPart ..))

theorem State.Canon.setWindow (hs : s.Canon) (p w base len) : (s.setWindow p w base len).Canon := ite_canon hs (hs.updPart ..)

theorem State.Canon.bindPort (hs : s.Canon) (port p) : (s.bindPort port p).Canon := ite_canon hs (hs.updPort ..)

theorem State.Canon.grantKey (hs : s.Canon) (p key) : (s.grantKey p key).Canon := ite_canon hs (hs.updPart ..)

/-! ## Links -/

theorem State.Canon.linkEvent (hs : s.Canon) (kind p fields) : (s.linkEvent kind p fields).Canon := hs.event ..

theorem State.Canon.laneFails (hs : s.Canon) (p lane) : (s.laneFails p lane).Canon := by
  grind [State.laneFails, linkEvent, updPort]

theorem State.Canon.retrained (hs : s.Canon) (p mask) : (s.retrained p mask).Canon := by
  unfold State.retrained
  dsimp only
  split
  · exact ite_canon ((hs.updPort ..).linkEvent ..) ((hs.updPort ..).linkEvent ..)
  · exact hs

theorem State.Canon.trainRetry (hs : s.Canon) (p ok mask) : (s.trainRetry p ok mask).Canon := by
  grind [State.trainRetry, linkEvent, updPort]

theorem State.Canon.endXcopies (hs : s.Canon) (p) : (s.endXcopies p).Canon := by
  grind [State.endXcopies, copyPut, updPart, foldl_canon]

theorem State.Canon.portReset (hs : s.Canon) (p) : (s.portReset p).Canon := ite_canon hs ((hs.endXcopies ..).updPort ..)

theorem State.Canon.peerReset (hs : s.Canon) (p) : (s.peerReset p).Canon := ite_canon hs ((hs.endXcopies ..).updPort ..)

theorem State.Canon.ackPacket (hs : s.Canon) (q refused) : (s.ackPacket q refused).Canon := by
  refine ite_canon hs ?_
  split
  · exact hs.updPart ..
  split
  · exact ite_canon hs (hs.copyPut ..)
  · exact hs

theorem State.Canon.linkAck (hs : s.Canon) (p n refused) : (s.linkAck p n refused).Canon :=
  ite_canon hs (foldl_canon (fun _ _ h => h.ackPacket ..) _ (foldl_canon (fun _ _ h => h.ackPacket ..) _ (hs.updPort ..)))

theorem State.Canon.linkNak (hs : s.Canon) (p) : (s.linkNak p).Canon := ite_canon (hs.updPort ..) hs

theorem State.Canon.ackTimeout (hs : s.Canon) (p) : (s.ackTimeout p).Canon := ite_canon (hs.updPort ..) hs

theorem State.Canon.outsideWrite (hs : s.Canon) (p a bs) : (s.outsideWrite p a bs).1.Canon := hs.devWrite ..

theorem State.Canon.outsideRead (hs : s.Canon) (p a n) : (s.outsideRead p a n).1.Canon := by
  unfold State.outsideRead
  split
  · rename_i e
    exact ((hs.devRead ..).fst e).reply ..
  · rename_i e
    exact (hs.devRead ..).fst e

theorem State.Canon.refusePacket (hs : s.Canon) (p cmd va reason) : (s.refusePacket p cmd va reason).Canon :=
  ((hs.accepted ..).updPort ..).linkEvent ..

theorem State.Canon.packet (hs : s.Canon) (p seq cmd va d) : (s.packet p seq cmd va d).Canon := by
  refine ite_canon hs ?_
  refine ite_canon (ite_canon (hs.updPort ..) hs) ?_
  refine ite_canon hs ?_
  refine ite_canon (hs.accepted ..) ?_
  refine ite_canon (hs.accepted ..) ?_
  split
  · exact hs.choose.refusePacket ..
  · exact hs.choose.refusePacket ..
  split
  · rename_i e
    exact ((hs.outsideWrite ..).fst e).refusePacket ..
  · rename_i e
    exact ((hs.outsideWrite ..).fst e).accepted ..

theorem State.Canon.hostAccess (hs : s.Canon) (p w off write bs) : (s.hostAccess p w off write bs).Canon := by
  unfold State.hostAccess
  dsimp only
  split
  · exact hs
  refine ite_canon hs ?_
  split
  · rename_i e
    exact ((ite_fst_canon (hs.outsideWrite ..) (hs.outsideRead ..)).fst e).accepted ..
  · rename_i e
    exact ((((ite_fst_canon (hs.outsideWrite ..) (hs.outsideRead ..)).fst e).accepted ..).replyError ..).partEvent ..

/-! ## The management window -/

theorem State.Canon.segmentBytes (hs : s.Canon) (p va len o n) : (s.segmentBytes p va len o n).1.Canon := by
  induction n generalizing s o with
  | zero => exact hs
  | succ n ih => grind [State.segmentBytes, codeBytes]

theorem State.Canon.scan (hs : s.Canon) (a p va len) : (s.scan a p va len).1.Canon := by
  grind [State.scan, segmentBytes]

theorem State.Canon.declaredVregs (hs : s.Canon) (p a) : (s.declaredVregs p a).1.Canon := by
  unfold State.declaredVregs
  split
  · rename_i e
    exact (hs.devRead ..).fst e
  · rename_i e
    exact (hs.devRead ..).fst e

theorem State.Canon.declaredVers (hs : s.Canon) (p a) : (s.declaredVers p a).1.Canon := by
  unfold State.declaredVers
  split
  · rename_i e
    exact (hs.devRead ..).fst e
  · rename_i e
    exact (hs.devRead ..).fst e

theorem State.Canon.scanSegment (hs : s.Canon) (p h priv va len decl entry) :
    (s.scanSegment p h priv va len decl entry).Canon := by
  grind [State.scanSegment, declaredVregs, declaredVers, updPart, scan]

/-! ## Reliability -/

theorem State.Canon.forget (hs : s.Canon) (t) : (s.forget t).Canon := hs.updPart ..

theorem State.Canon.undoSaved (hs : s.Canon) (t c a) : (s.undoSaved t c a).Canon := by
  unfold State.undoSaved
  dsimp only
  split
  · exact hs
  · exact ite_canon (((hs.updCore ..).putAreas ..).updNode ..) ((hs.updCore ..).putAreas ..)

theorem State.Canon.rollBack (hs : s.Canon) (c) : (s.rollBack c).Canon := by
  unfold State.rollBack
  dsimp only
  split
  · exact ite_canon (foldl_canon (fun _ _ h => h.updCore ..) _ hs) (ite_canon ((foldl_canon (fun _ _ h => h.updCore ..) _
      hs).kill ..) (ite_canon ((foldl_canon (fun _ _ h => h.updCore ..) _ hs).kill ..) (foldl_canon (fun _ _ h =>
      h.restoreMember ..) _ (foldl_canon (fun _ _ h => h.undoSaved ..) _ ((hs.event ..).forget ..)))))
  · exact hs

theorem State.Canon.updItem (hs : s.Canon) (e f) : (s.updItem e f).Canon := hs.updPart ..

theorem State.Canon.noteMismatch (hs : s.Canon) (e) : (s.noteMismatch e).Canon := hs.updNode ..

theorem State.Canon.pairAtomic (hs : s.Canon) (a b) : (s.pairAtomic a b).Canon := by
  unfold State.pairAtomic
  split
  · exact ite_fst_canon hs (hs.stamp ..)
  · exact hs

theorem State.Canon.meet (hs : s.Canon) (e) : (s.meet e).Canon := by
  unfold State.meet
  dsimp only
  split
  · exact hs
  · exact ite_canon (hs.noteMismatch ..) (ite_canon (((hs.updItem ..).updItem ..).pairAtomic ..)
      (((hs.updItem ..).updItem ..).pairAtomic ..))

theorem State.Canon.itemArrives (hs : s.Canon) (i) : (s.itemArrives i).Canon := by
  unfold State.itemArrives
  dsimp only
  split
  · exact hs
  · exact ite_canon hs (ite_canon (hs.updItem ..) (((hs.updItem ..).meet ..).tryDuplex ..))

theorem State.Canon.itemTimeout (hs : s.Canon) (i) : (s.itemTimeout i).Canon := by
  unfold State.itemTimeout
  split
  · exact hs
  · exact ite_canon ((hs.noteMismatch ..).tryDuplex ..) hs

theorem State.Canon.releaseGang (hs : s.Canon) (t) : (s.releaseGang t).Canon :=
  foldl_canon (fun _ _ h => h.updCore ..) _ ((hs.logGang ..).forget ..)

theorem State.Canon.renumber (hs : s.Canon) (t gs f) : (s.renumber t gs f).Canon :=
  (foldl_canon (fun _ _ h => h.updCore ..) _ hs).updPart ..

theorem State.Canon.loseVote (hs : s.Canon) (p c) : (s.loseVote p c).Canon := hs.updCore ..

theorem State.Canon.meetAll (hs : s.Canon) (t) : (s.meetAll t).Canon := foldl_canon (fun _ _ h => h.meet ..) _ hs

theorem State.Canon.settleVerdict (hs : s.Canon) (t a b c lost) : (s.settleVerdict t a b c lost).Canon := by
  grind [State.settleVerdict, updNode, releaseGang, loseVote, tryDuplex, renumber, choose, completeNode, meetAll, event,
    foldl_canon]

theorem State.Canon.giveVerdict (hs : s.Canon) (p i n) : (s.giveVerdict p i n).Canon := by
  unfold State.giveVerdict
  dsimp only
  split
  · refine ite_canon hs ?_
    split
    iterate 3 exact hs.settleVerdict ..
    · exact hs.kill ..
  · exact hs

theorem State.Canon.decay (hs : s.Canon) (c) : (s.decay c).Canon := ite_canon hs (hs.updCore ..)

theorem State.Canon.quarantineAt (hs : s.Canon) (c) : (s.quarantineAt c).Canon := by
  grind [State.quarantineAt, refreshDfv, updCore, event]

theorem stackEvent_canon (hs : s.Canon) (kind k fields) : (stackEvent s kind k fields).Canon := hs.event ..

theorem State.Canon.loseTop (hs : s.Canon) (k) : (s.loseTop k).Canon := hs.filter ⟨rfl, rfl, rfl⟩

theorem State.Canon.layerWarn (hs : s.Canon) (k layer) : (s.layerWarn k layer).Canon :=
  ite_canon hs (stackEvent_canon (hs.updStk ..) ..)

theorem State.Canon.ackOver (hs : s.Canon) (k) : (s.ackOver k).Canon := ite_canon (hs.updStk ..) hs

theorem State.Canon.mapOut (hs : s.Canon) (k layer poisoned) : (s.mapOut k layer poisoned).Canon :=
  stackEvent_canon ((hs.loseTop ..).updStk ..) ..

theorem State.Canon.remapDone (hs : s.Canon) (k) : (s.remapDone k).Canon := ite_canon (hs.mapOut ..) hs

theorem State.Canon.layerGone (hs : s.Canon) (k layer lost) : (s.layerGone k layer lost).Canon := by
  refine ite_canon hs ?_
  extract_lets gs s1
  have h1 : s1.Canon := foldl_canon (fun _ _ h => h.setMemStat ..) _ hs
  exact ite_canon (stackEvent_canon h1 ..) (h1.mapOut ..)

theorem State.Canon.takeover (hs : s.Canon) (k) : (s.takeover k).Canon := ite_canon hs (stackEvent_canon (hs.updStk ..) ..)

theorem State.Canon.srEnter (hs : s.Canon) (k temp) : (s.srEnter k temp).Canon :=
  ite_canon hs (stackEvent_canon (hs.updStk ..) ..)

theorem State.Canon.srTimeout (hs : s.Canon) (k) : (s.srTimeout k).Canon := ite_canon (hs.updStk ..) hs

theorem State.Canon.endHeld (hs : s.Canon) (k) : (s.endHeld k).Canon :=
  foldl_canon (fun _ _ h => ite_canon (h.keep.serveGone ..) h) _ hs

theorem State.Canon.srExit (hs : s.Canon) (k temp) : (s.srExit k temp).Canon := by
  unfold State.srExit
  extract_lets s1
  have h1 : s1.Canon := ite_canon (hs.endHeld ..) hs
  exact ite_canon h1 (stackEvent_canon (h1.updStk ..) ..)

theorem State.Canon.fieldTest (hs : s.Canon) (k bad) : (s.fieldTest k bad).Canon := by
  refine ite_canon hs ?_
  split
  · exact hs.updCluster ..
  · exact (foldl_canon (fun _ _ h => h.updCore ..) _ hs).post ..

theorem State.Canon.replayInput (hs : s.Canon) (c bytes) : (s.replayInput c bytes).Canon := by
  unfold State.replayInput
  dsimp only
  split
  · split
    · exact hs.keep.updCtx ..
    · exact hs
    · exact hs
  · exact hs.updCore ..
  · exact hs

/-! ## Events -/

theorem execLoadDataReturn_canon (hs : s.Canon) (c q) : OutcomeCanon (execLoadDataReturn c q s) := by
  unfold execLoadDataReturn
  dsimp only
  split
  · split
    · exact hs.whole (((hs.observe ..).recordLoad ..).updCtx ..)
    · exact hs
  · exact hs

theorem execAtomicReply_canon (hs : s.Canon) (c) : OutcomeCanon (execAtomicReply c s) := by
  unfold execAtomicReply
  split
  · rename_i r _
    have hr : State.Canon { s with replies := s.replies.erase r } := hs
    exact hs.whole ((hr.recordIn ..).updCore ..)
  · exact hs

theorem execHomeRequest_canon (hs : s.Canon) (i) : OutcomeCanon (execHomeRequest i s) := by
  unfold execHomeRequest
  split
  · split
    · dsimp only [OutcomeCanon]
      split
      · exact hs
      · exact hs.whole (hs.serve ..)
    · exact hs
  · exact hs

theorem execGangWindowRequest_canon (hs : s.Canon) (i) : OutcomeCanon (execGangWindowRequest i s) := by
  unfold execGangWindowRequest
  split
  · split
    · exact hs
    · dsimp only [OutcomeCanon]
      split
      · exact hs
      · exact hs.whole ((hs.remoteTurn ..).serve ..)
  · exact hs

theorem execRefusalReturn_canon (hs : s.Canon) (c) : OutcomeCanon (execRefusalReturn c s) := by
  unfold execRefusalReturn
  split
  · rename_i r _
    have hr : State.Canon { s with refusals := s.refusals.erase r } := hs
    exact (hr.updCtx ..).storeDone ..
  · exact hs

theorem execAtomicEngineGrant_canon (hs : s.Canon) (k) : OutcomeCanon (execAtomicEngineGrant k s) := by
  have hp := hs.enterPorts k ((s.atomicsAt k).map (·.1))
  unfold execAtomicEngineGrant
  extract_lets t q sources src u
  have hu : u.Canon := hp.updCluster ..
  split
  · exact hp
  · split
    · split
      · exact hu.whole ((((hu.dropReq ..).performAtomic ..).noteApplied ..).retryDuplex ..)
      · exact hu
    · exact hu

theorem execCrossDieWriteApply_canon (hs : s.Canon) (i) : OutcomeCanon (execCrossDieWriteApply i s) := by
  unfold execCrossDieWriteApply
  split
  · split
    · exact hs
    · exact hs.whole (((hs.placeTurn ..).serve ..).noteApplied ..)
  · exact hs

theorem execXlinvComplete_canon (hs : s.Canon) (p) : OutcomeCanon (execXlinvComplete p s) := by
  have h {cores clusters} : State.Canon { s with cores := cores, clusters := clusters } := hs
  exact .ite hs (h.updPart ..)

theorem execBfmtWrite_canon (hs : s.Canon) (c b v) : OutcomeCanon (execBfmtWrite c b v s) := by
  dsimp only [execBfmtWrite, OutcomeCanon]
  split
  · exact hs.updCore ..
  · exact hs

theorem execRegisterWrite_canon (hs : s.Canon) (mgmt c n v) : OutcomeCanon (execRegisterWrite mgmt c n v s) := by
  dsimp only [execRegisterWrite, OutcomeCanon]
  split
  · exact hs.whole (hs.mgmtAccess ..)
  · split
    · exact hs
    · split
      · exact (hs.sysWrite ..).written ..
      · exact hs

theorem execDebugPortAccess_canon (hs : s.Canon) (c item write v t) :
    OutcomeCanon (execDebugPortAccess c item write v t s) := by
  dsimp only [execDebugPortAccess, OutcomeCanon]
  split
  · exact hs
  · split
    · exact hs.debugWrite ..
    · exact hs.debugRead ..

theorem execDebugResume_canon (hs : s.Canon) (c) : OutcomeCanon (execDebugResume c s) := by
  dsimp only [execDebugResume, OutcomeCanon]
  split
  · exact hs.updCore ..
  · exact hs

theorem execMxFillComplete_canon (hs : s.Canon) (c) : OutcomeCanon (execMxFillComplete c s) :=
  .ite (hs.mxComplete ..) hs

theorem execMxMmaComplete_canon (hs : s.Canon) (c) : OutcomeCanon (execMxMmaComplete c s) :=
  .ite (hs.mxComplete ..) hs

theorem execMxDrainComplete_canon (hs : s.Canon) (c) : OutcomeCanon (execMxDrainComplete c s) :=
  .ite (hs.whole ((hs.turnFor ..).mxComplete ..)) hs

theorem execMmatStepStart_canon (hs : s.Canon) (c) : OutcomeCanon (execMmatStepStart c s) := by
  unfold execMmatStepStart
  grind [OutcomeCanon, State.Canon.updCtx]

theorem execBsumSetArrive_canon (hs : s.Canon) (i) : OutcomeCanon (execBsumSetArrive i s) := by
  unfold execBsumSetArrive
  split
  · exact hs
  · exact .ite hs (hs.whole (hs.bsumArrives ..))

theorem execLabelResolveReply_canon (hs : s.Canon) (c) : OutcomeCanon (execLabelResolveReply c s) := by
  unfold execLabelResolveReply
  grind [OutcomeCanon, State.Canon.resolveCore, State.Canon.lbRetry, State.Canon.updCtx]

theorem execMessageArrive_canon (hs : s.Canon) (i) : OutcomeCanon (execMessageArrive i s) := by
  have h {msgs} : State.Canon { s with msgs := msgs } := hs
  unfold execMessageArrive
  split
  · exact hs
  · exact .ite hs (h.putMail ..)

/-! ## Every step -/

theorem event_canon (hs : s.Canon) {i : Instr} (hi : slotOf i = none) : OutcomeCanon (exec i s) := by
  cases i with
  | resultLand _ => exact hs.landDue ..
  | loadDataReturn _ _ => exact execLoadDataReturn_canon hs ..
  | atomicReply _ => exact execAtomicReply_canon hs ..
  | streamElementIssue _ _ => exact hs.whole (hs.streamElement ..)
  | homeRequest _ => exact execHomeRequest_canon hs ..
  | refusalReturn _ => exact execRefusalReturn_canon hs ..
  | atomicEngineGrant _ => exact execAtomicEngineGrant_canon hs ..
  | crossDieWriteApply _ => exact execCrossDieWriteApply_canon hs ..
  | xlinvWrite _ _ => exact hs.partWrite ..
  | xlinvComplete _ => exact execXlinvComplete_canon hs ..
  | bufDeclare _ _ _ => exact hs.bufEvent (hs.bufDeclareOp ..) ..
  | bufReset _ _ => exact hs.bufEvent (hs.bufResetOp ..) ..
  | bufSetfull _ _ => exact hs.bufEvent (hs.bufSetfullOp ..) ..
  | bufSetempty _ _ => exact hs.bufEvent (hs.bufSetemptyOp ..) ..
  | vflagsWrite _ _ => exact hs.updCtx ..
  | bfmtWrite _ _ _ => exact execBfmtWrite_canon hs ..
  | ctlabWrite _ _ _ => exact (hs.sysWrite ..).written ..
  | returnStackPopRead _ _ => exact hs.updCtx ..
  | returnStackInsert _ _ _ => exact hs.updCtx ..
  | registerWrite _ _ _ _ => exact execRegisterWrite_canon hs ..
  | launchRecordStore _ _ _ => exact hs.launchStore ..
  | launchDequeue _ => exact hs.whole (hs.dequeueLaunch ..)
  | placementAttempt _ => exact hs.whole (hs.attempt ..)
  | reserveProbe _ _ => exact hs.probe ..
  | probeResponse _ => exact hs.probed ..
  | reserveCommit _ _ => exact hs.commit ..
  | grantRelease _ => exact hs.releaseGrant ..
  | grantLapse _ => exact hs.lapse ..
  | backoffExpire _ _ _ => exact hs.backoffOver ..
  | escalatedPlacement _ => exact hs.placeEscalated ..
  | taskStart _ _ _ => exact hs.whole (hs.taskStart ..)
  | xformNodeStart _ _ => exact hs.whole (hs.xformStep ..)
  | eventNodeStart _ => exact hs.whole (hs.startEvent ..)
  | subgraphServe _ => exact hs.whole (hs.serveSubgraph ..)
  | subgraphAdmit _ => exact hs.whole (hs.admitChild ..)
  | memberFinish _ => exact hs.whole (hs.finishMember ..)
  | memberRelease _ => exact hs.whole (hs.releaseMember ..)
  | quantumExpire _ _ _ => exact hs.quantumOver ..
  | memberEvict _ => exact hs.evictAt ..
  | trapEntry _ => exact (hs.enterTrap ..).haltNow ..
  | haltTreeStop _ => exact hs.whole (hs.haltStop ..)
  | debugHalt _ => exact hs.debugHalt ..
  | debugPortAccess _ _ _ _ _ => exact execDebugPortAccess_canon hs ..
  | debugResume _ => exact execDebugResume_canon hs ..
  | scanSegment _ _ _ _ _ _ _ => exact hs.whole (hs.scanSegment ..)
  | translatePortable _ _ _ _ => exact hs.whole (hs.translateNode ..)
  | copy _ => exact hs.whole (hs.startHead ..)
  | copy2d _ => exact hs.whole (hs.startHead ..)
  | gather _ => exact hs.whole (hs.startHead ..)
  | scatter _ => exact hs.whole (hs.startHead ..)
  | fill _ => exact hs.whole (hs.startHead ..)
  | expand _ => exact hs.whole (hs.startHead ..)
  | swz _ => exact hs.whole (hs.startHead ..)
  | xcopy _ => exact hs.whole (hs.startHead ..)
  | copyChunk _ => exact hs.whole (hs.copyStep ..)
  | mxFillComplete _ => exact execMxFillComplete_canon hs ..
  | mxMmaComplete _ => exact execMxMmaComplete_canon hs ..
  | mmatStepStart _ => exact execMmatStepStart_canon hs ..
  | mxDrainComplete _ => exact execMxDrainComplete_canon hs ..
  | bsumSetArrive _ => exact execBsumSetArrive_canon hs ..
  | nopBlock _ => exact hs.whole (hs.wdBlock ..)
  | mvaccBlock _ => exact hs.whole (hs.wdBlock ..)
  | mmaccBlock _ => exact hs.whole (hs.wdBlock ..)
  | biasBlock _ => exact hs.whole (hs.wdBlock ..)
  | scaleBlock _ => exact hs.whole (hs.wdBlock ..)
  | actBlock _ => exact hs.whole (hs.wdBlock ..)
  | loadvBlock _ => exact hs.whole (hs.wdBlock ..)
  | storeBlock _ => exact hs.whole (hs.wdBlock ..)
  | sendBlock _ => exact hs.whole (hs.wdBlock ..)
  | selectBlock _ => exact hs.whole (hs.wdBlock ..)
  | syncBlock _ => exact hs.whole (hs.wdBlock ..)
  | exitBlock _ => exact hs.whole (hs.wdBlock ..)
  | trapbBlock _ => exact hs.whole (hs.wdBlock ..)
  | blockPayloadGranule _ => exact hs.whole (hs.wdPayload ..)
  | labelResolveReply _ => exact execLabelResolveReply_canon hs ..
  | carillonOperation _ => exact hs.whole (hs.carillon ..)
  | messageArrive _ => exact execMessageArrive_canon hs ..
  | hostWindowAccess _ _ _ _ _ => exact hs.whole (hs.hostAccess ..)
  | linkPacketReceive _ _ _ _ _ => exact hs.whole (hs.packet ..)
  | linkAckReceive _ _ _ => exact hs.whole (hs.linkAck ..)
  | linkNakReceive _ _ => exact hs.linkNak ..
  | linkAckTimeout _ => exact hs.ackTimeout ..
  | laneFailure _ _ => exact hs.laneFails ..
  | linkRetrainComplete _ _ => exact hs.retrained ..
  | linkTrainRetry _ _ _ => exact hs.trainRetry ..
  | lctlReset _ => exact hs.whole (hs.portReset ..)
  | eventRingWrite => exact hs.whole hs.writeEvent
  | rollback _ => exact hs.whole (hs.rollBack ..)
  | duplexItemArrive _ => exact hs.whole (hs.itemArrives ..)
  | duplexPairTimeout _ => exact hs.whole (hs.itemTimeout ..)
  | verdict _ _ _ => exact hs.whole (hs.giveVerdict ..)
  | scoreDecay _ => exact hs.decay ..
  | quarantine _ => exact hs.quarantineAt ..
  | layerwarn _ _ => exact hs.layerWarn ..
  | stkctlAck _ => exact hs.stkAck ..
  | layerAckTimeout _ => exact hs.ackOver ..
  | layerRemapComplete _ => exact hs.remapDone ..
  | layerAbruptFailure _ _ _ => exact hs.layerGone ..
  | refreshTakeover _ => exact hs.takeover ..
  | srenter _ _ => exact hs.srEnter ..
  | selfRefreshTimeout _ => exact hs.srTimeout ..
  | srexit _ _ => exact hs.srExit ..
  | fieldTest _ _ => exact hs.fieldTest ..
  | resetWipe _ => exact State.Canon.resetWipe ..
  | partitionCreate _ _ _ _ _ _ => exact hs.createPart ..
  | partitionDestroy _ => exact hs.destroyPart ..
  | labelSpaceCreate _ _ _ _ _ _ => exact hs.createLSpace ..
  | labelSpaceDestroy _ _ => exact hs.destroyLSpace ..
  | diagramSpaceCreate _ _ _ _ _ _ _ _ _ => exact hs.createDSpace ..
  | diagramSpaceDestroy _ _ => exact hs.destroyDSpace ..
  | telemetryRecord _ => exact hs.whole (hs.telemetry ..)
  | monitorSample _ _ => exact hs.monSample ..
  | monitorEnable _ _ => exact hs.monEnable ..
  | monitorDump _ => exact hs.whole (hs.monDump ..)
  | bootVerify _ _ => exact hs.bootVerify ..
  | quoteRequest _ => exact hs.whole (hs.quoteStep ..)
  | lifecycleTransition _ _ => exact hs.lifeStep ..
  | commitResponse _ => exact hs.committed ..
  | gangWindowRequest _ => exact execGangWindowRequest_canon hs ..
  | peerReset _ => exact hs.whole (hs.peerReset ..)
  | stackReset _ => exact hs.updStk ..
  | supervisorKill _ _ _ => exact hs.whole (hs.killTask ..)
  | translationCacheInvalidate _ _ => exact hs.dropTranslation ..
  | dataWindowSetup _ _ _ _ => exact hs.setWindow ..
  | peerInboundBind _ _ => exact hs.bindPort ..
  | sharedKeyGrant _ _ => exact hs.grantKey ..
  | recordReplay _ _ => exact hs.replayInput ..
  | _ => cases hi

theorem exec_canon (hs : s.Canon) (i) : OutcomeCanon (exec i s) := by
  cases hi : slotOf i with
  | none => exact event_canon hs hi
  | some e =>
    rw [exec_of_slot hi]
    exact hs.word ..

theorem act_canon (hs : s.Canon) (a) : OutcomeCanon (act a s) := by
  cases a with
  | fetch c h =>
    have hf := hs.fetch c h
    refine .ite trivial ?_
    split <;> rename_i e <;> rw [e] at hf
    · exact hf
    · exact exec_canon hf _
    · trivial
  | event i => exact .ite hs (exec_canon hs i)
  | tick n => exact hs.passTime n
  | evictCore c i => exact hs.updCore ..
  | evictCluster c i => exact hs.updCluster ..

theorem step_canon (hs : s.Canon) : OutcomeCanon (step s) := by
  unfold step
  split
  · exact act_canon (s := { s with agenda := _, wait := false }) hs _
  · exact act_canon (s := { s with fresh := s.fresh + 1, wait := false }) hs _

/-- Settles O60: each agent that can move leaves the invariant in place. -/
theorem memoryStaysCanonical : Obligations.MemoryStaysCanonical := by
  intro s t hm ht hg h
  have hs := step_canon (s := s) ⟨hm, ht, hg⟩
  rw [h] at hs
  exact hs

end Sys2Proof.Machine
end

section
/-! PROOFS. Partitions, label spaces and diagram spaces (O54): what firmware does with a request that breaks no rule, one lemma
for each operation, and the statement from them. -/

namespace Sys2Proof.Machine

/-- Where a filter drops key `k`, the store reads its default. -/
theorem NMap.get_filter_dropped {α : Type} (d : α) (m : NMap α) {p : Nat × α → Bool} {k : Nat} (h : ∀ v, p (k, v) = false) :
    NMap.get d (m.filter p) k = d := by
  apply NMap.get_of_not_mem
  intro hk
  obtain ⟨⟨i, v⟩, he, rfl⟩ := List.mem_map.mp hk
  simp [h v] at he

/-- The homes of a wiped partition read 0 (R368). -/
theorem State.memByte_wipeHomes {s : State} {p : Part} {pa : Nat} (h : p.holds (paHome pa) = true) :
    (s.wipeHomes p).memByte pa = 0 :=
  NMap.get_filter_dropped memDefault s.mem fun v => by simp [h]

theorem State.createPart_admitted {s : State} {n : Nat} {p : Part} (hf : s.fwRuns = true) (hn : n < 32)
    (hp : s.hasPart n = false) (hl : p.legal = true)
    (ho : ∀ e ∈ s.parts, ∀ q, e.2 = some q → p.overlaps q = false) :
    s.createPart n p = ((p.cores.foldl (fun s c => s.updCore c (·.wiped)) (s.wipeHomes p)).setPart n (some p)).refreshDfv n := by
  have hd : (s.parts.any fun e => e.2.any p.overlaps) = false := by
    rw [List.any_eq_false]
    intro e he
    cases hq : e.2 with
    | none => simp
    | some q => simp [ho e he q hq]
  rw [State.createPart, if_neg (by simp [hf, hp, hl, hd, hn])]

theorem State.destroyPart_admitted {s : State} {n : Nat} (hf : s.fwRuns = true) (hp : s.hasPart n = true)
    (hi : s.partIdle n = true) : (s.destroyPart n).parts = s.parts.set none n none ∧ (s.destroyPart n).mem = s.mem ∧
      (s.destroyPart n).host = s.host := by
  rw [State.destroyPart, if_neg (by simp [hf, hp, hi])]
  exact ⟨rfl, rfl, rfl⟩

theorem State.createLSpace_admitted {s : State} {p n : Nat} {x : LSpace} {d : DSpace} (hf : s.fwRuns = true)
    (hp : s.hasPart p = true) (hn : n < 8) (hfree : (s.part p).lspaces.get none n = none) (hl1 : 1 ≤ x.limit)
    (hl2 : x.limit ≤ 65534) (ha1 : 1 ≤ x.na) (ha2 : x.na ≤ 64) (hd : (s.part p).dspaces.get none x.dsp = some d)
    (ht : d.tied = some n) (hv : x.na ≤ d.nv) (hr : regionFits (s.part p) x.base x.bytes (fun _ => true) = true)
    (ho : paOff x.base + x.bytes ≤ regionTop) :
    s.createLSpace p n x = s.updPart p fun q => { q with lspaces := q.lspaces.set none n (some x) } := by
  simp only [State.createLSpace, hd]
  rw [if_neg]
  simp only [hf, hp, hfree, ht, hr, Bool.or_eq_true, decide_eq_true_eq, bne_self_eq_false, Bool.not_true, Option.isSome_none,
    Bool.false_eq_true, false_or, or_false]
  omega

theorem State.destroyLSpace_admitted {s : State} {p n : Nat} (hf : s.fwRuns = true) (hp : s.hasPart p = true) :
    s.destroyLSpace p n = s.updPart p fun q => { q with lspaces := q.lspaces.set none n none } := by
  rw [State.destroyLSpace, if_pos (by simp [hf, hp])]

theorem State.createDSpace_admitted {s : State} {p n : Nat} {x : DSpace} (hf : s.fwRuns = true) (hp : s.hasPart p = true)
    (hn : n < 8) (hfree : (s.part p).dspaces.get none n = none) (hd : x.die < 4)
    (hc : ∃ c ∈ (s.part p).cores, dieOf c = x.die) (hs : s.dieSpaces x.die < 8) (hv1 : 1 ≤ x.nv) (hv2 : x.nv ≤ 4096)
    (hn1 : 1 ≤ x.nn) (hn2 : x.nn < 2 ^ 28) (hb1 : 4 ≤ x.logNb) (hb2 : x.logNb ≤ 28) (ho : orderOk x.nv x.order = true)
    (ht : tieOk (s.part p) x.nv x.tied = true)
    (hr : regionFits (s.part p) x.base x.bytes (fun h => dieOf h = x.die) = true) :
    s.createDSpace p n x = s.updPart p fun q => { q with dspaces := q.dspaces.set none n (some x) } := by
  have hc' : ((s.part p).cores.any fun c => dieOf c = x.die) = true := by simpa using hc
  rw [State.createDSpace, if_neg]
  simp only [hf, hp, hfree, hc', ho, ht, hr, Bool.or_eq_true, decide_eq_true_eq, Bool.not_true, Option.isSome_none,
    Bool.false_eq_true, false_or, or_false]
  omega

theorem State.destroyDSpace_admitted {s : State} {p n : Nat} {x : DSpace} (hf : s.fwRuns = true)
    (hx : (s.part p).dspaces.get none n = some x) (hl : ∀ e ∈ (s.part p).lspaces, ∀ l, e.2 = some l → l.dsp ≠ n) :
    s.destroyDSpace p n = (regionRanges 24 x.base x.bytes).foldl (fun s r => s.wipeRange r.1 r.2)
      (s.updPart p fun q => { q with dspaces := q.dspaces.set none n none }) := by
  simp only [State.destroyDSpace, hx]
  rw [if_neg]
  simp only [hf, Bool.not_true, Bool.false_or, List.any_eq_true, not_exists, not_and]
  intro e he
  cases hq : e.2 with
  | none => simp
  | some l => simp [hl e he l hq]

/-- Settles O54, one operation after another: a request that breaks no rule is carried out. -/
theorem partitionsAndSpaces : Obligations.PartitionsAndSpaces := by
  refine ⟨fun s n x0 y0 w h m hf hn hp hl ho => ⟨?_, fun pa hpa => State.memByte_wipeHomes hpa⟩,
    fun s n hf hp hi => ?_, fun s p n na limit dsp base d hf hp hn hfree hl1 hl2 ha1 ha2 hd ht hv hr ho => ?_,
    fun s p n hf hp => congrArg Host.Outcome.next (State.destroyLSpace_admitted hf hp),
    fun s p n die nv nn lnb base order tied hf hp hn hfree hd hc hs hv1 hv2 hn1 hn2 hb1 hb2 ho ht hr => ?_,
    fun s p n x hf hx hl => congrArg Host.Outcome.next (State.destroyDSpace_admitted hf hx hl)⟩
  · exact congrArg Host.Outcome.next (State.createPart_admitted hf hn hp hl ho)
  · obtain ⟨hparts, hmem, hhost⟩ := State.destroyPart_admitted hf hp hi
    refine ⟨_, rfl, ?_, hmem, hhost, fun k hk => ?_⟩
    · simp [State.hasPart, hparts]
    · rw [hparts, NMap.get_set_ne _ _ _ hk]
  · exact congrArg Host.Outcome.next (State.createLSpace_admitted hf hp hn hfree hl1 hl2 ha1 ha2 hd ht hv hr ho)
  · exact congrArg Host.Outcome.next (State.createDSpace_admitted hf hp hn hfree hd hc hs hv1 hv2 hn1 hn2 hb1 hb2 ho ht hr)

end Sys2Proof.Machine
end

section
/-! PROOFS. Boot, quotes, the life cycle and reset (O53): each operation of the platform said once, and the statement from them. -/

namespace Sys2Proof.Machine

/-! ## Boot and attestation (R380, R381) -/

theorem fwSigned_iff {x : FwImage} {pubs : List Byte × List Byte} :
    fwSigned x pubs = true ↔ Config.edVerify pubs.1 x.bytes x.ed = true ∧ Config.mlVerify pubs.2 x.bytes x.ml = true := by
  simp [fwSigned]

theorem State.verified_iff {s : State} {pubs : List Byte × List Byte} {images : List FwImage} :
    s.verified pubs images = true ↔ Config.keyHash pubs.1 = s.fuseEd ∧ Config.keyHash pubs.2 = s.fuseMl ∧
      ∀ x ∈ images, Config.edVerify pubs.1 x.bytes x.ed = true ∧ Config.mlVerify pubs.2 x.bytes x.ml = true := by
  simp only [State.verified, Bool.and_eq_true, decide_eq_true_eq, List.all_eq_true, fwSigned_iff, and_assoc]

theorem State.bootVerify_inRom {s : State} (h : s.bootStat = 1) (pubs : List Byte × List Byte) (images : List FwImage) :
    s.bootVerify pubs images = if s.verified pubs images then { s.measure images with bootStat := 3 }
      else { s with bootStat := 2 } := by
  rw [State.bootVerify, if_neg (by simp [h])]

/-- One image extends the register that its manifest names. -/
theorem State.meas_measure_one (s : State) (x : FwImage) :
    (s.measure [x]).meas.get 0 (x.reg % 4) = extendMeas (s.meas.get 0 (x.reg % 4)) (Config.sha384 x.bytes) :=
  NMap.get_set_self ..

theorem State.quoteStep_request {s : State} (h : (s.port 12).up = true) (r : BitVec 256 × Dword) :
    s.quoteStep (some r) = { s.accepted 12 with quote := some r } := if_pos h

theorem State.quoteStep_answer {s : State} {nonce : BitVec 256} {a : Dword} (h : s.quote = some (nonce, a)) :
    s.quoteStep none =
      { s.hostWrite a.toNat (s.quoteBody nonce ++ signatures (s.quoteBody nonce)) with quote := none } := by
  simp only [State.quoteStep, h]

theorem answers_quoteRequest {s t : State} {req : Option (BitVec 256 × Dword)} (h : s.quoteStep req = t) :
    Answers (.quoteRequest req) s t := by
  subst h
  exact fun hw => congrArg Host.Outcome.next (State.whole_of_wait (f := (·.quoteStep req)) hw)

/-! ## Reset and the life cycle (R22, R363, R368, R382) -/

/-- What boot does to a core leaves all but its banks and the event buffer as it is. -/
theorem State.bootCore_frame (s : State) (c : Nat) (v : BitVec 4) :
    let t := s.bootCore c v
    t.life = s.life ∧ t.mem = s.mem ∧ t.mtags = s.mtags ∧ t.parts = s.parts ∧ t.host = s.host ∧ t.keyGen = s.keyGen := by
  unfold State.bootCore
  split <;> simp

theorem State.keepBanks_frame (s old : State) :
    let t := s.keepBanks old
    t.life = s.life ∧ t.mem = s.mem ∧ t.mtags = s.mtags ∧ t.parts = s.parts ∧ t.host = s.host ∧ t.keyGen = s.keyGen := by
  unfold State.keepBanks
  generalize old.cores = l
  induction l generalizing s with
  | nil => simp
  | cons e l ih =>
    have hb := s.bootCore_frame e.1 e.2.vbmap
    have hl := ih (s.bootCore e.1 e.2.vbmap)
    simp only [List.foldl_cons] at hb hl ⊢
    simpa only [hb] using hl

/-- A step forward along the life cycle, with its token, wipes the device as reset does (R382). -/
theorem State.lifeStep_forward {s : State} {target : Nat} (h : s.life.rank < target) (ht : target ≤ 4) (hb : s.bootStat ≠ 2) :
    s.lifeStep target true = (s.wiped (Life.ofRank target)).keepBanks s := by
  rw [State.lifeStep, if_pos (by simpa [h, ht] using hb)]

theorem State.lifeStep_notForward {s : State} {target : Nat} (h : target ≤ s.life.rank) (token : Bool) :
    s.lifeStep target token = s := by
  rw [State.lifeStep, if_neg (by simp; omega)]

theorem State.lifeStep_noToken (s : State) (target : Nat) : s.lifeStep target false = s := rfl

/-- The banks that VBMAP leaves to a core (R21). -/
def banksLeft (v : BitVec 4) : Nat := (List.range 4).countP fun i => v.getLsbD i

theorem bootBanks_eq (v : BitVec 4) :
    bootBanks v = { vbmap := v, vregs := BitVec.ofNat 7 (16 * banksLeft v), quarantined := banksLeft v = 0 } := by
  have h : (fun i => decide (v.toNat / 2 ^ i % 2 = 1)) = fun i => v.getLsbD i := by
    funext i
    rw [BitVec.getLsbD, Nat.testBit_eq_decide_div_mod_eq]
  rw [bootBanks, h]
  rfl

theorem State.bootCore_eq (s : State) (c : Nat) (v : BitVec 4) : s.bootCore c v =
    let s' := s.setCore c { vbmap := v, vregs := BitVec.ofNat 7 (16 * banksLeft v), quarantined := banksLeft v = 0 }
    if banksLeft v = 0 then s'.event 0x32 (dieOf c) [c, 0] else s' := by
  simp only [State.bootCore, bootBanks_eq, decide_eq_true_eq]

/-- Settles O53, one operation after another; the banks that reset leaves by counting them bit by bit. -/
theorem bootAndReset : Obligations.BootAndReset := by
  refine ⟨fun s pubs images h => ⟨congrArg Host.Outcome.next (s.bootVerify_inRom h pubs images), State.verified_iff⟩,
    State.meas_measure_one, fun s r h => answers_quoteRequest (State.quoteStep_request h r),
    fun s nonce a h => answers_quoteRequest (State.quoteStep_answer h), fun s target => ⟨fun h ht hb => ?_,
      fun h => congrArg Host.Outcome.next (State.lifeStep_notForward h true),
      congrArg Host.Outcome.next (s.lifeStep_noToken target)⟩, fun s banks => ?_⟩
  · obtain ⟨hlife, hmem, hmtags, hparts, hhost, hkey⟩ := (s.wiped (Life.ofRank target)).keepBanks_frame s
    exact ⟨_, congrArg Host.Outcome.next (State.lifeStep_forward h ht hb), hlife, hmem, hmtags, hparts, hhost, hkey⟩
  · change Host.Outcome.next (banks.foldl (fun s e => if e.1 < numCores then s.bootCore e.1 e.2 else s) (s.wiped s.life)) = _
    simp only [State.bootCore_eq]
    rfl

end Sys2Proof.Machine
end

section
/-! PROOFS. Results and replies land (O39): the entry that a load delivers, the element of a read stream, and the statement from
them. -/

namespace Sys2Proof.Machine

/-- The entry of a load of at most 8 bytes whose pieces have all been served, none of them poisoned (R186). -/
theorem Load.entry_served {l : Load} {ps : List Piece} (hp : l.pieces = ps.map some) (hf : ∀ p ∈ ps, p.fail = none)
    (hs : l.size ≤ 8) (now : Nat) : l.entry now =
      let x := ofBytes (ps.flatMap (·.bytes))
      some { v := (if l.signed then BitVec.ofInt 64 (toSigned (8 * l.size) x) else BitVec.ofNat 64 x).setWidth 512,
             t := joinTags (l.atag :: ps.map fun p => p.tag), since := now } := by
  have hall : l.pieces.all Option.isSome = true := by simp [hp]
  have hps : l.pieces.filterMap (fun x => x) = ps := by simp [hp, List.filterMap_map]
  have hfail : ps.findSome? (·.fail) = none := List.findSome?_eq_none_iff.mpr hf
  simp only [Load.entry, if_pos hall, hps, hfail, loadEntry, if_pos hs, Option.map_none]

/-- The oldest load of a queue returns an entry that is not poisoned (R16, R186). -/
theorem answers_loadDataReturn {c q : Nat} {s : State} {l : Load} {e : QEntry}
    (hl : (s.ctx c).loads.find? (·.q = q) = some l) (he : l.entry s.now = some e) (hp : e.poison = none) :
    Answers (.loadDataReturn c q) s (((s.observe 0 c l.began).recordLoad c e).updCtx c fun k =>
      { k.setQueue q ((k.queue q).push e) with loads := k.loads.filter (·.id != l.id) }) := by
  intro hw
  change execLoadDataReturn c q s = _
  simp only [execLoadDataReturn, hl, he, hp, Option.any_none, Bool.false_eq_true, if_false]
  exact congrArg Host.Outcome.next (State.whole_of_wait hw)

theorem answers_atomicReply {c : Nat} {s : State} {r : Nat × Nat × SVal} (hr : s.replies.find? (·.1 = c) = some r) :
    Answers (.atomicReply c) s
      ((({ s with replies := s.replies.erase r } : State).recordIn c (bytesOf 8 r.2.2.v.toNat) r.2.2.t).updCore c fun k =>
        let k := k.reply r.2.1 [(0x5FD, r.2.2)]
        { k with ctx := { k.ctx with atoms := k.ctx.atoms.erase r.2.1 } }) := by
  intro hw
  change execAtomicReply c s = _
  simp only [execAtomicReply, hr]
  exact congrArg Host.Outcome.next (State.whole_of_wait hw)

/-- The next element of a read stream, whose queue has room and whose access is admitted, is pushed as a load (R188). -/
theorem State.streamElement_read {c i : Nat} {s s2 : State} {t : Task} {m : AgStream} {ps : List APart}
    (ht : (s.core c).task = some t) (hm : (s.ctx c).streams[i]? = some m) (hwr : m.write = false) (hmk : m.muck = false)
    (hra : (s.ctx c).raised = none) (hh : (s.core c).halted = false) (hlv : (s.core c).leaving = false)
    (hroom : ((s.ctx c).queue m.q).room 16 (s.clock c) ((s.ctx c).owed m.q) 1 = true)
    (hacc : s.checkAccess c t .read m.base m.size = (s2, .ok ps)) (hg : s2.goneBefore c none false ps = false)
    (hst : s2.strongHeld c none ps = false) :
    s.streamElement c i =
      (s2.pushLoad c t m.q m.size m.signed m.base m.atag none ps true).updCtx c (·.stepStream i s.nextId) := by
  simp only [State.streamElement, ht, hm, hwr, hmk, hra, hh, hlv, qLq, hroom, hacc, hg, hst, Option.isSome_none, Bool.or_self,
    Bool.not_true, Bool.false_eq_true, if_false]

/-- Settles O39, one step after another: each answers what its operation leaves where nothing has to wait. -/
theorem replyEvents : Obligations.ReplyEvents := by
  refine ⟨fun c s => rfl, fun c q s l ps hl hp hf hs =>
    answers_loadDataReturn hl (Load.entry_served hp hf hs s.now) rfl, fun c s r hr => answers_atomicReply hr,
    fun c i s t m ps s2 ht hm hwr hmk hra hh hlv hroom hacc hg hst hw => ?_⟩
  have e := State.streamElement_read ht hm hwr hmk hra hh hlv hroom hacc hg hst
  exact congrArg Host.Outcome.next ((State.whole_of_wait (f := (·.streamElement c i)) (e ▸ hw)).trans e)

end Sys2Proof.Machine
end

section
/-! PROOFS. Traps, the debug port and the scanner (O44). Trap entry splits each register file into its latches, which go to the
image, and the rest, which stays; the return lays one over the other. `NMap.get_relaid` says that this gives the file back. The
steps of the device are then followed branch by branch, one lemma for each way through `State.trapEntry` and
`State.haltNow`. -/

namespace Sys2Proof.Machine

/-! ## A store split in two and laid together again -/

section Split

variable {α : Type} (d : α) {m : NMap α}

/-- Where a filter keeps key `k`, a store with rising keys reads as before. -/
theorem NMap.get_filter_kept (hm : m.Pairwise fun e f => e.1 < f.1) {p : Nat × α → Bool} {k : Nat} (h : ∀ v, p (k, v) = true) :
    NMap.get d (m.filter p) k = m.get d k := by
  induction m with
  | nil => rfl
  | cons e m ih =>
    obtain ⟨i, v⟩ := e
    obtain ⟨hlt, hm⟩ := List.pairwise_cons.mp hm
    by_cases hp : p (i, v) = true
    · simp [hp, NMap.get, ih hm]
    · have hik : i ≠ k := fun e => hp (e ▸ h v)
      rw [List.filter_cons_of_neg hp, ih hm, NMap.get, if_neg hik]
      split
      · apply NMap.get_of_not_mem
        intro hk
        obtain ⟨e, he, rfl⟩ := List.mem_map.mp hk
        exact absurd (hlt e he) (by omega)
      · rfl

/-- The keys that `p` takes out of a store and those that it leaves, laid together, read as the store did. -/
theorem NMap.get_relaid [DecidableEq α] (hm : NMap.wf d m = true) (p : Nat → Bool) (k : Nat) :
    NMap.get d ((m.filter fun e => p e.1).foldl (fun m e => m.set d e.1 e.2) (m.filter fun e => !p e.1)) k = m.get d k := by
  obtain ⟨hr, -⟩ := (NMap.wf_iff d m).mp hm
  rw [NMap.get_foldl_set d (fun v => v) _ _ k (hr.filter _)]
  cases hp : p k with
  | true =>
    have hkeep : NMap.get d (m.filter fun e => p e.1) k = m.get d k := NMap.get_filter_kept d hr fun _ => hp
    split
    · exact hkeep
    · rw [← hkeep, NMap.get_of_not_mem d (m.filter fun e => p e.1) k ‹_›]
      exact NMap.get_filter_dropped d m fun _ => by simp [hp]
  | false =>
    rw [if_neg]
    · exact NMap.get_filter_kept d hr fun _ => by simp [hp]
    · intro hk
      obtain ⟨e, he, rfl⟩ := List.mem_map.mp hk
      simp [hp] at he

end Split

/-! ## What a core saves, and what it gets back (R180 to R182) -/

theorem Ctx.landAll_of_noFlight {k : Ctx} (h : k.flight = []) : k.landAll = k := by
  rw [Ctx.landAll, h, List.foldl_nil, ← h]

/-- Landing results leaves both streams where they stand. -/
theorem Ctx.landAll_streams (k : Ctx) : k.landAll.xs = k.xs ∧ k.landAll.as_ = k.as_ :=
  List.foldlRecOn (motive := fun x : Ctx => x.xs = k.xs ∧ x.as_ = k.as_) k.flight Ctx.land ⟨rfl, rfl⟩ fun _ h _ _ => h

theorem trapCauseWord_eq (h : Half) (t : Trap) : trapCauseWord h t =
    BitVec.ofNat 64 (t.cause.toNat + 2 ^ 8 * t.reason.toNat + (if h = .a then 2 ^ 16 else 0)) := by
  cases h <;> rfl

theorem toNat_trapCauseWord (h : Half) (t : Trap) : (trapCauseWord h t).toNat =
    t.cause.toNat + 2 ^ 8 * t.reason.toNat + (if h = .a then 2 ^ 16 else 0) := by
  have hc := t.cause.isLt
  have hr := t.reason.isLt
  rw [trapCauseWord_eq, BitVec.toNat_ofNat, Nat.mod_eq_of_lt]
  split <;> omega

theorem toNat_pcField (v : Dword) (lo : Nat) : (pcField v lo).toNat = 4 * dfield v (lo + 16) (lo + 2) := by
  have h : dfield v (lo + 16) (lo + 2) < 2 ^ 15 := by
    have e : lo + 16 - (lo + 2) + 1 = 15 := by omega
    rw [dfield, field, e]
    exact Nat.mod_lt _ (by decide)
  rw [pcField, BitVec.toNat_ofNat, Nat.mod_eq_of_lt (by omega), Nat.mul_comm]

/-- In a handler latches and result ports read 0 with tag 0 (R180 step 5). -/
theorem Ctx.cleared_latch (k : Ctx) {p : Nat} (hp : 0x100 ≤ p) : k.cleared.scalar p = {} ∧ k.cleared.vector p = {} := by
  have h : isLatch p = true := decide_eq_true hp
  exact ⟨NMap.get_filter_dropped _ _ fun _ => by simp [h], NMap.get_filter_dropped _ _ fun _ => by simp [h]⟩

/-- In a handler registers read what they held. -/
theorem Ctx.cleared_register {k : Ctx} (hs : NMap.wf ({} : SVal) k.sfile = true) (hv : NMap.wf ({} : VVal) k.vfile = true)
    {p : Nat} (hp : p < 0x100) : k.cleared.scalar p = k.scalar p ∧ k.cleared.vector p = k.vector p := by
  have h : isLatch p = false := decide_eq_false (by omega)
  obtain ⟨hs, -⟩ := (NMap.wf_iff _ _).mp hs
  obtain ⟨hv, -⟩ := (NMap.wf_iff _ _).mp hv
  exact ⟨NMap.get_filter_kept _ hs fun _ => by simp [h], NMap.get_filter_kept _ hv fun _ => by simp [h]⟩

/-- A return from a trap gives the register files back as trap entry found them (R182). -/
theorem Core.leaveTrap_files {k : Core} {h : Half} {t : Option Trap} {now : Nat} (later : Nat) (hf : k.ctx.flight = [])
    (hs : NMap.wf ({} : SVal) k.ctx.sfile = true) (hv : NMap.wf ({} : VVal) k.ctx.vfile = true) (p : Nat) :
    let r := (k.enterTrap h t now).leaveTrap later
    r.ctx.scalar p = k.ctx.scalar p ∧ r.ctx.vector p = k.ctx.vector p ∧ r.ctx.pred p = k.ctx.pred p := by
  have hs' := NMap.get_relaid ({} : SVal) hs isLatch p
  have hv' := NMap.get_relaid ({} : VVal) hv isLatch p
  simp only [Core.leaveTrap, Core.enterTrap, Ctx.resumeStreams, Ctx.restore, Ctx.save, Ctx.cleared, Ctx.landAll, hf,
    Ctx.scalar, Ctx.vector, Ctx.pred, List.foldl_nil, List.filter_filter, Bool.and_self]
  exact ⟨hs', hv', trivial⟩

/-- It gives back queues, CTLAB, the weight-driven mode, the matrix state and the team as well, and each stream goes on at the
group that it stood at (R182). -/
theorem Core.leaveTrap_rest {k : Core} {h : Half} {t : Option Trap} {now : Nat} (later : Nat) (hf : k.ctx.flight = []) :
    let r := (k.enterTrap h t now).leaveTrap later
    r.ctx.queues = k.ctx.queues ∧ r.ctx.ctlab = k.ctx.ctlab ∧ r.ctx.xs.pc = k.ctx.xs.start ∧ r.ctx.as_.pc = k.ctx.as_.start ∧
      r.ctx.wd = k.ctx.wd.map WDrive.stopped ∧ r.ctx.accs = k.ctx.accs ∧ r.ctx.bufs = k.ctx.bufs ∧ r.ctx.team = k.ctx.team ∧
      r.ctx.tstep = k.ctx.tstep := by
  simp only [Core.leaveTrap, Core.enterTrap, Ctx.resumeStreams, Ctx.restore, Ctx.landAll, hf, List.foldl_nil]
  exact ⟨rfl, rfl, rfl, rfl, rfl, rfl, rfl, rfl, rfl⟩

/-! ## Trap entry on a core (R180 to R182) -/

@[simp] theorem State.core_event (s : State) (c kind die : Nat) (fields : List Nat) : (s.event kind die fields).core c = s.core c := by
  simp [State.core]

@[simp] theorem State.ctx_event (s : State) (c kind die : Nat) (fields : List Nat) : (s.event kind die fields).ctx c = s.ctx c := by
  simp [State.ctx]

@[simp] theorem State.core_tookGone (s : State) (c d : Nat) (t : Option Trap) : (s.tookGone c t).core d = s.core d := by
  unfold State.tookGone
  split <;> rfl

@[simp] theorem State.ctx_tookGone (s : State) (c d : Nat) (t : Option Trap) : (s.tookGone c t).ctx d = s.ctx d := by
  simp [State.ctx]

/-- The end that core `c` sends into the halt tree changes neither what it holds nor what is asked of it. -/
theorem State.core_sendEnd (s : State) (c : Nat) (t : Task) :
    ((s.sendEnd c t).core c).haltReq = (s.core c).haltReq ∧ (s.sendEnd c t).ctx c = s.ctx c := by
  unfold State.sendEnd State.endTask State.ctx
  dsimp only
  rw [State.core_updNode]
  split <;> simp

/-- A halt that nobody asks for is not taken. -/
theorem State.haltNow_unasked {s : State} {c : Nat} (h : (s.core c).haltReq = false) : s.haltNow c = s := by
  rw [State.haltNow, if_pos (by simp [h])]

section Entry

variable {s : State} {c : Nat} {t : Task} {r : Raised}
  (ht : (s.core c).task = some t) (hr : (s.ctx c).raised = some r) (hq : s.quiet c = true) (he : (s.core c).ended = false)

include ht hr hq he

theorem State.trapEntry_halt (hd : r.trap = some debugTrap) : s.trapEntry c = s.setCore c (s.core c).enterHalt := by
  have hr' : (s.core c).ctx.raised = some r := hr
  simp only [State.trapEntry, ht, hr', hq, he, hd, Bool.not_true, Bool.or_self, Bool.false_eq_true, if_false, if_true]

theorem State.trapEntry_handler (hd : r.trap ≠ some debugTrap) (hp : (s.ctx c).priv = false) (hv : (s.core c).handled = true) :
    s.trapEntry c = (s.setCore c ((s.core c).enterTrap r.half r.trap s.now)).tookGone c r.trap := by
  have hr' : (s.core c).ctx.raised = some r := hr
  have hp' : (s.core c).ctx.priv = false := hp
  simp only [State.trapEntry, ht, hr', hq, he, hd, hp', hv, Bool.not_true, Bool.or_self, Bool.false_eq_true, if_false]

theorem State.trapEntry_noHandler (hd : r.trap ≠ some debugTrap) (hp : (s.ctx c).priv = false)
    (hv : (s.core c).handled = false) : s.trapEntry c = s.sendEnd c t := by
  have hr' : (s.core c).ctx.raised = some r := hr
  have hp' : (s.core c).ctx.priv = false := hp
  simp only [State.trapEntry, ht, hr', hq, he, hd, hp', hv, Bool.not_true, Bool.not_false, Bool.or_self, Bool.false_eq_true,
    if_false, if_true]

/-- A trap within a handler: the event of R182 names it, and the task ends. -/
theorem State.trapEntry_nested {tr : Trap} (htr : r.trap = some tr) (hd : tr ≠ debugTrap) (hp : (s.ctx c).priv = true) :
    s.trapEntry c = ((s.updCtx c fun x => { x with raised := some { r with trap := none } }).event 0x12 (dieOf c)
      [t.part, c, (trapCauseWord r.half tr).toNat, tr.val.toNat]).sendEnd c t := by
  have hr' : (s.core c).ctx.raised = some r := hr
  have hp' : (s.core c).ctx.priv = true := hp
  simp only [State.trapEntry, ht, hr', hq, he, htr, hp', Option.some.injEq, hd, Bool.not_true, Bool.or_self,
    Bool.false_eq_true, if_false, if_true]

variable (hh : (s.core c).halted = false) (hm : (s.ctx c).mxq = [])

include hh hm

/-- Trap entry on a core whose matrix unit has nothing queued: what `State.trapEntry` does, with the handler's segments where
a handler has been entered. -/
theorem State.enterTrap_idleUnit : s.enterTrap c =
    if !(s.ctx c).priv && ((s.trapEntry c).ctx c).priv && !((s.trapEntry c).core c).halted then (s.trapEntry c).setHandlerSegs c t
    else s.trapEntry c := by
  simp only [State.enterTrap, ht, hr, hq, he, hh, hm, List.length_nil, State.mxStop, Option.isNone_some, Bool.not_true,
    Bool.or_self, Bool.false_eq_true, if_false]

/-- A member that raises the debug halt stands still at once (R193). -/
theorem State.enterTrap_halt (hd : r.trap = some debugTrap) : s.enterTrap c = s.setCore c (s.core c).enterHalt := by
  have hT := State.trapEntry_halt ht hr hq he hd
  rw [State.enterTrap_idleUnit ht hr hq he hh hm, if_neg (by simp [hT, Core.enterHalt]), hT]

/-- A trap at user privilege enters the handler that TVEC names (R180). -/
theorem State.enterTrap_handler (hd : r.trap ≠ some debugTrap) (hp : (s.ctx c).priv = false)
    (hv : (s.core c).handled = true) : s.enterTrap c =
      ((s.setCore c ((s.core c).enterTrap r.half r.trap s.now)).tookGone c r.trap).setHandlerSegs c t := by
  have hT := State.trapEntry_handler ht hr hq he hd hp hv
  rw [State.enterTrap_idleUnit ht hr hq he hh hm, if_pos (by simp [hT, hp, hh, Core.enterTrap]), hT]

/-- Without a handler the task ends (R182). -/
theorem State.enterTrap_noHandler (hd : r.trap ≠ some debugTrap) (hp : (s.ctx c).priv = false)
    (hv : (s.core c).handled = false) : s.enterTrap c = s.sendEnd c t := by
  have hT := State.trapEntry_noHandler ht hr hq he hd hp hv
  rw [State.enterTrap_idleUnit ht hr hq he hh hm, if_neg (by simp [hT, s.core_sendEnd, hp]), hT]

/-- Within a handler the task ends too, and event 0x12 names the trap (R182). -/
theorem State.enterTrap_nested {tr : Trap} (htr : r.trap = some tr) (hd : tr ≠ debugTrap) (hp : (s.ctx c).priv = true) :
    s.enterTrap c = ((s.updCtx c fun x => { x with raised := some { r with trap := none } }).event 0x12 (dieOf c)
      [t.part, c, (trapCauseWord r.half tr).toNat, tr.val.toNat]).sendEnd c t := by
  rw [State.enterTrap_idleUnit ht hr hq he hh hm, if_neg (by simp [hp]), State.trapEntry_nested ht hr hq he htr hd hp]

end Entry

/-- TRAP_ENTRY on a core of which no halt is asked. -/
theorem exec_trapEntry {s t : State} {c : Nat} (h : s.enterTrap c = t) (hreq : (t.core c).haltReq = false) :
    exec (.trapEntry c) s = .next t := by
  subst h
  exact congrArg Host.Outcome.next (State.haltNow_unasked hreq)

theorem State.haltReq_setHandlerSegs (s : State) (c : Nat) (t : Task) :
    ((s.setHandlerSegs c t).core c).haltReq = (s.core c).haltReq := by simp [State.setHandlerSegs]

/-! ## The debug port (R193, R194, R382) -/

/-- What landing results does is the same whatever is raised. -/
theorem Ctx.landAll_raised (k : Ctx) (x : Option Raised) :
    ({ k with raised := x } : Ctx).landAll = { k.landAll with raised := x } := by
  have h (l : List Flight) : ∀ k : Ctx, l.foldl Ctx.land { k with raised := x } = { l.foldl Ctx.land k with raised := x } := by
    induction l with
    | nil => exact fun _ => rfl
    | cons f l ih => exact fun k => ih (k.land f)
  simp only [Ctx.landAll, h]

/-- A halt leaves the core the same whether it was asked for and raised first. -/
theorem Core.enterHalt_asked (k : Core) (x : Option Raised) :
    ({ k with haltReq := true, ctx := { k.ctx with raised := x } } : Core).enterHalt = k.enterHalt := by
  simp only [Core.enterHalt, Ctx.landAll_raised]
  rfl

/-- A member of which the halt was asked, and which has raised it, stands as it would have without. -/
theorem State.enterTrap_asked {s : State} {c : Nat} {k : Core} {t : Task}
    (hs : s.core c = { k with haltReq := true, ctx := { k.ctx with raised := some { trap := some debugTrap } } })
    (hq : s.quiet c = true) (ht : k.task = some t) (he : k.ended = false) (hh : k.halted = false) (hm : k.ctx.mxq = []) :
    s.enterTrap c = s.setCore c k.enterHalt := by
  rw [State.enterTrap_halt (t := t) (r := { trap := some debugTrap }) (by simp [hs, ht]) (by simp [State.ctx, hs]) hq
    (by simp [hs, he]) (by simp [hs, hh]) (by simpa [State.ctx, hs] using hm) rfl, hs, Core.enterHalt_asked]

/-- A core that runs nothing halts at once. -/
theorem State.debugHalt_idle {s : State} {c : Nat} (ho : s.life.benchOpen = true) (hh : (s.core c).halted = false)
    (he : (s.core c).ended = false) (ht : (s.core c).task = none) :
    s.debugHalt c = (s.updCore c fun k => { k with haltReq := true }).setCore c (s.core c).enterHalt := by
  rw [State.debugHalt, if_neg (by simp [ho, hh]), State.haltNow, if_neg (by simp [hh, he]), if_pos (by simp [ht]),
    State.core_updCore_self]
  rfl

/-- A member with nothing outstanding halts at once. -/
theorem State.debugHalt_member {s : State} {c : Nat} {t : Task} (ho : s.life.benchOpen = true)
    (hh : (s.core c).halted = false) (he : (s.core c).ended = false) (ht : (s.core c).task = some t)
    (hpo : (s.core c).poisoned = none) (hr : (s.ctx c).raised = none) (hq : s.quiet c = true) (hm : (s.ctx c).mxq = []) :
    s.debugHalt c = ((s.updCore c fun k => { k with haltReq := true }).updCtx c fun x =>
      { x with raised := some { trap := some debugTrap } }).setCore c (s.core c).enterHalt := by
  have hr' : (s.core c).ctx.raised = none := hr
  rw [State.debugHalt, if_neg (by simp [ho, hh]), State.haltNow, if_neg (by simp [hh, he]), if_neg (by simp [ht]),
    if_neg (by simp [hpo])]
  simp only [State.core_updCore_self, hr']
  exact State.enterTrap_asked (k := s.core c) (by simp) (by simpa [State.quiet, State.onlyHeld, State.ctx] using hq) ht he
    hh hm

/-- The port reaches a halted core where it is open (R194, R382). -/
theorem exec_debugPortAccess {s : State} {c : Nat} (ho : s.life.benchOpen = true) (hh : (s.core c).halted = true)
    (item : DebugItem) (write : Bool) (v : Vec) (t : Tag) : exec (.debugPortAccess c item write v t) s =
      .next (if write then s.debugWrite c item v t else s.debugRead c item) := by
  change Host.Outcome.next (if !s.debugOpen c then s else _) = _
  rw [if_neg (by simp [State.debugOpen, ho, hh])]

theorem exec_debugResume {s : State} {c : Nat} (ho : s.life.benchOpen = true) (hh : (s.core c).halted = true) :
    exec (.debugResume c) s = .next (s.updCore c (·.leaveHalt s.now)) :=
  congrArg Host.Outcome.next (if_pos (by simp [State.debugOpen, ho, hh]))

theorem regCls_scalar {r : Nat} (h : r < 0x40) : regCls r = some .scalar := by simp [regCls, h]

theorem Ctx.debugReg_scalar (k : Ctx) {r : Nat} (h : r < 0x40) (v : Vec) (t : Tag) :
    k.debugReg r v t = k.setScalar r { v := v.setWidth 64, t := tagOf t } := by simp only [Ctx.debugReg, regCls_scalar h]

theorem Ctx.debugVal_scalar (k : Ctx) {r : Nat} (h : r < 0x40) :
    k.debugVal r = ((k.scalar r).v.setWidth 512, (k.scalar r).t) := by simp only [Ctx.debugVal, regCls_scalar h]

/-! ## The scanner (R23, R137) -/

/-- A segment that may be scanned is registered if it has no violation, and else leaves its scan-fault record. -/
theorem State.scanSegment_scanned {s s0 s1 s2 : State} {p priv va len decl entry need : Nat} {vers : Dword} {h : Half}
    {r : Option Viol} (hp : (s.parts.get none p).isSome = true) (hva : va % 4 = 0) (hlen : len % 4 = 0) (hpos : 0 < len)
    (hmax : len ≤ 0x20000) (htop : va + len ≤ 2 ^ 48) (hpriv : priv ≤ 2) (hneed : s.declaredVregs p decl = (s0, need))
    (hvers : s0.declaredVers p entry = (s1, vers))
    (hr : s1.scan { half := h, priv := priv, need := need, prof := declaredProfiles vers } p va len = (s2, r)) :
    let g : Seg := { half := h, va := va, len := len, priv := priv, need := need, vers := vers }
    s.scanSegment p h priv va len decl entry = s2.updPart p fun q => r.elim
      { q with segs := q.segs.filter (fun x => { x with need := need, vers := vers } != g) ++ [g] }
      fun v => { q with scanFaults := q.scanFaults ++ [(g, scanRecord v)] } := by
  have hn : (s.parts.get none p).isNone = false := by simpa using hp
  rw [State.scanSegment, if_neg]
  · simp only [hneed, hvers, hr]
    cases r <;> rfl
  · simp only [hn, hva, hlen, bne_self_eq_false, Bool.or_eq_true, decide_eq_true_eq, Bool.false_eq_true, false_or]
    omega

theorem answers_scanSegment {s t : State} {p priv va len decl entry : Nat} {h : Half}
    (e : s.scanSegment p h priv va len decl entry = t) : Answers (.scanSegment p h priv va len decl entry) s t := by
  subst e
  exact fun hw => congrArg Host.Outcome.next (State.whole_of_wait (f := (·.scanSegment p h priv va len decl entry)) hw)

/-- Settles O44: trap entry and its return by what `Core.enterTrap` saves, each step by the way that it takes. -/
theorem trapsAndDebug : Obligations.TrapsAndDebug := by
  refine ⟨fun s c t r tr ht hr htr hc he hh hreq hq hm => ?_, fun k h tr now => ?_, fun k h t now later hf hs hv =>
    ⟨rfl, Core.leaveTrap_files later hf hs hv, Core.leaveTrap_rest later hf⟩,
    fun s c ho hh he hcase => ?_, fun s c ho hh => ⟨fun r v t hlt => ?_, fun r v t hlt => ?_, exec_debugResume ho hh⟩,
    fun s p h priv va len decl entry need vers s0 s1 s2 r hp hva hlen hpos hmax htop hpriv hneed hvers hr => ?_⟩
  · have hd : tr ≠ debugTrap := fun e => hc (e ▸ rfl)
    have hd' : r.trap ≠ some debugTrap := by simpa [htr] using hd
    refine ⟨fun hp hv => exec_trapEntry (State.enterTrap_handler ht hr hq he hh hm hd' hp (decide_eq_true hv)) ?_,
      fun hp hv => exec_trapEntry (State.enterTrap_noHandler ht hr hq he hh hm hd' hp (by simp [Core.handled, hv])) ?_,
      fun hp => ?_⟩
    · simpa [State.haltReq_setHandlerSegs, Core.enterTrap] using hreq
    · rw [(s.core_sendEnd c t).1, hreq]
    · rw [← toNat_trapCauseWord]
      exact exec_trapEntry (State.enterTrap_nested ht hr hq he hh hm htr hd hp) (by simp [State.core_sendEnd, hreq])
  · obtain ⟨hx, ha⟩ := k.ctx.landAll_streams
    refine ⟨trapCauseWord_eq h tr, rfl, congrArg Stream.start hx, congrArg Stream.start ha, rfl, rfl, toNat_pcField k.tvec 0,
      toNat_pcField k.tvec 32, rfl, rfl, fun p hp => k.ctx.landAll.cleared_latch hp, fun hf hs hv p hp => ?_⟩
    change k.ctx.landAll.cleared.scalar p = _ ∧ k.ctx.landAll.cleared.vector p = _
    rw [Ctx.landAll_of_noFlight hf]
    exact Ctx.cleared_register hs hv hp
  · cases ht : (s.core c).task with
    | none => exact ⟨_, congrArg Host.Outcome.next (State.debugHalt_idle ho hh he ht), by simp,
        fun d hd => by simp [State.core_setCore, State.core_updCore, hd]⟩
    | some t =>
      obtain ⟨hpo, hr, hq, hm⟩ := hcase.resolve_left (by simp [ht])
      exact ⟨_, congrArg Host.Outcome.next (State.debugHalt_member ho hh he ht hpo hr hq hm), by simp,
        fun d hd => by simp [State.core_setCore, State.core_updCore, State.core_updCtx, hd]⟩
  · rw [exec_debugPortAccess ho hh]
    exact congrArg (fun f => Host.Outcome.next (s.updCtx c f)) (funext fun k => k.debugReg_scalar hlt v t)
  · rw [exec_debugPortAccess ho hh]
    simp [State.debugRead, State.debugOut, (s.core c).ctx.debugVal_scalar hlt, State.ctx]
  · have e := State.scanSegment_scanned hp hva hlen hpos hmax htop hpriv hneed hvers hr
    cases r with
    | none => exact answers_scanSegment e
    | some v => exact answers_scanSegment e

end Sys2Proof.Machine
end

section
/-! PROOFS. What a trigger of `vx` does (R195 to R199), said once: with a mucked control operand nothing but mucked results, and
with clean ones and a type control that its entry permits the results of its operation. -/

namespace Sys2Proof.Machine

section Run

variable {reads : VxIn → List Nat} {ports : List Nat} {perm : VxIn → Bool} {lat : VxIn → Nat} {fp : VxIn → Bool}
  {op : VxIn → List Vec × FlagBits} {x : Trig} {s s1 : State} {i : Instr} {g : LTag}

theorem Trig.vxClean_eq (x : Trig) (s : State) : x.vxClean s =
    !(isMuck ((s.ctx x.core).scalar 0x204).t || ((x.vxIn s).msk != 0 && isMuck ((s.ctx x.core).vector 0x203).t)) := by
  simp [Trig.vxClean, bne, Bool.beq_eq_decide_eq]

theorem vxRun_undone (h : ¬ x.vxClean s) : vxRun reads ports perm lat fp op x s =
    .done (s.updCtx x.core (·.send (x.vxUndone s (lat (x.vxIn s)) ports))) false := by
  rw [x.vxClean_eq, Bool.not_eq_true', Bool.not_eq_false] at h
  exact if_pos h

theorem Trig.vxTags_eq (x : Trig) (s : State) (l : List Nat) : x.vxTags s l =
    l.map (fun p => ((s.ctx x.core).vector p).t) ++ [x.tv.t, ((s.ctx x.core).scalar 0x204).t]
      ++ (if (x.vxIn s).msk != 0 then [((s.ctx x.core).vector 0x203).t] else [])
      ++ (if (x.vxIn s).msk = 2 then [((s.ctx x.core).vector 0x202).t] else []) := by
  simp [Trig.vxTags]

theorem vxRun_done (h : x.vxClean s) (ht : vxTyOk (x.vxIn s).ty) (hp : perm (x.vxIn s)) :
    vxRun reads ports perm lat fp op x s = .done (s.updCtx x.core (·.send
      { x.flightV s (lat (x.vxIn s)) (ports.zip (op (x.vxIn s)).1) (x.vxTags s (reads (x.vxIn s))) with
        flags := (op (x.vxIn s)).2, fp := fp (x.vxIn s) })) false := by
  rw [x.vxClean_eq, Bool.not_eq_true'] at h
  rw [x.vxTags_eq]
  have hn : ¬ (!vxTyOk (x.vxIn s).ty || !perm (x.vxIn s)) = true := by simp [ht, hp]
  exact (if_neg (ne_true_of_eq_false h)).trans (if_neg hn)

/-- An instruction whose trigger is one of `vx`. -/
theorem exec_of_vxRun (hb : s.begins i = some (x, s1, g)) (ht : isTransfer x.port = false)
    (hf : fire x s1 = vxRun reads ports perm lat fp op x s1) :
    let v := x.vxIn s1
    (¬ x.vxClean s1 → exec i s = .next (s.closeSend s1 x g (x.vxUndone s1 (lat v) ports))) ∧
    (x.vxClean s1 → vxTyOk v.ty → perm v → exec i s = .next (s.closeSend s1 x g
      { x.flightV s1 (lat v) (ports.zip (op v).1) (x.vxTags s1 (reads v)) with flags := (op v).2, fp := fp v })) :=
  ⟨fun h => exec_of_sends hb (hf.trans (vxRun_undone h)) ht, fun h h1 h2 => exec_of_sends hb (hf.trans (vxRun_done h h1 h2)) ht⟩

end Run

/-- The port of a trigger alone says which operation it performs. -/
theorem fire_of_port {x : Trig} {s : State} {p : Nat} {f : Trig → State → Fired} (e : x.port = p)
    (h : fire { x with port := p } s = f { x with port := p } s) : fire x s = f x s := by
  subst e
  exact h

/-- A trigger of `vx` does what its operation in the model does, on the type controls that it permits. -/
theorem vxDoes_of_fire {i : Instr} {p : Nat} (f : Trig → State → Fired) {reads ports : List Nat} {perm : VxIn → Bool}
    {lat : VxIn → Nat} {fp fp' : VxIn → Bool} {op op' : VxIn → List Vec × FlagBits} {ok : VxIn → Prop} (hp : i.port = some p)
    (ht : isTransfer (p % 2048) = false)
    (hx : ∀ (x : Trig) (s : State), fire { x with port := p % 2048 } s = f { x with port := p % 2048 } s)
    (hf : f = vxRun (fun _ => reads) ports perm lat fp op)
    (hok : ∀ v, ok v → perm v) (hfp : ∀ v, ok v → fp v = fp' v) (hop : ∀ v, ok v → op v = op' v) :
    VxDoes i reads ports ok lat fp' op' := by
  intro s s1 x g hb
  have e := port_of_begins hb hp
  obtain ⟨hu, hd⟩ := exec_of_vxRun hb (e ▸ ht) (hf ▸ fire_of_port e (hx x s1))
  refine ⟨hu, fun hc hty h => ?_⟩
  rw [← hfp _ h, ← hop _ h]
  exact hd hc hty (hok _ h)

/-- The same for an operation that sets no flag and does not count as floating. -/
theorem vxPlain_of_fire {i : Instr} {p : Nat} (f : Trig → State → Fired) {reads ports : List Nat} {perm : VxIn → Bool}
    {maxEt lat : Nat} {op : VxIn → List Vec × FlagBits} (hp : i.port = some p) (ht : isTransfer (p % 2048) = false)
    (hx : ∀ (x : Trig) (s : State), fire { x with port := p % 2048 } s = f { x with port := p % 2048 } s)
    (hf : f = vxRun (fun _ => reads) ports perm (fun _ => lat) noFp op) (hok : ∀ v, v.et ≤ maxEt → perm v)
    (hop : ∀ v, (op v).2 = 0) : VxPlain i reads ports maxEt lat fun v => (op v).1 :=
  vxDoes_of_fire f hp ht hx hf hok (fun _ _ => rfl) fun v _ => Prod.ext rfl (hop v)

/-! ## Types -/

theorem etAny_of_le (v : VxIn) (h : v.et ≤ 10) : etAny v := decide_eq_true h

theorem etInt_of_le (v : VxIn) (h : v.et ≤ 7) : etInt v := decide_eq_true h

theorem isFlt_elemType {k : Nat} (h : k ≤ 10) : (elemType k).isFlt = decide (8 ≤ k) := by
  interval_cases k <;> rfl

/-- What counts as floating among the types of codes 0 to 10 (R35). -/
theorem vxFlags_eq (v : VxIn) (h : v.et ≤ 10) : vxFlags v = (decide (8 ≤ v.et) || v.sat) := by
  rw [vxFlags, VxIn.e, isFlt_elemType h]

end Sys2Proof.Machine
end

section
/-! PROOFS. Permutations and reductions of `vx` (O11). -/

namespace Sys2Proof.Machine

/-- A tree of operations that set no flag sets none (R38). -/
theorem pairUp_noFlags {op : Nat → Nat → Nat × FlagBits} (h : ∀ x y, (op x y).2 = 0) (l : List Nat) : (pairUp op l).2 = 0 := by
  induction l using pairUp.induct op with
  | case1 x y l z f e zs g e' ih =>
    rw [e'] at ih
    have hf : f = 0 := by simpa [e] using h x y
    simp_all [pairUp]
  | case2 l hl => rw [pairUp]; simpa using hl

theorem treeFold_noFlags {op : Nat → Nat → Nat × FlagBits} (h : ∀ x y, (op x y).2 = 0) (n : Nat) (l : List Nat) :
    (treeFold op n l).2 = 0 := by
  induction n generalizing l with
  | zero => rfl
  | succ n ih => simp [treeFold, pairUp_noFlags h, ih]

theorem VxIn.reduce_noFlags (v : VxIn) (ident : Nat) {op : Nat → Nat → Nat × FlagBits} (h : ∀ x y, (op x y).2 = 0) :
    (v.reduce ident op).2 = 0 :=
  treeFold_noFlags h _ _

/-- Settles O11, one trigger after another; the trees of bits set no flag since their operations set none. -/
theorem vxPermutationsAndReductions : Obligations.VxPermutationsAndReductions := by
  refine fun w => ⟨vxPlain_of_fire fireVxPerm rfl rfl (fun _ _ => rfl) rfl etAny_of_le fun _ => rfl,
    vxPlain_of_fire fireVxShuf rfl rfl (fun _ _ => rfl) rfl etAny_of_le fun _ => rfl,
    vxPlain_of_fire fireVxRot rfl rfl (fun _ _ => rfl) rfl etAny_of_le fun _ => rfl,
    vxPlain_of_fire fireVxIota rfl rfl (fun _ _ => rfl) rfl etInt_of_le fun _ => rfl,
    vxDoes_of_fire fireVxIns rfl rfl (fun _ _ => rfl) rfl (fun v h => ?_) (fun _ _ => rfl) fun _ _ => rfl,
    ⟨vxDoes_of_fire fireVxRsum rfl rfl (fun _ _ => rfl) rfl etAny_of_le vxFlags_eq fun _ _ => rfl,
      vxDoes_of_fire fireVxRmax rfl rfl (fun _ _ => rfl) rfl etAny_of_le vxFlags_eq fun _ _ => rfl,
      vxDoes_of_fire fireVxRmin rfl rfl (fun _ _ => rfl) rfl etAny_of_le vxFlags_eq fun _ _ => rfl⟩,
    vxPlain_of_fire fireVxRandb rfl rfl (fun _ _ => rfl) rfl etInt_of_le fun v => v.reduce_noFlags _ fun _ _ => rfl,
    vxPlain_of_fire fireVxRorb rfl rfl (fun _ _ => rfl) rfl etInt_of_le fun v => v.reduce_noFlags _ fun _ _ => rfl,
    vxPlain_of_fire fireVxRxorb rfl rfl (fun _ _ => rfl) rfl etInt_of_le fun v => v.reduce_noFlags _ fun _ _ => rfl⟩
  obtain ⟨het, hidx⟩ := h
  simp [etAny_of_le v het, Elem.n, hidx]

end Sys2Proof.Machine
end

section
/-! PROOFS. Integer elements of `vx` (O7): what reading an element of a built vector gives (R195), and what reading back a
wrapped integer gives (R29). -/

namespace Sys2Proof.Machine

/-! ## Elements of vectors -/

theorem ofElems_lt (w : Nat) (l : List Nat) : ofElems w l < 2 ^ (w * l.length) := by
  induction l with
  | nil => simp [ofElems]
  | cons x l ih =>
    have hx : x % 2 ^ w < 2 ^ w := Nat.mod_lt _ (Nat.two_pow_pos w)
    calc ofElems w (x :: l) < 2 ^ w + 2 ^ w * ofElems w l := Nat.add_lt_add_right hx _
      _ = 2 ^ w * (ofElems w l + 1) := by ring
      _ ≤ 2 ^ w * 2 ^ (w * l.length) := Nat.mul_le_mul_left _ ih
      _ = 2 ^ (w * (x :: l).length) := by rw [← pow_add, List.length_cons]; ring_nf

/-- A vector of k bits holds whole the elements that fit it. -/
theorem toNat_ofNat_ofElems {w k : Nat} {l : List Nat} (h : w * l.length ≤ k) :
    (BitVec.ofNat k (ofElems w l)).toNat = ofElems w l := by
  rw [BitVec.toNat_ofNat, Nat.mod_eq_of_lt ((ofElems_lt w l).trans_le (Nat.pow_le_pow_right Nat.two_pos h))]

/-- Element i of the number that the listed elements form. -/
theorem ofElems_div_mod (w : Nat) {l : List Nat} {i : Nat} (h : i < l.length) :
    ofElems w l / 2 ^ (w * i) % 2 ^ w = l[i] % 2 ^ w := by
  induction l generalizing i with
  | nil => simp at h
  | cons x l ih =>
    cases i with
    | zero => simp [ofElems]
    | succ i =>
      have hx : x % 2 ^ w / 2 ^ w = 0 := Nat.div_eq_of_lt (Nat.mod_lt _ (Nat.two_pow_pos w))
      rw [Nat.mul_succ, Nat.add_comm, pow_add, ← Nat.div_div_eq_div_mul, ofElems,
        Nat.add_mul_div_left _ _ (Nat.two_pow_pos w), hx, Nat.zero_add]
      exact ih (Nat.lt_of_succ_lt_succ h)

theorem elem_vecOf {w n i : Nat} (f : Nat → Nat) (hn : w * n ≤ 512) (hi : i < n) : elem w (vecOf w n f) i = f i % 2 ^ w := by
  have hlen : w * ((List.range n).map f).length ≤ 512 := by simpa using hn
  rw [elem, vecOf, toNat_ofNat_ofElems hlen, ofElems_div_mod w (by simpa using hi)]
  simp

/-- The element-wise loop (R197): an active element takes its result, modulo its width. -/
theorem VxIn.elem_map_active {v : VxIn} {w i : Nat} (f : Nat → Nat × FlagBits) (hi : i < 512 / w) (ha : v.active i) :
    elem w (v.map w f).1 i = (f i).1 % 2 ^ w := by
  rw [VxIn.map, VxIn.mapAt, elem_vecOf _ (Nat.mul_div_le 512 w) hi]
  simp [hi, ha]

/-! ## Integers read back (R29, R30) -/

/-- What is read of a w-bit number lies in its type's range. -/
theorem readInt_mem_range (sg : Bool) {w : Nat} (hw : 0 < w) (x : Nat) :
    (rangeOf sg w).1 ≤ readInt sg w x ∧ readInt sg w x ≤ (rangeOf sg w).2 := by
  have hx : x % 2 ^ w < 2 ^ w := Nat.mod_lt _ (Nat.two_pow_pos w)
  have hp : 2 ^ w = 2 * 2 ^ (w - 1) := (mul_pow_sub_one hw.ne' 2).symm
  cases sg
  · simp only [rangeOf, readInt, Bool.false_eq_true, if_false]
    omega
  · simp only [rangeOf, readInt, toSigned, if_true]
    split <;> omega

theorem readInt_modEq (sg : Bool) (w x : Nat) : readInt sg w x ≡ x [ZMOD 2 ^ w] := by
  have hx : ((x % 2 ^ w : Nat) : Int) ≡ x [ZMOD 2 ^ w] := by
    push_cast
    exact Int.mod_modEq ..
  cases sg
  · exact hx
  · simp only [readInt, toSigned, if_true]
    split
    · exact hx
    · rw [Nat.cast_pow, Nat.cast_ofNat]
      exact (Int.sub_modulus_modEq_iff).mpr hx

theorem wrap_mod (w : Nat) (z : Int) : wrap w z % 2 ^ w = wrap w z :=
  Nat.mod_eq_of_lt ((Int.toNat_lt (Int.emod_nonneg _ (by positivity))).mpr (Int.emod_lt_of_pos _ (by positivity)))

theorem wrap_modEq (w : Nat) (z : Int) : (wrap w z : Int) ≡ z [ZMOD 2 ^ w] := by
  have h : (0 : Int) ≤ z % (2 ^ w : Nat) := Int.emod_nonneg _ (by positivity)
  rw [wrap, Int.toNat_of_nonneg h, Nat.cast_pow, Nat.cast_ofNat]
  exact Int.mod_modEq ..

/-- Reading back a wrapped integer gives it modulo 2^w (R29). -/
theorem readInt_wrap_modEq (sg : Bool) (w : Nat) (z : Int) : readInt sg w (wrap w z) ≡ z [ZMOD 2 ^ w] :=
  (readInt_modEq ..).trans (wrap_modEq ..)

/-- Reading back an integer of the type's range gives it: no two of them agree modulo 2^w. -/
theorem readInt_wrap_of_mem (sg : Bool) {w : Nat} (hw : 0 < w) {z : Int} (hl : (rangeOf sg w).1 ≤ z) (hu : z ≤ (rangeOf sg w).2) :
    readInt sg w (wrap w z) = z := by
  obtain ⟨hl', hu'⟩ := readInt_mem_range sg hw (wrap w z)
  have hd := (readInt_wrap_modEq sg w z).symm.dvd
  have hspan : (rangeOf sg w).2 - (rangeOf sg w).1 < 2 ^ w := by
    have hp : (2 : Int) ^ w = 2 * 2 ^ (w - 1) := (mul_pow_sub_one hw.ne' 2).symm
    cases sg
    · simp [rangeOf]
    · simp [rangeOf, hp]
      omega
  exact sub_eq_zero.mp (Int.eq_zero_of_abs_lt_dvd hd (abs_lt.mpr ⟨by omega, by omega⟩))

theorem rangeOf_le (sg : Bool) (w : Nat) : (rangeOf sg w).1 ≤ (rangeOf sg w).2 := by
  have h : 0 < 2 ^ (w - 1) ∧ 0 < 2 ^ w := ⟨Nat.two_pow_pos _, Nat.two_pow_pos _⟩
  cases sg <;> simp only [rangeOf, Bool.false_eq_true, if_false, if_true] <;> omega

/-- An integer result fits its element. -/
theorem intElem_mod (sg : Bool) (w : Nat) (sat : Bool) (z : Int) :
    (intElem sg w sat z).1 % 2 ^ w = (intElem sg w sat z).1 := by
  cases sat <;> exact wrap_mod ..

theorem readInt_intElem_wrapped (sg : Bool) (w : Nat) (z : Int) : readInt sg w (intElem sg w false z).1 ≡ z [ZMOD 2 ^ w] :=
  readInt_wrap_modEq ..

theorem readInt_intElem_clamped (sg : Bool) {w : Nat} (hw : 0 < w) (z : Int) :
    readInt sg w (intElem sg w true z).1 = max (rangeOf sg w).1 (min (rangeOf sg w).2 z) := by
  have hr := rangeOf_le sg w
  have hc : clamp (rangeOf sg w).1 (rangeOf sg w).2 z = max (rangeOf sg w).1 (min (rangeOf sg w).2 z) := by
    unfold clamp
    omega
  rw [← hc]
  exact readInt_wrap_of_mem sg hw (le_min (le_max_right ..) hr) (min_le_right ..)

/-- An active element of an integer operation (R197, R201). -/
theorem VxIn.elem_arith_int {v : VxIn} {sg : Bool} {w i : Nat} (fi : Int → Int → Int → Int)
    (ff : Fmt → FVal → FVal → FVal → Nat × FlagBits) (he : v.e = .int sg w) (hi : i < 512 / w) (ha : v.active i) :
    elem w ((v.arith fi ff).1.headD 0) i = (intElem sg w v.sat
      (fi (readInt sg w (elem w v.a i)) (readInt sg w (elem w v.b i)) (readInt sg w (elem w v.t i)))).1 := by
  simp only [VxIn.arith, he, List.headD_cons]
  rw [VxIn.elem_map_active _ hi ha, intElem_mod]

/-- Settles O7: the element is the result of `intElem`, which reads back as the exact result modulo 2^w, or as its clamp. -/
theorem vxIntegerElements : Obligations.VxIntegerElements := by
  intro v sg w i fi ff he hw hi ha
  have hpos : 0 < w := (by decide : ∀ w ∈ [8, 16, 32, 64], 0 < w) w hw
  dsimp only
  rw [VxIn.elem_arith_int fi ff he hi ha]
  constructor <;> intro hs <;> rw [hs]
  · exact Int.emod_eq_emod_iff_emod_sub_eq_zero.mp (readInt_intElem_wrapped ..)
  · exact readInt_intElem_clamped sg hpos _

end Sys2Proof.Machine
end

section
/-! PROOFS. Conversions, packing and the dot product of `vx` (O13): what the checks of type controls say of widths, the two forms
of an operation where the statement writes another one than the model, and the statement from them. -/

namespace Sys2Proof.Machine

/-! ## Element types (R196, Table 3) -/

theorem VxIn.e_int {v : VxIn} (h : v.et ≤ 7) : ∃ sg w, v.e = .int sg w := by
  unfold VxIn.e
  generalize v.et = k at h
  interval_cases k <;> exact ⟨_, _, rfl⟩

theorem VxIn.e_half {v : VxIn} (h : v.et = 9 ∨ v.et = 10) : ∃ f, v.e = .flt f ∧ f.width = 16 := by
  unfold VxIn.e
  rcases h with h | h <;> rw [h] <;> exact ⟨_, rfl, rfl⟩

theorem VxIn.w_fp32 {v : VxIn} (h : v.et = 8) : v.e.w = 32 := by
  rw [VxIn.e, h]
  rfl

theorem VxIn.w_half {v : VxIn} (h : v.et = 9 ∨ v.et = 10) : v.e.w = 16 := by
  obtain ⟨f, he, hw⟩ := VxIn.e_half h
  rw [he]
  exact hw

theorem et2Int_iff {v : VxIn} {w : Nat} : et2Int v w ↔ v.et2 ≤ 7 ∧ v.e2.w = w := by simp [et2Int]

theorem unPerm_of_mem {v : VxIn} (h : v.et2 ∈ [0, 2, 4]) : unPerm v := List.contains_iff_mem.mpr h

/-! ## Scales (R218) -/

/-- A scale within the bounds is its own clamp. -/
theorem clamp_of_natAbs_le {n : Nat} {x : Int} (h : x.natAbs ≤ n) : clamp (-n) n x = x := by
  unfold clamp
  omega

theorem clamp_eq_max_min {lo hi : Int} (h : lo ≤ hi) (x : Int) : clamp lo hi x = max lo (min hi x) := by
  unfold clamp
  omega

/-! ## T5 codes (R46, R220) -/

/-- Where the operation is undone, illegal codes do not trap, or no illegal code supplies an active element, the trigger is its
operation alone. -/
theorem fireVxT5un_eq {x : Trig} {s : State} (h : x.vxClean s → x.trapIll → (x.vxIn s).illegalCodes = []) :
    fireVxT5un x s = vxT5un x s := by
  unfold fireVxT5un
  cases vxT5un x s with
  | done s' j =>
    dsimp only
    split
    · rename_i b l hl
      refine if_neg fun hc => ?_
      obtain ⟨hill, hmuck⟩ := Bool.and_eq_true_iff.mp hc
      exact List.cons_ne_nil b l (hl.symm.trans (h (x.vxClean_eq s ▸ hmuck) hill))
    · rfl
  | _ => rfl

/-! ## Blocks (R221) -/

/-- The elements of a block: of a and T with FP32, of T alone with the formats of 16 bits. -/
theorem VxIn.blockElem_eq {v : VxIn} (h8 : 8 ≤ v.et) (h10 : v.et ≤ 10) (i : Nat) :
    (if v.et = 8 then (if i < 16 then elem v.e.w v.a i else elem v.e.w v.t (i - 16)) else elem v.e.w v.t i) =
      if v.et = 8 then (if i < 16 then elem 32 v.a i else elem 32 v.t (i - 16)) else elem 16 v.t i := by
  by_cases h : v.et = 8
  · rw [VxIn.w_fp32 h]
    simp [h]
  · rw [VxIn.w_half (by omega)]
    simp [h]

/-! ## The dot product (R223) -/

/-- Adding terms one after another is adding their sum. -/
theorem foldl_add_eq_sum {α : Type} (f : α → Int) (l : List α) (b : Int) :
    l.foldl (fun a k => a + f k) b = (l.map f).sum + b := by
  induction l generalizing b with
  | nil => simp
  | cons x l ih =>
    rw [List.foldl_cons, ih, List.map_cons, List.sum_cons]
    ring

/-- Settles O13, one trigger after another: the check that its operation makes admits what the statement admits, and its operation
is the one of the statement. -/
theorem vxConversions : Obligations.VxConversions := by
  refine fun w => ⟨vxDoes_of_fire fireVxCvt rfl rfl (fun _ _ => rfl) rfl (fun _ => id) (fun _ _ => rfl) fun _ _ => rfl,
    vxDoes_of_fire fireVxCvts rfl rfl (fun _ _ => rfl) rfl (fun _ => And.left) (fun _ _ => rfl) fun v h =>
      congrArg v.convert (clamp_of_natAbs_le h.2),
    vxDoes_of_fire fireVxCvts rfl rfl (fun _ _ => rfl) rfl (fun _ => id) (fun _ _ => rfl) fun v _ =>
      congrArg v.convert (clamp_eq_max_min (by decide) _),
    vxDoes_of_fire fireVxPack rfl rfl (fun _ _ => rfl) rfl (fun v h => ?pack) (fun _ _ => rfl) fun v _ => rfl,
    vxDoes_of_fire fireVxUnpk rfl rfl (fun _ _ => rfl) rfl (fun v h => ?unpk) (fun _ _ => rfl) fun v _ => rfl,
    fun s s1 x g hb => ?t5un,
    vxDoes_of_fire fireVxI4un rfl rfl (fun _ _ => rfl) rfl (fun v h => ?i4un) (fun _ _ => rfl) fun v _ => rfl,
    fun s s1 x g hb => ?bfpk,
    vxDoes_of_fire fireVxBfun rfl rfl (fun _ _ => rfl) rfl (fun v h => ?bfun) (fun _ _ => rfl) fun v _ => rfl,
    vxDoes_of_fire fireVxDot rfl rfl (fun _ _ => rfl) rfl (fun v h => by simp [h]) (fun v h => ?dotInt_fp) fun v h => ?dotInt,
    vxDoes_of_fire fireVxDot rfl rfl (fun _ _ => rfl) rfl (fun v h => by simpa [or_assoc] using .inr h) (fun v h => ?dotFlt_fp)
      fun v h => ?dotFlt⟩
  case pack =>
    obtain ⟨h2, h7, he2, hw⟩ := h
    have hhalf : v.e2.w = v.e.w / 2 := by omega
    simp [h2, h7, et2Int_iff.mpr ⟨he2, hhalf⟩]
  case unpk =>
    obtain ⟨h5, he2, hw, hsel⟩ := h
    simp [h5, hsel, et2Int_iff.mpr ⟨he2, hw⟩]
  case t5un =>
    have e := port_of_begins hb (p := 0x239) rfl
    have hrun (h : x.vxClean s1 → x.trapIll → (x.vxIn s1).illegalCodes = []) :=
      exec_of_vxRun hb (e ▸ rfl) ((fire_of_port (f := fireVxT5un) e rfl).trans (fireVxT5un_eq h))
    refine ⟨fun hc => (hrun fun h => absurd h hc).1 hc, fun hc hty he2 hidx hill => (hrun fun _ => hill).2 hc hty ?_⟩
    exact Bool.and_eq_true_iff.mpr ⟨unPerm_of_mem he2, decide_eq_true hidx⟩
  case i4un =>
    obtain ⟨he2, hidx⟩ := h
    exact Bool.and_eq_true_iff.mpr ⟨unPerm_of_mem he2, decide_eq_true hidx⟩
  case bfpk =>
    have e := port_of_begins hb (p := 0x23B) rfl
    obtain ⟨hu, hd⟩ := exec_of_vxRun hb (e ▸ rfl) (fire_of_port (f := fireVxBfpk) e rfl)
    refine ⟨hu, fun hc hty h8 h10 he2 => (hd hc hty (by simpa [etFlt, h8, h10] using he2)).trans ?_⟩
    simp only [VxIn.blockElem_eq h8 h10, Bool.not_eq_true', ← Bool.not_eq_true, ite_not]
    rfl
  case bfun =>
    obtain ⟨het, h8, h10, hsel⟩ := h
    by_cases h : v.et2 = 8 <;> simp_all
  case dotInt_fp =>
    obtain ⟨sg, w, he⟩ := VxIn.e_int (v := v) (by omega)
    simp [vxFlags, he, Elem.isFlt]
  case dotInt =>
    obtain ⟨sg, w, he⟩ := VxIn.e_int (v := v) (by omega)
    simp only [he, Elem.w, foldl_add_eq_sum]
  case dotFlt_fp =>
    obtain ⟨f, he, hw⟩ := VxIn.e_half h
    simp [vxFlags, he, Elem.isFlt]
  case dotFlt =>
    obtain ⟨f, he, hw⟩ := VxIn.e_half h
    simp only [he, Elem.w, hw]

end Sys2Proof.Machine
end

section
/-! PROOFS. Launches, and nodes without a gang (O41): the store and the read of the launch window, the three ways that the head of
the queue goes, the order of service as a linear order of ranks, and the statement from them. -/

namespace Sys2Proof.Machine

/-- A step that is taken back where it would wait answers what its operation leaves. -/
theorem answers_of_whole {i : Instr} {s t : State} {f : State → State} (hi : exec i s = .next (s.whole f)) (e : f s = t) :
    Answers i s t := by
  subst e
  exact fun hw => hi.trans (congrArg Host.Outcome.next (State.whole_of_wait hw))

/-! ## The launch window (R63, R64) -/

section Window

variable {s : State} {p : Nat} (hp : (s.parts.get none p).isSome = true)

include hp

theorem State.launchStore_read (off : Nat) : s.launchStore p off [] =
    { s with outRead := bytesOf 8 (if off = 0x40 then 64 - (s.part p).launchQ.length
      else if off = 0x48 then (s.part p).ldrop else 0) } := by
  rw [State.launchStore, if_neg (by simpa [Option.isSome_iff_ne_none] using hp)]
  rfl

theorem State.launchStore_clear {bytes : List Byte} (hb : bytes ≠ []) : s.launchStore p 0x48 bytes =
    s.updPart p fun q => { q with ldrop := q.ldrop &&& (0xFFFF - ofBytes (bytes.take 2) % 2 ^ 16) } := by
  rw [State.launchStore, if_neg (by simpa [Option.isSome_iff_ne_none] using hp), if_neg (by simpa using hb), if_pos rfl]

theorem State.launchStore_whole {bytes : List Byte} (hl : bytes.length = 64) (hq : (s.part p).launchQ.length < 64) :
    s.launchStore p 0 bytes = s.updPart p fun q => { q with launchQ := q.launchQ ++ [BitVec.ofNat 512 (ofBytes bytes)] } := by
  have hb : bytes ≠ [] := fun e => by simp [e] at hl
  rw [State.launchStore, if_neg (by simpa [Option.isSome_iff_ne_none] using hp), if_neg (by simpa using hb)]
  simp [State.enqueueLaunch, launchDepth, hq, hl]

theorem State.launchStore_discarded {off : Nat} {bytes : List Byte} (ho : off < 0x40) (hb : bytes ≠ [])
    (h : off ≠ 0 ∨ bytes.length ≠ 64 ∨ 64 ≤ (s.part p).launchQ.length) :
    let d := min 0xFFFF ((s.part p).ldrop + 1)
    s.launchStore p off bytes = (s.updPart p fun q => { q with ldrop := d }).partEvent p 0x10 [d] := by
  have hno : ¬ (off = 0 ∧ bytes.length = 64 ∧ (s.part p).launchQ.length < 64) := by omega
  rw [State.launchStore, if_neg (by simpa [Option.isSome_iff_ne_none] using hp), if_neg (by simpa using hb), if_neg (by omega), if_neg (by omega)]
  by_cases hq : (s.part p).launchQ.length < 64
  · simp only [hq, and_true] at hno
    simp [State.enqueueLaunch, launchDepth, hq, evLaunchDrop, hno]
  · simp [State.enqueueLaunch, launchDepth, hq, evLaunchDrop]

end Window

/-! ## The head of the launch queue (R64) -/

section Dequeue

variable {s : State} {p : Nat} {r : BitVec 512} {rest : List (BitVec 512)} (hq : (s.part p).launchQ = r :: rest)
  (hc : (s.part p).children = [])

include hq hc

theorem State.dequeueLaunch_malformed (h : recVer r ≠ 0x96 ∨ 5 ≤ recKind r ∨ recReserved r = true) : s.dequeueLaunch p =
    (s.updPart p fun q => { q with launchQ := rest }).removeLaunch p cFormat 0 := by
  simp only [State.dequeueLaunch, hq, hc]
  rw [if_neg (by simp), if_pos (by simpa [or_assoc] using h)]

variable (hv : recVer r = 0x96) (hr : recReserved r = false)

include hv hr

theorem State.dequeueLaunch_single (hk : recKind r < 4) : s.dequeueLaunch p =
    if (s.part p).maxNodes < (s.part p).liveNodes + 1 then s
    else (s.updPart p fun q => { q with launchQ := rest }).createSingle p r := by
  simp only [State.dequeueLaunch, hq, hc]
  rw [if_neg (by simp), if_neg (by simp [hv, hr]; omega), if_pos (by simp; omega)]

theorem State.dequeueLaunch_graph {s1 : State} {h : Vec} (hk : recKind r = 4) (hg : s.devGranule p (recObj r) = (s1, .ok h))
    (hb : hdrBad h = false) (hn : hdrNnodes h ≤ (s.part p).maxNodes) : s.dequeueLaunch p =
    if (s.part p).maxNodes < (s.part p).liveNodes + hdrNnodes h then s1
    else (s1.updPart p fun q => { q with launchQ := rest }).createGraph p h none := by
  simp only [State.dequeueLaunch, hq, hc, hg]
  rw [if_neg (by simp), if_neg (by simp [hv, hr, hk]), if_neg (by simp [hk]), if_neg (by simp [hb]), if_neg (by omega)]

end Dequeue

/-- A launch that is removed with no graph status takes a number and sends LAUNCHFAIL (R64). -/
theorem State.removeLaunch_noStatus (s : State) (p code : Nat) : s.removeLaunch p code 0 =
    (s.updPart p fun x => { x with nextInst := ((s.part p).nextInst + 1) % 65536 }).freeDword.2.partEvent p 0x11
      [(s.part p).nextInst, code] := rfl

/-- The partition that holds a launch exists. -/
theorem State.part_of_launchQ {s : State} {p : Nat} {r : BitVec 512} {rest : List (BitVec 512)}
    (hq : (s.part p).launchQ = r :: rest) : s.parts.get none p = some (s.part p) := by
  cases h : s.parts.get none p with
  | none => simp [State.part, h] at hq
  | some x => simp [State.part, h]

/-! ## The order of service (R67) -/

theorem lexLt_iff (a b : List Nat) : lexLt a b = true ↔ a < b := by
  induction a generalizing b with
  | nil => cases b <;> simp [lexLt]
  | cons x a ih => cases b with
    | nil => simp [lexLt]
    | cons y b => simp [lexLt, ih, List.cons_lt_cons_iff]

/-- Of the node found so far and the next one, the one with the lesser rank. -/
def leastRank (b : Option (List Nat × Nat × Nat)) (e : List Nat × Nat × Nat) : Option (List Nat × Nat × Nat) :=
  match b with
  | some f => if lexLt e.1 f.1 then some e else b
  | none => some e

theorem State.nextNode_eq (s : State) (p : Nat) : s.nextNode p = ((s.served p).foldl leastRank none).map (·.2) := rfl

/-- What has been found when a list has been gone through is of the list, or was found before, and its rank is the least. -/
theorem foldl_leastRank {l : List (List Nat × Nat × Nat)} {b : Option (List Nat × Nat × Nat)} {e : List Nat × Nat × Nat}
    (h : l.foldl leastRank b = some e) :
    (e ∈ l ∨ b = some e) ∧ (∀ x ∈ l, e.1 ≤ x.1) ∧ ∀ f, b = some f → e.1 ≤ f.1 := by
  induction l generalizing b with
  | nil => cases h; simp
  | cons x l ih =>
    obtain ⟨hm, hl, hb⟩ := ih h
    cases b with
    | none =>
      have hx := hb x rfl
      refine ⟨?_, by simpa [hx] using hl, by simp⟩
      rcases hm with hm | hm
      · exact .inl (List.mem_cons_of_mem _ hm)
      · exact .inl (Option.some.inj hm ▸ List.mem_cons_self)
    | some f =>
      by_cases hlt : lexLt x.1 f.1 = true
      · have hx : e.1 ≤ x.1 := hb x (by simp [leastRank, hlt])
        have hf : e.1 ≤ f.1 := hx.trans ((lexLt_iff _ _).mp hlt).le
        simp only [leastRank, hlt, if_true, Option.some.injEq] at hm
        exact ⟨.inl (by simp [hm.imp_right Eq.symm |>.symm]), by simpa [hx] using hl, by simpa using hf⟩
      · have hf : e.1 ≤ f.1 := hb f (by simp [leastRank, hlt])
        have hx : e.1 ≤ x.1 := hf.trans (not_lt.mp fun hc => hlt ((lexLt_iff _ _).mpr hc))
        simp only [leastRank, hlt] at hm
        exact ⟨hm.imp_left (List.mem_cons_of_mem _), by simpa [hx] using hl, by simpa using hf⟩

/-- The node that is served has the least rank of those that are served now (R67). -/
theorem State.nextNode_least {s : State} {p i n : Nat} (h : s.nextNode p = some (i, n)) :
    ∃ r, (r, i, n) ∈ s.served p ∧ ∀ e ∈ s.served p, lexLt e.1 r = false := by
  rw [State.nextNode_eq, Option.map_eq_some_iff] at h
  obtain ⟨⟨r, q⟩, hf, rfl⟩ := h
  obtain ⟨hm, hl, -⟩ := foldl_leastRank hf
  refine ⟨r, hm.resolve_right (by simp), fun e he => ?_⟩
  rw [← Bool.not_eq_true, lexLt_iff]
  exact not_lt.mpr (hl e he)

theorem State.nextOfKind_eq {s : State} {p i n k : Nat} (h : s.nextNode p = some (i, n))
    (hk : recKind (s.node p i n).record = k) : s.nextOfKind p k = some (i, n) := by
  simp [State.nextOfKind, h, hk]

/-! ## EVENT and SUBGRAPH nodes (R56, R385) -/

theorem State.startEvent_served {s : State} {p i n : Nat} (h : s.nextNode p = some (i, n))
    (hk : recKind (s.node p i n).record = 3) : s.startEvent p =
    (s.partEvent p 0x15 [n, i, (recObj (s.node p i n).record).toNat]).endNode p i n 0 := by
  rw [State.startEvent, State.nextOfKind_eq h hk]
  rfl

theorem State.serveSubgraph_waits {s s1 : State} {p i n : Nat} {h : Vec} (hn : s.nextNode p = some (i, n))
    (hk : recKind (s.node p i n).record = 2) (hg : s.devGranule p (recObj (s.node p i n).record) = (s1, .ok h))
    (hb : hdrBad h = false) (hm : hdrNnodes h ≤ (s1.part p).maxNodes) : s.serveSubgraph p =
    (s1.updNode p i n fun x => { x with phase := .engine, child := h }).updPart p fun q =>
      { q with children := q.children ++ [(i, n)] } := by
  simp only [State.serveSubgraph, State.nextOfKind_eq hn hk, hg]
  rw [if_neg (by simp [hb]), if_neg (by omega)]

theorem State.admitChild_first {s : State} {p i n : Nat} {rest : List (Nat × Nat)} (h : (s.part p).children = (i, n) :: rest) :
    s.admitChild p = if (s.part p).maxNodes < (s.part p).liveNodes + hdrNnodes (s.node p i n).child then s
      else (s.updPart p fun q => { q with children := rest }).createGraph p (s.node p i n).child (some (i, n)) := by
  simp only [State.admitChild, h]

/-! ## Status (R62) -/

/-- The code of a graph is that of its failed node with the lowest index. -/
theorem Inst.graphCode_of_lowest {x : Inst} {n c : Nat} (hn : n < x.nnodes) (hc : (x.nodes.get {} n).code = some c) (h0 : c ≠ 0)
    (hlow : ∀ m, m < n → ∀ d, (x.nodes.get {} m).code = some d → d = 0) : x.graphCode = c := by
  obtain ⟨k, hk⟩ : ∃ k, x.nnodes = n + (k + 1) := ⟨x.nnodes - n - 1, by omega⟩
  have hbefore : ((List.range n).filterMap fun m => (x.nodes.get {} m).code).find? (· != cDone) = none := by
    rw [List.find?_eq_none]
    intro d hd
    obtain ⟨m, hm, hd⟩ := List.mem_filterMap.mp hd
    simp [cDone, hlow m (List.mem_range.mp hm) d hd]
  rw [Inst.graphCode, hk, List.range_add, List.range_succ_eq_map, List.filterMap_append, List.find?_append, hbefore]
  simp only [List.map_cons, Nat.add_zero, List.filterMap_cons, hc, Option.none_or]
  rw [List.find?_cons_of_pos (by simpa [cDone] using h0), Option.getD_some]

/-- A word packed of four fields that fit it. The places are variables, so that no power of two is computed. -/
theorem pack_four_toNat (a b c d : Nat × Nat)
    (h : a.2 * 2 ^ a.1 + b.2 * 2 ^ b.1 + c.2 * 2 ^ c.1 + d.2 * 2 ^ d.1 < 2 ^ 64) :
    (pack [a, b, c, d]).toNat = a.2 * 2 ^ a.1 + b.2 * 2 ^ b.1 + c.2 * 2 ^ c.1 + d.2 * 2 ^ d.1 := by
  rw [pack, BitVec.toNat_ofNat]
  simp only [List.foldl_cons, List.foldl_nil, Nat.zero_add]
  exact Nat.mod_eq_of_lt h

theorem statusWord_toNat {code i time : Nat} (o : Bool) (hc : code < 256) (hi : i < 65536) (ht : time < 2 ^ 32) :
    (statusWord code i time o).toNat = code * 2 ^ 0 + (if o then 1 else 0) * 2 ^ 8 + i * 2 ^ 16 + time * 2 ^ 32 :=
  pack_four_toNat (0, code) (8, if o then 1 else 0) (16, i) (32, time) (by dsimp only; split <;> omega)

theorem statusWord_fields {code i time : Nat} (o : Bool) (hc : code < 256) (hi : i < 65536) (ht : time < 2 ^ 32) :
    let w := statusWord code i time o
    dfield w 7 0 = code ∧ dfield w 8 8 = (if o then 1 else 0) ∧ dfield w 31 16 = i ∧ dfield w 63 32 = time := by
  simp only [dfield, statusWord_toNat o hc hi ht, field]
  have hb : (if o then 1 else 0) < 2 := by split <;> omega
  generalize (if o then 1 else 0) = b at hb ⊢
  omega
/-- Settles O41, one operation after another. -/
theorem launchesAndNodes : Obligations.LaunchesAndNodes := by
  refine ⟨fun s p bytes hp hl hq => congrArg Host.Outcome.next (State.launchStore_whole hp hl hq),
    fun s p off bytes hp ho hb h => congrArg Host.Outcome.next (State.launchStore_discarded hp ho hb h),
    fun s p off hp => congrArg Host.Outcome.next (State.launchStore_read hp off),
    fun s p bytes hp hb => congrArg Host.Outcome.next (State.launchStore_clear hp hb),
    fun s p r rest hq hc => ⟨fun ⟨hv, _, hr⟩ => ⟨fun hk => ?_, fun s1 h hk hg hb hn hs1 => ?_⟩, fun h => ?_⟩,
    fun s p i n => State.nextNode_least,
    fun s p i n hn hk => answers_of_whole (f := (·.startEvent p)) rfl (State.startEvent_served hn hk),
    fun s p i n s1 h hn hk hg hb hm => answers_of_whole (f := (·.serveSubgraph p)) rfl (State.serveSubgraph_waits hn hk hg hb hm),
    fun s p i n rest h => answers_of_whole (f := (·.admitChild p)) rfl (State.admitChild_first h),
    fun x n c hn hc h0 hlow => Inst.graphCode_of_lowest hn hc h0 hlow,
    fun code i time o hc hi ht => statusWord_fields o hc hi ht⟩
  · exact answers_of_whole (f := (·.dequeueLaunch p)) rfl (State.dequeueLaunch_single hq hc hv hr hk)
  · exact answers_of_whole (f := (·.dequeueLaunch p)) rfl (State.dequeueLaunch_graph hq hc hv hr hk hg hb hn)
  · refine answers_of_whole (f := (·.dequeueLaunch p)) rfl ((State.dequeueLaunch_malformed hq hc h).trans ?_)
    rw [State.removeLaunch_noStatus, State.part_updPart s p _ (State.part_of_launchQ hq)]
    rfl

end Sys2Proof.Machine
end

section
/-! PROOFS. A step runs the decoded word (O36): what a fetch finds, and the passing of time as a write of the dies and the clock. -/

namespace Sys2Proof.Machine

/-- A half whose row may issue, with no trap waiting and its counter inside its segment, fetches the word at its counter (R126). -/
theorem State.fetch_word {s s1 : State} {c : Nat} {h : Half} {i : Instr} (hs : s1 = (s.row c).foldl State.landDue s)
    (ht : s1.boundaryTraps c h = []) (hr : s1.rowReady c h = true) (hm : ((s1.ctx c).stream h).past = false)
    (hlo : ((s1.ctx c).segOf h).lo ≤ ((s1.ctx c).stream h).pc.toNat)
    (hhi : ((s1.ctx c).stream h).pc.toNat < ((s1.ctx c).segOf h).hi)
    (hd : decodeWord ((s1.core c).istore.get 0 (((s1.ctx c).stream h).pc.toNat / 4)) = .ok i) :
    s.fetch c h = .word i { s1 with curCore := c, curHalf := h } := by
  subst hs
  rw [State.fetch, if_neg (by simp [ht]), if_neg (by simp [hr])]
  simp only [hm, Bool.false_eq_true, if_false]
  rw [if_neg (by simp [hlo, hhi]), hd]

theorem act_fetch_word {s t : State} {c : Nat} {h : Half} {i : Instr} (hc : c < 1536) (hf : s.fetch c h = .word i t) :
    act (.fetch c h) s = exec i t := by
  simp only [act, hf]
  exact if_neg (Nat.not_le.mpr hc)

/-- A pass over the dies writes nothing else. -/
theorem foldl_updDie (f : State → Nat → Die → Die) (l : List Nat) (s : State) :
    ∃ ds, l.foldl (fun s d => s.updDie d (f s d)) s = { s with dies := ds } := by
  induction l generalizing s with
  | nil => exact ⟨s.dies, rfl⟩
  | cons d l ih =>
    obtain ⟨ds, h⟩ := ih (s.updDie d (f s d))
    exact ⟨ds, h⟩

theorem State.passTime_dies (s : State) (n : Nat) : ∃ ds, s.passTime n = { s with now := s.now + n, dies := ds } := by
  obtain ⟨ds, h⟩ := foldl_updDie (fun t d x => x.passEnds (t.effLimit d) (s.now + n)) (List.range 4) s
  exact ⟨ds, by rw [State.passTime, h]⟩

/-- Settles O36, by what the agenda names: a half of a core, an agent of the device, or a tick. -/
theorem stepRunsDecoded : Obligations.StepRunsDecoded := by
  refine ⟨?_, ?_, ?_⟩
  · intro s c h rest i ha hc s0 s1 m g ht hr hm hlo hhi hd
    rw [step, ha]
    exact act_fetch_word hc (State.fetch_word rfl ht hr hm hlo hhi hd)
  · intro s i rest ha hi
    rw [step, ha]
    exact if_neg (by simp [isWord, hi])
  · intro s n rest ha t
    exact ⟨by rw [step, ha]; rfl, State.passTime_dies _ n⟩

end Sys2Proof.Machine
end

section
/-! PROOFS. Replies of the labels, the Carillon, messages and XFORM nodes (O48): what each unit's step does when it has something to
do, and the three kinds of command that an XFORM node can hold. -/

namespace Sys2Proof.Machine

/-! ## Labels and the Carillon (R267, R291) -/

/-- The operation that goes on is the oldest, where no trap waits. -/
theorem Ctx.nextLb_oldest {k : Ctx} {o : LbOp} {r : List LbOp} (hr : k.raised = none) (ht : k.xs.trap = none) (ho : k.lbops = o :: r) :
    k.nextLb = some o := by
  simp [Ctx.nextLb, hr, ht, ho]

/-- The oldest suspended operation that is no census and reads no label register is performed, and ends with its writes. -/
theorem State.lbRetry_ends {s s1 : State} {c : Nat} {o : LbOp} {ws : LWrite} (hn : (s.ctx c).nextLb = some o) (h12 : o.op ≠ 12)
    (h13 : o.op ≠ 13) (hp : s.lbPerform c o = (s1, none, ws)) : s.lbRetry c = (s1.lbFinish c o ws, none) := by
  simp only [State.lbRetry, hn, h12, h13, if_false, hp]

theorem execLabelResolveReply_untrapped {s s1 s2 : State} {c : Nat} (hr : s.resolveCore c = (s1, {})) (hl : s1.lbRetry c = (s2, none)) :
    execLabelResolveReply c s = .next s2 := by
  simp [execLabelResolveReply, hr, hl]

theorem State.carillon_ends {s s1 : State} {c : Nat} {t : Task} {o : ClOp} {d : DSpace} {ws : List (Nat × SVal)}
    (ht : (s.core c).task = some t) (ho : (s.ctx c).clop = some o) (hx : (s.ctx c).xs.trap = none) (hr : (s.ctx c).raised = none)
    (hd : (s.part t.part).dspaces.get none o.space = some d) (hw : s.clRun c t o d = (s1, some ws)) :
    s.carillon c = (s1.observe 3 c o.began).updCore c fun k =>
      { k.reply o.token ws with ctx := { (k.reply o.token ws).ctx with clop := none } } := by
  simp only [State.ctx] at ho hx hr
  simp [State.carillon, ht, ho, hx, hr, hd, hw]

/-! ## Messages (R117, R325) -/

/-- A message that no earlier one of its sender and channel precedes is put into its receiver's storage. -/
theorem execMessageArrive_first {s : State} {i : Nat} {m : Mail} (hm : s.msgs[i]? = some m)
    (hf : ∀ e ∈ s.msgs.take i, ¬ (e.task.sameGang m.task ∧ e.gx = m.gx ∧ e.gy = m.gy ∧ e.msg.sender = m.msg.sender ∧
      e.msg.chan = m.msg.chan)) :
    execMessageArrive i s = .next ({ s with msgs := s.msgs.eraseIdx i }.putMail m) := by
  simp only [execMessageArrive, hm]
  rw [if_neg]
  simpa only [List.any_eq_true, Bool.and_eq_true, decide_eq_true_eq, and_assoc, not_exists, not_and] using hf

theorem State.putMail_live {s : State} {m : Mail} {k : Nat} (h : s.box m.task m.gx m.gy = .live k) :
    s.putMail m = s.updCtx k fun x => { x with inbox := x.inbox ++ [m.msg] } := by
  simp only [State.putMail, h]

/-! ## XFORM nodes (R56, R62) -/

section Start

variable {s s1 : State} {p i n : Nat} {v : Vec} (hn : s.nextNode p = some (i, n)) (hk : recKind (s.node p i n).record = 1)
  (hg : s.devGranule p (recObj (s.node p i n).record) = (s1, .ok v))

include hn hk hg

theorem State.startXform_noCommand (hc : Config.xformCommand v = none) : s.startXform p = s1.xformEnd p i n false := by
  simp only [State.startXform, State.nextOfKind_eq hn hk, hg, hc]

theorem State.startXform_command {cmd : XformCmd} (hc : Config.xformCommand v = some cmd) :
    s.startXform p = s1.xformBegin p i n cmd := by
  simp only [State.startXform, State.nextOfKind_eq hn hk, hg, hc]

end Start

/-- The copy of a node's four command words. -/
def nodeCopy (p i n : Nat) (w0 w1 w2 w3 : Dword) : Copy :=
  { w0 := { v := w0 }, w1 := { v := w1 }, w2 := { v := w2 }, w3 := { v := w3 }, node := some (p, i, n) }

/-- A node whose command is under way on the engines. -/
def State.xformUnder (s : State) (p i n : Nat) (cmd : XformCmd) (k : Copy) : State :=
  (s.updNode p i n fun d => { d with phase := .engine }).updPart p fun q =>
    { q with xforms := q.xforms ++ [{ inst := i, node := n, cmd := cmd, copy := k }] }

/-- A copy command that names virtual addresses alone and is not refused opens; any other ends with ENGINE. -/
theorem State.xformBegin_copy (s : State) (p i n : Nat) (w0 w1 w2 w3 : Dword) :
    let c := (s.part p).origin
    let t := (s.part p).engineTask p i n
    let k := nodeCopy p i n w0 w1 w2 w3
    let r := s.asEngine c (recLsp (s.node p i n).record) (·.copyOpen c t k)
    s.xformBegin p i n (.copy w0 w1 w2 w3) =
      if k.virtualOnly && !k.refused c t then r.1.xformUnder p i n (.copy w0 w1 w2 w3) r.2 else s.xformEnd p i n false := by
  intro c t k r
  by_cases hk : (!k.virtualOnly || k.refused c t) = true
  · rw [if_neg (by simpa [or_comm, imp_iff_not_or] using hk)]
    exact if_pos hk
  · rw [if_pos (by simpa using hk)]
    exact if_neg hk

/-- A census waits in a label space that exists, and ends with ENGINE for any other. -/
theorem State.xformBegin_census (s : State) (p i n space : Nat) : s.xformBegin p i n (.census space) =
    if 8 ≤ space ∨ (s.part p).lspaces.get none space = none then s.xformEnd p i n false
    else s.xformUnder p i n (.census space) {} := by
  simp [State.xformBegin, State.xformUnder]

/-- A copy command under way that has a chunk to do does it. -/
theorem State.xformGo_copy {s s1 : State} {p j : Nat} {x : XRun} {w0 w1 w2 w3 : Dword} {k : Copy}
    (hx : (s.part p).xforms[j]? = some x) (hc : x.cmd = .copy w0 w1 w2 w3) (hd : x.copy.done = none)
    (hr : s.asEngine (s.part p).origin (recLsp (s.node p x.inst x.node).record)
      (·.copyChunk (s.part p).origin ((s.part p).engineTask p x.inst x.node) x.copy) = (s1, k)) :
    s.xformGo p j = s1.updPart p fun q => { q with xforms := q.xforms.set j { x with copy := k } } := by
  simp only [State.xformGo, hx, hc, hd, hr]

/-- Settles O48, one unit after another. -/
theorem unitReplies : Obligations.UnitReplies := by
  refine ⟨?_, ?_, ?_, ?_, ?_, ?_⟩
  · intro s c s1 s2 hr hl
    exact execLabelResolveReply_untrapped hr hl
  · intro s c o r s1 ws hr ht ho h12 h13 hp
    exact State.lbRetry_ends (Ctx.nextLb_oldest hr ht ho) h12 h13 hp
  · intro s c t o d s1 ws ht ho hx hr hd hw
    exact answers_of_whole (f := (·.carillon c)) rfl (State.carillon_ends ht ho hx hr hd hw)
  · intro s i m k hm hf s' hb
    exact (execMessageArrive_first hm hf).trans (congrArg _ (State.putMail_live hb))
  · intro s p i n s1 v hn hk hg c t lsp under
    refine answers_of_whole (f := (·.xformStep p 0)) rfl ?_
    cases hc : Config.xformCommand v with
    | none => exact State.startXform_noCommand hn hk hg hc
    | some cmd =>
      refine (State.startXform_command hn hk hg hc).trans ?_
      cases cmd with
      | diagram op space a b x => rfl
      | copy w0 w1 w2 w3 => exact State.xformBegin_copy s1 p i n w0 w1 w2 w3
      | census space => exact State.xformBegin_census s1 p i n space
  · intro s p j x w0 w1 w2 w3 s1 k hx hc hd hr
    exact answers_of_whole (f := (·.xformStep p (j + 1))) rfl (State.xformGo_copy hx hc hd hr)

end Sys2Proof.Machine
end

section
/-! PROOFS. A gang is placed (O42): one lemma for each answer of the dealer and of a core in the reservation, the failed attempt as one
state, and the translation that a waiting node takes. -/

namespace Sys2Proof.Machine

/-! ## The attempt (R68) -/

theorem State.attempt_probes {s : State} {p i n : Nat} {g : Img} {gs : List Gang} (ha : (s.part p).attempt = none)
    (hn : s.nextNode p = some (i, n)) (hk : recKind (s.node p i n).record = 0) (hi : (s.node p i n).img = some g)
    (hs : s.staleSel p (s.node p i n) = false)
    (hp : (s.node p i n).tiebreak = true ∨ s.placeable p (s.node p i n).record g = true)
    (hc : s.candidates p (s.node p i n) = some gs) :
    s.attempt p = s.updPart p fun q => { q with attempt := some {
      inst := i, node := n, gangs := gs, cores := (gs.flatMap (·.cores)).map fun c => (c, Reply.probed) } } := by
  have hfit : (!(s.node p i n).tiebreak && !s.placeable p (s.node p i n).record g) = false := by
    rcases hp with h | h <;> simp [h]
  simp only [State.attempt, ha, State.nextOfKind_eq hn hk, hs, hi, hfit, hc, Option.isSome_none, Bool.false_eq_true, if_false]

/-- Every reply is `r`. -/
theorem replies_all {l : List (Nat × Reply)} {r : Reply} (h : ∀ e ∈ l, e.2 = r) : l.all (·.2 = r) = true := by
  simpa only [List.all_eq_true, decide_eq_true_eq] using h

theorem replies_not_all {l : List (Nat × Reply)} {r r' : Reply} (h : ∃ e ∈ l, e.2 = r') (hr : r' ≠ r) : l.all (·.2 = r) = false := by
  obtain ⟨e, he, rfl⟩ := h
  simp only [List.all_eq_false, decide_eq_true_eq]
  exact ⟨e, he, hr⟩

theorem replies_none {l : List (Nat × Reply)} {r : Reply} (h : ∀ e ∈ l, e.2 ≠ r) : l.any (·.2 = r) = false := by
  simpa only [List.any_eq_false, decide_eq_true_eq] using h

section Attempt

variable {s : State} {p c : Nat} {a : Attempt} (ha : (s.part p).attempt = some a)

include ha

theorem State.probe_answers {g : Img} (hm : (c, Reply.probed) ∈ a.cores) (hi : (s.node p a.inst a.node).img = some g) :
    s.probe p c = if s.grants c p a.inst a.node g then
      (s.updCore c fun k => { k with resv := .granted p s.now }).setReply p c .granted else s.setReply p c .refused := by
  simp only [State.probe, ha, hi]
  exact if_neg (by simpa using hm)

theorem State.commit_answers {since : Nat} (hm : (c, Reply.asked) ∈ a.cores) (hr : (s.core c).resv = .granted p since) :
    s.commit p c = if s.now ≤ since + 256 then
      (s.updCore c fun k => { k with resv := .committed p }).setReply p c .acked else s.setReply p c .denied := by
  simp only [State.commit, ha, hr]
  rw [if_neg (by simpa using hm)]
  simp

theorem State.probed_granted (hc : a.commit = false) (hg : ∀ e ∈ a.cores, e.2 = Reply.granted) :
    s.probed p = s.updPart p fun q => { q with
      attempt := some { a with commit := true, cores := a.cores.map fun e => (e.1, Reply.asked) } } := by
  have hp : a.cores.any (·.2 = .probed) = false := replies_none fun e he h => by simp [hg e he] at h
  simp only [State.probed, ha, hc, hp, replies_all hg, Bool.or_self, Bool.false_eq_true, if_false, if_true]

theorem State.probed_refused (hc : a.commit = false) (hp : ∀ e ∈ a.cores, e.2 ≠ Reply.probed)
    (hr : ∃ e ∈ a.cores, e.2 = Reply.refused) : s.probed p = s.failAttempt p a := by
  simp only [State.probed, ha, hc, replies_none hp, replies_not_all hr (r := .granted) (by decide), Bool.or_self, Bool.false_eq_true,
    if_false]

theorem State.committed_acked (hc : a.commit = true) (hk : ∀ e ∈ a.cores, e.2 = Reply.acked) :
    s.committed p = (s.updPart p fun q => { q with attempt := none }).settlePlace p a.inst a.node a.gangs := by
  have hp : a.cores.any (·.2 = .asked) = false := replies_none fun e he h => by simp [hk e he] at h
  simp only [State.committed, ha, hc, hp, replies_all hk, Bool.not_true, Bool.or_self, Bool.false_eq_true, if_false, if_true]

theorem State.committed_denied (hc : a.commit = true) (hp : ∀ e ∈ a.cores, e.2 ≠ Reply.asked)
    (hr : ∃ e ∈ a.cores, e.2 = Reply.denied) : s.committed p = s.failAttempt p a := by
  simp only [State.committed, ha, hc, replies_none hp, replies_not_all hr (r := .acked) (by decide), Bool.not_true, Bool.or_self,
    Bool.false_eq_true, if_false]

end Attempt

/-- A write of a partition that keeps its instances keeps its nodes. -/
theorem State.node_updPart {s : State} {p i n : Nat} {f : Part → Part} (hf : ∀ q, (f q).insts = q.insts) :
    (s.updPart p f).node p i n = s.node p i n := by
  cases hp : s.parts.get none p with
  | none => simp [State.updPart, hp]
  | some x =>
    have hx : s.part p = x := by simp [State.part, hp]
    simp only [State.node, State.inst, Part.inst, State.part_updPart s p f hp, hf, hx]

theorem Part.advance_insts (q : Part) (g : Gang) : (q.advance g).insts = q.insts := by
  rw [Part.advance]
  split_ifs <;> rfl

/-- The state once a failed attempt is counted: the cursor has moved on and the node backs off (R68). -/
def State.attemptCounted (s : State) (p : Nat) (a : Attempt) : State :=
  let g := a.gangs.headD {}
  let t := s.updPart p fun q => { (q.advance g) with attempt := none }
  let f := (t.node p a.inst a.node).failures + 1
  t.updNode p a.inst a.node fun x => { x with failures := f, backoff := some (t.now + backoffOf f g.ox g.oy) }

theorem State.attemptCounted_eq (s : State) (p : Nat) (a : Attempt) :
    let f := (s.node p a.inst a.node).failures + 1
    let g := a.gangs.headD {}
    s.attemptCounted p a = (s.updPart p fun q => { (q.advance g) with attempt := none }).updNode p a.inst a.node fun x => { x with
      failures := f, backoff := some (s.now + (min (64 * 2 ^ (f - 1)) 16384 + (5 * g.ox + 3 * g.oy) % 64)) } := by
  have hn : (s.updPart p fun q => { (q.advance (a.gangs.headD {})) with attempt := none }).node p a.inst a.node =
      s.node p a.inst a.node := State.node_updPart fun q => q.advance_insts _
  simp only [State.attemptCounted, backoffOf, hn, State.updPart_now]

/-- With no node escalated, the first of those that have failed eight times is (R70). -/
def State.escalateNext (s : State) (p : Nat) : State :=
  match (s.part p).escalated, s.waitingForRegion p with
  | none, some (i, n) => s.escalate p i n
  | _, _ => s

theorem State.escalateNext_eq (s : State) (p : Nat) : s.escalateNext p =
    if (s.part p).escalated.isSome then s else (s.waitingForRegion p).elim s fun e => s.escalate p e.1 e.2 := by
  rw [State.escalateNext]
  cases (s.part p).escalated with
  | some e => rfl
  | none => cases s.waitingForRegion p <;> rfl

/-- A failed attempt is counted, and then a node may be escalated (R68, R70). -/
theorem State.failAttempt_eq (s : State) (p : Nat) (a : Attempt) : s.failAttempt p a = (s.attemptCounted p a).escalateNext p := rfl

/-! ## Grants, back-off and the escalated node (R68, R70) -/

section Grant

variable {s : State} {c p since : Nat} (hr : (s.core c).resv = .granted p since)

include hr

theorem State.lapse_due (ht : since + 256 ≤ s.now) : s.lapse c = s.updCore c fun k => { k with resv := .idle } := by
  simp only [State.lapse, hr]
  exact if_pos ht

theorem State.releaseGrant_unwanted (hw : s.wanted p c = false) :
    s.releaseGrant c = s.updCore c fun k => { k with resv := .idle } := by
  simp only [State.releaseGrant, hr, hw, Bool.false_eq_true, if_false]

end Grant

theorem State.backoffOver_due {s : State} {p i n t : Nat} (hb : (s.node p i n).backoff = some t) (ht : t ≤ s.now) :
    s.backoffOver p i n = s.updNode p i n fun x => { x with backoff := none } := by
  simp only [State.backoffOver, hb]
  exact if_pos ht

/-- The escalated node takes its region, whose every core is idle, unreserved, not halted and has a save area for it. -/
theorem State.placeEscalated_takes {s : State} {p i n : Nat} (he : (s.part p).escalated = some (i, n))
    (ht : (s.node p i n).tiebreak = false) (hs : s.staleSel p (s.node p i n) = false)
    (hm : s.regionMeets (s.node p i n) ((s.node p i n).gangs.flatMap (·.cores)) = true)
    (hc : ∀ c ∈ (s.node p i n).gangs.flatMap (·.cores), (s.core c).idle = true ∧ (s.core c).halted = false ∧
      (s.core c).resv = .idle ∧ ((s.core c).freeArea.isSome = true ∨ ((s.core c).areaOf p i n).isSome = true)) :
    s.placeEscalated p = (((((s.node p i n).gangs.flatMap (·.cores)).foldl
      (fun s c => s.updCore c fun k => { k with hold := none, resv := .committed p }) s).updPart p fun q =>
        { q with escalated := none }).settlePlace p i n (s.node p i n).gangs) := by
  simp only [State.placeEscalated, he, ht, hs, hm, Bool.not_true, Bool.false_eq_true, if_false]
  refine if_pos (List.all_eq_true.mpr fun c h => ?_)
  obtain ⟨hidle, hhalt, hresv, harea⟩ := hc c h
  simpa [hidle, hhalt, hresv] using harea

/-! ## Translation (R341, R342) -/

/-- What becomes of node `n` with the translator's answer, whose image the cache keeps under `k`. -/
def State.endTranslation (s : State) (p i n key : Nat) (k : BitVec 384) : Xlation → State
  | .image t => (s.updPart p fun q => { q with xcache := (k, t) :: q.xcache }).takeTranslation p i n key t
  | .refused off => (s.updPart p fun q => { q with xlErrors := q.xlErrors ++ [(i, n, off)] }).endNode p i n cFormat
  | .noFit => s.endNode p i n cResources
  | .unscanned => s.endNode p i n cFormat

section Translate

variable {s s1 s2 : State} {p i n va len : Nat} {vers : Dword} {img : Option Translated} {code : List Byte}
  (hp : (s.node p i n).phase = .translating) (hk : (s.node p i n).selKey = (s.part p).selKey)
  (hs : s.select p (s.node p i n).record true = (s1, .translate va len vers)) (hr : s1.devRead p (BitVec.ofNat 64 va) len = (s2, .ok code))

include hp hk hs hr

theorem State.translateNode_cached {t : Translated}
    (hf : (s2.part p).xcache.find? (·.1 = (s2.part p).xlKey code) = some ((s2.part p).xlKey code, t)) :
    s.translateNode p i n img = s2.takeTranslation p i n (s.part p).selKey t := by
  simp only [State.translateNode, hp, hk, hs, hr, hf, bne_self_eq_false, Bool.false_eq_true, if_false, Option.map_some]

theorem State.translateNode_noObject (hf : (s2.part p).xcache.find? (·.1 = (s2.part p).xlKey code) = none)
    (ho : Config.portableObject code = none) : s.translateNode p i n img = s2.endNode p i n cFormat := by
  simp only [State.translateNode, hp, hk, hs, hr, hf, ho, bne_self_eq_false, Bool.false_eq_true, if_false, Option.map_none]

theorem State.translateNode_object {o : PObject} (hf : (s2.part p).xcache.find? (·.1 = (s2.part p).xlKey code) = none)
    (ho : Config.portableObject code = some o) :
    s.translateNode p i n img = s2.endTranslation p i n (s.part p).selKey ((s2.part p).xlKey code)
      (translateObject o vers (s2.part p).eff (s2.part p).dfv2 (recGw (s.node p i n).record) (recGh (s.node p i n).record) img) := by
  simp only [State.translateNode, hp, hk, hs, hr, hf, ho, bne_self_eq_false, Bool.false_eq_true, if_false, Option.map_none]
  cases translateObject o vers (s2.part p).eff (s2.part p).dfv2 (recGw (s.node p i n).record) (recGh (s.node p i n).record) img <;> rfl

end Translate

theorem State.takeTranslation_eq (s : State) (p i n key : Nat) (t : Translated) : s.takeTranslation p i n key t =
    if declFits (s.part p) (s.node p i n).record (Translated.decl t) = false then s.endNode p i n 6
    else if s.translationFits p (s.node p i n).record t then s.updNode p i n fun x =>
      { x with img := some (translatedImg t), selKey := key, phase := .ready }
    else s.endNode p i n 1 := by
  simp only [State.takeTranslation, Bool.not_eq_true']
  rfl

theorem State.grantKey_granted {s : State} {p key : Nat} (hf : s.fwRuns = true) (hp : s.hasPart p = true) (h1 : 1 ≤ key) (h3 : key ≤ 3) :
    s.grantKey p key = s.updPart p fun q => { q with keys := q.keys ||| BitVec.ofNat 4 (2 ^ key) } := by
  rw [State.grantKey, if_neg]
  simp [hf, hp]
  omega

/-- Settles O42, one answer after another. -/
theorem placement : Obligations.Placement := by
  refine ⟨?_, ?_, ?_, ?_, ?_, ?_, fun s p key => rfl, ?_⟩
  · intro s p i n g gs ha hn hk hi hs hp hc
    exact answers_of_whole (f := (·.attempt p)) rfl (State.attempt_probes ha hn hk hi hs hp hc)
  · intro s p c a ha
    refine ⟨?_, ?_, ?_, ?_, ?_⟩
    · intro hm g hi
      exact congrArg Host.Outcome.next (State.probe_answers ha hm hi)
    · intro hm since hr
      exact congrArg Host.Outcome.next (State.commit_answers ha hm hr)
    · intro hc hg
      exact congrArg Host.Outcome.next (State.probed_granted ha hc hg)
    · intro hc hk
      exact congrArg Host.Outcome.next (State.committed_acked ha hc hk)
    · intro f g t u
      have hu : s.failAttempt p a = u := by
        rw [State.failAttempt_eq, State.attemptCounted_eq, State.escalateNext_eq]
      exact ⟨fun hc hp hr => congrArg Host.Outcome.next ((State.probed_refused ha hc hp hr).trans hu),
        fun hc hp hr => congrArg Host.Outcome.next ((State.committed_denied ha hc hp hr).trans hu)⟩
  · intro s c p since hr
    exact ⟨fun ht => congrArg Host.Outcome.next (State.lapse_due hr ht),
      fun hw => congrArg Host.Outcome.next (State.releaseGrant_unwanted hr hw)⟩
  · intro s p i n t hb ht
    exact congrArg Host.Outcome.next (State.backoffOver_due hb ht)
  · intro s p i n he ht hs gs cs hm hc
    exact congrArg Host.Outcome.next (State.placeEscalated_takes he ht hs hm hc)
  · intro s p i n img va len vers s1 s2 code hp hk hs hr q k r takes
    refine ⟨fun t hf => ?_, fun hf => ?_⟩
    · exact answers_of_whole (f := (·.translateNode p i n img)) rfl
        ((State.translateNode_cached hp hk hs hr hf).trans (State.takeTranslation_eq ..))
    · refine answers_of_whole (f := (·.translateNode p i n img)) rfl ?_
      cases ho : Config.portableObject code with
      | none => exact State.translateNode_noObject hp hk hs hr hf ho
      | some o =>
        refine (State.translateNode_object hp hk hs hr hf ho).trans ?_
        dsimp only [q, r, k]
        cases translateObject o vers (s2.part p).eff (s2.part p).dfv2 (recGw (s.node p i n).record) (recGh (s.node p i n).record)
          img with
        | image t => exact State.takeTranslation_eq ..
        | refused off => rfl
        | noFit => rfl
        | unscanned => rfl
  · intro s p key hf hp h1 h3
    exact congrArg Host.Outcome.next (State.grantKey_granted hf hp h1 h3)

end Sys2Proof.Machine
end

section
/-! PROOFS. A member starts, is released, leaves and ends (O43): what a save area's write in memory leaves alone, the start of a gang of
one core, and one lemma for each way in which a member goes on. -/

namespace Sys2Proof.Machine

/-! ## Start (R66, R72) -/

/-- A fold whose every step keeps the cores keeps them. -/
theorem foldl_cores {β : Type} {f : State → β → State} (hf : ∀ s b, (f s b).cores = s.cores) (l : List β) (s : State) :
    (l.foldl f s).cores = s.cores := by
  induction l generalizing s with
  | nil => rfl
  | cons b l ih => exact (ih (f s b)).trans (hf s b)

/-- An area's write goes to memory alone. -/
theorem State.putArea_cores (s : State) (at_ : Nat) (v : Saved) (banks : Bool) : (s.putArea at_ v banks).cores = s.cores := by
  have hdword (t : State) : (v.listed.foldl (fun t k =>
      let w := v.dword t.now k
      if w = 0 then t else t.memWrite (at_ + 8 * k) (bytesOf 8 w.toNat)) t).cores = t.cores :=
    foldl_cores (fun t k => by dsimp only; split_ifs <;> rfl) _ t
  have htags (t : State) : (v.rowTags.foldl (fun s e => s.setMemTag (at_ / 64 + e.1) e.2) t).cores = t.cores :=
    foldl_cores (by intros; rfl) _ t
  cases banks with
  | false => exact (htags _).trans (hdword _)
  | true =>
    refine (foldl_cores (by intros; rfl) v.stags _).trans ((foldl_cores (by intros; rfl) v.spad _).trans ?_)
    exact (htags _).trans (hdword _)

theorem State.putAreas_cores (s : State) (c : Nat) : (s.putAreas c).cores = s.cores := by
  refine foldl_cores (fun s e => ?_) _ s
  cases e.2 with
  | none => rfl
  | some v => exact State.putArea_cores ..

@[simp] theorem State.core_putAreas (s : State) (c d : Nat) : (s.putAreas c).core d = s.core d := by
  simp only [State.core, State.putAreas_cores]

theorem Core.leaveHalt_task (k : Core) (now : Nat) : (k.leaveHalt now).task = k.task := by
  rw [Core.leaveHalt]
  split_ifs <;> rfl

/-- A member of a task that is not protected takes no snapshot. -/
theorem State.takeSnap_unprotected {s : State} {c : Nat} {t : Task} (ht : (s.core c).task = some t) (hp : t.isProtected = false) :
    s.takeSnap c = s := by
  have hk : (if (s.core c).halted then (s.core c).leaveHalt s.now else s.core c).task = some t := by
    split_ifs
    · rw [Core.leaveHalt_task, ht]
    · exact ht
  simp only [State.takeSnap, hk, hp, Bool.not_false, if_true]

/-- An unprotected member without buffer declarations starts afresh, with the context that R66 gives. -/
theorem State.core_startMember {s : State} {c : Nat} {t : Task} {r : Vec} {g : Img} (l : List (Nat × List IWord)) (hb : g.bufs = [])
    (hp : t.isProtected = false) : ((s.startMember c t r g l).core c).task = some t ∧ ((s.startMember c t r g l).core c).resv = .idle ∧
      (s.startMember c t r g l).ctx c = freshCtx r g s.now := by
  rw [State.startMember, hb, State.declareBufs, State.takeSnap_unprotected (t := t) (by simp [Core.begin]) hp]
  simp [State.ctx, Core.begin]

/-- A gang of one core that has never run starts its member. -/
theorem State.startGang_single {s s1 : State} {p i n ox oy : Nat} {nd : Node} {g : Img} {l : List (Nat × List IWord)}
    (hg : nd.gangs = [{ ox := ox, oy := oy, gw := 1, gh := 1 }]) (ho : nd.oldPlaces = []) (hl : s.loadList p g = (s1, some l)) :
    s.startGang p i n nd g = (s1.updNode p i n fun x => { x with
      phase := .running, quantumAt := s1.now, startAt := s1.now, evictReq := false, failures := 0, backoff := none
      escalated := false, oldPlaces := [] }).startMember (coreAt ox oy)
        (memberTask p i n nd { ox := ox, oy := oy, gw := 1, gh := 1 } 0 0 0) nd.record g l := by
  have hp : nd.places = [(coreAt ox oy, 0, { ox := ox, oy := oy, gw := 1, gh := 1 }, 0, 0)] := by
    simp [Node.places, Node.parties, Gang.members, hg]
  have hold : ∀ (t : State), t.oldPlace nd 0 0 0 = none := fun t => by simp [State.oldPlace, ho]
  simp only [State.startGang, hl, hp, ho, List.foldl_cons, List.foldl_nil, hold]
  simp

theorem State.taskStart_starting {s : State} {p i n : Nat} {g : Img} (hi : (s.node p i n).img = some g)
    (hp : (s.node p i n).phase = .starting) (hc : s.allCommitted p (s.node p i n).gangs = true) :
    s.taskStart p i n = s.startGang p i n (s.node p i n) g := by
  simp only [State.taskStart, hi]
  exact if_pos (by simp [hp, hc])

theorem freshCtx_scalar (r : Vec) (g : Img) (now q : Nat) :
    ((freshCtx r g now).scalar q).v = if q = 0 ∨ q = 0x90 then recParam r else 0 := by
  simp only [freshCtx, Ctx.scalar, NMap.get_set]
  by_cases h90 : q = 0x90
  · simp [h90]
  · by_cases h0 : q = 0 <;> simp [h90, h0, NMap.get]

/-! ## Release and finish (R74, R97, R177) -/

@[simp] theorem State.core_observe (s : State) (src c t d : Nat) : (s.observe src c t).core d = s.core d := rfl

/-- A member whose release has come: its arrival is over, and a halted core or a handler that runs beside the arrival knows it. -/
def State.released (s : State) (c : Nat) (a : Arrival) : State :=
  let k := s.core c
  ((s.observe 5 c a.began).updCtx c fun x => { x with arrived := none }).updCore c fun x =>
    if (k.image.arrival k.ctx).isSome ∧ (k.halted ∨ k.ctx.priv) then { x with image := { x.image with released := true } } else x

section Release

variable {s : State} {c r : Nat} {a : Arrival} (ht : (s.core c).task.isSome = true) (ha : (s.ctx c).arrived = some a)
  (hr : a.release = some r) (hn : r ≤ s.now) (he : (s.core c).ended = false) (hl : (s.core c).leaving = false)

include ht ha hr hn he hl

theorem State.releaseMember_quiet (hp : (s.ctx c).putTrap = none) : s.releaseMember c = s.released c a := by
  obtain ⟨t, ht⟩ := Option.isSome_iff_exists.mp ht
  simp only [State.ctx] at ha hp
  simp [State.releaseMember, State.released, ht, ha, hr, he, hl, hp, Nat.not_lt.mpr hn]

theorem State.releaseMember_trap {t : Trap} (hp : (s.ctx c).putTrap = some t) (hrect : a.rect = none) :
    s.releaseMember c = ((s.released c a).updCtx c fun x => { x with putTrap := none }).raiseRelease c a.handler t := by
  obtain ⟨u, ht⟩ := Option.isSome_iff_exists.mp ht
  simp only [State.ctx] at ha hp
  simp [State.releaseMember, State.released, ht, ha, hr, he, hl, hp, hrect, Nat.not_lt.mpr hn]

end Release

/-- A core that is not halted and whose own X stream arrived raises the trap of the release at once. -/
theorem State.raiseRelease_raises {s : State} {c : Nat} {own : Bool} {t : Trap} (hh : (s.core c).halted = false)
    (hp : (s.ctx c).priv = false ∨ own = true) (hr : (s.ctx c).raised = none) : s.raiseRelease c own t = s.raise c .x t := by
  simp only [State.ctx] at hp hr
  rcases hp with hp | hp <;> simp [State.raiseRelease, hh, hp, hr]

/-- What a release leaves of the core: whether it is halted, its privilege and the trap it has raised. -/
theorem State.core_released (s : State) (c : Nat) (a : Arrival) : ((s.released c a).core c).halted = (s.core c).halted ∧
    ((s.released c a).ctx c).priv = (s.ctx c).priv ∧ ((s.released c a).ctx c).raised = (s.ctx c).raised := by
  simp only [State.released, State.ctx, State.core_updCore_self, State.core_updCtx_self, State.core_observe]
  split_ifs <;> exact ⟨rfl, rfl, rfl⟩

theorem State.finishMember_done {s : State} {c : Nat} {t : Task} (ht : (s.core c).task = some t) (he : (s.core c).ended = false)
    (hh : (s.core c).halted = false) (hp : (s.core c).poisoned = none) (hx : s.exitsHeld c = false) (hd : s.memberDone c = true) :
    s.finishMember c = ((s.updCtx c fun x => { x with
      pend := [], flight := [], streams := [], loads := [], arrived := none, as_ := { x.as_ with exited := true } }).countTrigger c t).leave c t := by
  simp [State.finishMember, ht, he, hh, hp, hx, hd]

/-! ## Eviction (R76 to R78) -/

theorem State.quantumOver_expired {s : State} {p i n : Nat} (hr : (s.node p i n).phase = .running)
    (he : (s.node p i n).evictReq = false) (hq : (s.part p).quantum ≠ 0)
    (hn : (s.node p i n).quantumAt + 4096 * (s.part p).quantum.toNat ≤ s.now) (hp : s.presses p (recPrio (s.node p i n).record) = true) :
    s.quantumOver p i n = ((s.node p i n).gangs.flatMap (·.cores)).foldl (fun s c => s.updCore c fun k =>
      if k.task.isSome then { k with evict := true } else k) (s.updNode p i n fun x => { x with evictReq := true }) := by
  have hq0 : (s.part p).quantum.toNat ≠ 0 := fun h => hq (BitVec.eq_of_toNat_eq h)
  rw [State.quantumOver]
  exact if_pos (by simp [hr, he, hq0, hn, hp])

section Evict

variable {s : State} {c : Nat} {t : Task} (ht : (s.core c).task = some t) (he : (s.core c).evict = true) (hf : t.follow = false)
  (hs : s.standing c = true)

include ht he hf hs

/-- Outside follow mode a member stops by itself at its blocking point. -/
theorem State.evictAt_stops (hl : (s.core c).leaving = false) (hb : s.atBlock c = true) :
    s.evictAt c = s.updCore c fun k => { k with leaving := true } := by
  simp [State.evictAt, State.evictSet, taskOf, Task.row, ht, he, hf, hs, hl, hb]

theorem State.evictAt_leaves (hl : (s.core c).leaving = true) (hv : s.evictable c = true) :
    s.evictAt c = (s.evictMember c t).evicted t := by
  simp [State.evictAt, State.evictSet, taskOf, ht, he, hf, hs, hl, hv]

end Evict

/-! ## The end of a task (R62, R386) -/

/-- Two writes of a node that agree on what it holds are one. -/
theorem State.updNode_congr {s : State} {p i n : Nat} {f g : Node → Node} (h : f (s.node p i n) = g (s.node p i n)) :
    s.updNode p i n f = s.updNode p i n g := by
  simp only [State.node, State.inst, State.part, Part.inst] at h
  cases hp : s.parts.get none p with
  | none => simp [State.updNode, State.updInst, State.updPart, hp]
  | some q =>
    simp only [State.updNode, State.updInst, State.updPart, Part.updInst, hp]
    cases hi : q.insts.get none i with
    | none => rfl
    | some x =>
      have hx : f (x.nodes.get {} n) = g (x.nodes.get {} n) := by simpa [hp, hi] using h
      simp only [NMap.upd, hx]

theorem State.updCtx_congr {s : State} {c : Nat} {f g : Ctx → Ctx} (h : f (s.ctx c) = g (s.ctx c)) : s.updCtx c f = s.updCtx c g := by
  simp only [State.updCtx, State.updCore, State.ctx] at h ⊢
  rw [h]

theorem State.killTask_running {s : State} {p i n : Nat} (hr : (s.node p i n).phase = .running) (he : (s.node p i n).ending = none)
    (hc : (s.node p i n).code = none) : s.killTask p i n = s.updNode p i n fun x => { x with ending := some 4 } := by
  simp only [State.killTask, hr, if_true]
  exact State.updNode_congr (by simp only [he, hc]; rfl)

theorem State.killTask_away {s : State} {p i n : Nat} (h : (s.node p i n).phase = .evicted ∨
    ((s.node p i n).phase = .starting ∧ (s.node p i n).issued = true)) : s.killTask p i n = (s.dropAreas p i n).endNode p i n 4 := by
  rcases h with h | ⟨h, hi⟩
  · simp [State.killTask, h, cKilled]
  · simp [State.killTask, h, hi, cKilled]

/-- A member of which the gang holds nothing has nothing to perform. -/
theorem State.flushHeld_none {s : State} {c : Nat} {t : Task} (h : ∀ x ∈ (s.part t.part).held, x.core ≠ c) :
    s.flushHeld c t = s.updPart t.part fun q => { q with held := q.held.filter (·.core != c) } := by
  have hc : (s.part t.part).held.filter (·.core = c) = [] := by simpa [List.filter_eq_nil_iff] using h
  simp only [State.flushHeld, hc, List.foldl_nil]

/-- A request that a member's end leaves: another core's, or a store (R386). -/
def Req.survives (c : Nat) (r : Req) : Bool :=
  r.core != c || (match r.kind with
    | .store _ _ => true
    | _ => false)

/-- The core of a member that the end of its task has reached, with nothing of it held. -/
def State.stoppedCore (s : State) (c : Nat) (t : Task) : State :=
  (s.updPart t.part fun q => { q with held := q.held.filter (·.core != c) }).updCore c fun k => { k with
    ended := true, leaving := false, rcvd := k.rcvd + 1, poisoned := none, ctx := k.ctx.stop }

/-- A member with no store, no copy and nothing held that the end of its task reaches: it has stopped. -/
def State.stoppedMember (s : State) (c : Nat) (t : Task) : State :=
  { s.stoppedCore c t with
    reqs := s.reqs.filter (Req.survives c), gone := s.gone.filter (·.core != c), bsums := s.bsums.filter (·.sender != c)
    bsumBuf := s.bsumBuf.filter (·.target != c), refusals := s.refusals.filter (·.1 != c) }

theorem State.ctx_stoppedMember (s : State) (c : Nat) (t : Task) : (s.stoppedMember c t).ctx c = (s.ctx c).stop := by
  have hc : (s.stoppedMember c t).ctx c = (s.stoppedCore c t).ctx c := rfl
  rw [hc, State.stoppedCore, State.ctx_updCore_self, State.core_updPart]
  rfl

theorem State.haltStop_idle {s : State} {c : Nat} {t : Task} (ht : (s.core c).task = some t)
    (hn : (s.node t.part t.inst t.node).ending.isSome = true) (he : (s.core c).ended = false) (hs : (s.ctx c).stores = [])
    (hc : (s.ctx c).copies = []) (hh : ∀ x ∈ (s.part t.part).held, x.core ≠ c) :
    s.haltStop c = ((s.stoppedMember c t).updCtx c fun x => { x with stores := [] }).leave c t := by
  have hstop : { s.stopMember c t with refusals := (s.stopMember c t).refusals.filter (·.1 != c) } = s.stoppedMember c t := by
    simp only [State.stopMember, State.flushHeld_none hh, State.stoppedMember, State.stoppedCore]
    simp only [State.updCore_reqs, State.updPart_reqs, State.updCore_gone, State.updPart_gone, State.updCore_bsums,
      State.updPart_bsums, State.updCore_bsumBuf, State.updPart_bsumBuf, State.updCore_refusals, State.updPart_refusals]
    rfl
  have hs' : ((s.stoppedMember c t).ctx c).stores = [] := by rw [State.ctx_stoppedMember]; exact hs
  have hc' : ((s.stoppedMember c t).ctx c).copies = [] := by rw [State.ctx_stoppedMember]; exact hc
  have hnone : (s.node t.part t.inst t.node).ending.isNone = false := by simpa using hn
  simp only [State.haltStop, ht, hnone, he, hstop, Bool.false_eq_true, if_false]
  rw [State.updCtx_congr (g := fun x => { x with stores := [] }) (by simp [hs'])]
  exact if_pos (by simp [hc'])

/-- Settles O43, one way of going on after another. -/
theorem members : Obligations.Members := by
  refine ⟨?_, ?_, ?_, ?_, ?_, ?_, ?_⟩
  · intro s p i n g s1 l ox oy hi hph nd c u hg ho hc hb hd hr hl t
    have ht := (State.taskStart_starting hi hph hc).trans (State.startGang_single hg ho hl)
    have hu : u.isProtected = false := by
      have hp : u.isProtected = (recRollback nd.record || recDuplex nd.record) := rfl
      rw [hp, hd, hr, Bool.or_self]
    obtain ⟨htask, hresv, hctx⟩ := State.core_startMember (s := s1.updNode p i n fun x => { x with
      phase := .running, quantumAt := s1.now, startAt := s1.now, evictReq := false, failures := 0, backoff := none
      escalated := false, oldPlaces := [] }) (c := c) (t := u) (r := nd.record) l hb hu
    rw [← ht] at htask hresv hctx
    refine ⟨answers_of_whole (f := (·.taskStart p i n)) rfl rfl, htask, hresv, ?_⟩
    rw [hctx]
    exact ⟨freshCtx_scalar _ _ _, fun _ => rfl, rfl, rfl, rfl, rfl, rfl, rfl, rfl, rfl⟩
  · intro s c a r ht ha hr hn he hl k s'
    refine ⟨fun hp => ?_, fun t hp hrect hh hpriv hraised => ?_⟩
    · exact answers_of_whole (f := (·.releaseMember c)) rfl (State.releaseMember_quiet ht ha hr hn he hl hp)
    · refine answers_of_whole (f := (·.releaseMember c)) rfl ((State.releaseMember_trap ht ha hr hn he hl hp hrect).trans ?_)
      obtain ⟨hhalted, hpriv', hraised'⟩ := s.core_released c a
      exact State.raiseRelease_raises (by simpa [hhalted] using hh) (by simpa [hpriv'] using hpriv) (by simpa [hraised'] using hraised)
  · intro s c t ht he hh hp hx hr ha hq hheld
    exact answers_of_whole (f := (·.finishMember c)) rfl
      (State.finishMember_done ht he hh hp hheld (by simp [State.memberDone, hx, hr, ha, hq]))
  · intro s p i n nd hr he hq hn hp
    exact congrArg Host.Outcome.next (State.quantumOver_expired hr he hq hn hp)
  · intro s c t ht he hf hs
    exact ⟨fun hl hb => congrArg Host.Outcome.next (State.evictAt_stops ht he hf hs hl hb),
      fun hl hv => congrArg Host.Outcome.next (State.evictAt_leaves ht he hf hs hl hv)⟩
  · intro s p i n
    exact ⟨fun hr he hc => answers_of_whole (f := (·.killTask p i n)) rfl (State.killTask_running hr he hc),
      fun h => answers_of_whole (f := (·.killTask p i n)) rfl (State.killTask_away h)⟩
  · intro s c t ht hn he hs hc hh s1 s2
    exact answers_of_whole (f := (·.haltStop c)) rfl (State.haltStop_idle ht hn he hs hc hh)

end Sys2Proof.Machine
end

section
/-! PROOFS. Gang and graph triggers (O27), refuted: the state in which a trick that ends a superstep has to wait. -/

namespace Sys2Proof.Machine

/-- A code segment of supervisor privilege, over the whole instruction store. -/
def wholeStore : CodeSeg := { lo := 0, hi := 0x20000, priv := 1 }

/-- Core 0 of partition 0, alone in its gang, for which a write of home 0 is held, whose stack is in self-refresh (R73, R125). -/
def trickAtHeldHome : State :=
  { State.reset with
    parts := [(0, some { w := 4, h := 4, maxNodes := 8, held := [{ core := 0, loc := .mem 0, bytes := [1] }] })]
    hbm := [(0, { state := 3 })], curHalf := .x
    cores := [(0, { task := some {}, ctx := { xs := { seg := wholeStore }, as_ := { seg := wholeStore } } })] }

/-- `ct.trick` of s1, alone in its group. -/
def trickWord : TrigW := { s := true, g := 0, n := false, imm := false, low := 1 }

/-- The trick can begin, its member can arrive, and the arrival, which ends the superstep, waits for the home. -/
theorem trickAtHeldHome_waits : (trickAtHeldHome.begins (.ctTrick trickWord)).any (fun r =>
    decide (isMuck r.1.t.t = false ∧ (r.2.1.ctx r.1.core).arrived = none ∧ r.2.1.arrivable r.1.core = true) &&
    ((trickAtHeldHome.close (r.2.1.arrive r.1.core (taskOf r.2.1 r.1.core) none false) r.1 r.2.2 [] false).alignRow r.1.core r.1.half).wait)
    = true := by decide +kernel

/-- What a step leaves satisfies `p`. -/
def Leaves (p : State → Bool) : Host.Outcome State Fault Refusal → Bool
  | .next t => p t
  | _ => false

/-- The step itself is taken back, and its group issues again. -/
theorem trickAtHeldHome_retries : Leaves (!·.wait) (exec (.ctTrick trickWord) trickAtHeldHome) = true := by decide +kernel

/-- Refutes O27: a trick that delivers a held write at a home whose stack is in self-refresh is taken back whole, and issues again (R125);
the state that the statement gives is the one that would have to wait. -/
theorem not_controlGang : ¬ Obligations.ControlGang := by
  unfold Obligations.ControlGang
  intro h
  obtain ⟨htrick, -⟩ := h trickWord
  have hw := trickAtHeldHome_waits
  rw [Option.any_eq_true] at hw
  obtain ⟨⟨x, s1, g⟩, hb, hw⟩ := hw
  rw [Bool.and_eq_true, decide_eq_true_eq] at hw
  obtain ⟨hp, hw⟩ := hw
  have hr := trickAtHeldHome_retries
  rw [htrick _ _ _ _ hb hp, Leaves, hw] at hr
  exact absurd hr (by decide)

end Sys2Proof.Machine
end

section
/-! PROOFS. A move writes its destination (O34), refuted: the move that takes an entry of `xa` which an arrival's own group pushed. -/

namespace Sys2Proof.Machine

/-- Core 0, whose member has arrived, and whose A stream finds at the head of `xa` what the arrival's own group pushed (R106). -/
def arrivalEntryAtHead : State :=
  { State.reset with
    parts := [(0, some { w := 4, h := 4, maxNodes := 8 })], curHalf := .a
    cores := [(0, { task := some {}, ctx := { xs := { seg := wholeStore }, as_ := { seg := wholeStore }
                                              queues := [(qXa, { ents := [{ sync := true }] })], arrived := some {} } })] }

/-- The move of `xa` to d0, alone in its group. -/
def takeFromXa : MoveW := { s := true, g := 0, n := false, dst := 0x090, imm := false, low := 0x08C }

/-- The A stream of core 0 stands behind its member's arrival. -/
def State.behindArrival (s : State) : Bool := (s.ctx 0).arrived.any (·.hold)

/-- The state that the statement gives for a sole move `l` which begins in `s2`. -/
def State.moveDone (s s2 : State) (l : Live) : State :=
  s.endGroup (s2.updCtx s.curCore fun _ =>
    let k := match l.mv.pops with
      | some p => (s2.ctx s.curCore).popSource s.now p
      | none => s2.ctx s.curCore
    k.write s.now l.mv l.val l.g) [l.g]

/-- The move performs, and the statement's state lets the A stream's accesses come before the release. -/
theorem arrivalEntryAtHead_performs :
    (arrivalEntryAtHead.performs (.move takeFromXa.g takeFromXa.n takeFromXa.dst takeFromXa.imm takeFromXa.low)).any (fun r =>
      decide (r.2.isTrig = false ∧ r.2.mv.isDrop = false) && !(arrivalEntryAtHead.moveDone r.1 r.2).behindArrival) = true := by
  decide +kernel

/-- The step itself holds the A stream's accesses back until the release. -/
theorem arrivalEntryAtHead_holds : Leaves State.behindArrival (exec (.move takeFromXa) arrivalEntryAtHead) = true := by decide +kernel

/-- Refutes O34: a move that takes an entry of `xa` which the member's own arrival pushed also puts the A stream's accesses behind
that arrival's release (R106), which the statement's state leaves out. -/
theorem not_movesWrite : ¬ Obligations.MovesWrite := by
  unfold Obligations.MovesWrite
  intro h
  obtain ⟨hmove, -⟩ := h
  have hp := arrivalEntryAtHead_performs
  rw [Option.any_eq_true] at hp
  obtain ⟨⟨s2, l⟩, hb, hp⟩ := hp
  rw [Bool.and_eq_true, decide_eq_true_eq, Bool.not_eq_true'] at hp
  obtain ⟨⟨htrig, hdrop⟩, hfree⟩ := hp
  have hstep : exec (.move takeFromXa) arrivalEntryAtHead = .next (arrivalEntryAtHead.moveDone s2 l) := hmove _ _ _ _ rfl hb htrig hdrop
  have hheld := arrivalEntryAtHead_holds
  rw [hstep, Leaves, hfree] at hheld
  exact absurd hheld (by decide)

end Sys2Proof.Machine
end

section
/-! PROOFS. Result triggers leave the rest alone (O57): what a group of one such trigger leaves alone as a relation that its steps keep,
what its operation can come to, and the statement from the two. -/

namespace Sys2Proof.Machine

/-! ## What is left alone -/

/-- The context but for what the issue of a group may write besides registers: queues and messages, results on their way, CTLAB, the
streams, and what is outstanding or raised. -/
def Ctx.kept (k : Ctx) : Ctx :=
  { k with
    queues := [], inbox := [], flight := [], pend := [], ctlab := [], ctlHalf := .x, xs := {}, as_ := {}, arrived := none
    raised := none }

/-- The core but for the same. -/
def Core.kept (k : Core) : Core := { k with ctx := k.ctx.kept }

/-- From `s` to `t` memory and every core but `c` stay, and of `c` what `Core.kept` keeps; with `q` its queues too. -/
structure State.OnlyResults (c : Nat) (q : Prop) (s t : State) : Prop where
  mem : t.mem = s.mem
  mtags : t.mtags = s.mtags
  others : ∀ d, d ≠ c → t.core d = s.core d
  own : (t.core c).kept = (s.core c).kept
  queues : q → (t.ctx c).queues = (s.ctx c).queues

section Rules

variable {c : Nat} {q : Prop} {s t u : State}

theorem State.OnlyResults.trans (h : s.OnlyResults c q t) (h' : t.OnlyResults c q u) : s.OnlyResults c q u where
  mem := h'.mem.trans h.mem
  mtags := h'.mtags.trans h.mtags
  others d hd := (h'.others d hd).trans (h.others d hd)
  own := h'.own.trans h.own
  queues hq := (h'.queues hq).trans (h.queues hq)

/-- What `Core.kept` keeps is what it was. -/
theorem State.OnlyResults.field {α : Type} (h : s.OnlyResults c q t) (f : Core → α) (hf : ∀ k : Core, f k.kept = f k) :
    f (t.core c) = f (s.core c) := by
  rw [← hf (t.core c), ← hf (s.core c), h.own]

/-- A step that writes no core and no memory. -/
theorem State.onlyResults_of_cores (hc : t.cores = s.cores) (hm : t.mem = s.mem) (ht : t.mtags = s.mtags) : s.OnlyResults c q t := by
  have hcore (d : Nat) : t.core d = s.core d := by rw [State.core, hc]; rfl
  exact ⟨hm, ht, fun d _ => hcore d, by rw [hcore], fun _ => by rw [State.ctx, hcore]; rfl⟩

/-- A write of the core's context that changes nothing of what is kept. -/
theorem State.onlyResults_updCtx {f : Ctx → Ctx} (hf : (f (s.ctx c)).kept = (s.ctx c).kept)
    (hq : q → (f (s.ctx c)).queues = (s.ctx c).queues) : s.OnlyResults c q (s.updCtx c f) := by
  refine ⟨rfl, rfl, fun _ hd => State.core_updCtx_ne s f hd, ?_, fun h => ?_⟩
  · rw [State.core_updCtx_self]
    exact congrArg (fun x => { s.core c with ctx := x }) hf
  · rw [State.ctx_updCtx_self]
    exact hq h

end Rules

/-! ## The steps of a group -/

theorem Ctx.kept_popSource (k : Ctx) (now p : Nat) : (k.popSource now p).kept = k.kept := by
  rw [Ctx.popSource]
  split
  · rfl
  · split <;> rfl

theorem Ctx.kept_popAll_one (k : Ctx) (now : Nat) (l : Live) : (k.popAll now [l]).kept = k.kept := by
  rw [Ctx.popAll]
  cases h : l.mv.pops with
  | none => simp [h]
  | some p => simpa [h] using k.kept_popSource now p

/-- A move that takes from no queue removes no head. -/
theorem Ctx.popAll_none (k : Ctx) (now : Nat) {l : Live} (h : l.mv.pops = none) : k.popAll now [l] = k := by simp [Ctx.popAll, h]

theorem Ctx.kept_noteSync (k : Ctx) (now : Nat) (ls : List Live) :
    (k.noteSync now ls).kept = k.kept ∧ (k.noteSync now ls).queues = k.queues := by
  rw [Ctx.noteSync]
  split <;> exact ⟨rfl, rfl⟩

/-- A computation in a label space writes no tag of memory. -/
theorem State.label_mtags {α : Type} (s : State) (p sp : Nat) (d : α) (f : LRun → LRun × α) : (s.label p sp d f).1.mtags = s.mtags := by
  rw [State.label]
  split
  · rfl
  · simp [State.putLrun]

theorem State.hiddenTag_mtags (s : State) (p sp : Nat) (t : Tag) : (s.hiddenTag p sp t).1.mtags = s.mtags := by
  rw [State.hiddenTag]
  split_ifs
  · rfl
  · rfl
  · exact State.label_mtags ..

theorem State.guard_mtags (s : State) (c : Nat) (m : Move) : (s.guard c m).1.mtags = s.mtags := by
  have h := s.hiddenTag_mtags (s.spaceOf c).1 (s.spaceOf c).2 (toTag ((s.ctx c).pred (0x80 + m.g)).t)
  rw [State.guard]
  dsimp only
  split_ifs
  · rfl
  · rfl
  · split <;> next e => rw [e] at h; exact h

theorem State.guarded_mtags (s : State) (c : Nat) (v : Val) (g : LTag) : (s.guarded c v g).1.mtags = s.mtags := by
  have h := s.label_mtags (s.spaceOf c).1 (s.spaceOf c).2 true (·.emptyJoin [0] (joinTags [v.tag, g]))
  rw [State.guarded]
  dsimp only
  split_ifs
  · split <;> next e => rw [e] at h; exact h
  · rfl

/-! ## What an operation comes to -/

/-- An operation that sends its results, or is refused, and consumes no poison. -/
def Fired.Results (x : Trig) (s : State) (r : Fired) : Prop :=
  r = .done s false ∨ (∃ f, r = .done (s.updCtx x.core (·.send f)) false) ∨ ∃ n t, r = .trap n t ∧ t.cause ≠ 6

theorem fireScalar_results (x : Trig) (s : State) : (fireScalar x s).Results x s := by
  unfold fireScalar
  split
  iterate 56 exact .inr (.inl ⟨_, rfl⟩)
  exact .inl rfl

theorem vxRun_results (reads : VxIn → List Nat) (ports : List Nat) (perm : VxIn → Bool) (lat : VxIn → Nat) (fp : VxIn → Bool)
    (op : VxIn → List Vec × FlagBits) (x : Trig) (s : State) : (vxRun reads ports perm lat fp op x s).Results x s := by
  unfold vxRun
  dsimp only
  split
  · exact .inr (.inl ⟨_, rfl⟩)
  · split
    · exact .inr (.inr ⟨_, _, rfl, by simp [refused]⟩)
    · exact .inr (.inl ⟨_, rfl⟩)

theorem fireVxT5un_results (x : Trig) (s : State) : (fireVxT5un x s).Results x s := by
  have h : (vxT5un x s).Results x s := vxRun_results ..
  unfold fireVxT5un
  split
  next e =>
    rw [e] at h
    dsimp only
    split
    · split_ifs
      · exact .inr (.inr ⟨_, _, rfl, by simp⟩)
      · exact h
    · exact h
  next => exact h

theorem fireVector_results (x : Trig) (s : State) : (fireVector x s).Results x s := by
  unfold fireVector
  split
  iterate 41 exact vxRun_results ..
  · exact fireVxT5un_results x s
  iterate 14 exact vxRun_results ..
  · exact .inl rfl

/-- The ports of the four units, whose triggers are those of `fireScalar` and `fireVector`. -/
theorem unitOf_results {p : Nat} (h : unitOf p ∈ [some uAl, some uMd, some uVx, some uAa]) :
    0x100 ≤ p ∧ p ≤ 0x2FF ∨ 0x580 ≤ p ∧ p ≤ 0x5BF := by
  have hb : ∀ u, unitOf p = some u → u.base ≤ p ∧ p ≤ u.top := fun u hu => by simpa using List.find?_some hu
  simp only [List.mem_cons, List.not_mem_nil, or_false] at h
  rcases h with h | h | h | h <;> have := hb _ h <;> simp only [uAl, uMd, uVx, uAa] at this <;> omega

theorem fire_results {x : Trig} (h : 0x100 ≤ x.port ∧ x.port ≤ 0x2FF ∨ 0x580 ≤ x.port ∧ x.port ≤ 0x5BF) (s : State) :
    (fire x s).Results x s := by
  rcases h with ⟨hlo, hhi⟩ | ⟨hlo, hhi⟩
  · by_cases hv : x.port < 0x200
    · rw [fire, if_pos hv]
      exact fireScalar_results x s
    · rw [fire, if_neg hv, if_pos (by omega)]
      exact fireVector_results x s
  · rw [fire, if_neg (by omega), if_neg (by omega), if_neg (by omega), if_neg (by omega), if_neg (by omega), if_neg (by omega),
      if_neg (by omega), if_pos (by omega)]
    exact fireScalar_results x s

/-! ## The group -/

/-- A trigger word of an immediate takes from no queue. -/
theorem soleMove_imm {s : State} {g : BitVec 3} {n : Bool} {d : Port} {low : BitVec 15} {m : Move}
    (h : s.soleMove (.move g n d true low) = some m) : m.pops = none := by
  unfold State.soleMove at h
  dsimp only at h
  split at h
  · split at h
    · next m' hm =>
      obtain rfl := Option.some.inj h
      simp only [parseGroup, State.closing, List.foldl_append, List.foldl_cons, List.foldl_nil, Parse.slot] at hm
      rcases List.append_eq_singleton_iff.mp hm with ⟨-, hm⟩ | ⟨-, hm⟩
      · simp only [List.cons.injEq, and_true] at hm
        rw [← hm]
        rfl
      · simp at hm
    · simp at h
  · simp at h

/-- What a trigger that starts leaves alone. -/
theorem onlyResults_of_starts {s s1 : State} {w : Slot} {x : Trig} {g : LTag} {q : Prop} (h : s.starts w = some (x, s1, g))
    (hq : q → ∀ m, s.soleMove w = some m → m.pops = none) : s.OnlyResults s.curCore q s1 := by
  obtain ⟨m, v, s', hid, s0, v0, hm, hg, hv, hgd, hr, hp, ht, hx, hl, hc, hq', hs1⟩ := starts_iff h
  obtain ⟨hcores, -, hmem, -⟩ := reads_frame hg hgd
  have htags : s'.mtags = s.mtags := by
    have h1 := s.guard_mtags s.curCore m
    have h2 := s0.guarded_mtags s.curCore v0 g
    rw [hg] at h1
    rw [hgd] at h2
    exact h2.trans h1
  refine (State.onlyResults_of_cores hcores hmem htags).trans ?_
  rw [hs1]
  refine State.onlyResults_updCtx ?_ fun h => ?_
  · exact (Ctx.kept_noteSync _ _ _).1.trans (Ctx.kept_popAll_one _ _ _)
  · rw [(Ctx.kept_noteSync _ _ _).2, Ctx.popAll_none _ _ (hq h m hm)]

theorem Ctx.kept_updStream (k : Ctx) (h : Half) (f : Stream → Stream) :
    (k.updStream h f).kept = k.kept ∧ (k.updStream h f).queues = k.queues := by
  cases h <;> exact ⟨rfl, rfl⟩

theorem onlyResults_updStream (s : State) (c : Nat) (q : Prop) (h : Half) (f : Stream → Stream) :
    s.OnlyResults c q (s.updCtx c fun k => k.updStream h f) :=
  State.onlyResults_updCtx (Ctx.kept_updStream _ h f).1 fun _ => (Ctx.kept_updStream _ h f).2

/-- The end of a group writes CTLAB and the stream. -/
theorem onlyResults_close (s s2 : State) (x : Trig) (g : LTag) (tt : List LTag) (j : Bool) (q : Prop) :
    s2.OnlyResults x.core q (s.close s2 x g tt j) := by
  rw [State.close]
  have hjoin := State.onlyResults_updCtx (s := s2) (c := x.core) (q := q) (f := (·.joinCtl x.half (g :: tt))) rfl fun _ => rfl
  cases j with
  | true => exact hjoin
  | false => exact hjoin.trans (onlyResults_updStream ..)

/-- A refusal that consumes no poison writes the stream and what is raised. -/
theorem onlyResults_refuseGroup {s : State} {t : Trap} (hrow : s.row s.curCore = [s.curCore]) (ht : t.cause ≠ 6) (q : Prop) :
    s.OnlyResults s.curCore q (s.refuseGroup t) := by
  rw [State.refuseGroup]
  refine (onlyResults_updStream s s.curCore q s.curHalf (·.rewind)).trans ?_
  generalize hs : (s.updCtx s.curCore fun k => k.updStream s.curHalf (·.rewind)) = s'
  have hrow' : s'.row s.curCore = [s.curCore] := by rw [← hs, State.row_updCtx, hrow]
  have hshield : [(s.curCore, t)].filter (fun e => s'.shielded e.1 e.2) = [] := by
    simp only [List.filter_cons, State.shielded, ht]
    split <;> simp
  simp only [State.raise, State.raiseRow, hrow', hshield, List.foldl_cons, List.foldl_nil]
  refine State.onlyResults_updCtx ?_ fun _ => ?_
  · split <;> rfl
  · split <;> rfl

/-- The word's source is an immediate. -/
def ofImmediate (i : Instr) : Prop := ∃ w, i.trigW = some w ∧ w.imm = true

theorem onlyResults_of_begins {i : Instr} {p : Nat} {s s1 : State} {x : Trig} {g : LTag} (hp : i.port = some p)
    (h : s.begins i = some (x, s1, g)) : s.OnlyResults s.curCore (ofImmediate i) s1 := by
  unfold State.begins at h
  split at h
  · next w hw =>
    refine onlyResults_of_starts h fun ⟨v, hv, himm⟩ m hm => ?_
    simp only [slotOf, hp, hv, himm, Option.some.injEq, Prod.mk.injEq] at hw
    obtain ⟨-, rfl⟩ := hw
    exact soleMove_imm hm
  · simp at h

/-- A trigger that starts and whose operation sends results or is refused leaves the rest alone. -/
theorem onlyResults_of_exec {i : Instr} {p : Nat} {s s1 t : State} {x : Trig} {g : LTag} (hp : i.port = some p)
    (hb : s.begins i = some (x, s1, g)) (hf : (fire x s1).Results x s1) (ht : exec i s = .next t) :
    s.OnlyResults s.curCore (ofImmediate i) t := by
  obtain ⟨hc, -, -, -, hw⟩ := frame_of_begins hb
  have hstart := onlyResults_of_begins hp hb
  have hclose (s2 : State) (tt : List LTag) : s2.OnlyResults s.curCore (ofImmediate i) (s.close s2 x g tt false) := by
    rw [← hc]
    exact onlyResults_close ..
  rcases hf with hf | ⟨f, hf⟩ | ⟨n, tr, hf, htr⟩
  · rw [exec_of_begins hb hf hw (row_of_begins hb)] at ht
    obtain rfl := Host.Outcome.next.inj ht
    exact hstart.trans (hclose s1 _)
  · rw [exec_of_begins hb hf (by simpa using hw) (by simpa using row_of_begins hb)] at ht
    obtain rfl := Host.Outcome.next.inj ht
    have hsend : s1.OnlyResults s.curCore (ofImmediate i) (s1.updCtx x.core (·.send f)) := by
      rw [hc]
      exact State.onlyResults_updCtx rfl fun _ => rfl
    exact (hstart.trans hsend).trans (hclose _ _)
  · rw [exec_of_refusal hb hf] at ht
    obtain rfl := Host.Outcome.next.inj ht
    have htask : (s1.core s.curCore).task = (s.core s.curCore).task := hstart.field Core.task fun _ => rfl
    have hrow := row_of_begins hb
    rw [hc, State.row, htask] at hrow
    exact onlyResults_refuseGroup hrow htr _

/-- Settles O57, by what the operation comes to. -/
theorem frameOfResults : Obligations.FrameOfResults := by
  intro i p s x s1 g t hp hu hb ht c k m
  have hport := unitOf_results hu
  have hx : x.port = p := (port_of_begins hb hp).trans (Nat.mod_eq_of_lt (by omega))
  have h := onlyResults_of_exec hp hb (fire_results (hx ▸ hport) s1) ht
  refine ⟨fun a => ?_, fun n => ?_, h.others, fun o => h.field (·.spad.get 0 o) fun _ => rfl,
    fun n => h.field (·.stags.get 0 n) fun _ => rfl, fun r => ⟨h.field (·.ctx.scalar r) fun _ => rfl,
      h.field (·.ctx.vector r) fun _ => rfl, h.field (·.ctx.pred r) fun _ => rfl⟩, fun w hw himm => h.queues ⟨w, hw, himm⟩,
    h.field (·.ctx.vflags) fun _ => rfl, h.field (·.ctx.priv) fun _ => rfl, h.field (·.ctx.trapMuck) fun _ => rfl,
    h.field (·.ctx.lspace) fun _ => rfl, h.field (·.ctx.ddspace) fun _ => rfl, h.field (·.ctx.ddwt) fun _ => rfl,
    h.field (·.ctx.bufs) fun _ => rfl, h.field (·.ctx.accs) fun _ => rfl, h.field (·.slots) fun _ => rfl,
    h.field (·.bfmt) fun _ => rfl, h.field (·.trapCause) fun _ => rfl, h.field (·.trapVal) fun _ => rfl,
    h.field (·.xpcSave) fun _ => rfl, h.field (·.apcSave) fun _ => rfl, h.field (·.tvec) fun _ => rfl⟩
  · rw [State.memByte, h.mem]
    rfl
  · rw [State.memTag, h.mtags]
    rfl

end Sys2Proof.Machine
end

section
/-! PROOFS. Requests are served (O38): what taking a request and its place's turn leave alone, how a load part and a store part are
performed, what the stack-unavailable fault ends, and the statement from them. -/

namespace Sys2Proof.Machine

/-! ## What taking a request leaves alone -/

theorem State.takeReq_eq (s : State) (i : Nat) (r : Req) :
    ∃ ms, s.takeReq i r = { s with reqs := s.reqs.eraseIdx i, monitors := ms } := by
  unfold State.takeReq
  split <;> exact ⟨_, rfl⟩

/-- Whether a stack is available depends on the stacks and the time alone (R125, R365). -/
theorem State.locGone_congr {s t : State} (hh : t.hbm = s.hbm) (hn : t.now = s.now) (l : Loc) : t.locGone l = s.locGone l := by
  cases l with
  | mem pa => rw [State.locGone, State.locGone, State.homeGone, State.homeGone, State.stk, State.stk, hh, hn]
  | spad k off => rfl

theorem State.locGone_takeReq (s : State) (i : Nat) (r : Req) (l : Loc) : (s.takeReq i r).locGone l = s.locGone l := by
  obtain ⟨ms, h⟩ := s.takeReq_eq i r
  rw [h]
  exact State.locGone_congr rfl rfl l

theorem State.choose_hbm (s : State) : s.choose.2.hbm = s.hbm ∧ s.choose.2.now = s.now := by
  unfold State.choose
  split <;> exact ⟨rfl, rfl⟩

theorem State.turnFor_hbm (s : State) (k place : Nat) : (s.turnFor k place).hbm = s.hbm ∧ (s.turnFor k place).now = s.now := by
  simp only [State.turnFor]
  split
  · exact ⟨rfl, rfl⟩
  · split <;> exact ⟨rfl, rfl⟩

theorem State.remoteTurn_hbm (s : State) (k : Nat) : (s.remoteTurn k).hbm = s.hbm ∧ (s.remoteTurn k).now = s.now := by
  obtain ⟨hh, hn⟩ := s.choose_hbm
  obtain ⟨hh', hn'⟩ := s.choose.2.turnFor_hbm k (4 + s.choose.1 % 5)
  exact ⟨hh'.trans hh, hn'.trans hn⟩

theorem State.placeTurn_hbm (s : State) (c : Nat) (l : Loc) : (s.placeTurn c l).hbm = s.hbm ∧ (s.placeTurn c l).now = s.now := by
  cases l with
  | mem pa => exact ⟨rfl, rfl⟩
  | spad k off =>
    simp only [State.placeTurn]
    split
    · exact s.turnFor_hbm k 1
    · exact s.remoteTurn_hbm k

/-! ## A part that is performed (R94, R101) -/

section Serve

variable {s : State} {i : Nat} {r : Req} (hg : s.locGone r.loc = false) (hl : (s.takeReq i r).lost r = false)

include hg hl

theorem State.serve_load {j : Nat} (hk : r.kind = .load j) :
    s.serve i r =
      let p := (s.takeReq i r).readLoc r.core r.key r.loc r.len r.addr
      let q := p.1.overlay r.core r.id r.loc p.2
      q.1.updCtx r.core (·.setPiece r.id j q.2) := by
  simp only [State.serve, State.locGone_takeReq, hg, hl, hk, Bool.or_self, Bool.false_eq_true, if_false]

theorem State.serve_store {bs : List Byte} {t : LTag} {s2 : State} (hk : r.kind = .store bs t)
    (hw : (s.takeReq i r).writeLoc r.core r.key r.loc bs t r.addr = (s2, none)) : s.serve i r = s2.storeDone r.core r.id := by
  simp only [State.serve, State.locGone_takeReq, hg, hl, hk, hw, Bool.or_self, Bool.false_eq_true, if_false]

end Serve

/-! ## The events that serve a request -/

theorem exec_homeRequest {s : State} {i pa : Nat} {r : Req} (hs : s.servable i = some r) (hr : r.loc = .mem pa) (hv : r.vec = none)
    (ha : r.isAtomic = false) : exec (.homeRequest i) s = .next (s.whole (·.serve i r)) := by
  change execHomeRequest i s = _
  simp only [execHomeRequest, hs, hr, ha, hv, Option.isSome_none, Bool.or_self, Bool.false_eq_true, if_false]

theorem exec_gangWindowRequest {s : State} {i k off : Nat} {r : Req} (hs : s.servable i = some r) (hr : r.loc = .spad k off)
    (hv : r.vec = none) : exec (.gangWindowRequest i) s = .next (s.whole fun s => (s.remoteTurn k).serve i r) := by
  change execGangWindowRequest i s = _
  simp only [execGangWindowRequest, hs, hr, hv, Option.isSome_none, Bool.false_eq_true, if_false]

theorem exec_crossDieWriteApply {s : State} {i : Nat} {r : Req} {v : List Nat} (hs : s.servable i = some r)
    (hv : r.vec = some v) (ha : r.isAtomic = false)
    (hc : ({ s with reqs := s.reqs.eraseIdx i } : State).covers (locDie r.loc) v = false) :
    exec (.crossDieWriteApply i) s =
      .next (s.whole fun s => ((s.placeTurn r.core r.loc).serve i r).applied (locDie r.loc) (dieOf r.core) v) := by
  change execCrossDieWriteApply i s = _
  have hcov : s.covered i r = true := by simp [State.covered, hv, hc]
  simp only [execCrossDieWriteApply, hs, hv, ha, hcov, Option.isNone_some, Bool.not_true, Bool.or_self, Bool.false_eq_true,
    if_false, State.noteApplied, State.noteVec]

/-! ## What the stack-unavailable fault ends (R125) -/

/-- What is sent back when request `e` is refused with the stack-unavailable fault; a load's piece fails where it stands. -/
def goneRefusals (e : Req) : List (Nat × Nat × Trap) :=
  match e.kind with
  | .load _ => []
  | .store _ _ => [(e.core, e.id, stackTrap e.addr)]
  | .atomic _ _ _ _ _ _ => e.names.map fun n => (n.1, n.2, stackTrap e.addr)

theorem foldl_refuse (ns : List (Nat × Nat)) (s : State) (t : Trap) :
    ns.foldl (fun s n => s.refuse n.1 n.2 t) s = { s with refusals := s.refusals ++ ns.map fun n => (n.1, n.2, t) } := by
  induction ns generalizing s with
  | nil => simp
  | cons n ns ih => rw [List.foldl_cons, ih]; simp [State.refuse]

theorem State.refuseReq_gone (s : State) (e : Req) : ∃ cs, s.refuseReq e (stackTrap e.addr) =
    { s with cores := cs, refusals := s.refusals ++ goneRefusals e } := by
  unfold State.refuseReq goneRefusals
  cases e.kind with
  | load j => exact ⟨_, by rw [List.append_nil]; rfl⟩
  | store bs t => exact ⟨s.cores, rfl⟩
  | atomic op ty v vt cmp at_ => exact ⟨s.cores, foldl_refuse ..⟩

theorem foldl_refuseReq_gone (l : List Req) (s : State) : ∃ cs, l.foldl (fun s e => s.refuseReq e (stackTrap e.addr)) s =
    { s with cores := cs, refusals := s.refusals ++ l.flatMap goneRefusals } := by
  induction l generalizing s with
  | nil => exact ⟨s.cores, by simp⟩
  | cons e l ih =>
    obtain ⟨cs, h⟩ := s.refuseReq_gone e
    obtain ⟨cs', h'⟩ := ih (s.refuseReq e (stackTrap e.addr))
    exact ⟨cs', by rw [List.foldl_cons, h', h, List.flatMap_cons, ← List.append_assoc]⟩

/-- A request whose stack is gone ends with all that is kept after it; cores, refusals and capture units alone change besides. -/
theorem State.serve_gone {s : State} {i : Nat} {r : Req} (hg : s.locGone r.loc = true) :
    ∃ ms cs, s.serve i r =
      let later := (s.reqs.eraseIdx i).filter (({ s with reqs := s.reqs.eraseIdx i } : State).keeps r)
      { s with monitors := ms, cores := cs, reqs := (s.reqs.eraseIdx i).filter (!later.contains ·), gone := s.gone ++ r :: later,
               refusals := s.refusals ++ (r :: later).flatMap goneRefusals } := by
  obtain ⟨ms, ht⟩ := s.takeReq_eq i r
  have hserve : s.serve i r = (s.takeReq i r).serveGone r := by
    simp only [State.serve, State.locGone_takeReq, hg, Bool.true_or, if_true]
  rw [hserve, ht, State.serveGone]
  obtain ⟨cs, h⟩ := foldl_refuseReq_gone _ _
  exact ⟨ms, cs, h⟩

/-- An event that performs request `i`, of place `l`, once the place's turn has come, in `s0`: a load's piece arrives, a store is
written. -/
theorem performs_part {ev : Instr} {f : State → State} {s s0 : State} {i : Nat} {r : Req} {l : Loc} (hr : r.loc = l)
    (hex : r.isAtomic = false → exec ev s = .next (s.whole f)) (hf : f s = s0.serve i r) (hg : s0.locGone l = false)
    (hl : (s0.takeReq i r).lost r = false) :
    let s1 := s0.takeReq i r
    (∀ j, r.kind = .load j → let p := s1.readLoc r.core r.key l r.len r.addr
      let q := p.1.overlay r.core r.id l p.2
      Answers ev s (q.1.updCtx r.core (·.setPiece r.id j q.2))) ∧
    (∀ bs t s2, r.kind = .store bs t → s1.writeLoc r.core r.key l bs t r.addr = (s2, none) →
      Answers ev s (s2.storeDone r.core r.id)) := by
  subst hr
  exact ⟨fun _ hk => answers_of_whole (hex (by simp [Req.isAtomic, hk])) (hf.trans (State.serve_load hg hl hk)),
    fun _ _ _ hk hw => answers_of_whole (hex (by simp [Req.isAtomic, hk])) (hf.trans (State.serve_store hg hl hk hw))⟩

/-- Settles O38, by what the events of the memory system come to. -/
theorem requestEvents : Obligations.RequestEvents := by
  refine ⟨fun i s r hs hg hv => ?_, fun i s r pa hs hr hg hv ha hw => ?_, ?_, fun c s r hr => ?_⟩
  · cases hr : r.loc with
    | mem pa =>
      rw [hr] at hg
      exact fun hl => performs_part (f := (·.serve i r)) hr (exec_homeRequest hs hr hv) rfl hg hl
    | spad k off =>
      exact fun hl => performs_part (f := fun s => (s.remoteTurn k).serve i r) hr (fun _ => exec_gangWindowRequest hs hr hv) rfl rfl hl
  · have hloc : s.locGone r.loc = true := by rw [hr]; exact hg
    obtain ⟨ms, cs, h⟩ := State.serve_gone (i := i) hloc
    exact ⟨_, (exec_homeRequest hs hr hv ha).trans (congrArg _ ((State.whole_of_wait (h ▸ hw)).trans h)), rfl, rfl, rfl, rfl, rfl⟩
  · intro i s r v bs t s2 hs hv hg hk hc s1 hl hwr
    obtain ⟨hh, hn⟩ := s.placeTurn_hbm r.core r.loc
    have hserve := State.serve_store ((State.locGone_congr hh hn r.loc).trans hg) hl hk hwr
    exact answers_of_whole (exec_crossDieWriteApply hs hv (by simp [Req.isAtomic, hk]) hc) (by rw [hserve]; rfl)
  · change execRefusalReturn c s = _
    simp only [execRefusalReturn, hr]

end Sys2Proof.Machine
end

section
/-! PROOFS. Atomics are performed (O40): the values of Table 9, the ring order of an engine, the one atomic that an engine has ready,
and what its home, its reply and its engine hold once it is granted. -/

namespace Sys2Proof.Machine

/-! ## Integers (R102, Table 9) -/

theorem atBits {ty : Nat} (h : ty ≤ 3) : 8 * atWidth ty = if ty = 1 ∨ ty = 3 then 64 else 32 := by
  interval_cases ty <;> rfl

theorem readInt_unsigned {w x : Nat} (h : x < 2 ^ w) : readInt false w x = x := by
  rw [readInt, if_neg Bool.false_ne_true, Nat.mod_eq_of_lt h]

/-- The two extremes of an integer type: the operand takes the place of what it is beyond. -/
theorem atNew_extremes {ty : Nat} (h : ty ≤ 3) (m v cmp : Nat) :
    let w := 8 * atWidth ty
    let r := readInt (ty = tI32 || ty = tI64) w
    atNew .min ty m v cmp = (if r (v % 2 ^ w) < r m then v % 2 ^ w else m) ∧
    atNew .max ty m v cmp = (if r m < r (v % 2 ^ w) then v % 2 ^ w else m) :=
  ⟨if_neg (by rw [tFp32]; omega), if_neg (by rw [tFp32]; omega)⟩

theorem atNew_extremes_signed {ty : Nat} (h : ty ≤ 1) (m v cmp : Nat) :
    let w := 8 * atWidth ty
    atNew .min ty m v cmp = (if toSigned w (v % 2 ^ w) < toSigned w m then v % 2 ^ w else m) ∧
    atNew .max ty m v cmp = (if toSigned w m < toSigned w (v % 2 ^ w) then v % 2 ^ w else m) := by
  have hs : (ty = tI32 || ty = tI64) = true := by interval_cases ty <;> rfl
  have he := atNew_extremes (h.trans (by decide)) m v cmp
  rw [hs] at he
  exact he

theorem atNew_extremes_unsigned {ty m : Nat} (h : ty ≤ 3) (hu : 2 ≤ ty) (hm : m < 2 ^ (8 * atWidth ty)) (v cmp : Nat) :
    let w := 8 * atWidth ty
    atNew .min ty m v cmp = min m (v % 2 ^ w) ∧ atNew .max ty m v cmp = max m (v % 2 ^ w) := by
  have hs : (ty = tI32 || ty = tI64) = false := by interval_cases ty <;> rfl
  have hv : v % 2 ^ (8 * atWidth ty) < 2 ^ (8 * atWidth ty) := Nat.mod_lt _ (Nat.two_pow_pos _)
  obtain ⟨hmin, hmax⟩ := atNew_extremes h m v cmp
  simp only [hs, readInt_unsigned hm, readInt_unsigned hv, Nat.cast_lt] at hmin hmax
  exact ⟨hmin.trans (by split <;> omega), hmax.trans (by split <;> omega)⟩

/-- The integers of Table 9, at the width of the type. -/
theorem atNew_integers {ty m : Nat} (h : ty ≤ 3) (hm : m < 2 ^ (8 * atWidth ty)) (v cmp : Nat) :
    let w := 8 * atWidth ty
    let x := v % 2 ^ w
    (ty ≤ 1 → atNew .add ty m v cmp = (m + v) % 2 ^ w ∧
      atNew .min ty m v cmp = (if toSigned w x < toSigned w m then x else m) ∧
      atNew .max ty m v cmp = (if toSigned w m < toSigned w x then x else m)) ∧
    (2 ≤ ty → atNew .min ty m v cmp = min m x ∧ atNew .max ty m v cmp = max m x) ∧
    (ty = 0 → atNew .amax ty m v cmp = max m (toSigned 32 x).natAbs) ∧ atNew .amaxr ty m v cmp = 0 ∧
    atNew .and ty m v cmp = m &&& x ∧ atNew .or ty m v cmp = m ||| x ∧ atNew .xor ty m v cmp = m ^^^ x ∧
    atNew .xchg ty m v cmp = x ∧ atNew .cas ty m v cmp = (if m = cmp % 2 ^ w then x else m) :=
  ⟨fun hs => ⟨Nat.add_mod_mod .., atNew_extremes_signed hs m v cmp⟩, fun hu => atNew_extremes_unsigned h hu hm v cmp,
    fun h0 => by subst h0; rfl, rfl, rfl, rfl, rfl, rfl, rfl⟩

/-! ## FP32 (R102, Table 9) -/

theorem atFloat.isNaN32_eq (x : Nat) : atFloat.isNaN32 x = decide (0x7F800000 < x % 2 ^ 31) := by
  rw [Bool.eq_iff_iff]
  simp only [atFloat.isNaN32, Bool.and_eq_true, decide_eq_true_eq, bne_iff_ne]
  unfold field
  omega

theorem atFloat.key32_eq {x : Nat} (h : x < 2 ^ 32) :
    atFloat.key32 x = if x < 2 ^ 31 then (x : Int) else -(x % 2 ^ 31 : Nat) - 1 := by
  simp only [atFloat.key32]
  split <;> split <;> omega

/-- The order of the extremes is one of the 2^32 patterns. -/
theorem atFloat.eq_of_key32_eq {m v : Nat} (hm : m < 2 ^ 32) (hv : v < 2 ^ 32) (h : atFloat.key32 m = atFloat.key32 v) : m = v := by
  rw [atFloat.key32_eq hm, atFloat.key32_eq hv] at h
  split at h <;> split at h <;> omega

/-- What an extreme gives, where `moves` says that two numbers leave the operand: a NaN loses to a number. -/
def pickFloat (m v : Nat) (moves : Bool) : Nat :=
  if atFloat.isNaN32 m && atFloat.isNaN32 v then 0x7FC00000 else if atFloat.isNaN32 m then v else if atFloat.isNaN32 v then m
  else if moves then v else m

theorem atFloat_eq_pick (greater : Bool) (m v : Nat) :
    atFloat greater m v = pickFloat m v ((decide (atFloat.key32 m < atFloat.key32 v)) = greater) := by
  unfold atFloat pickFloat
  cases atFloat.isNaN32 m with
  | true => cases atFloat.isNaN32 v <;> rfl
  | false =>
    cases atFloat.isNaN32 v with
    | true => rfl
    | false => cases greater <;> simp

theorem atFloat_max (m v : Nat) : atFloat true m v = pickFloat m v (atFloat.key32 m < atFloat.key32 v) := by
  rw [atFloat_eq_pick]
  simp

/-- Of two equal patterns it makes no difference which is left. -/
theorem atFloat_min {m v : Nat} (hm : m < 2 ^ 32) (hv : v < 2 ^ 32) :
    atFloat false m v = pickFloat m v (atFloat.key32 v < atFloat.key32 m) := by
  rw [atFloat_eq_pick]
  rcases eq_or_ne m v with rfl | hne
  · simp [pickFloat]
  · have hk : atFloat.key32 m ≠ atFloat.key32 v := fun h => hne (atFloat.eq_of_key32_eq hm hv h)
    have hlt : (decide (atFloat.key32 m < atFloat.key32 v) = false) ↔ atFloat.key32 v < atFloat.key32 m := by
      rw [decide_eq_false_iff_not]
      omega
    simp only [hlt]

/-- The FP32 values of Table 9. -/
theorem atNew_floats {m v : Nat} (hm : m < 2 ^ 32) (hv : v < 2 ^ 32) (cmp : Nat) :
    let key := atFloat.key32
    atNew .fadd 4 m v cmp = (fadd fp32 .rne false (fdecode fp32 false m) (fdecode fp32 false v)).1 ∧
    atNew .min 4 m v cmp = pickFloat m v (key v < key m) ∧ atNew .max 4 m v cmp = pickFloat m v (key m < key v) ∧
    atNew .amax 4 m v cmp = pickFloat m (v % 2 ^ 31) (key m < key (v % 2 ^ 31)) ∧ atNew .amaxr 4 m v cmp = 0 := by
  have hw : v % 2 ^ (8 * atWidth 4) = v := Nat.mod_eq_of_lt hv
  refine ⟨?_, ?_, ?_, ?_, rfl⟩
  · simp only [atNew, hw]
  · rw [← atFloat_min hm hv]
    simp only [atNew, hw, tFp32, if_true]
  · rw [← atFloat_max]
    simp only [atNew, hw, tFp32, if_true]
  · rw [← atFloat_max]
    simp only [atNew, hw, tFp32, if_true]

/-! ## Ring order (R103) -/

/-- Steps in ring order from `last` to source `a`, less one. -/
def ringDist (last a : Nat) : Nat := (a + 20 * (last + 1)) % 21

theorem nextSource_first {last : Nat} {l : List Nat} (h : ∃ a ∈ l, a < 21) :
    nextSource last l ∈ l ∧ nextSource last l < 21 ∧ ∀ a ∈ l, a < 21 → ringDist last (nextSource last l) ≤ ringDist last a := by
  have hat (a : Nat) (ha : a < 21) : (last + 1 + ringDist last a) % 21 = a := by unfold ringDist; omega
  obtain ⟨a, ha, hlt⟩ := h
  obtain ⟨i, hi⟩ : ∃ i, (List.range 21).find? (fun i => l.contains ((last + 1 + i) % 21)) = some i := by
    rw [← Option.isSome_iff_exists, List.find?_isSome]
    exact ⟨ringDist last a, List.mem_range.mpr (Nat.mod_lt _ (by decide)), by simpa [hat a hlt] using ha⟩
  have hn : nextSource last l = (last + 1 + i) % 21 := by
    simp only [nextSource, List.find?_map, Function.comp_def, hi, Option.map_some, Option.getD_some]
  obtain ⟨hin, hir, hfirst⟩ := List.find?_range_eq_some.mp hi
  have hd : ringDist last ((last + 1 + i) % 21) = i := by
    have := List.mem_range.mp hir
    unfold ringDist
    omega
  rw [hn, hd]
  refine ⟨by simpa using hin, Nat.mod_lt _ (by decide), fun b hb hb21 => ?_⟩
  by_contra hlt
  have := hfirst _ (not_le.mp hlt)
  simp [hat b hb21, hb] at this

theorem nextSource_singleton {last src : Nat} (h : src < 21) : nextSource last [src] = src :=
  List.mem_singleton.mp (nextSource_first ⟨src, List.mem_singleton.mpr rfl, h⟩).1

/-! ## The engine with one atomic ready (R103) -/

/-- A request that may be served is outstanding, and its stack does not hold it. -/
theorem State.servable_some {s : State} {i : Nat} {r : Req} (h : s.servable i = some r) :
    s.reqs[i]? = some r ∧ ∀ pa, r.loc = .mem pa → s.homeHeld pa = false := by
  unfold State.servable at h
  split at h
  · cases h
  rename_i q hq
  split at h
  · cases h
  split at h
  · rename_i qa hqa
    split at h
    · cases h
    · rename_i hheld
      obtain rfl := Option.some.inj h
      refine ⟨hq, fun pa hpa => ?_⟩
      obtain rfl := Loc.mem.inj (hqa.symm.trans hpa)
      exact Bool.not_eq_true _ ▸ hheld
  · rename_i k off hqa
    obtain rfl := Option.some.inj h
    exact ⟨hq, fun pa hpa => Loc.noConfusion (hqa.symm.trans hpa)⟩

theorem State.servable_of_mem_atomicsAt {s : State} {k i : Nat} {r : Req} (h : (i, r) ∈ s.atomicsAt k) : s.servable i = some r := by
  obtain ⟨j, -, hj⟩ := List.mem_filterMap.mp h
  obtain ⟨q, hq, hv⟩ := Option.bind_eq_some_iff.mp hj
  split at hv
  · split at hv
    · obtain ⟨rfl, rfl⟩ := Prod.mk.inj (Option.some.inj hv)
      exact hq
    · cases hv
  · cases hv

theorem Req.source_placed {r : Req} {k : Nat} {x : Nat × Nat} (h : r.source k = some x) : clusterOf r.core = k ∨ r.port.isSome := by
  unfold Req.source at h
  split at h
  · exact .inl ‹_›
  · obtain ⟨p, hp, -⟩ := Option.map_eq_some_iff.mp h
    exact .inr (hp ▸ rfl)

/-- A request of the engine's own cluster, or one that waits at a port of it already, enters no port. -/
theorem State.enterPorts_placed {s : State} {k i : Nat} {r : Req} (hr : s.reqs[i]? = some r)
    (hp : clusterOf r.core = k ∨ r.port.isSome) : s.enterPorts k [i] = s := by
  have : (decide (clusterOf r.core = k) || r.port.isSome) = true := by simpa using hp
  simp only [State.enterPorts, hr, this, if_true]

theorem exec_atomicEngineGrant_single {s : State} {k i pa src n : Nat} {r : Req} (hq : s.atomicsAt k = [(i, r)])
    (hs : r.source k = some (src, n)) (hlt : src < 21) (hl : r.loc = .mem pa) :
    exec (.atomicEngineGrant k) s = .next ((s.updCluster k fun x => { x with last := src }).whole fun s =>
      (((s.dropReq i).performAtomic r pa).noteApplied r).retryDuplex r) := by
  obtain ⟨hr, -⟩ := State.servable_some (State.servable_of_mem_atomicsAt (hq ▸ List.mem_singleton.mpr rfl))
  change execAtomicEngineGrant k s = _
  simp only [execAtomicEngineGrant, hq, List.map_cons, List.map_nil, State.enterPorts_placed hr (Req.source_placed hs),
    List.filterMap_cons, List.filterMap_nil, hs, Option.map_some, List.isEmpty_cons, Bool.false_eq_true, if_false,
    nextSource_singleton hlt, headOf, List.foldl_cons, List.foldl_nil, bne_self_eq_false, hl]

/-- Only a duplex task has to be tried again once its atomic is performed (R361). -/
theorem State.retryDuplex_simplex {s : State} {r : Req} (h : ∀ t, (s.core r.core).task = some t → t.duplex = false) :
    s.retryDuplex r = s := by
  unfold State.retryDuplex
  split
  · rename_i t ht
    simp [h t ht]
  · rfl

/-- The grant of the one atomic that is ready, of a task that is not duplex and not from another die. -/
theorem answers_grant {s t : State} {k i pa src n : Nat} {r : Req} (hq : s.atomicsAt k = [(i, r)])
    (hs : r.source k = some (src, n)) (hlt : src < 21) (hl : r.loc = .mem pa) (hv : r.vec = none)
    (ht : ((s.updCluster k fun x => { x with last := src }).dropReq i).performAtomic r pa = t)
    (hd : ∀ u, (t.core r.core).task = some u → u.duplex = false) : Answers (.atomicEngineGrant k) s t := by
  intro hw
  have e : ((((s.updCluster k fun x => { x with last := src }).dropReq i).performAtomic r pa).noteApplied r).retryDuplex r = t := by
    rw [ht, State.noteApplied, hv, State.noteVec, State.retryDuplex_simplex hd]
  rw [exec_atomicEngineGrant_single hq hs hlt hl, State.whole_of_wait (by rw [e, hw]), e]

/-! ## The atomic at its home (R102) -/

/-- An atomic has been performed for the members that wait for it. -/
def State.atomicsDone (s : State) (ns : List (Nat × Nat)) : State :=
  ns.foldl (fun s n => s.updCore n.1 fun k => { k with irrev := true, atomDone := true }) s

/-- Granule of `pa` after an atomic has written its new value, with the join of the tags. -/
def State.atomicWritten (s : State) (key pa ty new : Nat) (u : Tag) : State :=
  ((s.memWrite pa (bytesOf (atWidth ty) new)).setMemTag (pa / 64) u).seal key (pa / 64)

/-- What atomic `r` leaves at its home and sends back: the new value with tag `u`, and `old` to each member that waits for it. -/
def State.atomicDone (s : State) (r : Req) (pa ty new : Nat) (u : Tag) (old : SVal) : State :=
  let s1 := (s.atomicWritten r.key pa ty new u).atomicsDone r.names
  { s1 with replies := s1.replies ++ r.names.map fun w => (w.1, w.2, old) }

theorem State.performAtomic_served {s s1 s2 : State} {r : Req} {pa ty : Nat} {op : AtOp} {v cmp : Dword} {vt at_ : LTag} {p : Piece}
    {u : Tag} (hk : r.kind = .atomic op ty v vt cmp at_) (hg : s.homeGone pa = false) (hl : s.lost r = false)
    (hr : s.readHome r.key pa (atWidth ty) r.addr = (s1, p)) (hf : p.fail = none)
    (hj : s1.joinFor r.core (joinTags [p.tag, vt]) = (s2, none, u)) :
    s.performAtomic r pa = s2.atomicDone r pa ty (atNew op ty (ofBytes p.bytes) v.toNat cmp.toNat) u
      { v := atOld ty (ofBytes p.bytes), t := joinTags [p.tag, at_] } := by
  simp only [State.performAtomic, hk, hg, hl, hr, hf, hj, Bool.or_self, Bool.false_eq_true, if_false]
  rfl

/-- Members that wait for an atomic take their marks, and nothing else changes. -/
theorem State.atomicsDone_frame (s : State) (ns : List (Nat × Nat)) : (∃ cs, s.atomicsDone ns = { s with cores := cs }) ∧
    ∀ c, ((s.atomicsDone ns).core c).task = (s.core c).task := by
  induction ns generalizing s with
  | nil => exact ⟨⟨s.cores, rfl⟩, fun _ => rfl⟩
  | cons n ns ih =>
    obtain ⟨hcs, htask⟩ := ih (s.updCore n.1 fun k => { k with irrev := true, atomDone := true })
    refine ⟨hcs, fun c => (htask c).trans ?_⟩
    rw [State.core_updCore]
    split
    · rename_i h
      rw [h]
    · rfl

theorem length_bytesOf (n x : Nat) : (bytesOf n x).length = n := by simp [bytesOf]

theorem State.atomicDone_frame (s : State) (r : Req) (pa ty new : Nat) (u : Tag) (old : SVal) :
    let t := s.atomicDone r pa ty new u old
    t.memRead pa (atWidth ty) = bytesOf (atWidth ty) new ∧ t.memTag (pa / 64) = u ∧
    t.replies = s.replies ++ (r.names.map fun w => (w.1, w.2, old)) ∧ t.clusters = s.clusters ∧ t.reqs = s.reqs ∧ t.wait = s.wait ∧
    ∀ c, (t.core c).task = (s.core c).task := by
  obtain ⟨⟨cs, hcs⟩, htask⟩ := (s.atomicWritten r.key pa ty new u).atomicsDone_frame r.names
  have hread := State.memRead_memWrite s pa (bytesOf (atWidth ty) new)
  rw [length_bytesOf] at hread
  rw [hcs] at htask
  rw [State.atomicDone, hcs]
  exact ⟨hread, NMap.get_set_self (0 : Tag) s.mtags (pa / 64) u, rfl, rfl, rfl, rfl, htask⟩

theorem State.correct_frame (s : State) (pa : Nat) : (s.correct pa).replies = s.replies ∧ (s.correct pa).clusters = s.clusters ∧
    (s.correct pa).reqs = s.reqs ∧ (s.correct pa).wait = s.wait ∧ (s.correct pa).cores = s.cores := by
  unfold State.correct
  split <;> exact ⟨rfl, rfl, rfl, rfl, rfl⟩

theorem State.readHome_served {s : State} {key pa len : Nat} {a : Dword} (hh : s.homeHeld pa = false)
    (hf : s.granuleFault key pa len a = none) :
    s.readHome key pa len a = (s.correct pa, { bytes := s.memRead pa len, tag := tagOf (s.memTag (pa / 64)) }) := by
  simp only [State.readHome, hh, hf, Bool.false_eq_true, if_false]

/-! ## Joins that the fast path takes (R255, R267) -/

theorem mem_of_mem_distinct {u : Tag} {ts : List Tag} (h : u ∈ distinct ts) : u ∈ ts := by
  induction ts with
  | nil => exact h
  | cons t ts ih =>
    rw [distinct] at h
    split at h
    · exact List.mem_cons_of_mem _ (ih h)
    · exact (List.mem_cons.mp h).elim (fun e => e ▸ List.mem_cons_self) fun h => List.mem_cons_of_mem _ (ih h)

/-- A tag that a join leaves alone joins to itself. -/
theorem normTags_single {ts : List Tag} {u : Tag} (h : normTags ts = [u]) : normTags [u] = [u] := by
  unfold normTags at h
  split at h
  · obtain rfl : mucked = u := by simpa using h
    rfl
  · have hmem : u ∈ ts.filter (· != 0) := mem_of_mem_distinct (h ▸ List.mem_singleton.mpr rfl)
    have hz : u ≠ 0 := bne_iff_ne.mp (List.mem_filter.mp hmem).2
    by_cases hm : mucked = u
    · rw [← hm]
      rfl
    · rw [normTags, if_neg (by simpa using hm), List.filter_cons_of_pos (p := (· != 0)) (bne_iff_ne.mpr hz)]
      rfl

/-- A join that the fast path has taken needs no label (R267). -/
theorem State.resolveTags_resolved (s : State) (p sp : Nat) {ls : List LTag} (h : unresolved (joinTags ls) = false) :
    s.resolveTags p sp (joinTags ls) = (s, none, toTag (joinTags ls)) := by
  have hlen : (joinTags ls).length < 2 := by simpa [unresolved] using h
  match hj : joinTags ls, hlen with
  | [], _ => rfl
  | [u], _ => simp only [State.resolveTags, normTags_single hj, toTag, List.headD_cons]

/-! ## One atomic, from its home to its reply -/

/-- The atomic of one member, performed on a granule that can be read: what the home and the reply hold, and what is left alone. -/
theorem State.performAtomic_ready {s : State} {r : Req} {pa ty : Nat} {op : AtOp} {v cmp : Dword} {vt at_ : LTag}
    (hk : r.kind = .atomic op ty v vt cmp at_) (htwin : r.twin = none) (hgone : s.gone = []) (hg : s.homeGone pa = false)
    (hh : s.homeHeld pa = false) (hf : s.granuleFault r.key pa (atWidth ty) r.addr = none)
    (hu : unresolved (joinTags [tagOf (s.memTag (pa / 64)), vt]) = false) :
    let m := ofBytes (s.memRead pa (atWidth ty))
    let g := tagOf (s.memTag (pa / 64))
    ∃ t, s.performAtomic r pa = t ∧ t.memRead pa (atWidth ty) = bytesOf (atWidth ty) (atNew op ty m v.toNat cmp.toNat) ∧
      t.memTag (pa / 64) = toTag (joinTags [g, vt]) ∧ t.clusters = s.clusters ∧ t.reqs = s.reqs ∧
      t.replies = s.replies ++ [(r.core, r.id, { v := atOld ty m, t := joinTags [g, at_] })] ∧ t.wait = s.wait ∧
      (t.core r.core).task = (s.core r.core).task := by
  intro m g
  have hl : s.lost r = false := by rw [State.lost, hgone]; rfl
  have h := State.performAtomic_served hk hg hl (State.readHome_served hh hf) rfl (State.resolveTags_resolved _ _ _ hu)
  obtain ⟨hread, htag, hrep, hcl, hreqs, hwait, htask⟩ := (s.correct pa).atomicDone_frame r pa ty
    (atNew op ty m v.toNat cmp.toNat) (toTag (joinTags [g, vt])) { v := atOld ty m, t := joinTags [g, at_] }
  obtain ⟨hrep', hcl', hreqs', hwait', hcores⟩ := s.correct_frame pa
  rw [hrep', Req.names, htwin] at hrep
  exact ⟨_, h, hread, htag, hcl.trans hcl', hreqs.trans hreqs', hrep, hwait.trans hwait', (htask r.core).trans (by
    rw [State.core, hcores]; rfl)⟩

/-- Settles O40: the atomic at its home, the grant of an engine's one atomic, the ring order, and the values of Table 9. -/
theorem atomicsPerformed : Obligations.AtomicsPerformed := by
  refine ⟨?_, ?_, ?_, fun last l h => nextSource_first h, ?_, ?_⟩
  · intro s r pa op ty v vt cmp at_ s1 p s2 u hk hg hl hr hf hj
    exact State.performAtomic_served hk hg hl hr hf hj
  · intro k s i r pa src n hq hl hv hsrc hd s1 t ht
    have hs : ∃ n, r.source k = some (src, n) ∧ src < 21 := by
      rcases hsrc with ⟨hc, rfl⟩ | ⟨hc, p, hp, hlt, rfl⟩
      · exact ⟨r.id, by rw [Req.source, if_pos hc], by unfold localIndex; omega⟩
      · exact ⟨n, by rw [Req.source, if_neg hc, hp]; rfl, by omega⟩
    obtain ⟨n, hs, hlt⟩ := hs
    refine answers_grant hq hs hlt hl hv rfl fun u hu => ?_
    rw [← Bool.not_eq_true]
    exact fun hdup => hd (by rw [← ht, hu, Option.map_some, hdup])
  · intro k s i r pa op ty v vt cmp at_ src n hq hs hlt hl hk hv htwin hw hgone hg hd w m g hf hu
    obtain ⟨-, hheld⟩ := State.servable_some (State.servable_of_mem_atomicsAt (hq ▸ List.mem_singleton.mpr rfl))
    obtain ⟨t, ht, hread, htag, hcl, hreqs, hrep, hwait, htask⟩ := State.performAtomic_ready
      (s := (s.updCluster k fun x => { x with last := src }).dropReq i) hk htwin hgone hg (hheld pa hl) hf hu
    refine ⟨t, answers_grant hq hs hlt hl hv ht (fun u hu => hd u (htask ▸ hu)) (hwait.trans hw), hread, htag, ?_, hreqs, hrep⟩
    rw [State.cluster, hcl]
    exact congrArg Cluster.last (NMap.get_set_self ..)
  · intro ty m v cmp hty w x hm
    have hbits : 8 * atWidth ty = w := atBits hty
    have h := atNew_integers hty (hbits ▸ hm) v cmp
    rwa [hbits] at h
  · intro m v cmp hm hv nan key pick
    have hpick : pick = pickFloat := by
      funext m v moves
      simp only [pick, nan, pickFloat, atFloat.isNaN32_eq]
    have hkey {x : Nat} (hx : x < 2 ^ 32) : key x = atFloat.key32 x := (atFloat.key32_eq hx).symm
    rw [hpick, hkey hm, hkey hv, hkey (by omega)]
    exact atNew_floats hm hv cmp

end Sys2Proof.Machine
end

section
/-! PROOFS. What a served store, load or atomic changes (O58), refuted: the store of a protected member that is the first to its
granule of the scratchpad since the member's snapshot. -/

namespace Sys2Proof.Machine

/-- Core 0, whose member is rollback-protected and has a snapshot, about to store 7 at offset 0x40 of its own scratchpad, which holds
9 (R357). -/
def snapshotHeld : State :=
  { State.reset with
    parts := [(0, some { w := 4, h := 4, maxNodes := 8 })], curHalf := .a
    cores := [(0, { task := some { rollback := true }, snap := some {}, spad := [(0x40, 9)]
                    ctx := { xs := { seg := wholeStore }, as_ := { seg := wholeStore }
                             sfile := [(0x500, { v := 0x1000000000040 }), (0x501, { v := 7 })] } })] }

/-- `ag.std` at an offset of d1, alone in its group. -/
def storeWord : TrigW := { s := true, g := 0, n := false, imm := false, low := 0x91 }

theorem snapshotHeld_begins : (snapshotHeld.begins (.agStd storeWord)).isSome = true := by decide +kernel

/-- The byte of the snapshot area that keeps the scratchpad's byte at 0x40. -/
def keptByte : Nat := paOf 0 0xD070040

/-- The store copies the granule's old content to the snapshot area. -/
theorem snapshotHeld_copies : Leaves (·.memByte keptByte = 9) (exec (.agStd storeWord) snapshotHeld) = true := by decide +kernel

theorem snapshotHeld_before : snapshotHeld.memByte keptByte = 0 := by decide +kernel

theorem exists_of_leaves {p : State → Bool} {o : Host.Outcome State Fault Refusal} (h : Leaves p o = true) :
    ∃ t, o = .next t ∧ p t = true := by
  cases o with
  | next t => exact ⟨t, rfl, h⟩
  | fault r => exact absurd h Bool.false_ne_true
  | refused r => exact absurd h Bool.false_ne_true

/-- Refutes O58: a store word of a protected member writes the old content of its scratchpad granule to the member's snapshot area, in
home memory, when it issues (R357). -/
theorem not_frameOfStores : ¬ Obligations.FrameOfStores := by
  unfold Obligations.FrameOfStores
  rintro ⟨-, -, hstore⟩
  obtain ⟨⟨x, s1, g⟩, hb⟩ := Option.isSome_iff_exists.mp snapshotHeld_begins
  obtain ⟨t, ht, hkept⟩ := exists_of_leaves snapshotHeld_copies
  obtain ⟨hmem, -⟩ := hstore storeWord snapshotHeld t x s1 g (.agStd storeWord) (by simp) hb ht
  rw [hmem, snapshotHeld_before] at hkept
  exact absurd hkept (by decide)

end Sys2Proof.Machine
end

section
/-! PROOFS. Waits and fences (O25): when the operation of a wait goes on, and how each kind of fence ends; the instructions follow
by what their ports perform. -/

namespace Sys2Proof.Machine

section Operations

variable {x : Trig} {s : State} {sc : Scope}

/-! ## Waits (R172) -/

theorem waitOp_mucked (h : isMuck x.t.t = true) : waitOp x s = .done s false := by simp [waitOp, h]

/-- A wait goes on within its four counts; `p` is any form of the test that the matrix count makes. -/
theorem waitOp_within {p : MxOp → Bool} (hp : ∀ o, p o = o.counted) (hm : isMuck x.t.t = false)
    (hl : ((s.ctx x.core).loads.countP fun l => !l.muck) + (s.ctx x.core).atoms.length ≤ dfield x.t.v 3 0)
    (hst : (s.ctx x.core).stores.length ≤ dfield x.t.v 7 4)
    (hcp : (s.ctx x.core).copies.length + (s.ctx x.core).nosts.length ≤ dfield x.t.v 11 8)
    (hmx : (s.ctx x.core).mxq.countP p + (s.bsums.countP fun b => b.sender = x.core) ≤ dfield x.t.v 15 12) :
    waitOp x s = .done s false := by
  rw [funext hp] at hmx
  simp [waitOp, State.counts, Ctx.counts, hm, hl, hst, hcp, hmx]

/-! ## Fences (R115, R173) -/

theorem anyMuck_clean {a b : LTag} (ha : isMuck a = false) (hb : isMuck b = false) : anyMuck [a, b] = false := by
  simp [anyMuck, ha, hb]

theorem fireCtFence_mucked (h : anyMuck [x.t.t, (x.latch s 0x440).t] = true) : fireCtFence x s = .done s false := if_pos h

variable (hm : anyMuck [x.t.t, (x.latch s 0x440).t] = false)
include hm

theorem fireCtFence_nothing (hk : dfield (x.latch s 0x440).v 1 0 = 0) : fireCtFence x s = .done s false := by
  simp [fireCtFence, hm, hk]

theorem fireCtFence_unscoped (hk : dfield (x.latch s 0x440).v 1 0 ≠ 0) (hs : s.scopeOf x.core (taskOf s x.core) x.t.v = none) :
    fireCtFence x s = .trap 5 (scopeFault x.t.v) := by
  simp [fireCtFence, hm, hk, hs]

variable (hs : s.scopeOf x.core (taskOf s x.core) x.t.v = some sc)
include hs

theorem fireCtFence_alone (h : s.scopesMeet x.core sc sc = false) : fireCtFence x s = .done s false := by
  by_cases hk : dfield (x.latch s 0x440).v 1 0 = 0
  · exact fireCtFence_nothing hm hk
  · simp [fireCtFence, hm, hk, hs, h]

theorem fireCtFence_acquire (hk : dfield (x.latch s 0x440).v 1 0 = 1) (h : s.performed x.core) : fireCtFence x s = .done s false := by
  cases hmt : s.scopesMeet x.core sc sc
  · exact fireCtFence_alone hm hs hmt
  · simp [fireCtFence, hm, hk, hs, hmt, h]

theorem fireCtFence_full (hk : dfield (x.latch s 0x440).v 1 0 = 3) (h : s.drained x.core) : fireCtFence x s = .done s false := by
  cases hmt : s.scopesMeet x.core sc sc
  · exact fireCtFence_alone hm hs hmt
  · simp [fireCtFence, hm, hk, hs, hmt, h]

theorem fireCtFence_release (hk : dfield (x.latch s 0x440).v 1 0 = 2) (hmt : s.scopesMeet x.core sc sc) (h : s.paired x.core) :
    fireCtFence x s = .done (s.releaseFence x.core) false := by
  simp [fireCtFence, hm, hk, hs, hmt, h]

end Operations

/-! ## From the operations to their instructions -/

/-- An instruction whose operation leaves the machine as it is. -/
theorem does_nothing_of_fire {i : Instr} {p : Nat} {P : Trig → State → Prop} (hp : i.port = some p)
    (ht : isTransfer (p % 2048) = false) (h : ∀ x s, x.port = p % 2048 → P x s → fire x s = .done s false) :
    Does i P fun _ s => s :=
  does_of_fire hp ht h (fun _ _ _ hw => hw) fun _ _ _ hr => hr

/-- The two wait ports perform the one operation (R183). -/
theorem does_wait {i : Instr} {w : TrigW} (hi : i ∈ ([.ctWait w, .acWait w] : List Instr)) {P : Trig → State → Prop}
    (h : ∀ x s, P x s → waitOp x s = .done s false) : Does i P fun _ s => s := by
  simp only [List.mem_cons, List.not_mem_nil, or_false] at hi
  rcases hi with rfl | rfl
  · exact does_nothing_of_fire (p := 0x44C) rfl rfl fun x s e hP => (fire_of_port (f := waitOp) e rfl).trans (h x s hP)
  · exact does_nothing_of_fire (p := 0x5CC) rfl rfl fun x s e hP => (fire_of_port (f := waitOp) e rfl).trans (h x s hP)

theorem fire_ctFence {x : Trig} {s : State} (e : x.port = 0x44D) : fire x s = fireCtFence x s := fire_of_port e rfl

/-- Settles O25: a wait by the four counts that it compares, a fence by its kind, each on clean operands and on mucked ones. -/
theorem controlWaits : Obligations.ControlWaits := by
  intro w
  refine ⟨fun i hi => does_wait hi ?_, does_nothing_of_fire (p := 0x44D) rfl rfl ?_, does_of_fire (p := 0x44D) rfl rfl ?_ ?_ ?_,
    fun i hi => does_wait hi fun x s h => waitOp_mucked h,
    does_nothing_of_fire (p := 0x44D) rfl rfl fun x s e h => (fire_ctFence e).trans (fireCtFence_mucked h),
    refused_of_fire (p := 0x44D) rfl ?_⟩
  · rintro x s ⟨hm, hl, hst, hcp, hmx⟩
    exact waitOp_within (fun o => by cases o <;> rfl) hm hl hst hcp hmx
  · rintro x s e ⟨ht, ha, h⟩
    have hm := anyMuck_clean ht ha
    rw [fire_ctFence e]
    rcases h with hk | ⟨sc, hs, halone | ⟨hk, hperf⟩ | ⟨hk, hdr⟩⟩
    · exact fireCtFence_nothing hm hk
    · exact fireCtFence_alone hm hs halone
    · exact fireCtFence_acquire hm hs hk hperf
    · exact fireCtFence_full hm hs hk hdr
  · rintro x s e ⟨ht, ha, hk, hpair, sc, hs, hmt⟩
    rw [fire_ctFence e]
    exact fireCtFence_release (anyMuck_clean ht ha) hs hk hmt hpair
  · intro x s _ hw
    exact hw
  · intro x s _ hr
    exact (State.row_updCtx ..).trans hr
  · rintro x s e ⟨ht, ha, hk, hs⟩
    exact ⟨5, (fire_ctFence e).trans (fireCtFence_unscoped (anyMuck_clean ht ha) hk hs)⟩

end Sys2Proof.Machine
end

section
/-! PROOFS. Svetim Link and the windows (O49): what each step of a port does with a port that stands as the step expects, one lemma a
case, and the statement from them. -/

namespace Sys2Proof.Machine

theorem State.updPort_congr {s : State} {p : Nat} {f g : LinkPort → LinkPort} (h : f (s.port p) = g (s.port p)) :
    s.updPort p f = s.updPort p g := by
  simp only [State.updPort, NMap.upd]
  exact congrArg (fun x => { s with ports := s.ports.set {} p x }) h

/-! ## Lanes and training (R349, R353) -/

theorem LinkPort.isDown_of_up {x : LinkPort} (h : x.up = true) : x.isDown = false := by simp [LinkPort.isDown, h]

/-- The half that is left where the first lane fails. -/
theorem lanesOf_one_failed {lane : Nat} (h : lane < 16) : lanesOf (0 ||| BitVec.ofNat 16 (2 ^ lane)) = some (8, decide (lane < 8)) := by
  interval_cases lane <;> rfl

section Lanes

variable {s : State} {p lane : Nat}

theorem State.laneFails_degrades (hp : p < 13) (hl : lane < 16) (hu : (s.port p).up = true) (h0 : (s.port p).failed = 0) :
    s.laneFails p lane =
      (((s.updPort p fun x => { x with failed := (s.port p).failed ||| BitVec.ofNat 16 (2 ^ lane) }).updPort p fun x => { x with
        up := false, lanes := 8, half := lane < 8, training := some s.now }).linkEvent evDegraded p
          [lane, if lane < 8 then 1 else 0]) := by
  rw [State.laneFails, if_neg (by simp; omega)]
  simp only [LinkPort.isDown_of_up hu, h0, lanesOf_one_failed hl]
  simp [lanesOf]

theorem State.laneFails_takesDown (hp : p < 13) (hl : lane < 16) (hu : (s.port p).up = true) {w : Nat × Bool}
    (hw : lanesOf (s.port p).failed = some w) (hn : lanesOf ((s.port p).failed ||| BitVec.ofNat 16 (2 ^ lane)) = none) :
    s.laneFails p lane =
      (((s.updPort p fun x => { x with failed := (s.port p).failed ||| BitVec.ofNat 16 (2 ^ lane) }).updPort p fun x => { x with
        up := false, lanes := 0, half := false, training := none, downAt := s.now }).linkEvent evDown p
          [(s.port p).peerAck.toNat]) := by
  rw [State.laneFails, if_neg (by simp; omega)]
  simp only [LinkPort.isDown_of_up hu, hw, hn]
  simp

/-- A training after the first (R352). -/
theorem LinkPort.trained_again {x : LinkPort} (h : x.meth ≠ 0) (w : Nat × Bool) (m : BitVec 4) (now : Nat) :
    x.trained w m now = { x with
      up := true, training := none, lanes := BitVec.ofNat 5 w.1, half := w.2, meth := m ||| 1, sentAt := now
      replays := satInc32 x.replays, retrains := satInc16 x.retrains } := if_neg h

theorem State.retrained_again {t : Nat} {w : Nat × Bool} (ht : (s.port p).training = some t) (hw : lanesOf (s.port p).failed = some w)
    (hm : (s.port p).meth ≠ 0) (m : BitVec 4) :
    let s1 := s.updPort p fun x => { x with
      up := true, training := none, lanes := BitVec.ofNat 5 w.1, half := w.2, meth := m ||| 1, sentAt := s.now
      replays := satInc32 x.replays, retrains := satInc16 x.retrains }
    s.retrained p m = if (s.port p).lanes = 0 then s1.linkEvent evUp p [w.1]
      else s1.linkEvent evRetrained p [w.1, (s.now - t) * 10 / 17] := by
  intro s1
  have h1 : (s.updPort p fun x => x.trained w m s.now) = s1 := State.updPort_congr (LinkPort.trained_again hm w m s.now)
  rw [← h1]
  simp only [State.retrained, ht, hw]
  rfl

theorem State.trainRetry_due (hp : p < 13) (hd : (s.port p).isDown = true) (ht : (s.port p).downAt + cyclesMs ≤ s.now) {w : Nat × Bool}
    (hw : lanesOf (s.port p).failed = some w) (m : BitVec 4) :
    let s1 := s.updPort p fun x => { x with downAt := s.now }
    s.trainRetry p true m = (s1.updPort p fun x => x.trained w m s.now).linkEvent evUp p [w.1] ∧ s.trainRetry p false m = s1 := by
  have hc : ¬ (13 ≤ p || !(s.port p).isDown || s.now < (s.port p).downAt + cyclesMs) = true := by simp [hd]; omega
  constructor
  · rw [State.trainRetry, if_neg hc]
    simp only [hw]
    rfl
  · exact if_neg hc

end Lanes

/-! ## Acknowledgement and replay (R348) -/

section Replay

variable {n : BitVec 32} {q : Packet} {old rest : List Packet}

theorem takeWhile_before (hq : q.seq = n) (ho : ∀ e ∈ old, e.seq ≠ n) : (old ++ q :: rest).takeWhile (·.seq != n) = old := by
  rw [List.takeWhile_append_of_pos (by simpa using ho)]
  simp [hq]

theorem filter_acknowledged (hq : q.seq = n) (ho : ∀ e ∈ old ++ rest, e.seq ≠ n) : (old ++ q :: rest).filter (·.seq = n) = [q] := by
  have h1 : old.filter (·.seq = n) = [] := by simpa using fun e he => ho e (List.mem_append_left _ he)
  have h2 : rest.filter (·.seq = n) = [] := by simpa using fun e he => ho e (List.mem_append_right _ he)
  simp [List.filter_append, h1, h2, hq]

theorem State.linkAck_upTo {s : State} {p : Nat} (hu : (s.port p).up = true) (hr : (s.port p).replay = old ++ q :: rest)
    (hq : q.seq = n) (ho : ∀ e ∈ old ++ rest, e.seq ≠ n) (r : Bool) :
    s.linkAck p n r = (old.foldl (fun s e => s.ackPacket e false)
      (s.updPort p fun x => { x with replay := rest, peerAck := n, sentAt := s.now })).ackPacket q r := by
  have hany : (old ++ q :: rest).any (·.seq = n) = true := by simp [hq]
  have hbefore : ∀ e ∈ old, e.seq ≠ n := fun e he => ho e (List.mem_append_left _ he)
  have hport : (s.updPort p fun x => { x with replay := x.replay.drop (old.length + 1), peerAck := n, sentAt := s.now }) =
      s.updPort p fun x => { x with replay := rest, peerAck := n, sentAt := s.now } :=
    State.updPort_congr (by simp [hr])
  rw [State.linkAck, if_neg (by simp [hu, hr, hany])]
  simp only [hr, takeWhile_before hq hbefore, filter_acknowledged hq ho, hport, List.foldl_cons, List.foldl_nil]

theorem State.linkNak_up {s : State} {p : Nat} (hu : (s.port p).up = true) : s.linkNak p = s.updPort p (·.replayAll s.now) := if_pos hu

theorem State.ackTimeout_due {s : State} {p : Nat} (hu : (s.port p).up = true) (hr : (s.port p).replay ≠ [])
    (ht : (s.port p).sentAt + cycles2us ≤ s.now) : s.ackTimeout p = s.updPort p (·.replayAll s.now) := by
  exact if_pos (by simp [hu, hr, ht])

end Replay

/-! ## Inbound packets (R348, R350) -/

section Packets

variable {s s1 : State} {p cmd q : Nat} {seq : BitVec 32} {va : Dword} {d : LinkData} {bs : List Byte}

theorem State.packet_afterGap (hp : p < 12) (hu : (s.port p).up = true) (hs : seq ≠ (s.port p).rxSeq)
    (hg : (seq - (s.port p).rxSeq).toNat < 2 ^ 31) :
    s.packet p seq cmd va d = s.updPort p fun x => { x with naked := true } := by
  rw [State.packet, if_neg (by simp [hu]; omega), if_pos (by simpa using hs), if_pos hg]

/-- A packet in sequence, of a command that is not refused, is the write of its bytes in the bound partition. -/
theorem State.packet_inSequence (hp : p < 12) (hu : (s.port p).up = true) (hb : d.bytes ≠ []) (he : LinkData.expanded d = some bs)
    (hs : seq = (s.port p).rxSeq) (hc : cmd ∉ (s.port p).refused) (hq : (s.port p).bound = some q) {e : Option Nat}
    (hw : s.outsideWrite q va bs = (s1, e)) :
    s.packet p seq cmd va d = e.elim (s1.accepted p) (s1.refusePacket p cmd va) := by
  rw [State.packet, if_neg (by simp [hu]; omega), if_neg (by simp [hs]), if_neg (by omega), if_neg (by simpa using hb),
    if_neg (by simpa using hc)]
  simp only [hq, he, hw]
  cases e <;> rfl

end Packets

/-! ## Windows and bindings (R345, R346) -/

section Windows

variable {s : State} {p w base len off : Nat} {bs : List Byte}

/-- A host access inside its window is a write or a read of the partition, which is performed or refused. -/
theorem State.hostAccess_inside (hw : (s.part p).windows.get none w = some (base, len)) (hu : (s.port 12).up = true) (hb : bs ≠ [])
    (hl : off + bs.length ≤ len) {wr : Bool} {s1 : State} {e : Option Nat}
    (hr : (if wr then s.outsideWrite p (BitVec.ofNat 64 (base + off)) bs
      else s.outsideRead p (BitVec.ofNat 64 (base + off)) bs.length) = (s1, e)) :
    s.hostAccess p w off wr bs = e.elim (s1.accepted 12) fun why =>
      ((s1.accepted 12).replyError (BitVec.ofNat 64 (base + off))).partEvent p evHostRefused [off, why] := by
  have hgo : ¬ (!(s.port 12).up || bs.isEmpty || len < off + bs.length) = true := by simp [hu, hb]; omega
  simp only [State.hostAccess, hw, if_neg hgo, hr]
  cases e <;> rfl

theorem State.setWindow_admitted (hf : s.fwRuns = true) (hp : s.hasPart p = true) (hw : w < 8) (hl : base + len ≤ 2 ^ 48) :
    s.setWindow p w base len = s.updPart p fun q => { q with
      windows := q.windows.set none w (if len = 0 then none else some (base, len)) } :=
  if_neg (by simp [hf, hp]; omega)

theorem State.bindPort_admitted {port : Nat} {b : Option Nat} (hf : s.fwRuns = true) (hp : port < 12)
    (hb : ∀ n, b = some n → s.hasPart n = true) : s.bindPort port b = s.updPort port fun x => { x with bound := b } := by
  refine if_neg ?_
  cases b with
  | none => simp [hf]; omega
  | some n => simp [hf, hb n rfl]; omega

end Windows

/-- Settles O49, clause by clause: each step by the lemma of its case. -/
theorem links : Obligations.Links := by
  refine ⟨fun s p lane hp hl hu => ⟨fun h0 => ?_, fun w hw hn => ?_⟩, fun s p m t w ht hw hm => ?_, fun s p m w hp hd ht hw => ?_,
    fun s p hp => ⟨?_, ?_⟩, fun s p old q rest n r hu hr hq ho => answers_of_whole rfl (State.linkAck_upTo hu hr hq ho r),
    fun s p n hu => ⟨?_, fun hr ht => ?_⟩, fun s p seq cmd va d bs hp hu hb he => ⟨fun q s1 hs hc hq hw => ?_,
      fun q s1 why hs hc hq hw => ?_, fun hs hg => answers_of_whole rfl (State.packet_afterGap hp hu hs hg)⟩,
    fun s p w base len off wr bs hw hu hb hl => ⟨fun s1 hr => ?_, fun s1 why hr => ?_⟩, fun s p w base len hf hp hw hl => ?_,
    fun s port p hf hp hb => ?_⟩
  · exact congrArg Host.Outcome.next (State.laneFails_degrades hp hl hu h0)
  · exact congrArg Host.Outcome.next (State.laneFails_takesDown hp hl hu hw hn)
  · exact congrArg Host.Outcome.next (State.retrained_again ht hw hm m)
  · obtain ⟨h1, h2⟩ := State.trainRetry_due hp hd ht hw m
    exact ⟨congrArg Host.Outcome.next h1, congrArg Host.Outcome.next h2⟩
  · exact answers_of_whole (f := (·.portReset p)) rfl (if_neg (by omega))
  · exact answers_of_whole (f := (·.peerReset p)) rfl (if_neg (by omega))
  · exact congrArg Host.Outcome.next (State.linkNak_up hu)
  · exact congrArg Host.Outcome.next (State.ackTimeout_due hu hr ht)
  · exact answers_of_whole rfl (State.packet_inSequence hp hu hb he hs hc hq hw)
  · exact answers_of_whole rfl (State.packet_inSequence hp hu hb he hs hc hq hw)
  · exact answers_of_whole rfl (State.hostAccess_inside hw hu hb hl hr)
  · exact answers_of_whole rfl (State.hostAccess_inside hw hu hb hl hr)
  · exact congrArg Host.Outcome.next (State.setWindow_admitted hf hp hw hl)
  · exact congrArg Host.Outcome.next (State.bindPort_admitted hf hp hb)

end Sys2Proof.Machine
end

section
/-! PROOFS. Copies (O45): what a command opens with, what a chunk moves, the status word and the swizzled row, and the statement from
them. -/

namespace Sys2Proof.Machine

/-! ## Swizzled rows (R314) -/

/-- An element of equally long lists laid out one after another. -/
theorem getElem?_flatMap_range {α : Type} {f : Nat → List α} {m n q r : Nat} (hf : ∀ c, c < n → (f c).length = m) (hq : q < n)
    (hr : r < m) : ((List.range n).flatMap f)[m * q + r]? = (f q)[r]? := by
  induction n with
  | zero => omega
  | succ n ih =>
    have hlen : ((List.range n).flatMap f).length = m * n := by
      rw [List.length_flatMap, List.map_congr_left (g := fun _ => m) fun c hc => hf c (by simp at hc; omega)]
      simp [Nat.mul_comm]
    rw [List.range_succ, List.flatMap_append, List.flatMap_singleton]
    rcases Nat.lt_succ_iff_lt_or_eq.mp hq with h | rfl
    · have hlt : m * q + r < m * n := by
        calc m * q + r < m * (q + 1) := by rw [Nat.mul_succ]; omega
          _ ≤ m * n := Nat.mul_le_mul_left m h
      rw [List.getElem?_append_left (hlen ▸ hlt)]
      exact ih (fun c hc => hf c (by omega)) h
    · rw [List.getElem?_append_right (by omega), hlen]
      congr 1
      omega

/-- A row of 2^k pieces of 16 bytes: each piece stands where the row's number, taken modulo 2^k, sends it. -/
theorem swizzle_getElem? {k off i : Nat} {bs : List (Byte × LTag)} (hb : bs.length = 16 * 2 ^ k) (hi : i < 16 * 2 ^ k) :
    (swizzle off (16 * 2 ^ k) bs)[i]? = bs[16 * ((i / 16) ^^^ (off / (16 * 2 ^ k) % 2 ^ k)) + i % 16]? := by
  have hn : 16 * 2 ^ k / 16 = 2 ^ k := Nat.mul_div_cancel_left _ (by omega)
  have hr : off / (16 * 2 ^ k) % 2 ^ k < 2 ^ k := Nat.mod_lt _ (Nat.two_pow_pos k)
  have hpiece (c : Nat) (hc : c < 2 ^ k) : c ^^^ (off / (16 * 2 ^ k) % 2 ^ k) < 2 ^ k := Nat.xor_lt_two_pow hc hr
  simp only [swizzle, hn]
  conv_lhs => rw [← Nat.div_add_mod i 16]
  rw [getElem?_flatMap_range (n := 2 ^ k) (m := 16) ?_ (by omega) (Nat.mod_lt _ (by omega)),
    List.getElem?_take_of_lt (Nat.mod_lt _ (by omega)), List.getElem?_drop]
  intro c hc
  have := hpiece c hc
  simp only [List.length_take, List.length_drop, hb]
  omega

/-! ## The status word (R317) -/

theorem pack_six_toNat (a b c d e f : Nat × Nat)
    (h : a.2 * 2 ^ a.1 + b.2 * 2 ^ b.1 + c.2 * 2 ^ c.1 + d.2 * 2 ^ d.1 + e.2 * 2 ^ e.1 + f.2 * 2 ^ f.1 < 2 ^ 64) :
    (pack [a, b, c, d, e, f]).toNat =
      a.2 * 2 ^ a.1 + b.2 * 2 ^ b.1 + c.2 * 2 ^ c.1 + d.2 * 2 ^ d.1 + e.2 * 2 ^ e.1 + f.2 * 2 ^ f.1 := by
  rw [pack, BitVec.toNat_ofNat]
  simp only [List.foldl_cons, List.foldl_nil, Nat.zero_add]
  exact Nat.mod_eq_of_lt h

theorem flagBit_lt (b : Bool) : (if b then 1 else 0 : Nat) < 2 := by cases b <;> decide

theorem Copy.status_toNat {k : Copy} {e : Nat} (he : e < 64) : (k.status e).toNat =
    k.dbytes % 2 ^ 24 * 2 ^ 0 + k.sbytes % 2 ^ 24 * 2 ^ 24 + k.oor % 16 * 2 ^ 48 + e * 2 ^ 52 + (if k.ilt then 1 else 0) * 2 ^ 58 +
      (if k.cfl then 1 else 0) * 2 ^ 59 :=
  pack_six_toNat (0, k.dbytes % 2 ^ 24) (24, k.sbytes % 2 ^ 24) (48, k.oor % 16) (52, e) (58, if k.ilt then 1 else 0)
    (59, if k.cfl then 1 else 0) (by
      have hi := flagBit_lt k.ilt
      have hc := flagBit_lt k.cfl
      dsimp only
      omega)

/-- What a status word says (Table 6). -/
theorem Copy.status_fields {k : Copy} {e : Nat} (he : e < 64) (ho : k.oor < 16) (hd : k.dbytes < 2 ^ 24) (hs : k.sbytes < 2 ^ 24) :
    let w := k.status e
    dfield w 23 0 = k.dbytes ∧ dfield w 47 24 = k.sbytes ∧ dfield w 51 48 = k.oor ∧ dfield w 57 52 = e ∧
      dfield w 58 58 = (if k.ilt then 1 else 0) ∧ dfield w 59 59 = if k.cfl then 1 else 0 := by
  have hi := flagBit_lt k.ilt
  have hc := flagBit_lt k.cfl
  simp only [dfield, Copy.status_toNat he, field]
  generalize (if k.ilt then 1 else 0) = i at hi ⊢
  generalize (if k.cfl then 1 else 0) = j at hc ⊢
  omega

/-! ## Starting a command (R311) -/

section Start

variable {s s1 s2 s3 : State} {c : Nat} {t : Task} {k k' : Copy} {rest : List Copy}

/-- Command `n` has an instruction of its own that starts it. -/
theorem exec_start (c : Nat) {n : Nat} (h : n < 8) (s : State) :
    exec ([Instr.copy, .copy2d, .gather, .scatter, .fill, .expand, .swz, .xcopy].getD n .copy c) s =
      .next (s.whole (·.startHead c n)) := by
  interval_cases n <;> rfl

/-- A command that has opened goes on from here: an XCOPY cannot be repeated (R360). -/
def State.startedAs (s : State) (c : Nat) (k : Copy) : State :=
  (s.updCore c fun x => if k.cmd = 7 then { x with irrev := true } else x).copyPut c k

theorem State.copyPut_ended {e : Nat} (hd : k.done = some e) (hu : k.unacked = []) : s.copyPut c k = s.copyEnd c k e := by
  simp [State.copyPut, hd, hu]

/-- Good fields end no command at once (R311 steps 1 and 2). -/
theorem Copy.refused_of_good (hb : k.bad c t = false) (hi : k.cmd = 2 ∨ k.cmd = 3 → k.nidx ≤ 8) (hp : k.cmd = 7 → k.port ≤ 11) :
    k.refused c t = false := by
  simp only [Copy.refused, hb, Bool.false_or, Bool.or_eq_false_iff, Bool.and_eq_false_iff, decide_eq_false_iff_not]
  omega

/-! A gather needs its source's handle, a scatter its destination's (R306). -/

theorem Copy.hasHs_of_good (hb : k.bad c t = false) (h : k.cmd = 2) : k.hasHs = true := by
  by_contra hn
  simp [Copy.bad, h, hn] at hb

theorem Copy.hasHd_of_good (hb : k.bad c t = false) (h : k.cmd = 3) : k.hasHd = true := by
  by_contra hn
  simp [Copy.bad, h, hn] at hb

theorem State.takeEnd_none (s : State) (c : Nat) (t : Task) (h : Dword) : s.takeEnd c t false h = (s, .ok none) := rfl

theorem State.takeEnd_some {x : HSlot} {h : Dword} (hh : s.takeHandle c t h = (s1, .ok x)) :
    s.takeEnd c t true h = (s1, .ok (some x)) := by
  simp [State.takeEnd, hh]

/-- The one handle of a gather or scatter is taken at its end. -/
theorem State.takeEnds_indexed {h : HSlot} (hc : k.cmd = 2 ∨ k.cmd = 3) (hb : k.bad c t = false)
    (hd2 : k.cmd = 2 → k.hasHd = false) (hs3 : k.cmd = 3 → k.hasHs = false)
    (hh : s.takeHandle c t (if k.cmd = 2 then k.w1.v else k.w2.v) = (s1, .ok h)) :
    ∃ s', s.takeEnd c t k.hasHs k.w1.v = (s', .ok (if k.cmd = 2 then some h else none)) ∧
      s'.takeEnd c t k.hasHd k.w2.v = (s1, .ok (if k.cmd = 3 then some h else none)) := by
  rcases hc with e | e
  · rw [if_pos e] at hh
    refine ⟨s1, ?_, ?_⟩
    · rw [Copy.hasHs_of_good hb e, if_pos e, State.takeEnd_some hh]
    · rw [hd2 e, if_neg (by omega), State.takeEnd_none]
  · rw [if_neg (by omega)] at hh
    refine ⟨s, ?_, ?_⟩
    · rw [hs3 e, if_neg (by omega), State.takeEnd_none]
    · rw [Copy.hasHd_of_good hb e, if_pos e, State.takeEnd_some hh]

/-- A command opens with the handles of its ends and with its rows (R311 steps 3 to 6). -/
theorem State.copyOpen_rows {a b : Option HSlot} {runs : List Run} {oor : Nat} (hc : k.count ≠ 0) (hr : k.rows ≠ 0)
    (ha : s.takeEnd c t k.hasHs k.w1.v = (s1, .ok a)) (hb : s1.takeEnd c t k.hasHd k.w2.v = (s2, .ok b))
    (hp : k.cmd = 7 → (s2.port k.port).isDown = false)
    (hrun : s2.copyRuns c t { k with started := true, hs := a, hd := b } = (s3, .ok (runs, oor))) :
    s.copyOpen c t k = (s3, { k with
      started := true, hs := a, hd := b, runs := runs, oor := oor, chainLen := if k.packed then k.count else 0
      done := if runs = [] ∧ k.packed = false then some 0 else none }) := by
  have hz : ¬ (({ k with started := true } : Copy).count = 0 || ({ k with started := true } : Copy).rows = 0) = true := by
    rw [Bool.or_eq_true, decide_eq_true_eq, decide_eq_true_eq]
    exact not_or.mpr ⟨hc, hr⟩
  have hd : ¬ (k.cmd = 7 && (s2.port k.port).isDown) = true := by simpa using hp
  have ha' : s.takeEnd c t ({ k with started := true } : Copy).hasHs k.w1.v = (s1, .ok a) := ha
  have hb' : s1.takeEnd c t ({ k with started := true } : Copy).hasHd k.w2.v = (s2, .ok b) := hb
  have hdone : (runs.isEmpty && !k.packed) = decide (runs = [] ∧ k.packed = false) := by
    cases runs <;> simp
  simp only [State.copyOpen, if_neg hz, ha', hb', hrun]
  refine (if_neg hd).trans ?_
  change (s3, { k with
    started := true, hs := a, hd := b, runs := runs, oor := oor, chainLen := if k.packed then k.count else 0
    done := if runs.isEmpty && !k.packed then some 0 else none }) = _
  simp only [hdone, decide_eq_true_eq]

section Head

variable (h8 : k.cmd < 8) (hk : (s.ctx c).copies = k :: rest) (ht : (s.core c).task = some t) (hn : k.started = false)
  (hs : s.settledBefore c k.token = true)
include hk ht hn hs

theorem State.startHead_refused (hr : k.refused c t = true) (hu : k.unacked = []) :
    s.startHead c k.cmd = s.copyEnd c { k with started := true, done := some eCmd } eCmd := by
  simp only [State.startHead, hk, ht, List.head?_cons, hn, State.copyStart, hs, hr]
  exact State.copyPut_ended (k := { k with started := true, done := some eCmd }) rfl hu

theorem State.startHead_opened (hr : k.refused c t = false) (ho : s.copyOpen c t k = (s1, k')) :
    s.startHead c k.cmd = s1.startedAs c k' := by
  simp only [State.startHead, hk, ht, List.head?_cons, hn, State.copyStart, hs, hr, ho]
  rfl

include h8

/-- The head command starts, once the core's accesses before it are performed, as it opens. -/
theorem answers_start (hr : k.refused c t = false) (ho : s.copyOpen c t k = (s1, k')) :
    Answers ([Instr.copy, .copy2d, .gather, .scatter, .fill, .expand, .swz, .xcopy].getD k.cmd .copy c) s (s1.startedAs c k') :=
  answers_of_whole (exec_start c h8 s) (State.startHead_opened hk ht hn hs hr ho)

end Head

end Start

/-! ## Rows (R311 steps 5 and 6) -/

section Rows

variable {s : State} {c : Nat} {t : Task} {k : Copy}

/-- Row `r` of a command without handles lies `r` strides from its first one, where the command has strides (R306). -/
def Copy.step (k : Copy) (r : Nat) (x : Int) : Dword := BitVec.ofInt 64 (if k.cmd = 1 ∨ k.cmd = 6 then r * x else 0)

/-- The run of each row of a command without handles and outside banks. -/
def Copy.plainRuns (k : Copy) : List Run := (List.range k.rows).map fun r => {
  src := if k.cmd = 4 then .pattern k.w1.v else .addr (k.w1.v + k.step r k.sstr)
  dst := k.w2.v + k.step r k.dstr, len := k.count, swz := if k.sw then k.count else 0 }

theorem Copy.mem_plainRuns {x : Run} (h : x ∈ k.plainRuns) : x.conv = none ∧ ∃ r, r < k.rows ∧ x.dst = k.w2.v + k.step r k.dstr := by
  obtain ⟨r, hr, rfl⟩ := List.mem_map.mp h
  exact ⟨rfl, r, List.mem_range.mp hr, rfl⟩

/-- Rows that no conversion changes put COUNT bytes each at the destination. -/
theorem foldl_convLen_unconverted (n : Nat) {l : List Run} (h : ∀ x ∈ l, x.conv = none) (a : Nat) :
    l.foldl (fun a x => a + convLen x.conv n) a = a + l.length * n := by
  induction l generalizing a with
  | nil => simp
  | cons x l ih =>
    have hx : convLen x.conv n = n := by rw [h x List.mem_cons_self]; rfl
    rw [List.foldl_cons, hx, ih fun y hy => h y (List.mem_cons_of_mem x hy), List.length_cons, Nat.succ_mul]
    omega

/-- The conditions of R314 on the rows of a swizzled command. -/
def Copy.swizzles (k : Copy) : Prop :=
  k.sw = true → isPow2 k.count = true ∧ 16 ≤ k.count ∧ k.count ≤ 4096 ∧
    ∀ r, r < k.rows → (k.w2.v + k.step r k.dstr).toNat % 2 ^ 20 % k.count = 0

theorem Copy.swizzles_count (h : k.swizzles) : (k.sw && (!isPow2 k.count || k.count < 16 || 4096 < k.count)) = false := by
  cases hs : k.sw
  · rfl
  · obtain ⟨h2, hl, hu, -⟩ := h hs
    simp [h2]
    omega

theorem Copy.rowMisaligned_plain (h : k.swizzles) {x : Run} (hx : x ∈ k.plainRuns) (a : Dword) : k.rowMisaligned x a = false := by
  obtain ⟨hc, r, hr, hd⟩ := Copy.mem_plainRuns hx
  rw [Copy.rowMisaligned, hc, hd]
  cases hs : k.sw
  · rfl
  · obtain ⟨-, -, -, hal⟩ := h hs
    rw [hal r hr]
    rfl

/-- Steps 5 and 6 of R311 for a command without handles, outside banks. -/
theorem State.copyRuns_plain (hs : k.hs = none) (hd : k.hd = none) (hp : k.packed = false) (h2 : k.cmd ≠ 2) (h3 : k.cmd ≠ 3)
    (hv : k.convs = []) (hsize : k.rows * k.count < 2 ^ 24) (hw : k.swizzles) : s.copyRuns c t k = (s, .ok (k.plainRuns, 0)) := by
  have hnot : (k.cmd = 2 || k.cmd = 3) = false := by simp [h2, h3]
  have hruns : (List.range k.rows).map (fun (r : Nat) => ({
      src := if k.cmd = 4 then .pattern k.w1.v
        else .addr (k.w1.v + BitVec.ofInt 64 (if k.cmd = 1 || k.cmd = 6 then r * k.sstr else 0))
      dst := k.w2.v + BitVec.ofInt 64 (if k.cmd = 1 || k.cmd = 6 then r * k.dstr else 0)
      len := k.count, swz := if k.sw then k.count else 0, conv := [].getD r none } : Run)) = k.plainRuns := by
    simp [Copy.plainRuns, Copy.step]
  have hconv : ∀ x ∈ k.plainRuns, x.conv = none := fun x hx => (Copy.mem_plainRuns hx).1
  have htotal : k.plainRuns.foldl (fun a x => a + convLen x.conv k.count) 0 = k.rows * k.count := by
    rw [foldl_convLen_unconverted k.count hconv, Copy.plainRuns, List.length_map, List.length_range, Nat.zero_add]
  have hrefused : (k.plainRuns.any fun x => convRefused x.conv) = false :=
    List.any_eq_false.mpr fun x hx => by rw [hconv x hx]; exact Bool.false_ne_true
  have haligned (f : Run → Dword) : (k.plainRuns.any fun x => k.rowMisaligned x (f x)) = false :=
    List.any_eq_false.mpr fun x hx => by rw [Copy.rowMisaligned_plain hw hx]; exact Bool.false_ne_true
  simp only [State.copyRuns, hs, hd, hp, hnot, hv, hruns, htotal, hrefused, Copy.swizzles_count hw, haligned]
  simpa using hsize

/-- The runs of a gather or scatter through handle `h` of the indices `is` (R313). -/
def Copy.indexedRuns (k : Copy) (h : HSlot) (is : List (Nat × LTag)) : List Run :=
  is.zipIdx.filterMap fun i =>
    let near : Dword := BitVec.ofNat 64 (i.2 * k.count)
    if k.cmd = 2 then
      if i.1.1 < h.rows then some { src := .addr (h.row i.1.1), dst := k.w2.v + near, len := k.count, tag := i.1.2 }
      else if k.skip then none else some { src := .zeros, dst := k.w2.v + near, len := k.count, tag := i.1.2 }
    else if i.1.1 < h.rows then some { src := .addr (k.w1.v + near), dst := h.row i.1.1, len := k.count, tag := i.1.2 }
    else none

theorem State.indexRuns_read {s1 : State} {h : HSlot} {is : List (Nat × LTag)} (hh : (if k.cmd = 2 then k.hs else k.hd) = some h)
    (hi : s.readIndices c t k.token k.index k.nidx = (s1, .ok is)) :
    s.indexRuns c t k 0 = (s1, .ok (k.indexedRuns h is, is.countP fun i => h.rows ≤ i.1)) := by
  simp only [State.indexRuns, hi, hh, Option.getD_some]
  refine congrArg (fun l => (s1, Except.ok (l, _))) (congrArg (List.filterMap · _) (funext fun ⟨⟨i, tg⟩, j⟩ => ?_))
  by_cases h2 : k.cmd = 2
  · cases hk : k.skip <;> simp [h2]
  · simp [h2]

/-- Steps 5 and 6 of R311 and the indices, for a gather or scatter whose handle has wide enough rows. -/
theorem State.copyRuns_indexed {s1 : State} {h : HSlot} {is : List (Nat × LTag)} (hc : k.cmd = 2 ∨ k.cmd = 3)
    (hs : k.hs = if k.cmd = 2 then some h else none) (hd : k.hd = if k.cmd = 3 then some h else none) (hp : k.packed = false)
    (hw : k.sw = false) (hsize : k.nidx * k.count < 2 ^ 24) (hb : k.count ≤ h.rbytes) (ha : k.index % 4 = 0)
    (hi : s.readIndices c t k.token k.index k.nidx = (s1, .ok is)) :
    s.copyRuns c t k = (s1, .ok (k.indexedRuns h is, is.countP fun i => h.rows ≤ i.1)) := by
  have hh : (if k.cmd = 2 then k.hs else k.hd) = some h := by
    rcases hc with e | e <;> simp [hs, hd, e]
  have hends : [k.hs, k.hd].filterMap (fun x => x) = [h] := by
    rcases hc with e | e <;> simp [hs, hd, e]
  have h16 : (k.cmd = 1 || k.cmd = 6) = false := by
    rcases hc with e | e <;> simp [e]
  have h23 : (k.cmd = 2 || k.cmd = 3) = true := by simpa using hc
  simp only [State.copyRuns, hp, h23, hends, h16, hw, ha]
  rw [if_neg Bool.false_ne_true, if_pos trivial, if_neg (by simp; omega), if_neg (by simp)]
  exact State.indexRuns_read hh hi

/-- Steps 5 and 6 of R311 for a packed command. -/
theorem State.copyRuns_packed {s1 : State} {n : Nat} (hp : k.packed = true)
    (hn : s.chainTotal c t k (k.count / 64 + 1) 0 0 = (s1, n)) (hsize : n < 2 ^ 24) (ha : k.w1.v.toNat % 64 = 0)
    (hc : k.count % 64 = 0) : s.copyRuns c t k = (s1, .ok ([], 0)) := by
  simp only [State.copyRuns, hp, hn, ha, hc]
  rw [if_pos trivial, if_neg (by omega)]
  rfl

end Rows

/-! ## Chunks (R312) -/

section Chunk

variable {s s1 s2 : State} {c n m : Nat} {t : Task} {k : Copy} {rest : List Copy} {r : Run} {rs : List Run} {a : Dword}
  {bs : List (Byte × LTag)}

/-- The runs of a command of which `used` source bytes and `made` destination bytes more of the first one, `r`, are done. -/
def Run.left (r : Run) (rs : List Run) (used made : Nat) : List Run :=
  if r.len ≤ r.pos + used then rs else { r with pos := r.pos + used, dpos := r.dpos + made } :: rs

/-- A command that has read `n` bytes and written `m` more, in writes that `s'` numbers and `s` does not, with the runs `l` left. -/
def Copy.moved (k : Copy) (s s' : State) (n m : Nat) (l : List Run) : Copy := { k with
  sbytes := k.sbytes + n, dbytes := k.dbytes + m, runs := l
  logged := if s.nextId < s'.nextId then some (s'.nextId - 1) else k.logged }

theorem State.chunkOut_written (hr : k.runs = r :: rs)
    (hw : s.engineWrite c t (r.dst + BitVec.ofNat 64 r.dpos) bs (joinTags [k.tag, r.tag]) = (s1, m, none)) :
    s.chunkOut c t k r bs n = (s1, k.moved s s1 0 m (r.left rs n bs.length)) := by
  simp only [State.chunkOut, hw, Copy.advance, hr, List.tail_cons]
  rfl

/-- The chunk of a row that is read at an address and moved as it is, in no XCOPY. -/
theorem State.runChunk_moved (hr : k.runs = r :: rs) (hsrc : r.src = .addr a) (hswz : r.swz = 0) (hmeth : r.meth = none)
    (hpad : r.pad = 0) (h7 : k.cmd ≠ 7) (hn : n = min (r.len - r.pos) 4096)
    (hrd : s.engineRead c t k.token (a + BitVec.ofNat 64 r.pos) n = (s1, .ok bs))
    (hw : s1.engineWrite c t (r.dst + BitVec.ofNat 64 r.dpos) bs (joinTags [k.tag, r.tag]) = (s2, m, none)) :
    s.runChunk c t k r = (s2, k.moved s1 s2 n m (r.left rs n bs.length)) := by
  have hc : r.chunk = 4096 := by rw [Run.chunk, hmeth]
  have hout : s1.chunkOut c t { k with sbytes := k.sbytes + n } r bs n = (s2, k.moved s1 s2 n m (r.left rs n bs.length)) :=
    State.chunkOut_written hr hw
  simp only [State.runChunk, hsrc, hswz, hmeth, hpad, hc, ← hn, bne_self_eq_false, Bool.false_eq_true, if_false, if_true,
    Option.bind_none, ite_self, Nat.add_zero, hrd]
  exact (if_neg h7).trans hout

/-- A command goes on by such a chunk, and ends where it leaves no run and no block of a chain. -/
theorem State.copyChunk_moved (hr : k.runs = r :: rs) (hsrc : r.src = .addr a) (hconv : r.conv = none) (hch : k.chainLen ≤ k.chain)
    (hdone : k.done = none) {l : List Run} (hrun : s.runChunk c t k r = (s2, k.moved s1 s2 n m l)) :
    s.copyChunk c t k = (s2, { k.moved s1 s2 n m l with done := if l = [] then some 0 else none }) := by
  have hfin : (k.moved s1 s2 n m l).finish = { k.moved s1 s2 n m l with done := if l = [] then some 0 else none } := by
    cases l with
    | nil => simp [Copy.finish, Copy.moved, hch, hdone]
    | cons x l => simp [Copy.finish, Copy.moved, hdone]
  simp only [State.copyChunk, hr, hsrc, hconv, hrun, hfin]

theorem State.copyStep_started (hk : (s.ctx c).copies = k :: rest) (ht : (s.core c).task = some t) (hs : k.started = true)
    (hturn : s.copyTurn c = true) {k' : Copy} (hc : s.copyChunk c t k = (s1, k')) :
    s.copyStep c = (s1.updCluster (clusterOf c) fun x => { x with lastCopy := localIndex c }).copyPut c k' := by
  simp only [State.copyStep, hk, ht, hturn, hs, hc]
  rfl

end Chunk

/-- Rows of a command that is no gather or scatter lie their strides apart. -/
theorem Copy.step_of_row {k : Copy} (h2 : k.cmd ≠ 2) (h3 : k.cmd ≠ 3) {r : Nat} (hr : r < k.rows) (x : Int) :
    k.step r x = BitVec.ofInt 64 (r * x) := by
  by_cases h : k.cmd = 1 ∨ k.cmd = 6
  · rw [Copy.step, if_pos h]
  · have h0 : r = 0 := by
      simp only [Copy.rows, h2, h3, Bool.or_eq_true, decide_eq_true_eq, h, or_self, if_false] at hr
      omega
    rw [Copy.step, if_neg h, h0]
    simp

/-- The row lengths that a swizzled command may have (R314). -/
theorem swizzled_count {n : Nat} (h : n ∈ [16, 32, 64, 128, 256, 512, 1024, 2048, 4096]) :
    isPow2 n = true ∧ 16 ≤ n ∧ n ≤ 4096 ∧ ∃ k < 9, n = 16 * 2 ^ k := by
  revert n
  decide

/-- Settles O45: a start by what the command opens with, a chunk by what its one run moves, and the forms of the status word and of
a swizzled row. -/
theorem copies : Obligations.Copies := by
  refine ⟨fun s c t k rest hk ht hn h8 hs => ⟨fun hr hu => ?_, fun hc hb hcount hrows hhs hhd hp hv hsize hport hsw => ?_,
      fun h s1 s2 is hc hb hcount hn1 hn8 hsw hp hd2 hs3 hh hsize hrb hidx his => ?_,
      fun s1 n hp hc hb hcount hhs hhd hport htot hsize ha hg => ?_⟩,
    fun s c t k rest r rs a s1 bs s2 m hk ht hs hdone hr hturn hsrc hconv hswz hmeth hpad h7 hp hch hrd hw => ?_,
    fun k e he ho hd hs => Copy.status_fields he ho hd hs, fun off n i bs hn hl hi => ?_⟩
  · exact answers_of_whole (exec_start c h8 s) (State.startHead_refused hk ht hn hs hr hu)
  · have h2 : k.cmd ≠ 2 := by rintro e; simp [e] at hc
    have h3 : k.cmd ≠ 3 := by rintro e; simp [e] at hc
    have hw : k.swizzles := by
      intro e
      obtain ⟨hm, hal⟩ := hsw e
      obtain ⟨hpow, hl, hu, -⟩ := swizzled_count hm
      exact ⟨hpow, hl, hu, fun r hr => by rw [Copy.step_of_row h2 h3 hr]; exact hal r hr⟩
    have hruns : k.plainRuns ≠ [] := by
      simpa [Copy.plainRuns] using hrows
    have ho := State.copyOpen_rows (s := s) (c := c) (t := t) (runs := k.plainRuns) hcount hrows (by rw [hhs]; rfl)
      (by rw [hhd]; rfl) (fun e => (hport e).2) (State.copyRuns_plain rfl rfl hp h2 h3 hv hsize hw)
    simp only [hp, hruns, false_and, if_false, Bool.false_eq_true] at ho
    exact answers_start h8 hk ht hn hs (Copy.refused_of_good hb (by omega) fun e => (hport e).1) ho
  · have h23 : k.cmd = 2 ∨ k.cmd = 3 := by simpa using hc
    have hrows : k.rows = k.nidx := by rcases h23 with e | e <;> simp [Copy.rows, e]
    obtain ⟨s', ha, hb'⟩ := State.takeEnds_indexed h23 hb hd2 hs3 hh
    have ho := State.copyOpen_rows hcount (by omega) ha hb' (by omega)
      (State.copyRuns_indexed h23 rfl rfl hp hsw hsize hrb hidx his)
    simp only [hp, and_true, Bool.false_eq_true, if_false] at ho
    exact answers_start h8 hk ht hn hs (Copy.refused_of_good hb (fun _ => hn8) (by omega)) ho
  · have h057 : k.cmd = 0 ∨ k.cmd = 5 ∨ k.cmd = 7 := by simpa using hc
    have hrows : k.rows = 1 := by rcases h057 with e | e | e <;> simp [Copy.rows, e]
    have ho := State.copyOpen_rows (s := s) (c := c) (t := t) hcount (by omega) (by rw [hhs]; rfl) (by rw [hhd]; rfl)
      (fun e => (hport e).2) (State.copyRuns_packed hp htot hsize ha hg)
    simp only [hp, if_true, Bool.true_eq_false, and_false, if_false] at ho
    exact answers_start h8 hk ht hn hs (Copy.refused_of_good hb (by omega) fun e => (hport e).1) ho
  · exact answers_of_whole rfl (State.copyStep_started hk ht hs hturn (State.copyChunk_moved hr hsrc hconv hch hdone
      (State.runChunk_moved hr hsrc hswz hmeth hpad h7 rfl hrd hw)))
  · obtain ⟨-, -, -, j, -, rfl⟩ := swizzled_count hn
    rw [swizzle_getElem? hl hi, Nat.mul_div_cancel_left _ (by omega)]

end Sys2Proof.Machine
end

section
/-! PROOFS. Decode and encode agree (O56, O55): what the decoder makes of a word packed from its fields, one lemma for each form of
word, and that an instruction which a word decodes to packs those fields again. -/

namespace Sys2Proof

open Machine

/-! ## Encoding (R126, R129, R131) -/

/-- A trigger's word names its port as the destination (R146). -/
theorem encode_of_port {i : Instr} {p : Nat} {w : TrigW} (hp : i.port = some p) (hw : i.trigW = some w) :
    encode i = some (packMove w.s w.g w.n (BitVec.ofNat 11 p) w.imm w.low) := by
  simp only [encode, hp, hw]

/-- A well-formed trigger is no hint, and its source suits its port. -/
theorem wf_of_port {i : Instr} {p : Nat} {w : TrigW} (hp : i.port = some p) (hw : i.trigW = some w) (h : i.wf = true) :
    hintGuard w.g w.n = false ∧ ∃ ph, sourceOk ph w.imm w.low = true := by
  simp only [Instr.wf, hp, hw, Bool.and_eq_true, Bool.not_eq_true'] at h
  obtain ⟨hg, h⟩ := h
  split at h
  · exact ⟨hg, _, h⟩
  · cases h

/-- A well-formed plain move is no hint, and its source suits its destination, which is no trigger port. -/
theorem wf_move {w : MoveW} (h : (Instr.move w).wf = true) : hintGuard w.g w.n = false ∧ isTrigger w.dst.toNat = false ∧
    (dstPort w.dst.toNat).isSome = true ∧ ∃ ph, sourceOk ph w.imm w.low = true := by
  simp only [Instr.wf, Instr.port, Bool.and_eq_true, Bool.not_eq_true'] at h
  obtain ⟨⟨hg, ht⟩, h⟩ := h
  split at h
  · rename_i hd
    exact ⟨hg, ht, by rw [hd]; rfl, _, h⟩
  · cases h

/-- A well-formed drop is no hint, and its source is a queue (R129). -/
theorem wf_drop {w : DropW} (h : (Instr.queueDrop w).wf = true) : hintGuard w.g w.n = false ∧ isQueueSrc w.src.toNat = true := by
  simp only [Instr.wf, Instr.port, Bool.and_eq_true, Bool.not_eq_true'] at h
  exact h

/-! ## Decoding a packed word -/

/-- Bits [14:0] of a drop are MOD 2 and its source (R129). -/
theorem dropLow_toNat (src : Port) : (dropLow src).toNat = 2 * 2048 + src.toNat := by
  have h : src.toNat < 2 ^ 11 := src.isLt
  show ((2#4) ++ src).toNat = _
  rw [BitVec.toNat_append, ← Nat.shiftLeft_add_eq_or_of_lt h]
  rfl

/-- Bits [10:0] of a word packed with them. -/
theorem packMove_src (s : Bool) (g : BitVec 3) (n : Bool) (d : Port) (i : Bool) (l : BitVec 15) :
    (packMove s g n d i l).extractLsb' 0 11 = l.setWidth 11 := by
  apply BitVec.eq_of_getLsbD_eq
  intro k hk
  rw [BitVec.getLsbD_extractLsb', packMove_bit, BitVec.getLsbD_setWidth]
  simp [hk, show k < 15 by omega]

theorem dropLow_setWidth (src : Port) : (dropLow src).setWidth 11 = src := by
  apply BitVec.eq_of_toNat_eq
  rw [BitVec.toNat_setWidth, dropLow_toNat]
  have := src.isLt
  omega

/-- A packed hint is read as a hint (R131). -/
theorem decodeWord_packHint (s : Bool) (c : BitVec 3) (p : BitVec 24) :
    decodeWord (packHint s c p) = decodeHint (packHint s c p) := by
  obtain ⟨-, hg, hn, -, -⟩ := packHint_fields s c p
  rw [decodeWord, hg, hn]
  rfl

/-- A queue drop decodes to itself (R129). -/
theorem decodeWord_drop {s n : Bool} {g : BitVec 3} {src : Port} (hg : hintGuard g n = false)
    (hq : isQueueSrc src.toNat = true) : decodeWord (packMove s g n 0 false (dropLow src)) = .ok (.queueDrop ⟨s, g, n, src⟩) := by
  obtain ⟨eS, eG, eN, eD, eI, eL⟩ := packMove_fields s g n 0 false (dropLow src)
  have hlt := src.isLt
  have hmod : (dropLow src).toNat / 2048 = 2 := by rw [dropLow_toNat]; omega
  have hsrc : (dropLow src).toNat % 2048 = src.toNat := by rw [dropLow_toNat]; omega
  rw [decodeWord, eG, eN, hg]
  simp only [Bool.false_eq_true, if_false, decodeMove, eS, eG, eN, eD, eI, eL, hmod, hsrc, hq, packMove_src, dropLow_setWidth]
  rfl

/-- A source that suits its destination has no error, and is no drop's (R129, R149). -/
theorem source_of_sourceOk {ph : PHalf} {imm : Bool} {low : BitVec 15} (h : sourceOk ph imm low = true) :
    sourceError imm low = none ∧ (!imm && low.toNat / 2048 == 2 && isQueueSrc (low.toNat % 2048)) = false := by
  unfold sourceOk at h
  unfold sourceError isQueueSrc
  split at h
  case isTrue himm => simp [himm]
  case isFalse himm =>
    split at h
    case h_1 => cases h
    case h_2 sh c hc =>
      simp only [Bool.and_eq_true, Bool.not_eq_true'] at h
      obtain ⟨⟨-, hmod⟩, hdrop⟩ := h
      simp [himm, hc, hmod, hdrop, Bool.and_comm]

/-- A word that is neither a hint nor a drop decodes to what stands at its destination: a trigger, or a plain move (R126, R146). -/
theorem decodeWord_packMove {s n imm : Bool} {g : BitVec 3} {d : Port} {low : BitVec 15} {ph : PHalf}
    (hg : hintGuard g n = false) (hs : sourceOk ph imm low = true) (hd : (dstPort d.toNat).isSome = true) :
    decodeWord (packMove s g n d imm low) =
      .ok ((Instr.ofPort d.toNat ⟨s, g, n, imm, low⟩).getD (.move ⟨s, g, n, d, imm, low⟩)) := by
  obtain ⟨eS, eG, eN, eD, eI, eL⟩ := packMove_fields s g n d imm low
  obtain ⟨herr, hdrop⟩ := source_of_sourceOk hs
  have hnone : (dstPort d.toNat).isNone = false := by simpa using hd
  rw [decodeWord, eG, eN, hg]
  simp only [Bool.false_eq_true, if_false, decodeMove, eS, eG, eN, eD, eI, eL, Bool.and_assoc] at hdrop ⊢
  rw [hdrop, Bool.and_false, herr, hnone]
  cases Instr.ofPort d.toNat ⟨s, g, n, imm, low⟩ <;> rfl

/-! ## The two directions -/

/-- A well-formed instruction decodes from its word, one form of word after another. -/
theorem decodeWord_encode {i : Instr} (h : i.wf = true) : ∃ w, encode i = some w ∧ decodeWord w = .ok i := by
  rcases hp : i.port with _ | p
  · have hform := h
    simp only [Instr.wf, hp] at hform
    split at hform
    case h_1 w =>
      obtain ⟨hg, ht, hd, ph, hs⟩ := wf_move h
      refine ⟨_, rfl, ?_⟩
      rw [decodeWord_packMove hg hs hd, ofPort_none ht]
      rfl
    case h_2 w =>
      obtain ⟨hg, hq⟩ := wf_drop h
      exact ⟨_, rfl, decodeWord_drop hg hq⟩
    case h_8 => cases hform
    all_goals exact ⟨_, rfl, by simp [decodeWord_packHint, decodeHint, packHint_fields]⟩
  · obtain ⟨w, hw⟩ := trigW_of_port hp
    obtain ⟨hg, ph, hs⟩ := wf_of_port hp hw h
    obtain ⟨hlt, -, -, hd⟩ := port_isTrigger hp
    have e : (BitVec.ofNat 11 p).toNat = p := by rw [BitVec.toNat_ofNat]; exact Nat.mod_eq_of_lt hlt
    refine ⟨_, encode_of_port hp hw, ?_⟩
    rw [decodeWord_packMove hg hs (by rw [e]; exact hd), e, ofPort_of_port hp hw]
    rfl

/-- The bytes of a word are read back whole (R4, R126). -/
theorem decode_wordBytes {w : IWord} {i : Instr} (h : decodeWord w = .ok i) (rest : List Byte) :
    decode (wordBytes w ++ rest) = .ok (i, rest) := by
  simp only [wordBytes, List.cons_append, List.nil_append, decode, wordOfBytes_wordBytes, h]

/-- A hint word that decodes is the packing of its fields (R131). -/
theorem encode_decodeHint {w : IWord} {i : Instr} (hg : hintGuard (wordG w) (wordN w) = true) (h : decodeHint w = .ok i) :
    encode i = some w := by
  have hw := packHint_word w hg
  unfold decodeHint at h
  split at h
  case h_6 => cases h
  all_goals
    rename_i hk
    cases h
    rw [hk] at hw
    exact congrArg some hw

/-- MOD 2 and a source fill bits [14:0]. -/
theorem dropLow_of_mod {low : BitVec 15} (h : low.toNat / 2048 = 2) : dropLow (low.setWidth 11) = low := by
  apply BitVec.eq_of_toNat_eq
  rw [dropLow_toNat, BitVec.toNat_setWidth]
  omega

/-- A move word that decodes is the packing of its fields (R126, R129, R146). -/
theorem encode_decodeMove {w : IWord} {i : Instr} (h : decodeMove w = .ok i) : encode i = some w := by
  have hw := packMove_word w
  unfold decodeMove at h
  dsimp only at h
  split at h
  · rename_i hd
    simp only [Bool.and_eq_true, beq_iff_eq, Bool.not_eq_true'] at hd
    obtain ⟨⟨⟨hdst, himm⟩, hmod⟩, -⟩ := hd
    cases h
    have hsrc : w.extractLsb' 0 11 = (wordLow w).setWidth 11 := by rw [← packMove_src, hw]
    rw [hdst, himm] at hw
    show some (packMove _ _ _ 0 false (dropLow _)) = _
    rw [hsrc, dropLow_of_mod hmod, hw]
  · split at h
    · cases h
    · split at h
      · cases h
      · split at h
        · rename_i j hj
          cases h
          obtain ⟨hp, ht⟩ := port_of_ofPort hj
          rw [encode_of_port hp ht, BitVec.ofNat_toNat, BitVec.setWidth_eq, hw]
        · cases h
          exact congrArg some hw

/-- A word that decodes to an instruction is that instruction's. -/
theorem encode_of_decodeWord {w : IWord} {i : Instr} (h : decodeWord w = .ok i) : encode i = some w := by
  unfold decodeWord at h
  split at h
  · exact encode_decodeHint ‹_› h
  · exact encode_decodeMove h

/-- Settles O56: each form of word packs the fields that the decoder reads. -/
theorem encodeDecode : Obligations.EncodeDecode := by
  refine ⟨fun i h => ?_, fun w i => encode_of_decodeWord⟩
  obtain ⟨w, he, hd⟩ := decodeWord_encode h
  exact ⟨w, he, hd, decode_wordBytes hd⟩

/-- Settles O55: the decoder and the table of portable operations evaluated on the words given. -/
theorem wordsDecode : Obligations.WordsDecode := by
  unfold Obligations.WordsDecode
  decide +kernel

end Sys2Proof
end

section
/-! PROOFS. Words join their group, and groups that move nothing (O33): a word with S = 0 by what it leaves of its stream, a word that closes
a group without moves by what that group comes to on its one member. -/

namespace Sys2Proof.Machine

/-- A word with S = 0 joins the open group of its half, and the next word is fetched (R126, R135). -/
theorem State.word_joins (s : State) (w : Slot) : s.word false w = .next (s.updCtx s.curCore fun k => k.updStream s.curHalf fun m =>
    { m with pc := m.pc + 4, open_ := m.open_ ++ [w] }) := rfl

/-- A word that closes a group which obeys the scanner issues it (R136). -/
theorem State.word_issues {s : State} {w : Slot}
    (h : groupOk s.curHalf ((s.core s.curCore).segPriv s.curHalf) (s.closing w).length (parseGroup (s.closing w)) = true) :
    s.word true w = .next (s.issue s.curCore s.curHalf (parseGroup (s.closing w))
      ((s.ctx s.curCore).stream s.curHalf).start.toNat s.after) := by
  rw [State.word, if_pos rfl]
  exact if_pos h

/-- A group without moves changes nothing on the member that performs it: it joins no tag into CTLAB (R82, R263). -/
theorem State.member_moveless (s : State) (c : Nat) (h : Half) (pc next : Nat) :
    s.member c h [] pc next false [] = .done ((s.updCtx c id).updCtx c (·.joinCtl h [])) false [] := by
  have hgather : s.gatherAll c (taskOf s c) (s.ctx c).trapMuck {} 0 [] = (s, {}) := rfl
  have hin : (s.core c).inputs [] = [] := by simp [Core.inputs]
  have hctx : ((((s.ctx c).popAll s.now []).noteSync s.now []).writeAll s.now []).markSync [] = s.ctx c := by
    simp [Ctx.popAll, Ctx.noteSync, Ctx.writeAll, Ctx.markSync]
  have hret : s.returns c false = false := rfl
  have htags (k : Ctx) : transferTags k [] = [] := rfl
  simp only [State.member, Bool.false_eq_true, if_false, hgather, hin, hctx, hret, htags, trigOrder, List.filter_nil, List.append_nil,
    List.map_nil, List.any_nil, Bool.and_false, Bool.or_false, List.foldl_nil, firstCause, State.noteInputs, List.isEmpty_nil,
    Bool.not_true, Bool.false_and]
  rfl

/-- What `moveless` says, piece by piece. -/
theorem State.moveless_iff {s : State} {w : Slot} {b : Option (BitVec 24)} : s.moveless w = some b ↔ s.alone = true ∧
    groupOk s.curHalf ((s.core s.curCore).segPriv s.curHalf) (s.closing w).length (parseGroup (s.closing w)) = true ∧
    (parseGroup (s.closing w)).moves = [] ∧ (parseGroup (s.closing w)).brk = b := by
  simp [State.moveless, and_assoc]

/-- A group without moves issues: it ends, and the breakpoint that it holds is raised after it (R134, R171). -/
theorem State.issue_moveless {s : State} {p : Parse} (ha : s.alone = true) (hm : p.moves = []) :
    s.issue s.curCore s.curHalf p ((s.ctx s.curCore).stream s.curHalf).start.toNat s.after =
      p.brk.elim (s.endGroup (s.updCtx s.curCore id) []) fun pay =>
        (s.endGroup (s.updCtx s.curCore id) []).raise s.curCore s.curHalf (breakTrap pay) := by
  have hrow := (alone_iff.mp ha).1
  simp only [State.issue, rowLive_alone ha, hm, List.foldl_cons, List.foldl_nil, Along.step, bne_self_eq_false, Bool.false_eq_true,
    if_false, State.member_moveless, List.isEmpty_nil, Bool.not_true, Bool.false_or, List.map_cons, List.map_nil]
  rw [alignRow_alone (by simp [hrow])]
  cases p.brk <;> simp only [Option.elim_none, Option.elim_some, State.endGroup, State.raise]

/-- A word that closes a group without moves ends it; a breakpoint's trap is raised after the group (R134). -/
theorem State.word_of_moveless {s : State} {w : Slot} {b : Option (BitVec 24)} (h : s.moveless w = some b) :
    s.word true w = .next (b.elim (s.endGroup (s.updCtx s.curCore id) []) fun pay =>
      (s.endGroup (s.updCtx s.curCore id) []).raise s.curCore s.curHalf (breakTrap pay)) := by
  obtain ⟨ha, hok, hm, hb⟩ := State.moveless_iff.mp h
  rw [State.word_issues hok, State.issue_moveless ha hm, hb]

/-- The slot of a hint word is its KIND and payload (R131). -/
theorem slotOf_hint (w : HintW) : ∀ e ∈ ([(.limm w, 0), (.sched w, 1), (.modx w, 2), (.brk w, 3), (.nop w, 4)] : List (Instr × BitVec 3)),
    slotOf e.1 = some (w.s, .hint e.2 w.pay) := by
  simp only [List.forall_mem_cons]
  exact ⟨rfl, rfl, rfl, rfl, rfl, by simp⟩

/-- Settles O33: a word with S = 0 joins; one with S = 1 closes a group that ends, and then raises its breakpoint. -/
theorem wordsJoin : Obligations.WordsJoin := by
  refine ⟨fun i w s h => ?_, fun w s e he => ⟨fun hs => ?_, fun hs hm => ?_, fun pay hs hm => ?_⟩, fun i w s h hm => ?_⟩
  · rw [exec_of_slot h, State.word_joins]
  · rw [exec_of_slot (slotOf_hint w e he), hs, State.word_joins]
  · rw [exec_of_slot (slotOf_hint w e he), hs, State.word_of_moveless hm, Option.elim_none]
  · rw [exec_of_slot (slotOf_hint w e he), hs, State.word_of_moveless hm, Option.elim_some, breakTrap]
  · rw [exec_of_slot h, State.word_of_moveless hm, Option.elim_none]

end Sys2Proof.Machine
end

section
/-! PROOFS. Moves and their hints (O35): what a group of hints before one move reads as, and how a move adapts its source to the class of
its destination. -/

namespace Sys2Proof.Machine

/-! ## Hints (R130, R132, R133) -/

/-- LIMM words one after another: their payloads wait for their move, in order (R132). -/
theorem foldl_slot_limms (lims : List (BitVec 24)) (p : Parse) :
    ((lims.map (Slot.hint 0)).foldl Parse.slot p).lims = p.lims ++ lims ∧
    ((lims.map (Slot.hint 0)).foldl Parse.slot p).moves = p.moves := by
  induction lims generalizing p with
  | nil => simp
  | cons l lims ih =>
    obtain ⟨hl, hm⟩ := ih (p.slot (.hint 0 l))
    exact ⟨by rw [List.map_cons, List.foldl_cons, hl]; simp [Parse.slot], by rw [List.map_cons, List.foldl_cons, hm]; rfl⟩

/-- The immediate of a move takes the payloads of the LIMM words before it (R130, R132). -/
theorem parseGroup_limms (lims : List (BitVec 24)) (g : BitVec 3) (n : Bool) (dst : Port) (low : BitVec 15) :
    (parseGroup (lims.map (Slot.hint 0) ++ [.move g n dst true low])).moves.map (·.src) = [.imm (immValue lims low)] := by
  obtain ⟨hl, hm⟩ := foldl_slot_limms lims {}
  simp only [parseGroup, List.foldl_append, List.foldl_cons, List.foldl_nil]
  generalize (lims.map (Slot.hint 0)).foldl Parse.slot {} = p at hl hm
  simp only [List.nil_append] at hl hm
  simp [Parse.slot, hl, hm]

/-- A MODX before a move gives it its fields (R133). -/
theorem parseGroup_modx {pay : BitVec 24} {x : Modx} (h : modxOf pay = some x) (g : BitVec 3) (n : Bool) (dst : Port) (imm : Bool)
    (low : BitVec 15) : (parseGroup [.hint 2 pay, .move g n dst imm low]).moves.map (·.mx) = [x] := by
  simp [parseGroup, Parse.slot, h]

/-- The fields of a MODX payload (R133, Table 5). -/
theorem modxOf_fields {pay : BitVec 24} {x : Modx} (h : modxOf pay = some x) :
    x = { rmo := field pay.toNat 2 0, sat := field pay.toNat 3 3 = 1, b0 := field pay.toNat 4 4 = 1, ew := field pay.toNat 7 5 } := by
  unfold modxOf at h
  dsimp only at h
  split at h
  · exact (Option.some.inj h).symm
  · cases h

/-! ## Adaptation (R128, R129) -/

/-- Every element of a broadcast is the value, modulo its width. -/
theorem elem_broadcast {w i : Nat} (x : Nat) (hi : i < 512 / w) : elem w (broadcast w x) i = x % 2 ^ w :=
  elem_vecOf _ (Nat.mul_div_le 512 w) hi

/-- A scalar goes into a predicate by its bit 0. -/
theorem Move.toPred_scalar (m : Move) (x : SVal) : (m.toPred (.s x)).v = (scalarMod m.mod x.v).getLsbD 0 := by
  rw [BitVec.getLsbD, Nat.testBit_zero]
  rfl

/-- Settles O35: the group by what its hints leave for its move, each adaptation by its class. -/
theorem moveValues : Obligations.MoveValues := by
  refine ⟨fun lims g n dst low _ => parseGroup_limms lims g n dst low, fun pay x g n dst imm low h => ?_, fun m x i hi => ?_,
    Move.toPred_scalar, fun m x => rfl, fun x => ⟨rfl, rfl, rfl, rfl⟩⟩
  · exact ⟨parseGroup_modx h g n dst imm low, modxOf_fields h⟩
  · exact elem_broadcast _ hi

end Sys2Proof.Machine
end

section
/-! PROOFS. System registers (O26): a read and a write where nothing holds them up, who is refused, and why no group with a privileged
port issues in a segment of user privilege. -/

namespace Sys2Proof.Machine

/-! ## A write takes no step back (R178) -/

section Writes

variable {s : State}

theorem ite_keeps_wait {p : Prop} [Decidable p] {t u : State} (ht : t.wait = s.wait) (hu : u.wait = s.wait) :
    (if p then t else u).wait = s.wait := by
  split
  · exact ht
  · exact hu

theorem ite_fst_keeps_wait {β : Type} {p : Prop} [Decidable p] {r q : State × β} (hr : r.1.wait = s.wait) (hq : q.1.wait = s.wait) :
    (if p then r else q).1.wait = s.wait := by
  split
  · exact hr
  · exact hq

variable (s) (c n : Nat) (v : Dword)

@[simp] theorem State.partWrite_wait (p : Nat) : (s.partWrite p n v).wait = s.wait := by
  unfold State.partWrite
  dsimp only
  split
  case h_3 | h_10 => exact ite_keeps_wait (s.updPart_wait ..) rfl
  case h_5 => exact ite_keeps_wait rfl (s.updPart_wait ..)
  all_goals exact s.updPart_wait ..

@[simp] theorem State.bufDeclareOp_wait : (s.bufDeclareOp c n v).1.wait = s.wait := ite_fst_keeps_wait rfl rfl

@[simp] theorem State.bufMove_wait (to_ : BitVec 2) (bad : Option (BitVec 2)) : (s.bufMove c n to_ bad).1.wait = s.wait :=
  ite_fst_keeps_wait rfl rfl

@[simp] theorem State.bufWrite_wait : (s.bufWrite c n v).1.wait = s.wait := by
  unfold State.bufWrite
  split
  · exact s.bufDeclareOp_wait ..
  all_goals exact s.bufMove_wait ..

@[simp] theorem State.stkAck_wait (k : Nat) : (s.stkAck k v).wait = s.wait := ite_keeps_wait rfl rfl

/-- A write of a system register, admitted or refused, leaves the step standing. -/
@[simp] theorem State.sysWrite_wait (v : SVal) : (s.sysWrite c n v).1.wait = s.wait := by
  unfold State.sysWrite
  dsimp only
  split
  case h_14 => exact ite_fst_keeps_wait (s.partWrite_wait ..) (ite_fst_keeps_wait rfl (ite_fst_keeps_wait (s.bufWrite_wait ..)
      (ite_fst_keeps_wait (s.stkAck_wait ..) rfl)))
  all_goals rfl

end Writes

/-! ## The operations (R150, R178) -/

/-- A trigger may read or write the register that its T numbers: at a privileged port by privilege, at a plain one by the user column
of Table 6. -/
def Trig.maySys (x : Trig) (s : State) (priv write : Bool) : Prop :=
  if priv then x.privileged s = true else sysRefused (dfield x.t.v 11 0) write = false

/-- What a read of a system register leaves: the value in flight to the half's result port. -/
def Trig.sysReadDone (x : Trig) (s : State) : State :=
  let r := s.sysInput x.core (dfield x.t.v 11 0)
  r.1.updCtx x.core (·.send { due := r.1.now + 2, sw := [(x.ctlR, r.2)] })

section Operations

variable {x : Trig} {s : State} {priv write : Bool}

theorem Trig.needPriv_privileged (h : x.privileged s = true) (n : Nat) (f : Fired) : x.needPriv s n f = f := if_pos h

/-- Whoever may access a register is not refused. -/
theorem Trig.maySys.admitted (h : x.maySys s priv write) : (!priv && sysRefused (dfield x.t.v 11 0) write) = false := by
  cases priv
  · exact h
  · rfl

theorem readSysOp_done (hm : x.maySys s priv false) (ht : isMuck x.t.t = false)
    (hs : s.sysStalls x.core (dfield x.t.v 11 0) false = false) : readSysOp priv x s = .done (x.sysReadDone s) false := by
  simp only [readSysOp, hm.admitted, ht, hs, Bool.false_eq_true, if_false]
  rfl

theorem writeSysOp_done {s2 : State} (hm : x.maySys s priv true) (ht : isMuck x.t.t = false) (ha : isMuck (x.latch s 0x440).t = false)
    (hs : s.sysStalls x.core (dfield x.t.v 11 0) true = false)
    (hw : s.sysWrite x.core (dfield x.t.v 11 0) (x.latch s 0x440) = (s2, none)) : writeSysOp priv x s = .done s2 false := by
  simp only [writeSysOp, hm.admitted, anyMuck_clean ht ha, hs, hw, Bool.false_eq_true, if_false]

theorem readSysOp_refused (h : sysRefused (dfield x.t.v 11 0) false = true) :
    readSysOp false x s = .trap 1 (privilegeTrap (dfield x.t.v 11 0)) := if_pos h

theorem writeSysOp_refused (h : sysRefused (dfield x.t.v 11 0) true = true) :
    writeSysOp false x s = .trap 1 (privilegeTrap (dfield x.t.v 11 0)) := if_pos h

/-! ## The ports (R178, R183) -/

theorem fire_ctRsr (e : x.port = 0x454) : fire x s = readSysOp false x s := fire_of_port e rfl

theorem fire_acRsr (e : x.port = 0x5CD) : fire x s = readSysOp false x s := fire_of_port e rfl

theorem fire_ctWsr (e : x.port = 0x455) : fire x s = writeSysOp false x s := fire_of_port e rfl

theorem fire_ctRsrs (e : x.port = 0x457) (h : x.maySys s true false) : fire x s = readSysOp true x s :=
  (fire_of_port (f := fireCtRsrs) e rfl).trans (Trig.needPriv_privileged h ..)

theorem fire_ctWsrs (e : x.port = 0x458) (h : x.maySys s true true) : fire x s = writeSysOp true x s :=
  (fire_of_port (f := fireCtWsrs) e rfl).trans (Trig.needPriv_privileged h ..)

end Operations

/-! ## From the operations to their instructions -/

section Instructions

variable {i : Instr} {p : Nat} {priv : Bool} (hp : i.port = some p) (ht : isTransfer (p % 2048) = false)
include hp ht

/-- An instruction whose operation is a read of a system register puts the register's value into the half's result port. -/
theorem doesRow_readSys (hf : ∀ x s, x.port = p % 2048 → x.maySys s priv false → fire x s = readSysOp priv x s) :
    DoesRow i (fun x s => x.maySys s priv false ∧ isMuck x.t.t = false ∧ s.sysStalls x.core (dfield x.t.v 11 0) false = false ∧
      (s.sysInput x.core (dfield x.t.v 11 0)).1.wait = false) Trig.sysReadDone :=
  doesRow_of_fire hp ht (fun x s e ⟨hm, hc, hs, _⟩ => (hf x s e hm).trans (readSysOp_done hm hc hs)) fun _ _ ⟨_, _, _, hw⟩ _ => hw

/-- An instruction whose operation is a write of a system register writes it from `ct.a`. -/
theorem exec_writeSys (hf : ∀ x s, x.port = p % 2048 → x.maySys s priv true → fire x s = writeSysOp priv x s)
    {s s1 s2 : State} {x : Trig} {g : LTag} (hb : s.begins i = some (x, s1, g)) (hm : x.maySys s1 priv true)
    (hc : isMuck x.t.t = false) (ha : isMuck (x.latch s1 0x440).t = false)
    (hs : s1.sysStalls x.core (dfield x.t.v 11 0) true = false)
    (hw : s1.sysWrite x.core (dfield x.t.v 11 0) (x.latch s1 0x440) = (s2, none)) :
    exec i s = .next ((s.close s2 x g [] false).alignRow x.core x.half) := by
  have e := port_of_begins hb hp
  obtain ⟨-, -, -, -, hwait1⟩ := frame_of_begins hb
  have hwait : s2.wait = false := by
    have h := s1.sysWrite_wait x.core (dfield x.t.v 11 0) (x.latch s1 0x440)
    rw [hw] at h
    exact h.trans hwait1
  rw [exec_of_begins_row hb ((hf x s1 e hm).trans (writeSysOp_done hm hc ha hs hw)) hwait]
  simp [Trig.transferJoin, e, ht]

end Instructions

/-! ## Privileged ports in a segment of user privilege (R137, R150) -/

/-- A move that names a privileged port breaks a rule of the scanner in a user segment, be it a drop, which names no destination
at all, or not. -/
theorem Move.portsOk_privileged {m : Move} (h : isPrivPort m.dst = true) (half : Half) : m.portsOk half 0 = false := by
  have h0 : m.dst ≠ 0 := fun e => absurd (e ▸ h) (by decide)
  unfold Move.portsOk
  split <;> simp [h, h0]

/-- The move of the last word of a group is among the group's moves. -/
theorem exists_move_of_closing (s : State) (g : BitVec 3) (n imm : Bool) (d : Port) (low : BitVec 15) :
    ∃ m ∈ (parseGroup (s.closing (.move g n d imm low))).moves, m.dst = d.toNat := by
  simp [parseGroup, State.closing, Parse.slot]

/-- In a group that obeys the scanner, the ports of every move exist and are the segment's to use (R136, R149, R150). -/
theorem portsOk_of_groupOk {h : Half} {priv k : Nat} {p : Parse} (hok : groupOk h priv k p = true) {m : Move} (hm : m ∈ p.moves) :
    m.portsOk h priv = true := by
  simp only [groupOk, Bool.and_eq_true, List.all_eq_true] at hok
  obtain ⟨⟨⟨⟨-, hall⟩, -⟩, -⟩, -⟩ := hok
  obtain ⟨⟨hports, -⟩, -⟩ := hall m hm
  exact hports

/-- A word with S = 1 whose group breaks a rule of the scanner is refused by the name `unscanned` (log entry 46). -/
theorem State.word_unscanned {s : State} {w : Slot}
    (h : ¬ groupOk s.curHalf ((s.core s.curCore).segPriv s.curHalf) (s.closing w).length (parseGroup (s.closing w)) = true) :
    s.word true w = .refused .unscanned := by
  rw [State.word, if_pos rfl]
  exact if_neg h

/-- A word of a privileged port that closes a group in a segment of user privilege is refused: the scanner makes no such group
executable. -/
theorem exec_privileged_unscanned {i : Instr} {p : Nat} {w : TrigW} {s : State} (hp : i.port = some p) (hw : i.trigW = some w)
    (hpriv : isPrivPort (p % 2048) = true) (hs : w.s = true) (hu : (s.core s.curCore).segPriv s.curHalf = 0) :
    exec i s = .refused .unscanned := by
  have hslot : slotOf i = some (true, .move w.g w.n (BitVec.ofNat 11 p) w.imm w.low) := by simp [slotOf, hp, hw, hs]
  rw [exec_of_slot hslot]
  refine State.word_unscanned fun hok => ?_
  obtain ⟨m, hm, hd⟩ := exists_move_of_closing s w.g w.n w.imm (BitVec.ofNat 11 p) w.low
  have hports := portsOk_of_groupOk hok hm
  rw [hu, Move.portsOk_privileged (by simpa [hd] using hpriv)] at hports
  exact Bool.false_ne_true hports

/-- Settles O26: each read and write by the operation of its port, the refusals by the user column of Table 6, and the words of the
privileged ports by the scanner's rule. -/
theorem controlSystemRegisters : Obligations.ControlSystemRegisters := by
  intro w
  refine ⟨?_, ?_, ?_, ?_⟩
  · intro e he s s1 x g hb n r hm hc hs hw
    simp only [List.mem_cons, List.not_mem_nil, or_false] at he
    rcases he with rfl | rfl | rfl
    · exact doesRow_readSys (p := 0x454) (priv := false) rfl rfl (fun _ _ e _ => fire_ctRsr e) s s1 x g hb ⟨hm, hc, hs, hw⟩
    · exact doesRow_readSys (p := 0x5CD) (priv := false) rfl rfl (fun _ _ e _ => fire_acRsr e) s s1 x g hb ⟨hm, hc, hs, hw⟩
    · exact doesRow_readSys (p := 0x457) (priv := true) rfl rfl (fun _ _ => fire_ctRsrs) s s1 x g hb ⟨hm, hc, hs, hw⟩
  · intro e he s s1 x g s2 hb n hm hc ha hs hw
    simp only [List.mem_cons, List.not_mem_nil, or_false] at he
    rcases he with rfl | rfl
    · exact exec_writeSys (p := 0x455) (priv := false) rfl rfl (fun _ _ e _ => fire_ctWsr e) hb hm hc ha hs hw
    · exact exec_writeSys (p := 0x458) (priv := true) rfl rfl (fun _ _ => fire_ctWsrs) hb hm hc ha hs hw
  · intro e he
    simp only [List.mem_cons, List.not_mem_nil, or_false] at he
    rcases he with rfl | rfl | rfl
    · exact refused_of_fire (p := 0x454) rfl fun _ _ e h => ⟨1, (fire_ctRsr e).trans (readSysOp_refused h)⟩
    · exact refused_of_fire (p := 0x5CD) rfl fun _ _ e h => ⟨1, (fire_acRsr e).trans (readSysOp_refused h)⟩
    · exact refused_of_fire (p := 0x455) rfl fun _ _ e h => ⟨1, (fire_ctWsr e).trans (writeSysOp_refused h)⟩
  · intro i hi s hs hu
    simp only [List.mem_cons, List.not_mem_nil, or_false] at hi
    rcases hi with rfl | rfl
    · exact exec_privileged_unscanned (p := 0x457) rfl rfl rfl hs hu
    · exact exec_privileged_unscanned (p := 0x458) rfl rfl rfl hs hu

end Sys2Proof.Machine
end

section
/-! PROOFS. Floating operations of `al` (O4): from what the operation of a scalar port sends to what its instruction does, once for each
form of operation, and the statement from it. -/

namespace Sys2Proof.Machine

/-! ## From what an operation sends to its instruction (R153, R155) -/

/-- An instruction whose operation sends results of fixed latency. -/
theorem exec_of_result {i : Instr} {p L : Nat} {s s1 : State} {x : Trig} {g : LTag} {ws : List (Nat × Dword)} {tags : List LTag}
    {fl : FlagBits} {fp : Bool} {f : Trig → State → Fired} (hb : s.begins i = some (x, s1, g)) (hp : i.port = some p)
    (ht : isTransfer (p % 2048) = false) (hx : fire { x with port := p % 2048 } s1 = f { x with port := p % 2048 } s1)
    (hf : f x s1 = .done (x.result s1 L ws tags fl fp) false) :
    exec i s = .next (s.closeSend s1 x g { x.flight s1 L ws tags with flags := fl, fp := fp }) := by
  have e := port_of_begins hb hp
  exact exec_of_sends hb ((fire_of_port e hx).trans hf) (e ▸ ht)

section Forms

variable (op : Trig → State → Fired) {i : Instr} {p : Nat} (hp : i.port = some p) (ht : isTransfer (p % 2048) = false)
  (hx : ∀ (x : Trig) (s : State), fire { x with port := p % 2048 } s = op { x with port := p % 2048 } s)
include hp ht hx

theorem sends_of_fire {L : Nat} {ws : Trig → State → List (Nat × Dword)} {tags : Trig → State → List LTag}
    (hf : ∀ x s, op x s = .done (x.result s L (ws x s) (tags x s)) false) : Sends i L ws tags :=
  fun _ s1 x _ hb => exec_of_result hb hp ht (hx x s1) (hf x s1)

theorem alBin_of_fire {f f' : Dword → Dword → Dword} (ho : op = alBin f') (hf : ∀ a t, f' a t = f a t) : AlBin i f := by
  obtain rfl : f' = f := funext₂ hf
  exact sends_of_fire op hp ht hx fun _ _ => ho ▸ rfl

theorem alUn_of_fire {f f' : Dword → Dword} (ho : op = alUn f') (hf : ∀ t, f' t = f t) : AlUn i f := by
  obtain rfl : f' = f := funext hf
  exact sends_of_fire op hp ht hx fun _ _ => ho ▸ rfl

theorem alCmp_of_fire {f f' : Dword → Dword → Bool} (ho : op = alCmp f') (hf : ∀ a t, f' a t = f a t) : AlCmp i f := by
  obtain rfl : f' = f := funext₂ hf
  exact sends_of_fire op hp ht hx fun _ _ => ho ▸ rfl

theorem alFloat_of_fire {useB : Bool} {f : Fmt → RMode → Bool → FVal → FVal → FVal → Nat × FlagBits} (ho : op = alFloat useB f) :
    AlFloat i useB f := by
  intro s s1 x g hb
  refine exec_of_result hb hp ht (hx x s1) ?_
  subst ho
  rfl

theorem alFcmp_of_fire {quiet : Bool} {rel rel' : Option Ordering → Bool} (ho : op = alFcmp quiet rel')
    (hr : ∀ o, rel' o = rel o) : AlFcmp i quiet rel := by
  obtain rfl : rel' = rel := funext hr
  intro s s1 x g hb
  refine exec_of_result hb hp ht (hx x s1) ?_
  subst ho
  dsimp only [alFcmp]
  cases alFormat (x.latch s1 0x102).v <;> rfl

theorem mdMul_of_fire {sa st sb : Bool} {f : Dword → Dword → Dword → Int} (ho : op = mdMul sa st sb)
    (hf : ∀ a t b, f a t b = readInt sa 64 a.toNat * readInt st 64 t.toNat + readInt sb 64 b.toNat) : MdMul i f := by
  refine sends_of_fire op hp ht hx fun x s => ?_
  subst ho
  simp only [hf]
  rfl

theorem mdDiv_of_fire {sg : Bool} {w L : Nat} {f : Dword → Dword → Dword × Dword × Dword} (ho : op = mdDiv sg w L)
    (hf : ∀ a t, divide sg w (BitVec.toNat a) (BitVec.toNat t) = f a t) : MdDiv i L f := by
  obtain rfl : (fun a t => divide sg w (BitVec.toNat a) (BitVec.toNat t)) = f := funext₂ hf
  exact sends_of_fire op hp ht hx fun _ _ => ho ▸ rfl

theorem aaBin_of_fire {f f' : Dword → Dword → Dword} (ho : op = aaBin f') (hf : ∀ a t, f' a t = f a t) :
    SendsBin i 0x580 0x5BD f := by
  obtain rfl : f' = f := funext₂ hf
  exact sends_of_fire op hp ht hx fun _ _ => ho ▸ rfl

end Forms

/-! ## Floating operations (R164 to R166) -/

/-- What `al.fcls` sends. -/
theorem fireAlFcls_eq (x : Trig) (s : State) :
    let c := x.latch s 0x102
    let r : Dword × FlagBits := match alFormat c.v with
      | some f =>
        let v := fclass f (x.t.v.toNat % 2 ^ f.width)
        (BitVec.ofNat 64 v, if v = 0x100 then 1 else 0)
      | none => (0, 1)
    fireAlFcls x s = .done (x.result s 4 [(0x17D, r.1)] [x.t.t, c.t] r.2 true) false := by
  dsimp only [fireAlFcls]
  cases alFormat (x.latch s 0x102).v with
  | none => rfl
  | some f => simp [flagIf, fNV]

/-- A pair of types that is not listed, or another bit of `al.c`, gives 0 and NV (R166). -/
theorem alConvert_notOk {c : Dword} (h : ¬ cvtOk c) (rm : RMode) (ftz : Bool) (t : Dword) : alConvert rm ftz c t = (0, 1) :=
  if_pos (by simpa using h)

/-- Settles O4: the floating operations by their common form, the compares by their relation, `al.fcls` by its format. -/
theorem alFloating : Obligations.AlFloating := by
  intro w
  refine ⟨alFloat_of_fire fireAlFadd rfl rfl (fun _ _ => rfl) rfl, alFloat_of_fire fireAlFsub rfl rfl (fun _ _ => rfl) rfl,
    alFloat_of_fire fireAlFmul rfl rfl (fun _ _ => rfl) rfl, alFloat_of_fire fireAlFma rfl rfl (fun _ _ => rfl) rfl,
    alFloat_of_fire fireAlFmin rfl rfl (fun _ _ => rfl) rfl, alFloat_of_fire fireAlFmax rfl rfl (fun _ _ => rfl) rfl,
    alFcmp_of_fire fireAlFeq rfl rfl (fun _ _ => rfl) rfl fun o => beq_eq_decide ..,
    alFcmp_of_fire fireAlFlt rfl rfl (fun _ _ => rfl) rfl fun o => beq_eq_decide ..,
    alFcmp_of_fire fireAlFle rfl rfl (fun _ _ => rfl) rfl fun o => ?_,
    fun s s1 x g hb => exec_of_result hb (p := 0x12F) (f := fireAlFcls) rfl rfl rfl (fireAlFcls_eq x s1),
    fun s s1 x g hb => ⟨exec_of_result hb (p := 0x12E) (f := fireAlCvt) rfl rfl rfl rfl, fun h => alConvert_notOk h ..⟩⟩
  rw [beq_eq_decide, beq_eq_decide, ← Bool.decide_or]

end Sys2Proof.Machine
end

section
/-! PROOFS. Integer operations of `al` (O1, O2, O3): the values that the statements write in another form than the model, and the
statements from them. -/

namespace Sys2Proof.Machine

/-! ## Addition and subtraction (R29, R158) -/

theorem fits64_eq (z : Int) : (!fits64 z) = (decide (z < -2 ^ 63) || decide (2 ^ 63 ≤ z)) := by
  have hl : -((2 ^ 63 : Nat) : Int) = -2 ^ 63 := rfl
  have hu : ((2 ^ 63 : Nat) : Int) = 2 ^ 63 := rfl
  rw [fits64, hl, hu, Bool.not_and]
  simp only [← decide_not, not_le, not_lt]

/-- The signed range's clamp, in the three cases of an exact value (R30). -/
theorem ofInt_satTo_signed (z : Int) : BitVec.ofInt 64 (satTo true 64 z).1 =
    if z < -2 ^ 63 then 0x8000000000000000 else if 2 ^ 63 ≤ z then 0x7FFFFFFFFFFFFFFF else BitVec.ofInt 64 z := by
  have h : (satTo true 64 z).1 = min (max z (-2 ^ 63)) (2 ^ 63 - 1) := rfl
  rw [h]
  split
  · rw [max_eq_right (by omega), min_eq_left (by omega)]; rfl
  · split
    · rw [max_eq_left (by omega), min_eq_right (by omega)]; rfl
    · rw [max_eq_left (by omega), min_eq_left (by omega)]

theorem carryFlags_eq_add (c v : Bool) : carryFlags c v = (if c then 1 else 0) + (if v then 2 else 0) := by
  cases c <;> cases v <;> rfl

/-- What `al.add` and `al.sub` send, with overflow and clamp written as comparisons with the ends of the signed range. -/
theorem alAddSub_eq {z : Int} {r : Dword} {c : Bool} (hr : BitVec.ofInt 64 z = r) (x : Trig) (s : State) :
    let v : Bool := z < -2 ^ 63 || 2 ^ 63 ≤ z
    alAddSub z r c x s = .done (x.result s 1
      [(0x17D, if x.sat then (if z < -2 ^ 63 then 0x8000000000000000 else if 2 ^ 63 ≤ z then 0x7FFFFFFFFFFFFFFF else r) else r),
        (0x17F, (if c then 1 else 0) + (if v then 2 else 0))]
      [(x.latch s 0x100).t, x.t.t] (if x.sat && v then 0x40 else 0) x.sat) false := by
  simp only [alAddSub, fits64_eq, ofInt_satTo_signed, carryFlags_eq_add, hr]
  rfl

/-! ## Shifts, extremes and compares (R158, R159, R162) -/

theorem shiftAmount_eq (t : Dword) : shiftAmount t = t.toNat % 64 := by simp [shiftAmount, dfield, field]

/-- The lower of two words by a key, either way where the keys are equal. -/
theorem ite_le_eq_ite_lt {α : Type} [LinearOrder α] {k : Dword → α} (hk : Function.Injective k) (a t : Dword) :
    (if k a ≤ k t then a else t) = if k a < k t then a else t := by
  split
  case isTrue h =>
    split
    · rfl
    · exact hk (h.antisymm (not_lt.mp ‹_›))
  case isFalse h => rw [if_neg fun h' => h h'.le]

/-- The higher of two words by a key. -/
theorem ite_le_eq_ite_gt {α : Type} [LinearOrder α] (k : Dword → α) (a t : Dword) :
    (if k a ≤ k t then t else a) = if k t < k a then a else t := by
  by_cases h : k a ≤ k t
  · rw [if_pos h, if_neg h.not_gt]
  · rw [if_neg h, if_pos (not_le.mp h)]

theorem toInt_injective : Function.Injective (@BitVec.toInt 64) := fun _ _ => BitVec.eq_of_toInt_eq

theorem toNat_injective : Function.Injective (@BitVec.toNat 64) := fun _ _ => BitVec.eq_of_toNat_eq

theorem bne_eq_decide_ne (a t : Dword) : (a != t) = decide (a ≠ t) := by rw [bne, beq_eq_decide, ← decide_not]

/-- Settles O2, one trigger after another: the model's operations are the statement's, but for the extremes, which it tests by ≤. -/
theorem alLogicAndCompares : Obligations.AlLogicAndCompares := by
  intro w
  refine ⟨alBin_of_fire fireAlAnd rfl rfl (fun _ _ => rfl) rfl fun _ _ => rfl,
    alBin_of_fire fireAlOr rfl rfl (fun _ _ => rfl) rfl fun _ _ => rfl,
    alBin_of_fire fireAlXor rfl rfl (fun _ _ => rfl) rfl fun _ _ => rfl,
    alBin_of_fire fireAlAndn rfl rfl (fun _ _ => rfl) rfl fun _ _ => rfl,
    alBin_of_fire fireAlShl rfl rfl (fun _ _ => rfl) rfl fun a t => by rw [shiftAmount_eq],
    alBin_of_fire fireAlShr rfl rfl (fun _ _ => rfl) rfl fun a t => by rw [shiftAmount_eq],
    alBin_of_fire fireAlSar rfl rfl (fun _ _ => rfl) rfl fun a t => by rw [shiftAmount_eq],
    alBin_of_fire fireAlRol rfl rfl (fun _ _ => rfl) rfl fun a t => by rw [shiftAmount_eq],
    alBin_of_fire fireAlMin rfl rfl (fun _ _ => rfl) rfl (ite_le_eq_ite_lt toInt_injective),
    alBin_of_fire fireAlMax rfl rfl (fun _ _ => rfl) rfl (ite_le_eq_ite_gt BitVec.toInt),
    alBin_of_fire fireAlMinu rfl rfl (fun _ _ => rfl) rfl (ite_le_eq_ite_lt toNat_injective),
    alBin_of_fire fireAlMaxu rfl rfl (fun _ _ => rfl) rfl (ite_le_eq_ite_gt BitVec.toNat),
    alCmp_of_fire fireAlEq rfl rfl (fun _ _ => rfl) rfl fun a t => ?_,
    alCmp_of_fire fireAlNe rfl rfl (fun _ _ => rfl) rfl fun a t => ?_,
    alCmp_of_fire fireAlLt rfl rfl (fun _ _ => rfl) rfl fun _ _ => rfl,
    alCmp_of_fire fireAlLe rfl rfl (fun _ _ => rfl) rfl fun _ _ => rfl,
    alCmp_of_fire fireAlLtu rfl rfl (fun _ _ => rfl) rfl fun _ _ => decide_eq_decide.mpr BitVec.lt_def.symm,
    alCmp_of_fire fireAlLeu rfl rfl (fun _ _ => rfl) rfl fun _ _ => decide_eq_decide.mpr BitVec.le_def.symm,
    alCmp_of_fire fireAlTst rfl rfl (fun _ _ => rfl) rfl fun a t => ?_⟩
  · exact beq_eq_decide ..
  · exact bne_eq_decide_ne a t
  · exact bne_eq_decide_ne (a &&& t) 0

/-! ## Bit counts (R160) -/

theorem trailZeros_eq (w x : Nat) : trailZeros w x = ((List.range w).find? x.testBit).getD w := by
  induction w generalizing x with
  | zero => rfl
  | succ w ih =>
    have hshift : (x.testBit ∘ Nat.succ) = (x / 2).testBit := funext (Nat.testBit_succ x)
    rw [trailZeros, List.range_succ_eq_map, List.find?_cons, Nat.testBit_zero]
    by_cases h : x % 2 = 1
    · simp [h]
    · rw [if_neg h, decide_eq_false h, List.find?_map, hshift, ih]
      cases (List.range w).find? (x / 2).testBit <;> simp [Nat.add_comm]

theorem popCount_eq (w x : Nat) : popCount w x = (List.range w).countP x.testBit := by
  induction w generalizing x with
  | zero => rfl
  | succ w ih =>
    have hshift : (x.testBit ∘ Nat.succ) = (x / 2).testBit := funext (Nat.testBit_succ x)
    rw [popCount, List.range_succ_eq_map, List.countP_cons, List.countP_map, hshift, ← ih, Nat.testBit_zero]
    by_cases h : x % 2 = 1
    · simp [h, Nat.add_comm]
    · simp [Nat.mod_two_ne_one.mp h]

/-- The bits of a word's number are the word's. -/
theorem testBit_dword (t : Dword) : t.toNat.testBit = fun i => t.getLsbD i := rfl

theorem leadZeros_dword (t : Dword) :
    BitVec.ofNat 64 (leadZeros 64 t.toNat) = if t = 0 then 64 else BitVec.ofNat 64 (63 - t.toNat.log2) := by
  rw [leadZeros, Nat.mod_eq_of_lt t.isLt]
  by_cases h : t = 0
  · simp [h]
  · have h0 : t.toNat ≠ 0 := fun e => h (BitVec.eq_of_toNat_eq e)
    rw [if_neg h, if_neg h0]

/-! ## Byte reversal (R4, R160) -/

theorem ofBytes_eq_ofElems (l : List Byte) : ofBytes l = ofElems 8 (l.map BitVec.toNat) := by
  induction l with
  | nil => rfl
  | cons b l ih =>
    rw [ofBytes, List.map_cons, ofElems, Nat.mod_eq_of_lt b.isLt, ih]
    rfl

/-- Byte i of the number that the listed bytes form. -/
theorem extractLsb'_ofBytes {l : List Byte} {i : Nat} (hl : l.length = 8) (hi : i < l.length) :
    (BitVec.ofNat 64 (ofBytes l)).extractLsb' (8 * i) 8 = l[i] := by
  apply BitVec.eq_of_toNat_eq
  have hm : 8 * (l.map BitVec.toNat).length ≤ 64 := by simp [hl]
  rw [BitVec.extractLsb'_toNat, Nat.shiftRight_eq_div_pow, ofBytes_eq_ofElems, toNat_ofNat_ofElems hm,
    ofElems_div_mod 8 (by simpa using hi), List.getElem_map, Nat.mod_eq_of_lt l[i].isLt]

theorem bytesOf_getElem (t : Dword) {j : Nat} (hj : j < (bytesOf 8 t.toNat).length) :
    (bytesOf 8 t.toNat)[j] = t.extractLsb' (8 * j) 8 := by
  apply BitVec.eq_of_toNat_eq
  have h : (256 : Nat) ^ j = 2 ^ (8 * j) := by rw [Nat.pow_mul]
  simp [bytesOf, h, Nat.shiftRight_eq_div_pow]

theorem extractLsb'_byteReversal (t : Dword) {i : Nat} (hi : i < 8) :
    (BitVec.ofNat 64 (ofBytes (bytesOf 8 t.toNat).reverse)).extractLsb' (8 * i) 8 = t.extractLsb' (8 * (7 - i)) 8 := by
  have hl := length_bytesOf 8 t.toNat
  rw [extractLsb'_ofBytes (by simp [hl]) (by simp [hl, hi]), List.getElem_reverse, bytesOf_getElem]
  simp [hl]

/-! ## Fields (R161) -/

theorem fieldPos_eq (t : Dword) : fieldPos t = fieldAt t := shiftAmount_eq t

theorem fieldLen_eq (t : Dword) : fieldLen t = fieldSize t := by
  have h : dfield t 14 8 = t.toNat / 256 % 128 := rfl
  simp only [fieldLen, fieldSize, h, Bool.or_eq_true, decide_eq_true_eq]

theorem getLsbD_extField (a : Dword) (p l : Nat) {i : Nat} (hi : i < 64) :
    (BitVec.ofNat 64 (a.toNat / 2 ^ p % 2 ^ l)).getLsbD i = (decide (i < l) && a.getLsbD (p + i)) := by
  rw [BitVec.getLsbD_ofNat, Nat.testBit_mod_two_pow, Nat.testBit_div_two_pow, Nat.add_comm i p]
  simp [hi, BitVec.getLsbD]

theorem getLsbD_insField (a b t : Dword) {i : Nat} (hi : i < 64) : (insField a b t).getLsbD i =
    if fieldAt t ≤ i ∧ i < fieldAt t + fieldSize t then b.getLsbD (i - fieldAt t) else a.getLsbD i := by
  have hmask : (decide (fieldAt t ≤ i) && decide (i - fieldAt t < fieldSize t)) =
      decide (fieldAt t ≤ i ∧ i < fieldAt t + fieldSize t) := by
    rw [← Bool.decide_and]
    exact decide_eq_decide.mpr (by omega)
  simp only [insField, fieldPos_eq, fieldLen_eq, BitVec.getLsbD_or, BitVec.getLsbD_and, BitVec.getLsbD_not, BitVec.getLsbD_ofNat,
    Nat.testBit_mul_two_pow, Nat.testBit_two_pow_sub_one, hmask, hi, decide_true, Bool.true_and]
  by_cases h : fieldAt t ≤ i ∧ i < fieldAt t + fieldSize t
  · simp [h, BitVec.getLsbD]
  · simp [h]

theorem toSigned_eq_toInt (w x : Nat) : toSigned w x = (BitVec.ofNat w x).toInt := by
  rw [toSigned, BitVec.toInt_eq_toNat_cond, BitVec.toNat_ofNat]
  cases w with
  | zero => simp [Nat.mod_one]
  | succ w =>
    rw [Nat.add_sub_cancel, pow_succ]
    split <;> split <;> omega

/-- Sign extension of the low bits, bit by bit. -/
theorem getLsbD_ofInt_toSigned (a : Dword) (p : Nat) {i : Nat} (hi : i < 64) :
    (BitVec.ofInt 64 (toSigned (p + 1) a.toNat)).getLsbD i = a.getLsbD (min i p) := by
  rw [toSigned_eq_toInt]
  change ((BitVec.ofNat (p + 1) a.toNat).signExtend 64).getLsbD i = _
  rw [BitVec.getLsbD_signExtend, BitVec.msb_eq_getLsbD_last]
  simp only [BitVec.getLsbD_ofNat, hi, decide_true, Bool.true_and]
  split
  case isTrue h => simp [h, min_eq_left (Nat.le_of_lt_succ h), BitVec.getLsbD]
  case isFalse h => simp [min_eq_right (show p ≤ i by omega), BitVec.getLsbD]

/-- Settles O3: counts by recursion on the bits, the others bit by bit or byte by byte. -/
theorem alBitsFieldsSelect : Obligations.AlBitsFieldsSelect := by
  intro w
  refine ⟨alUn_of_fire fireAlClz rfl rfl (fun _ _ => rfl) rfl leadZeros_dword,
    alUn_of_fire fireAlCtz rfl rfl (fun _ _ => rfl) rfl fun t => by rw [trailZeros_eq, testBit_dword],
    alUn_of_fire fireAlPopc rfl rfl (fun _ _ => rfl) rfl fun t => by rw [popCount_eq, testBit_dword],
    ⟨_, alUn_of_fire fireAlBswap rfl rfl (fun _ _ => rfl) rfl fun _ => rfl, fun t _ => extractLsb'_byteReversal t⟩,
    ⟨_, alBin_of_fire fireAlExt rfl rfl (fun _ _ => rfl) rfl fun _ _ => rfl, fun a t i hi => ?_⟩,
    ⟨insField, sends_of_fire fireAlIns (p := 0x11C) rfl rfl (fun _ _ => rfl) fun _ _ => rfl,
      fun a b t _ => getLsbD_insField a b t⟩,
    ⟨_, alBin_of_fire fireAlSext rfl rfl (fun _ _ => rfl) rfl fun _ _ => rfl, fun a t i hi => ?_⟩,
    sends_of_fire fireAlSel (p := 0x116) rfl rfl (fun _ _ => rfl) fun _ _ => rfl⟩
  · rw [getLsbD_extField a _ _ hi, fieldPos_eq, fieldLen_eq]
  · rw [fieldPos_eq]
    exact getLsbD_ofInt_toSigned a _ hi

end Sys2Proof.Machine

namespace Sys2Proof

open Machine

/-- Settles O1: the exact sum or difference, taken modulo 2^64, is the sum or difference of the words. -/
theorem alAddSub : Obligations.AlAddSub := by
  intro w s s1 x g
  refine ⟨fun hb => exec_of_result (p := 0x108) (f := fireAlAdd) hb rfl rfl rfl (alAddSub_eq ?_ x s1),
    fun hb => exec_of_result (p := 0x109) (f := fireAlSub) hb rfl rfl rfl (alAddSub_eq ?_ x s1)⟩
  · rw [BitVec.ofInt_add, BitVec.ofInt_toInt, BitVec.ofInt_toInt]
  · rw [Int.sub_eq_add_neg, BitVec.ofInt_add, BitVec.ofInt_neg, BitVec.ofInt_toInt, BitVec.ofInt_toInt, ← BitVec.sub_eq_add_neg]

end Sys2Proof
end

section
/-! PROOFS. Multiply-add, divide and the arithmetic of `aa` (O5): integers read from words of their width, and division as the division
of bit vectors. -/

namespace Sys2Proof.Machine

/-! ## Multiply-add (R167) -/

theorem readInt_toInt {w : Nat} (a : BitVec w) : readInt true w a.toNat = a.toInt := by
  rw [readInt, if_pos rfl, toSigned_eq_toInt, BitVec.ofNat_toNat, BitVec.setWidth_eq]

theorem ofInt_toSigned_32 (a : Dword) : BitVec.ofInt 64 (toSigned 32 a.toNat) = (a.setWidth 32).signExtend 64 := by
  rw [toSigned_eq_toInt, BitVec.ofNat_toNat]
  rfl

/-- What `md.mulw` sends: the low halves' product and the addend, modulo 2^64. -/
theorem fireMdMulw_eq (x : Trig) (s : State) : fireMdMulw x s = .done (x.result s 2
    [(0x1BD, ((x.latch s 0x180).v.setWidth 32).signExtend 64 * (x.t.v.setWidth 32).signExtend 64 + (x.latch s 0x181).v)]
    [(x.latch s 0x180).t, (x.latch s 0x181).t, x.t.t]) false := by
  simp only [fireMdMulw, BitVec.ofInt_add, BitVec.ofInt_mul, ofInt_toSigned_32, BitVec.ofInt_toInt]

/-! ## Division (R168) -/

section Divide

variable {w : Nat}

/-- The result of a division, reduced to its width and extended to a word by its sign. -/
theorem ofInt_toSigned_wrap (z : Int) : BitVec.ofInt 64 (toSigned w (wrap w z)) = (BitVec.ofInt w z).signExtend 64 := by
  rw [toSigned_eq_toInt, show BitVec.ofNat w (wrap w z) = BitVec.ofInt w z from
    BitVec.eq_of_toNat_eq (by rw [BitVec.toNat_ofNat, BitVec.toNat_ofInt, wrap_mod, wrap])]
  rfl

theorem ofInt_tdiv (a t : BitVec w) : BitVec.ofInt w (a.toInt.tdiv t.toInt) = a.sdiv t := by
  apply BitVec.eq_of_toInt_eq
  rw [BitVec.toInt_ofInt, BitVec.toInt_sdiv]

theorem ofInt_tmod (a t : BitVec w) : BitVec.ofInt w (a.toInt.tmod t.toInt) = a.srem t := by
  rw [← BitVec.toInt_srem, BitVec.ofInt_toInt]

theorem toInt_eq_min_iff (hw : 0 < w) (a : BitVec w) : a.toInt = -((2 ^ (w - 1) : Nat) : Int) ↔ a = BitVec.intMin w := by
  have hp : 2 ^ (w - 1) < 2 ^ w := Nat.pow_lt_pow_right (by decide) (by omega)
  rw [← BitVec.toInt_inj, BitVec.toInt_intMin, Nat.mod_eq_of_lt hp]

theorem toInt_eq_neg_one_iff (hw : 0 < w) (a : BitVec w) : a.toInt = -1 ↔ a = -1 := by
  have h : (-1 : BitVec w).toInt = -1 := by
    rw [show (-1 : BitVec w) = BitVec.allOnes w from BitVec.neg_one_eq_allOnes, BitVec.toInt_allOnes, if_pos hw]
  rw [← BitVec.toInt_inj, h]

theorem toInt_eq_zero_iff (a : BitVec w) : a.toInt = 0 ↔ a = 0 := by
  rw [← BitVec.toInt_inj]
  exact BitVec.toInt_zero ▸ Iff.rfl

/-- Signed division of words of `w` bits. -/
theorem divide_signed (hw : 0 < w) (a t : BitVec w) : divide true w a.toNat t.toNat =
    if t = 0 then (-1, a.signExtend 64, 1) else if a = BitVec.intMin w ∧ t = -1 then (a.signExtend 64, 0, 2)
    else ((a.sdiv t).signExtend 64, (a.srem t).signExtend 64, 0) := by
  simp only [divide, readInt_toInt, ofInt_toSigned_wrap, ofInt_tdiv, ofInt_tmod, BitVec.ofInt_toInt, toInt_eq_zero_iff, Bool.true_and,
    Bool.and_eq_true, decide_eq_true_eq, toInt_eq_min_iff hw, toInt_eq_neg_one_iff hw]
  rfl

/-- Unsigned division of words of `w` bits. -/
theorem divide_unsigned (a t : BitVec w) : divide false w a.toNat t.toNat =
    if t = 0 then (-1, a.signExtend 64, 1) else ((a.udiv t).signExtend 64, (a.umod t).signExtend 64, 0) := by
  have hz : (t.toNat : Int) = 0 ↔ t = 0 := by
    rw [Int.natCast_eq_zero]
    exact ⟨fun h => BitVec.eq_of_toNat_eq h, fun h => h ▸ rfl⟩
  have hq : BitVec.ofNat w (a.toNat / t.toNat) = a.udiv t := by rw [← BitVec.toNat_udiv, BitVec.ofNat_toNat, BitVec.setWidth_eq]; rfl
  have hr : BitVec.ofNat w (a.toNat % t.toNat) = a.umod t := by rw [← BitVec.toNat_umod, BitVec.ofNat_toNat, BitVec.setWidth_eq]; rfl
  simp only [divide, readInt_unsigned a.isLt, readInt_unsigned t.isLt, ofInt_toSigned_wrap, ← Int.ofNat_tdiv, ← Int.ofNat_tmod,
    BitVec.ofInt_natCast, hz, hq, hr, BitVec.ofNat_toNat, BitVec.setWidth_eq, Bool.false_and, Bool.false_eq_true, if_false]
  rfl

theorem readInt_mod (sg : Bool) (w x : Nat) : readInt sg w (x % 2 ^ w) = readInt sg w x := by
  simp only [readInt, toSigned, Nat.mod_mod]

/-- Division looks at the low bits of its operands alone. -/
theorem divide_setWidth (sg : Bool) (w : Nat) (a t : Dword) :
    divide sg w a.toNat t.toNat = divide sg w (a.setWidth w).toNat (t.setWidth w).toNat := by
  simp only [divide, BitVec.toNat_setWidth, readInt_mod]

end Divide

/-- Settles O5: products and quotients as integers, read from words of their width. -/
theorem mdAaArithmetic : Obligations.MdAaArithmetic := by
  intro w
  refine ⟨mdMul_of_fire fireMdMul rfl rfl (fun _ _ => rfl) rfl fun a t b => ?_,
    mdMul_of_fire fireMdMulu rfl rfl (fun _ _ => rfl) rfl fun a t b => ?_,
    mdMul_of_fire fireMdMulsu rfl rfl (fun _ _ => rfl) rfl fun a t b => ?_,
    sends_of_fire fireMdMulw (p := 0x18D) rfl rfl (fun _ _ => rfl) fireMdMulw_eq,
    mdDiv_of_fire fireMdDiv rfl rfl (fun _ _ => rfl) rfl fun a t => ?_,
    mdDiv_of_fire fireMdDivu rfl rfl (fun _ _ => rfl) rfl fun a t => ?_,
    mdDiv_of_fire fireMdDivw rfl rfl (fun _ _ => rfl) rfl fun a t => ?_,
    mdDiv_of_fire fireMdDivuw rfl rfl (fun _ _ => rfl) rfl fun a t => ?_,
    aaBin_of_fire fireAaAdd rfl rfl (fun _ _ => rfl) rfl fun _ _ => rfl,
    aaBin_of_fire fireAaSub rfl rfl (fun _ _ => rfl) rfl fun _ _ => rfl,
    aaBin_of_fire fireAaAnd rfl rfl (fun _ _ => rfl) rfl fun _ _ => rfl,
    aaBin_of_fire fireAaOr rfl rfl (fun _ _ => rfl) rfl fun _ _ => rfl,
    aaBin_of_fire fireAaXor rfl rfl (fun _ _ => rfl) rfl fun _ _ => rfl,
    aaBin_of_fire fireAaShl rfl rfl (fun _ _ => rfl) rfl fun a t => by rw [shiftAmount_eq],
    aaBin_of_fire fireAaShr rfl rfl (fun _ _ => rfl) rfl fun a t => by rw [shiftAmount_eq],
    aaBin_of_fire fireAaEq rfl rfl (fun _ _ => rfl) rfl fun a t => ?_⟩
  · rw [readInt_toInt, readInt_toInt, readInt_toInt]
  · rw [readInt_unsigned a.isLt, readInt_unsigned t.isLt, readInt_unsigned b.isLt]
  · rw [readInt_toInt, readInt_unsigned t.isLt, readInt_toInt]
  · rw [divide_signed (by decide), BitVec.signExtend_eq, BitVec.signExtend_eq, BitVec.signExtend_eq]
    rfl
  · rw [divide_unsigned, BitVec.signExtend_eq, BitVec.signExtend_eq, BitVec.signExtend_eq]
  · rw [divide_setWidth, divide_signed (by decide)]
    rfl
  · rw [divide_setWidth, divide_unsigned]
  · simp only [boolWord, beq_iff_eq]

end Sys2Proof.Machine
end

section
/-! PROOFS. Transfers of control (O24), the weight-driven mode and the return from a trap (O28): which operation the trigger of an
instruction performs, what that makes of its instruction, and the statements from what each operation comes to on its operands. -/

namespace Sys2Proof.Machine

/-! ## The operation of an instruction -/

/-- The trigger of instruction `i` performs `op`; `tr` says whether it transfers control (R154). -/
def Performs (i : Instr) (tr : Bool) (op : Trig → State → Fired) : Prop :=
  ∃ p, i.port = some p ∧ isTransfer (p % 2048) = tr ∧ ∀ x s, x.port = p % 2048 → fire x s = op x s

theorem performs_of_port {i : Instr} {p : Nat} {tr : Bool} {op : Trig → State → Fired} (hp : i.port = some p)
    (ht : isTransfer (p % 2048) = tr)
    (hx : ∀ (x : Trig) (s : State), fire { x with port := p % 2048 } s = op { x with port := p % 2048 } s) : Performs i tr op :=
  ⟨p, hp, ht, fun x s e => fire_of_port e (hx x s)⟩

section Operation

variable {i : Instr} {tr : Bool} {op : Trig → State → Fired} {P : Trig → State → Prop}

theorem Performs.transfers (h : Performs i tr op) {f : Trig → State → Nat × List RsEntry × Nat}
    (ho : ∀ x s, P x s → op x s = .done (s.updCtx x.core fun k => k.updStream x.half fun m =>
      { m.goOn (f x s).1 (s.now + coreCycles (f x s).2.2) with stack := (f x s).2.1 }) true) : Transfers i P f := by
  obtain ⟨p, hp, -, hx⟩ := h
  exact transfers_of_fire hp fun x s e hP => (hx x s e).trans (ho x s hP)

theorem Performs.notTaken (h : Performs i tr op) (ho : ∀ x s, P x s → op x s = .done s false) : NotTaken i P := by
  obtain ⟨p, hp, -, hx⟩ := h
  exact notTaken_of_fire hp fun x s e hP => (hx x s e).trans (ho x s hP)

theorem Performs.refused (h : Performs i tr op) {t : Trig → State → Trap} (n : Nat) (ho : ∀ x s, P x s → op x s = .trap n (t x s)) :
    Refused i P t := by
  obtain ⟨p, hp, -, hx⟩ := h
  exact refused_of_fire hp fun x s e hP => ⟨n, (hx x s e).trans (ho x s hP)⟩

/-- The operation leaves the machine as it is. -/
theorem Performs.doesNothing (h : Performs i false op) (ho : ∀ x s, P x s → op x s = .done s false) : Does i P fun _ s => s := by
  obtain ⟨p, hp, ht, hx⟩ := h
  exact does_nothing_of_fire hp ht fun x s e hP => (hx x s e).trans (ho x s hP)

/-- The operation leaves `f`, which takes no step back and keeps the core's row. -/
theorem Performs.does (h : Performs i false op) {f : Trig → State → State} (ho : ∀ x s, P x s → op x s = .done (f x s) false)
    (hw : ∀ x s, P x s → (f x s).wait = s.wait) (hr : ∀ x s, P x s → (f x s).row x.core = s.row x.core) : Does i P f := by
  obtain ⟨p, hp, ht, hx⟩ := h
  exact does_of_fire hp ht (fun x s e hP => (hx x s e).trans (ho x s hP)) (fun x s hP => (hw x s hP).trans)
    fun x s hP => (hr x s hP).trans

/-- A trigger that transfers no control joins nothing for one. -/
theorem Performs.transferJoin_nil (h : Performs i false op) {s s1 : State} {x : Trig} {g : LTag} (hb : s.begins i = some (x, s1, g))
    (k : Ctx) : x.transferJoin k g = [] := by
  obtain ⟨p, hp, ht, -⟩ := h
  simp [Trig.transferJoin, port_of_begins hb hp, ht]

/-- A word whose operation leaves `s2`, whatever becomes of its row. -/
theorem Performs.exec_row (h : Performs i false op) {s s1 s2 : State} {x : Trig} {g : LTag} (hb : s.begins i = some (x, s1, g))
    (ho : op x s1 = .done s2 false) (hw : s2.wait = false) :
    exec i s = .next ((s.close s2 x g [] false).alignRow x.core x.half) := by
  have ⟨p, hp, _, hx⟩ := h
  rw [exec_of_begins_row hb ((hx x s1 (port_of_begins hb hp)).trans ho) hw, h.transferJoin_nil hb]

/-- A word whose operation leaves `s2`, where the core's row is still itself. -/
theorem Performs.exec_alone (h : Performs i tr op) {s s1 s2 : State} {x : Trig} {g : LTag} {j : Bool}
    (hb : s.begins i = some (x, s1, g)) (ho : op x s1 = .done s2 j) (hw : s2.wait = false) (hr : s2.row x.core = s1.row x.core) :
    exec i s = .next (s.close s2 x g (x.transferJoin (s1.ctx x.core) g) j) := by
  obtain ⟨p, hp, -, hx⟩ := h
  exact exec_of_begins hb ((hx x s1 (port_of_begins hb hp)).trans ho) hw (hr.trans (row_of_begins hb))

end Operation

/-! ## Transfers (R169 to R171) -/

section Transfers

variable {x : Trig} {s : State}

theorem CodeSeg.holds_iff {g : CodeSeg} {v : Dword} : g.holds v = true ↔ v.toNat % 4 = 0 ∧ g.lo ≤ v.toNat ∧ v.toNat < g.hi := by
  simp only [CodeSeg.holds, Bool.and_eq_true, decide_eq_true_eq, and_assoc]

theorem CodeSeg.holds_eq_false {g : CodeSeg} {v : Dword} (h : ¬ (v.toNat % 4 = 0 ∧ g.lo ≤ v.toNat ∧ v.toNat < g.hi)) :
    g.holds v = false :=
  eq_false_of_ne_true fun e => h (CodeSeg.holds_iff.mp e)

theorem jumpOp_mucked (h : isMuck x.t.t = true) : jumpOp x s = .done s false := if_pos h

theorem callOp_mucked (h : isMuck x.t.t = true) : callOp x s = .done s false := if_pos h

theorem retOp_mucked (h : isMuck x.t.t = true) : retOp x s = .done s false := if_pos h

section Clean

variable (hm : isMuck x.t.t = false)
include hm

theorem jumpOp_inside (h : ((s.ctx x.core).segOf x.half).holds x.t.v = true) :
    jumpOp x s = x.goto s x.t.v.toNat (leaveLoops (s.core x.core) x.t.v.toNat (x.stream s).stack) := by
  simp [jumpOp, hm, h]

theorem jumpOp_outside (h : ((s.ctx x.core).segOf x.half).holds x.t.v = false) : jumpOp x s = .trap 4 (targetFault x.t.v) := by
  simp [jumpOp, hm, h]

theorem callOp_inside (h : ((s.ctx x.core).segOf x.half).holds x.t.v = true) (hl : (x.stream s).stack.length < 16) :
    callOp x s = x.goto s x.t.v.toNat (.call (BitVec.ofNat 17 x.next) :: (x.stream s).stack) := by
  simp [callOp, hm, h, hl]

theorem callOp_outside (h : ((s.ctx x.core).segOf x.half).holds x.t.v = false) : callOp x s = .trap 4 (targetFault x.t.v) := by
  simp [callOp, hm, h]

theorem callOp_full (h : ((s.ctx x.core).segOf x.half).holds x.t.v = true) (hl : 16 ≤ (x.stream s).stack.length) :
    callOp x s = .trap 4 (rsFull (.call (BitVec.ofNat 17 x.next))) := by
  simp [callOp, hm, h, hl]

theorem retOp_some {r : BitVec 17} {l : List RsEntry} (h : topCall (x.stream s).stack = some (r, l)) :
    retOp x s = x.goto s r.toNat l := by
  simp [retOp, hm, h]

theorem retOp_none (h : topCall (x.stream s).stack = none) : retOp x s = .trap 4 rsEmpty := by
  simp [retOp, hm, h]

end Clean

theorem loopOp_mucked (h : anyMuck [x.t.t, (x.latch s x.ctlA).t] = true) : loopOp x s = .done s false := if_pos h

/-- A loop's operands are clean, and its last word lies in what is left of its segment. -/
def Trig.loopBody (x : Trig) (s : State) : Prop := anyMuck [x.t.t, (x.latch s x.ctlA).t] = false ∧
  x.next ≤ (x.latch s x.ctlA).v.toNat ∧ (x.latch s x.ctlA).v.toNat < ((s.ctx x.core).segOf x.half).hi

/-- The entry that a loop pushes. -/
def Trig.loopEntry (x : Trig) (s : State) : RsEntry := .loop (BitVec.ofNat 17 x.next)
  (BitVec.ofNat 17 ((x.latch s x.ctlA).v.toNat / 4 * 4)) (BitVec.ofNat 32 (dfield x.t.v 31 0))

/-- A loop over a body that it may have: refused where the stack is full, past the body for a count of 0, else pushed. -/
theorem loopOp_body (hb : x.loopBody s) : loopOp x s =
    if 16 ≤ (x.stream s).stack.length then .trap 4 (rsFull (x.loopEntry s))
    else if dfield x.t.v 31 0 = 0 then
      x.goto s (groupEnd (s.core x.core) maxGroup ((x.latch s x.ctlA).v.toNat / 4 * 4)) (x.stream s).stack
    else .done (s.updCtx x.core fun k => k.updStream x.half fun m =>
      { m.goOn x.next (s.now + coreCycles 1) with stack := x.loopEntry s :: (x.stream s).stack }) true := by
  obtain ⟨hm, hlo, hhi⟩ := hb
  have hin : ¬ (decide ((x.latch s x.ctlA).v.toNat < x.next) ||
      decide (((s.ctx x.core).segOf x.half).hi ≤ (x.latch s x.ctlA).v.toNat)) = true := by
    simp [hlo, hhi]
  simp only [loopOp, hm, Bool.false_eq_true, if_false, if_neg hin]
  rfl

end Transfers

/-- Settles O24: the operations of the two halves' ports are the same four, each said on its operands. -/
theorem controlTransfers : Obligations.ControlTransfers := by
  intro w e he
  obtain ⟨jmp, call, ret, loop⟩ := e
  have hops : Performs jmp true jumpOp ∧ Performs call true callOp ∧ Performs ret true retOp ∧ Performs loop true loopOp := by
    simp only [List.mem_cons, List.not_mem_nil, or_false, Prod.mk.injEq] at he
    rcases he with ⟨rfl, rfl, rfl, rfl⟩ | ⟨rfl, rfl, rfl, rfl⟩
    · exact ⟨performs_of_port (p := 0x448) rfl rfl fun _ _ => rfl, performs_of_port (p := 0x449) rfl rfl fun _ _ => rfl,
        performs_of_port (p := 0x44A) rfl rfl fun _ _ => rfl, performs_of_port (p := 0x44B) rfl rfl fun _ _ => rfl⟩
    · exact ⟨performs_of_port (p := 0x5C8) rfl rfl fun _ _ => rfl, performs_of_port (p := 0x5C9) rfl rfl fun _ _ => rfl,
        performs_of_port (p := 0x5CA) rfl rfl fun _ _ => rfl, performs_of_port (p := 0x5CB) rfl rfl fun _ _ => rfl⟩
  obtain ⟨hjmp, hcall, hret, hloop⟩ := hops
  refine ⟨hjmp.transfers ?_, hcall.transfers ?_, hret.transfers ?_, hloop.transfers ?_, hloop.transfers ?_, ?_,
    hloop.notTaken fun _ _ h => loopOp_mucked h, ?_, hcall.refused 4 ?_, hret.refused 4 ?_, hloop.refused 4 ?_⟩
  · rintro x s ⟨hm, hin⟩
    exact jumpOp_inside hm (CodeSeg.holds_iff.mpr hin)
  · rintro x s ⟨hm, hin, hl⟩
    exact callOp_inside hm (CodeSeg.holds_iff.mpr hin) hl
  · rintro x s ⟨hm, hs⟩
    obtain ⟨r, hr⟩ := Option.isSome_iff_exists.mp hs
    simp only [hr, Option.getD_some]
    exact retOp_some hm hr
  · rintro x s ⟨hb, hn, hl⟩
    rw [loopOp_body hb, if_neg (not_le.mpr hl), if_neg hn]
    rfl
  · rintro x s ⟨hb, hn, hl⟩
    rw [loopOp_body hb, if_neg (not_le.mpr hl), if_pos hn]
    rfl
  · intro i hi
    simp only [List.mem_cons, List.not_mem_nil, or_false] at hi
    rcases hi with rfl | rfl | rfl
    · exact hjmp.notTaken fun _ _ h => jumpOp_mucked h
    · exact hcall.notTaken fun _ _ h => callOp_mucked h
    · exact hret.notTaken fun _ _ h => retOp_mucked h
  · intro i hi
    simp only [List.mem_cons, List.not_mem_nil, or_false] at hi
    rcases hi with rfl | rfl
    · exact hjmp.refused 4 fun _ _ ⟨hm, hin⟩ => jumpOp_outside hm (CodeSeg.holds_eq_false hin)
    · exact hcall.refused 4 fun _ _ ⟨hm, hin⟩ => callOp_outside hm (CodeSeg.holds_eq_false hin)
  · rintro x s ⟨hm, hin, hl⟩
    exact callOp_full hm (CodeSeg.holds_iff.mpr hin) hl
  · rintro x s ⟨hm, hs⟩
    exact retOp_none hm hs
  · rintro x s ⟨hb, hl⟩
    rw [loopOp_body hb, if_pos hl]
    rfl

/-! ## The weight-driven mode (R240) -/

section Wdrive

variable {x : Trig} {s : State} (hm : isMuck x.t.t = false) (hf : (taskOf s x.core).follow = false)
include hm hf

theorem fireCtWdrive_starts (ha : x.t.v.toNat % 64 = 0) (hd : s.drained x.core) :
    fireCtWdrive x s = .done (s.newId.2.updCtx x.core fun k =>
      { k.await [0x4BD] s.nextId with wd := some { block := x.t.v.toNat, token := s.nextId } }) false := by
  simp [fireCtWdrive, hm, hf, ha, hd]
  rfl

theorem fireCtWdrive_misaligned (ha : x.t.v.toNat % 64 ≠ 0) :
    fireCtWdrive x s = .done (s.updCtx x.core (·.send { due := s.now + 2, sw := [(0x4BD, { v := 3 <<< 32 })] })) false := by
  simp [fireCtWdrive, hm, hf, ha]
  rfl

end Wdrive

/-! ## The return from a trap (R182) -/

theorem fireCtEret_privileged {x : Trig} {s : State} (hp : x.privileged s) (hm : isMuck x.t.t = false) :
    fireCtEret x s = .done (s.updCore x.core (·.leaveTrap s.now)) true := by
  rw [fireCtEret, Trig.needPriv_privileged hp, hm]
  rfl

/-- Returning from a trap leaves the core its task, and with it its row. -/
theorem State.row_leaveTrap (s : State) (c now : Nat) : (s.updCore c (·.leaveTrap now)).row c = s.row c :=
  State.row_congr (by rw [State.core_updCore_self]; rfl)

/-- Settles O28: `ct.wdrive` by its address, `ct.eret` by the privilege that it needs, of which a user segment gives none. -/
theorem controlModes : Obligations.ControlModes := by
  intro w
  have hwd : Performs (.ctWdrive w) false fireCtWdrive := performs_of_port (p := 0x453) rfl rfl fun _ _ => rfl
  have heret : Performs (.ctEret w) true fireCtEret := performs_of_port (p := 0x456) rfl rfl fun _ _ => rfl
  refine ⟨hwd.does ?_ (fun _ _ _ => rfl) fun _ _ _ => State.row_updCtx .., hwd.does ?_ (fun _ _ _ => rfl) fun _ _ _ => State.row_updCtx ..,
    ?_, fun s hs hu => exec_privileged_unscanned (p := 0x456) rfl rfl rfl hs hu⟩
  · rintro x s ⟨hm, hf, ha, hd⟩
    exact fireCtWdrive_starts hm hf ha hd
  · rintro x s ⟨hm, hf, ha⟩
    exact fireCtWdrive_misaligned hm hf ha
  · intro s s1 x g hb hp hm
    obtain ⟨-, -, -, -, hw⟩ := frame_of_begins hb
    exact heret.exec_alone hb (fireCtEret_privileged hp hm) hw (State.row_leaveTrap ..)

end Sys2Proof.Machine
end

section
/-! PROOFS. Loads (O29), stores (O30) and streams (O31): the operand checks that the three share, what each operation comes to on its
operands, and the statements from them. -/

namespace Sys2Proof.Machine

/-! ## Operands (R154, R185, R190) -/

theorem not_mem_distinct {t : Tag} {l : List Tag} (h : t ∉ l) : t ∉ distinct l := by
  induction l with
  | nil => exact h
  | cons u l ih =>
    rw [List.mem_cons, not_or] at h
    obtain ⟨hu, hl⟩ := h
    rw [distinct]
    split
    · exact ih hl
    · exact fun hm => (List.mem_cons.mp hm).elim hu (ih hl)

/-- A join is mucked where one of what it joins is (R8, R255). -/
theorem isMuck_joinTags (ls : List LTag) : isMuck (joinTags ls) = anyMuck ls := by
  have hany : ls.flatten.contains mucked = anyMuck ls := by
    rw [anyMuck, List.contains_eq_any_beq, List.any_flatten]
    exact congrArg ls.any (funext fun l => List.contains_eq_any_beq.symm)
  rw [joinTags, normTags, hany]
  cases h : anyMuck ls
  · have hn : mucked ∉ ls.flatten := by simpa [h] using hany
    have hd := not_mem_distinct (fun hm => hn (List.mem_of_mem_filter hm) : mucked ∉ ls.flatten.filter (· != 0))
    simpa [isMuck] using hd
  · rfl

/-- A bad field of `ag.q`: SZ 7, or a reserved bit set. -/
theorem qBad_iff (q : Dword) : qBad q = true ↔ dfield q 6 4 = 7 ∨ dfield q 3 2 ≠ 0 ∨ dfield q 63 8 ≠ 0 := by
  simp [qBad, or_assoc]

theorem qBad_eq_false_iff (q : Dword) : qBad q = false ↔ dfield q 6 4 ≠ 7 ∧ dfield q 3 2 = 0 ∧ dfield q 63 8 = 0 := by
  simp [qBad, and_assoc]

section Operands

variable {x : Trig} {s : State} {strong : Bool}

/-- The address or control of an access is mucked: `ag.c` counts where it names a scope. -/
def Trig.agMuck (x : Trig) (s : State) (strong : Bool) : Bool :=
  anyMuck ([x.t.t, (x.latch s 0x500).t, (x.latch s 0x503).t] ++ if strong then [(x.latch s 0x502).t] else [])

theorem Trig.agMuck_eq (x : Trig) (s : State) (strong : Bool) :
    anyMuck ([(x.ag s).atag, (x.ag s).q.t] ++ if strong then [(x.ag s).c.t] else []) = x.agMuck s strong := by
  have h := isMuck_joinTags [(x.latch s 0x500).t, x.t.t]
  simp only [Trig.agMuck, Trig.ag, anyMuck, List.any_append, List.any_cons, List.any_nil, Bool.or_false] at h ⊢
  rw [h, Bool.or_comm (isMuck (x.latch s 0x500).t), Bool.or_assoc (isMuck x.t.t)]

/-- The scope of an access: that which `ag.c` names, or none where the access is not strong. -/
theorem Trig.strongScope_ok {sc : Option Scope} {c : SVal}
    (h : if strong then s.scopeOf x.core (taskOf s x.core) c.v = sc ∧ sc.isSome else sc = none) :
    x.strongScope s strong c = .ok sc := by
  cases strong with
  | false => exact congrArg Except.ok h.symm
  | true =>
    obtain ⟨he, hs⟩ := h
    obtain ⟨v, rfl⟩ := Option.isSome_iff_exists.mp hs
    simp [Trig.strongScope, he]

/-! ## Loads (R186) -/

theorem agLoad_admitted {s2 : State} {ps : List APart} {sc : Option Scope} (hm : x.agMuck s strong = false)
    (hq : qBad (x.latch s 0x503).v = false) (hsc : x.strongScope s strong (x.latch s 0x502) = .ok sc)
    (hc : s.checkAccess x.core (taskOf s x.core) .read ((x.latch s 0x500).v + x.t.v) (qSize (x.latch s 0x503).v) = (s2, .ok ps))
    (hr : (s.ctx x.core).loadRoom s2.now (qNum (x.latch s 0x503).v) = true) (hs : s2.strongHeld x.core sc ps = false)
    (hg : s2.goneBefore x.core sc false ps = false) :
    agLoad strong x s = .done (s2.pushLoad x.core (taskOf s x.core) (qNum (x.latch s 0x503).v) (qSize (x.latch s 0x503).v)
      (qSigned (x.latch s 0x503).v) ((x.latch s 0x500).v + x.t.v) (joinTags [(x.latch s 0x500).t, x.t.t]) sc ps) false := by
  simp only [agLoad, x.agMuck_eq, hm, Bool.false_eq_true, if_false]
  simp only [Trig.ag, hq, hsc, hc, hr, hs, hg, Bool.false_eq_true, if_false, Bool.not_true, Bool.or_false]

theorem agLoad_mucked (hm : x.agMuck s strong = true) (hq : isMuck (x.latch s 0x503).t = true → qBad (x.latch s 0x503).v = false)
    (hr : (s.ctx x.core).loadRoom s.now (qNum (x.latch s 0x503).v) = true) :
    agLoad strong x s = .done (s.pushMucked x.core (qNum (x.latch s 0x503).v) (qSize (x.latch s 0x503).v)) false := by
  have hb : (isMuck (x.latch s 0x503).t && qBad (x.latch s 0x503).v) = false := Bool.and_eq_false_imp.mpr hq
  simp only [agLoad, x.agMuck_eq, hm, if_true]
  simp only [Trig.ag, hb, hr, Bool.false_eq_true, if_false, Bool.not_true]

/-- Where `ag.q` is mucked, the access is. -/
theorem Trig.agMuck_of_q (h : isMuck (x.latch s 0x503).t = true) : x.agMuck s strong = true := by
  simp [Trig.agMuck, anyMuck, h]

theorem agLoad_muckedBad (hm : isMuck (x.latch s 0x503).t = true) (hq : qBad (x.latch s 0x503).v = true) :
    agLoad strong x s = .done s false := by
  simp only [agLoad, x.agMuck_eq, Trig.agMuck_of_q hm, if_true]
  simp only [Trig.ag, hm, hq, Bool.and_true, if_true]

theorem agLoad_bad (hm : x.agMuck s strong = false) (hq : qBad (x.latch s 0x503).v = true) :
    agLoad strong x s = .trap 4 (refused 1 (x.latch s 0x503).v) := by
  simp only [agLoad, x.agMuck_eq, hm, Bool.false_eq_true, if_false]
  simp only [Trig.ag, hq, if_true]

end Operands

/-- Settles O29: plain and strong loads are one operation, said on admitted, mucked and badly sized operands. -/
theorem agLoads : Obligations.AgLoads := by
  intro w e he
  obtain ⟨i, strong⟩ := e
  have hi : Performs i false (agLoad strong) := by
    simp only [List.mem_cons, List.not_mem_nil, or_false, Prod.mk.injEq] at he
    rcases he with ⟨rfl, rfl⟩ | ⟨rfl, rfl⟩
    · exact performs_of_port (p := 0x508) rfl rfl fun _ _ => rfl
    · exact performs_of_port (p := 0x509) rfl rfl fun _ _ => rfl
  refine ⟨?_, hi.does ?_ (fun _ _ _ => rfl) fun _ _ _ => State.row_updCtx .., hi.doesNothing ?_, hi.refused 4 ?_⟩
  · intro s s1 x g sc ps hb q a ea r hm h7 h3 h63 hsc hps hroom hheld hgone s2 hw
    exact hi.exec_row hb (agLoad_admitted hm ((qBad_eq_false_iff _).mpr ⟨h7, h3, h63⟩) (Trig.strongScope_ok hsc) (Prod.ext rfl hps)
      hroom hheld hgone) hw
  · rintro x s ⟨hm, hq, hroom⟩
    exact agLoad_mucked hm (fun h => (qBad_eq_false_iff _).mpr (hq h)) hroom
  · rintro x s ⟨hm, hq⟩
    exact agLoad_muckedBad hm ((qBad_iff _).mpr hq)
  · rintro x s ⟨hm, hq⟩
    exact agLoad_bad hm ((qBad_iff _).mpr hq)

/-! ## Stores (R187) -/

section Stores

variable {x : Trig} {s : State} {fromQ strong : Bool}

/-- The data of a store: the head of its queue, or `ag.b`. -/
def Trig.agData (x : Trig) (s : State) (fromQ : Bool) : Option QEntry :=
  if fromQ then (s.ctx x.core).storeHead s.now (qNum (x.latch s 0x503).v)
  else some { v := (x.latch s 0x501).v.setWidth 512, t := (x.latch s 0x501).t }

/-- What a store takes from its queue, `s0` being where it reads `ag.q`. -/
def Trig.agTook (x : Trig) (s0 s : State) (fromQ : Bool) : State :=
  if fromQ then s.updCtx x.core (·.popSq s.now (qNum (x.latch s0 0x503).v)) else s

theorem agStore_admitted {s2 s3 : State} {ps : List APart} {sc : Option Scope} {d : QEntry} (hm : x.agMuck s strong = false)
    (hq : qBad (x.latch s 0x503).v = false) (hsc : x.strongScope s strong (x.latch s 0x502) = .ok sc)
    (hc : s.checkAccess x.core (taskOf s x.core) .write ((x.latch s 0x500).v + x.t.v) (qSize (x.latch s 0x503).v) = (s2, .ok ps))
    (hd : x.agData s fromQ = some d) (hs : s2.strongHeld x.core sc ps = false) (hf : s2.fenceHeld x.core ps = false)
    (hg : s2.goneBefore x.core sc true ps = false)
    (hp : s2.performStore x.core (taskOf s x.core) ((x.latch s 0x500).v + x.t.v) (entryBytes d (qSize (x.latch s 0x503).v))
      (joinTags [d.t, joinTags [(x.latch s 0x500).t, x.t.t]]) sc ps = (s3, none)) :
    agStore fromQ strong x s = .done (x.agTook s s3 fromQ) false := by
  simp only [agStore, x.agMuck_eq, hm, Bool.false_eq_true, if_false]
  simp only [Trig.ag, hq, hsc, hc, Bool.false_eq_true, if_false]
  change (match x.agData s fromQ with | none => _ | some e => _) = _
  simp only [hd, hs, hf, hg, hp, Bool.false_eq_true, if_false, Bool.or_false]
  rfl

theorem agStore_mucked (hm : x.agMuck s strong = true) (hq : isMuck (x.latch s 0x503).t = true → qBad (x.latch s 0x503).v = false)
    (hd : (x.agData s fromQ).isSome) : agStore fromQ strong x s = .done (x.agTook s s fromQ) false := by
  have hn : (x.agData s fromQ).isNone = false := by rw [← Option.not_isSome, hd]; rfl
  simp only [agStore, x.agMuck_eq, hm, if_true]
  refine (if_neg (ne_true_of_eq_false (Bool.and_eq_false_imp.mpr hq))).trans ?_
  exact if_neg (ne_true_of_eq_false hn)

theorem agStore_muckedBad (hm : isMuck (x.latch s 0x503).t = true) (hq : qBad (x.latch s 0x503).v = true) :
    agStore fromQ strong x s = .done s false := by
  simp only [agStore, x.agMuck_eq, Trig.agMuck_of_q hm, if_true]
  simp only [Trig.ag, hm, hq, Bool.and_true, if_true]

theorem agStore_bad (hm : x.agMuck s strong = false) (hq : qBad (x.latch s 0x503).v = true) :
    agStore fromQ strong x s = .trap 4 (refused 1 (x.latch s 0x503).v) := by
  simp only [agStore, x.agMuck_eq, hm, Bool.false_eq_true, if_false]
  simp only [Trig.ag, hq, if_true]

theorem Trig.agTook_wait (x : Trig) (s0 s : State) (fromQ : Bool) : (x.agTook s0 s fromQ).wait = s.wait := by
  cases fromQ <;> rfl

theorem Trig.agTook_row (x : Trig) (s0 s : State) (fromQ : Bool) (c : Nat) : (x.agTook s0 s fromQ).row c = s.row c := by
  unfold Trig.agTook
  split
  · exact State.row_updCtx ..
  · rfl

end Stores

/-- Settles O30: the four stores are one operation, said on admitted, mucked and badly sized operands. -/
theorem agStores : Obligations.AgStores := by
  intro w e he
  obtain ⟨i, fromQ, strong⟩ := e
  have hi : Performs i false (agStore fromQ strong) := by
    simp only [List.mem_cons, List.not_mem_nil, or_false, Prod.mk.injEq] at he
    rcases he with ⟨rfl, rfl, rfl⟩ | ⟨rfl, rfl, rfl⟩ | ⟨rfl, rfl, rfl⟩ | ⟨rfl, rfl, rfl⟩
    · exact performs_of_port (p := 0x50A) rfl rfl fun _ _ => rfl
    · exact performs_of_port (p := 0x50B) rfl rfl fun _ _ => rfl
    · exact performs_of_port (p := 0x50C) rfl rfl fun _ _ => rfl
    · exact performs_of_port (p := 0x50D) rfl rfl fun _ _ => rfl
  refine ⟨?_, hi.does ?_ (fun x s _ => x.agTook_wait s s fromQ) fun x s _ => x.agTook_row s s fromQ _, hi.doesNothing ?_,
    hi.refused 4 ?_⟩
  · intro s s1 x g sc ps d s2 hb q a ea r hm h7 h3 h63 hsc hps hd hheld hfence hgone hw hperf
    exact hi.exec_row hb (agStore_admitted hm ((qBad_eq_false_iff _).mpr ⟨h7, h3, h63⟩) (Trig.strongScope_ok hsc) (Prod.ext rfl hps)
      hd hheld hfence hgone hperf) ((x.agTook_wait ..).trans hw)
  · rintro x s ⟨hm, hq, hd⟩
    exact agStore_mucked hm (fun h => (qBad_eq_false_iff _).mpr (hq h)) hd
  · rintro x s ⟨hm, hq⟩
    exact agStore_muckedBad hm ((qBad_iff _).mpr hq)
  · rintro x s ⟨hm, hq⟩
    exact agStore_bad hm ((qBad_iff _).mpr hq)

/-! ## Streams (R188) -/

section Streams

variable {x : Trig} {s : State} {write : Bool}

/-- The tag that every element of a stream takes. -/
def Trig.streamTag (x : Trig) (s : State) : LTag := joinTags [(x.latch s 0x500).t, (x.latch s 0x501).t, x.t.t]

/-- An operand of a stream is mucked. -/
def Trig.streamMuck (x : Trig) (s : State) : Bool := anyMuck [x.streamTag s, (x.latch s 0x503).t]

/-- A stream's operation, in these words. -/
theorem agStream_eq (write : Bool) (x : Trig) (s : State) : agStream write x s =
    if isMuck (x.latch s 0x503).t && qBad (x.latch s 0x503).v then .done s false
    else if !x.streamMuck s && qBad (x.latch s 0x503).v then .trap 4 (refused 1 (x.latch s 0x503).v)
    else if (s.ctx x.core).streaming write (qNum (x.latch s 0x503).v) then .stall
    else if dfield x.t.v 31 0 = 0 then .done s false
    else .done (s.updCtx x.core fun k => { k with streams := k.streams ++ [{
      write := write, q := qNum (x.latch s 0x503).v, size := qSize (x.latch s 0x503).v, signed := qSigned (x.latch s 0x503).v,
      base := (x.latch s 0x500).v, stride := (x.latch s 0x501).v, left := dfield x.t.v 31 0, atag := x.streamTag s,
      muck := x.streamMuck s }] }) false := rfl

theorem Trig.streamMuck_of_q (h : isMuck (x.latch s 0x503).t = true) : x.streamMuck s = true := by
  simp [Trig.streamMuck, anyMuck, h]

theorem agStream_muckedBad (hm : isMuck (x.latch s 0x503).t = true) (hq : qBad (x.latch s 0x503).v = true) :
    agStream write x s = .done s false := by
  rw [agStream_eq, hm, hq]
  rfl

theorem agStream_bad (hm : x.streamMuck s = false) (hq : qBad (x.latch s 0x503).v = true) :
    agStream write x s = .trap 4 (refused 1 (x.latch s 0x503).v) := by
  have hc : isMuck (x.latch s 0x503).t = false := eq_false_of_ne_true fun h => ne_true_of_eq_false hm (Trig.streamMuck_of_q h)
  rw [agStream_eq, hc, hm, hq]
  rfl

/-- The control of a stream may be used: its fields are good, or a mucked operand leaves them without effect. -/
def Trig.streamOk (x : Trig) (s : State) : Prop :=
  qBad (x.latch s 0x503).v = false ∨ (x.streamMuck s = true ∧ isMuck (x.latch s 0x503).t = false)

/-- On a queue without an unfinished stream a stream is captured, or does nothing for a count of 0. -/
theorem agStream_ok (hq : x.streamOk s) (hs : (s.ctx x.core).streaming write (qNum (x.latch s 0x503).v) = false) :
    agStream write x s = if dfield x.t.v 31 0 = 0 then .done s false
      else .done (s.updCtx x.core fun k => { k with streams := k.streams ++ [{
        write := write, q := qNum (x.latch s 0x503).v, size := qSize (x.latch s 0x503).v, signed := qSigned (x.latch s 0x503).v,
        base := (x.latch s 0x500).v, stride := (x.latch s 0x501).v, left := dfield x.t.v 31 0, atag := x.streamTag s,
        muck := x.streamMuck s }] }) false := by
  have h : (isMuck (x.latch s 0x503).t && qBad (x.latch s 0x503).v) = false ∧
      (!x.streamMuck s && qBad (x.latch s 0x503).v) = false := by
    rcases hq with hq | ⟨hm, hc⟩
    · simp [hq]
    · simp [hm, hc]
  obtain ⟨hundone, hrefused⟩ := h
  simp only [agStream_eq, hundone, hrefused, hs, Bool.false_eq_true, if_false]

end Streams

/-- Settles O31: both streams are one operation; the prefetch is none. -/
theorem agStreams : Obligations.AgStreams := by
  intro w
  have hpf : Performs (.agPf w) false fireAgPf := performs_of_port (p := 0x510) rfl rfl fun _ _ => rfl
  refine ⟨fun e he => ?_, hpf.doesNothing fun _ _ _ => rfl⟩
  obtain ⟨i, write⟩ := e
  have hi : Performs i false (agStream write) := by
    simp only [List.mem_cons, List.not_mem_nil, or_false, Prod.mk.injEq] at he
    rcases he with ⟨rfl, rfl⟩ | ⟨rfl, rfl⟩
    · exact performs_of_port (p := 0x50E) rfl rfl fun _ _ => rfl
    · exact performs_of_port (p := 0x50F) rfl rfl fun _ _ => rfl
  have hbad {q : Dword} (h : ¬ (dfield q 6 4 ≠ 7 ∧ dfield q 3 2 = 0 ∧ dfield q 63 8 = 0)) : qBad q = true :=
    eq_true_of_ne_false fun e => h ((qBad_eq_false_iff q).mp e)
  refine ⟨hi.doesNothing ?_, hi.refused 4 ?_, hi.doesNothing ?_, hi.does ?_ (fun _ _ _ => rfl) fun _ _ _ => State.row_updCtx ..⟩
  · rintro x s ⟨hm, hq⟩
    exact agStream_muckedBad hm (hbad hq)
  · rintro x s ⟨hm, hq⟩
    exact agStream_bad (eq_false_of_ne_true hm) (hbad hq)
  · rintro x s ⟨hq, hs, hn⟩
    rw [agStream_ok (hq.imp_left (qBad_eq_false_iff _).mpr) hs, if_pos hn]
  · rintro x s ⟨hq, hs, hn⟩
    rw [agStream_ok (hq.imp_left (qBad_eq_false_iff _).mpr) hs, if_neg hn]
    rfl

end Sys2Proof.Machine
end

section
/-! PROOFS. Atomics issue, or are refused (O32). -/

namespace Sys2Proof.Machine

/-- Taking a write vector changes the dies alone. -/
theorem State.stamp_frame (s : State) (c : Nat) (l : Loc) : (s.stamp c l).1 = { s with dies := (s.stamp c l).1.dies } := by
  unfold State.stamp
  dsimp only
  split <;> rfl

@[simp] theorem State.stamp_now (s : State) (c : Nat) (l : Loc) : (s.stamp c l).1.now = s.now := by rw [State.stamp_frame]

@[simp] theorem State.stamp_wait (s : State) (c : Nat) (l : Loc) : (s.stamp c l).1.wait = s.wait := by rw [State.stamp_frame]

@[simp] theorem State.stamp_cores (s : State) (c : Nat) (l : Loc) : (s.stamp c l).1.cores = s.cores := by rw [State.stamp_frame]

@[simp] theorem State.stamp_reqs (s : State) (c : Nat) (l : Loc) : (s.stamp c l).1.reqs = s.reqs := by rw [State.stamp_frame]

@[simp] theorem State.stamp_bsums (s : State) (c : Nat) (l : Loc) : (s.stamp c l).1.bsums = s.bsums := by rw [State.stamp_frame]

/-- The control of an atomic is one that its operation takes (R191, R192). -/
def atOk (types : List Nat) (c : Dword) : Prop := dfield c 7 5 = 0 ∧ dfield c 15 12 = 0 ∧ dfield c 63 48 = 0 ∧ dfield c 3 0 ∈ types

/-- The types of the bitwise operations and the exchanges are the four integer types (R192). -/
theorem mem_intTypes (n : Nat) : n ∈ [tI32, tU32, tI64, tU64] ↔ n ∈ [0, 1, 2, 3] := List.Perm.mem_iff (by decide)

section Atomics

variable {op : AtOp} {types : List Nat} {x : Trig} {s : State}

theorem atRefused_iff (ht : ∀ n, n ∈ atTypes op ↔ n ∈ types) (c : Dword) :
    (atReserved c || !(atTypes op).contains (dfield c 3 0)) = true ↔ ¬ atOk types c := by
  simp [atReserved, atOk, ht]
  tauto

theorem atWidth_eq (ty : Nat) : atWidth ty = if ty = 1 ∨ ty = 3 then 8 else 4 := by
  simp only [atWidth, Bool.or_eq_true, decide_eq_true_eq]
  rfl

theorem atOp_mucked (h : anyMuck [(x.latch s 0x5E0).t, (x.latch s 0x5E2).t] = true) : atOp op x s = x.undone s [0x5FD] := if_pos h

variable (ht : ∀ n, n ∈ atTypes op ↔ n ∈ types) (hm : anyMuck [(x.latch s 0x5E0).t, (x.latch s 0x5E2).t] = false)
include ht hm

theorem atOp_refused (h : ¬ atOk types (x.latch s 0x5E2).v) : atOp op x s = .trap 4 (permissionFault rAtomic (x.latch s 0x5E0).v) := by
  simp only [atOp, hm, (atRefused_iff ht _).mpr h, Bool.false_eq_true, if_false, if_true]

/-- The request of an atomic of type `ty` to place `l`, whose scope is `sc`, issued in `s1`. -/
def Trig.atReq (x : Trig) (op : AtOp) (s s1 : State) (sc : Scope) (l : Loc) (key : Nat) : Req :=
  let a := x.latch s 0x5E0
  let c := (x.latch s 0x5E2).v
  { core := x.core, id := s1.nextId, loc := l, vec := (s1.newId.2.stamp x.core l).2, len := atWidth (dfield c 3 0), addr := a.v
    key := key, part := (taskOf s x.core).part, began := s1.now
    kind := .atomic op (dfield c 3 0) x.t.v (if op = .amaxr then [] else x.t.t) (x.latch s 0x5E1).v a.t
    strong := if dfield c 4 4 = 1 then some sc else none }

theorem atOp_issues {s1 : State} {sc : Scope} {l : Loc} {key : Nat} (hok : atOk types (x.latch s 0x5E2).v)
    (hsc : s.scopeOf x.core (taskOf s x.core) (atScope (x.latch s 0x5E2).v) = some sc)
    (hl : s.locate x.core (taskOf s x.core) .atomic (x.latch s 0x5E0).v = (s1, .ok (l, key)))
    (ha : (x.latch s 0x5E0).v.toNat % atWidth (dfield (x.latch s 0x5E2).v 3 0) = 0) (hd : (taskOf s x.core).duplex = false) :
    atOp op x s = .done (({ (s1.newId.2.stamp x.core l).1 with reqs := s1.reqs ++ [x.atReq op s s1 sc l key] } : State).updCtx x.core
      fun k => { k.await [0x5FD] s1.nextId with atoms := k.atoms ++ [s1.nextId] }) false := by
  have hr : (atReserved (x.latch s 0x5E2).v || !(atTypes op).contains (dfield (x.latch s 0x5E2).v 3 0)) = false :=
    eq_false_of_ne_true fun h => (atRefused_iff ht _).mp h hok
  simp only [atOp, hm, hr, hsc, hl, ha, hd, Bool.false_eq_true, if_false, Bool.false_and, bne_self_eq_false, State.stamp_now,
    State.stamp_reqs]
  rfl

end Atomics

/-- Settles O32: each atomic by the types that its operation takes. -/
theorem atIssue : Obligations.AtIssue := by
  intro w e he
  obtain ⟨i, op, types⟩ := e
  have hi : Performs i false (atOp op) ∧ ∀ n, n ∈ atTypes op ↔ n ∈ types := by
    simp only [List.mem_cons, List.not_mem_nil, or_false, Prod.mk.injEq] at he
    rcases he with ⟨rfl, rfl, rfl⟩ | ⟨rfl, rfl, rfl⟩ | ⟨rfl, rfl, rfl⟩ | ⟨rfl, rfl, rfl⟩ | ⟨rfl, rfl, rfl⟩ | ⟨rfl, rfl, rfl⟩ |
      ⟨rfl, rfl, rfl⟩ | ⟨rfl, rfl, rfl⟩ | ⟨rfl, rfl, rfl⟩ | ⟨rfl, rfl, rfl⟩ | ⟨rfl, rfl, rfl⟩
    · exact ⟨performs_of_port (p := 0x5E8) rfl rfl fun _ _ => rfl, fun _ => Iff.rfl⟩
    · exact ⟨performs_of_port (p := 0x5E9) rfl rfl fun _ _ => rfl, fun _ => Iff.rfl⟩
    · exact ⟨performs_of_port (p := 0x5EA) rfl rfl fun _ _ => rfl, fun _ => Iff.rfl⟩
    · exact ⟨performs_of_port (p := 0x5EB) rfl rfl fun _ _ => rfl, fun _ => Iff.rfl⟩
    · exact ⟨performs_of_port (p := 0x5EC) rfl rfl fun _ _ => rfl, fun _ => Iff.rfl⟩
    · exact ⟨performs_of_port (p := 0x5ED) rfl rfl fun _ _ => rfl, fun _ => Iff.rfl⟩
    · exact ⟨performs_of_port (p := 0x5EE) rfl rfl fun _ _ => rfl, mem_intTypes⟩
    · exact ⟨performs_of_port (p := 0x5EF) rfl rfl fun _ _ => rfl, mem_intTypes⟩
    · exact ⟨performs_of_port (p := 0x5F0) rfl rfl fun _ _ => rfl, mem_intTypes⟩
    · exact ⟨performs_of_port (p := 0x5F1) rfl rfl fun _ _ => rfl, mem_intTypes⟩
    · exact ⟨performs_of_port (p := 0x5F2) rfl rfl fun _ _ => rfl, mem_intTypes⟩
  obtain ⟨hop, ht⟩ := hi
  refine ⟨?_, hop.does ?_ (fun _ _ _ => rfl) fun _ _ _ => State.row_updCtx .., hop.refused 4 ?_⟩
  · intro s s1 x g sc l key hb t a b c n r hma hmc hok hsc hl hal hd hw id st q
    have hq : q = x.atReq op s1 r.1 sc l key := by
      simp only [q, Trig.atReq, atWidth_eq]
      rfl
    rw [hq]
    refine hop.exec_row hb (atOp_issues ht (anyMuck_clean hma hmc) hok hsc (Prod.ext rfl hl) (by rw [atWidth_eq]; exact hal) hd) ?_
    exact (State.stamp_wait ..).trans hw
  · rintro x s h
    refine atOp_mucked ?_
    simpa [anyMuck] using h
  · rintro x s ⟨hma, hmc, hok⟩
    exact atOp_refused ht (anyMuck_clean hma hmc) hok

end Sys2Proof.Machine
end

section
/-! PROOFS. Teams, block sums and progress of `mx`, and its mucked operands (O17). -/

namespace Sys2Proof.Machine

/-! ## Mucked operands (R154, R226) -/

section Gate

variable {x : Trig} {s : State}

theorem Trig.anyMuck_mx : anyMuck [x.t.t, (x.mxA s).t, (x.mxB s).t, (x.mxC s).t] = true ↔ ¬ x.mxClean s := by
  simp only [Trig.mxClean, Trig.mxA, Trig.mxB, Trig.mxC, anyMuck, List.any_eq_true, List.mem_cons, List.not_mem_nil, or_false,
    not_forall, exists_prop, Bool.not_eq_false, exists_eq_or_imp, exists_eq_left]

theorem Trig.mxGate_clean (h : x.mxClean s) (ports : List Nat) (f : Fired) : x.mxGate s ports f = f :=
  if_neg fun e => Trig.anyMuck_mx.mp e h

theorem Trig.mxGate_mucked (h : ¬ x.mxClean s) (ports : List Nat) (f : Fired) : x.mxGate s ports f = x.undone s ports :=
  if_pos (Trig.anyMuck_mx.mpr h)

/-- An operation of `mx`, whatever it does on clean operands, is left undone on a mucked one. -/
theorem Performs.does_undone {i : Instr} {op : Trig → State → Fired} {ports : List Nat} {f : Trig → State → Fired}
    (h : Performs i false op) (ho : ∀ x s, op x s = x.mxGate s ports (f x s)) :
    Does i (fun x s => ¬ x.mxClean s) fun x s => s.undone x ports :=
  h.does (fun x s hm => (ho x s).trans (Trig.mxGate_mucked hm ports (f x s))) (fun _ _ _ => rfl) fun _ _ _ => State.row_updCtx ..

end Gate

/-! ## Teams (R234) -/

theorem fireMxTeam_set {x : Trig} {s : State} (hc : x.mxClean s) (hz : dfield x.t.v 63 19 = 0)
    (ht : x.t.v.setWidth 19 = (0 : BitVec 19) ∨ teamOk (taskOf s x.core) (x.t.v.setWidth 19)) :
    fireMxTeam x s = .done (s.updCtx x.core fun c => { c with team := x.t.v.setWidth 19, tstep := 0 }) false := by
  have hok : (x.t.v.setWidth 19 != 0 && !teamOk (taskOf s x.core) (x.t.v.setWidth 19)) = false := by
    rcases ht with h | h <;> simp [h]
  simp only [fireMxTeam, Trig.mxGate_clean hc, hz, hok, bne_self_eq_false, Bool.false_eq_true, if_false]

/-! ## Block sums (R237) -/

/-- The turn of a scratchpad changes its core's turn, or makes the step wait. -/
theorem State.turnFor_frame (s : State) (k place : Nat) : (s.turnFor k place).nextId = s.nextId ∧ (s.turnFor k place).bsums = s.bsums ∧
    ∀ d, (s.turnFor k place).row d = s.row d := by
  simp only [State.turnFor]
  split
  · exact ⟨rfl, rfl, fun _ => rfl⟩
  · split
    · exact ⟨rfl, rfl, fun _ => rfl⟩
    · refine ⟨rfl, rfl, fun d => State.row_congr ?_⟩
      rw [State.core_updCore]
      split
      next h =>
        subst h
        rfl
      next => rfl

theorem bsumTarget_spad {c n m off : Nat} {t : Task} {a : Dword} (hd : decodeAddr c t a = some (some (.spad m off))) (ho : off % 64 = 0)
    (hb : (off + 63 + 16 * n) / 2 ^ 15 = off / 2 ^ 15) : bsumTarget c t n a = .ok (m, off) := by
  have hb' : off / 0x8000 = (off + 63 + 16 * n) / 0x8000 := hb.symm
  simp [bsumTarget, hd, ho, ← hb']

section BlockSums

variable {x : Trig} {s : State} {m off : Nat}

/-- The bytes of the scratchpad that a block sum reads: offset and length. -/
def Trig.bsumRange (x : Trig) (s : State) : Nat × Nat := ((x.latch s 0x300).v.toNat, 8 * (dfield x.t.v 11 0 + 1))

/-- The set of sums that a block sum sends, read at its group. -/
def Trig.bsumSet (x : Trig) (s : State) (m off : Nat) : BsumSet :=
  let k := s.core x.core
  let a := (x.latch s 0x300).v.toNat
  let c := (x.latch s 0x302).v
  { id := s.nextId, vec := ((s.turnFor x.core 2).newId.2.stamp x.core (.spad m off)).2, sender := x.core
    index := (taskOf s x.core).index, target := m, off := off, exp := c.setWidth 32, cnt := c.extractLsb' 32 32
    sums := (List.range (dfield x.t.v 11 0 + 1)).map fun i =>
      (BitVec.ofNat 64 (ofBytes (k.spadRead (a + 8 * i) 8)), k.rangeTag (a + 8 * i) 8) }

/-- What a block sum leaves: its read counted in the buffers that it touches, and its set on the way. -/
def Trig.bsumSent (x : Trig) (s : State) (m off : Nat) : State :=
  { ((s.turnFor x.core 2).newId.2.stamp x.core (.spad m off)).1.updCtx x.core (·.countRanges false [x.bsumRange s]) with
    bsums := s.bsums ++ [x.bsumSet s m off] }

theorem Trig.bsumSent_wait : (x.bsumSent s m off).wait = (s.turnFor x.core 2).wait := by
  rw [Trig.bsumSent]
  dsimp only
  rw [State.updCtx_wait, State.stamp_wait]
  rfl

theorem Trig.bsumSent_cores : (x.bsumSent s m off).cores =
    (((s.turnFor x.core 2).newId.2.stamp x.core (.spad m off)).1.updCtx x.core (·.countRanges false [x.bsumRange s])).cores := rfl

theorem Trig.bsumSent_row (d : Nat) : (x.bsumSent s m off).row d = s.row d := by
  obtain ⟨-, -, hrow⟩ := s.turnFor_frame x.core 2
  have htask : ((x.bsumSent s m off).core d).task = ((s.turnFor x.core 2).core d).task := by
    rw [State.core, Trig.bsumSent_cores, ← State.core, State.task_updCtx, State.core, State.stamp_cores]
    rfl
  exact (State.row_congr htask).trans (hrow d)

/-- A block sum of clean operands, whose source lies in one bank, may be read and holds no bad granule, goes to the target that `mx.b`
names, once the core's accesses are performed. -/
theorem fireMxBsum_sends (hc : x.mxClean s) (hz : dfield x.t.v 63 12 = 0) (ha : (x.bsumRange s).1 % 8 = 0)
    (hs : (x.bsumRange s).1 < spadSize) (hb : ((x.bsumRange s).1 + (x.bsumRange s).2 - 1) / 0x8000 = (x.bsumRange s).1 / 0x8000)
    (ht : bsumTarget x.core (taskOf s x.core) (dfield x.t.v 11 0 + 1) (x.latch s 0x301).v = .ok (m, off))
    (hr : (s.core x.core).rangesRefusal false [x.bsumRange s] = none) (hi : (s.core x.core).rangesBad [x.bsumRange s] = none)
    (hd : (s.turnFor x.core 2).drained x.core) : fireMxBsum x s = .done (x.bsumSent s m off) false := by
  obtain ⟨hid, hbs, -⟩ := s.turnFor_frame x.core 2
  have hin : ¬ ((x.bsumRange s).1 % 8 != 0 || decide (spadSize ≤ (x.bsumRange s).1) ||
      ((x.bsumRange s).1 + (x.bsumRange s).2 - 1) / 0x8000 != (x.bsumRange s).1 / 0x8000) = true := by
    simp [ha, not_le.mpr hs, hb]
  have hset : x.bsumSet s m off = { x.bsumSet s m off with id := (s.turnFor x.core 2).nextId } := by
    rw [hid]
    rfl
  have hsums : ((s.turnFor x.core 2).newId.2.stamp x.core (.spad m off)).1.bsums = s.bsums := by
    rw [State.stamp_bsums]
    exact hbs
  rw [fireMxBsum, Trig.mxGate_clean hc, Trig.bsumSent, hset, ← hsums]
  simp only [hz, bne_self_eq_false, Bool.false_eq_true, if_false]
  refine (if_neg hin).trans ?_
  simp only [Trig.bsumRange] at hr hi
  simp only [Trig.mxA, Trig.mxB, ht, hr, hi, hd, Bool.not_true, Bool.false_eq_true, if_false]
  rfl

end BlockSums

/-! ## Progress (R239) -/

/-- The progress of the multiply-accumulate at the head of the interrupted operations. -/
def heldWord : List MxOp → Dword
  | .mma _ _ acc _ n _ :: _ => BitVec.ofNat 64 (n + 64 + 256 * acc)
  | .mmat _ _ acc _ _ _ _ _ n _ :: _ => BitVec.ofNat 64 (n + 64 + 256 * acc + 1024)
  | _ => 0

/-- The block and, for another T than 1, the restart of the interrupted weight-driven mode. -/
def wdWord (t : Dword) : Option WDrive → Dword
  | some d => BitVec.ofNat 64 (if t = 1 then d.block % 2 ^ 48 else d.restart + 2 ^ 32 + 2 ^ 33 * d.bstk.length)
  | none => 0

/-- What `mx.prog` tells: outside a handler, of nothing. -/
def Trig.mxProgress (x : Trig) (s : State) : Dword :=
  let k := s.core x.core
  if !k.ctx.priv then 0 else if x.t.v = 0 then heldWord k.image.mxq else wdWord x.t.v k.image.wd

theorem pack_low (n : Nat) : pack [(0, n)] = BitVec.ofNat 64 n := by
  have h : 0 + n * 2 ^ 0 = n := by ring
  rw [pack, List.foldl_cons, List.foldl_nil, h]

theorem pack_held (n acc kind : Nat) : pack [(0, n), (6, 1), (8, acc), (10, kind)] = BitVec.ofNat 64 (n + 64 + 256 * acc + 1024 * kind) := by
  have h : 0 + n * 2 ^ 0 + 1 * 2 ^ 6 + acc * 2 ^ 8 + kind * 2 ^ 10 = n + 64 + 256 * acc + 1024 * kind := by ring
  rw [pack, List.foldl_cons, List.foldl_cons, List.foldl_cons, List.foldl_cons, List.foldl_nil, h]

theorem pack_restart (r n : Nat) : pack [(0, r), (32, 1), (33, n)] = BitVec.ofNat 64 (r + 2 ^ 32 + 2 ^ 33 * n) := by
  have h : 0 + r * 2 ^ 0 + 1 * 2 ^ 32 + n * 2 ^ 33 = r + 2 ^ 32 + 2 ^ 33 * n := by ring
  rw [pack, List.foldl_cons, List.foldl_cons, List.foldl_cons, List.foldl_nil, h]

theorem heldMma_word (q : List MxOp) : ((heldMma q).elim 0 fun r => pack [(0, r.1), (6, 1), (8, r.2.1), (10, r.2.2)]) = heldWord q := by
  cases q with
  | nil => rfl
  | cons o q =>
    cases o
    case mma => exact pack_held ..
    case mmat => exact pack_held ..
    all_goals rfl

theorem fireMxProg_eq {x : Trig} {s : State} (hc : x.mxClean s) (ht : x.t.v.toNat ≤ 2) : fireMxProg x s =
    .done (s.updCtx x.core (·.send { due := s.now + 2, sw := [(0x37D, { v := x.mxProgress s })] })) false := by
  have hval : x.t.v = 0 ∨ x.t.v = 1 ∨ x.t.v = 2 := by
    simp only [← BitVec.toNat_inj]
    simp
    omega
  rw [fireMxProg, Trig.mxGate_clean hc, Trig.mxProgress]
  cases hp : (s.core x.core).ctx.priv
  · rcases hval with h | h | h <;> rw [h] <;> rfl
  · simp only [if_true, Bool.not_true, Bool.false_eq_true, if_false]
    rcases hval with h | h | h
    · rw [if_pos h, if_pos h, ← heldMma_word]
      cases heldMma (s.core x.core).image.mxq <;> rfl
    · rw [h]
      cases (s.core x.core).image.wd with
      | none => rfl
      | some d => simp [wdWord, pack_low]; rfl
    · rw [h]
      cases (s.core x.core).image.wd with
      | none => rfl
      | some d => simp [wdWord, pack_restart]; rfl

/-- Settles O17: the three operations on clean operands, and every operation of `mx` by the gate that it passes first. -/
theorem mxTeamsAndSums : Obligations.MxTeamsAndSums := by
  intro w
  have hteam : Performs (.mxTeam w) false fireMxTeam := performs_of_port (p := 0x310) rfl rfl fun _ _ => rfl
  have hbsum : Performs (.mxBsum w) false fireMxBsum := performs_of_port (p := 0x30E) rfl rfl fun _ _ => rfl
  have hprog : Performs (.mxProg w) false fireMxProg := performs_of_port (p := 0x311) rfl rfl fun _ _ => rfl
  refine ⟨hteam.does ?_ (fun _ _ _ => rfl) fun _ _ _ => State.row_updCtx .., ?_,
    hprog.does ?_ (fun _ _ _ => rfl) fun _ _ _ => State.row_updCtx .., ?_⟩
  · rintro x s ⟨hc, hz, ht⟩
    exact fireMxTeam_set hc hz ht
  · intro s s1 x g m off hb hc k n a c hz ha hs hbank hdec hoff htb hr hi s2 z hw hd
    have hsend := fireMxBsum_sends hc hz ha hs hbank (bsumTarget_spad hdec hoff htb) hr hi hd
    rw [hbsum.exec_alone hb hsend (Trig.bsumSent_wait.trans hw) (Trig.bsumSent_row _), hbsum.transferJoin_nil hb]
    rfl
  · rintro x s ⟨hc, ht⟩
    exact fireMxProg_eq hc ht
  · intro e he
    simp only [List.mem_cons, List.not_mem_nil, or_false] at he
    rcases he with rfl | rfl | rfl | rfl | rfl | rfl | rfl | rfl | rfl | rfl
    · exact (performs_of_port (op := fireMxClaim) (p := 0x308) rfl rfl fun _ _ => rfl).does_undone fun _ _ => rfl
    · exact (performs_of_port (op := fireMxRelease) (p := 0x309) rfl rfl fun _ _ => rfl).does_undone fun _ _ => rfl
    · exact (performs_of_port (op := fireMxFill) (p := 0x30A) rfl rfl fun _ _ => rfl).does_undone fun _ _ => rfl
    · exact (performs_of_port (op := fireMxMma) (p := 0x30B) rfl rfl fun _ _ => rfl).does_undone fun _ _ => rfl
    · exact (performs_of_port (op := fireMxMmat) (p := 0x30C) rfl rfl fun _ _ => rfl).does_undone fun _ _ => rfl
    · exact (performs_of_port (op := fireMxDrain) (p := 0x30D) rfl rfl fun _ _ => rfl).does_undone fun _ _ => rfl
    · exact hbsum.does_undone fun _ _ => rfl
    · exact (performs_of_port (op := fireMxZero) (p := 0x30F) rfl rfl fun _ _ => rfl).does_undone fun _ _ => rfl
    · exact hteam.does_undone fun _ _ => rfl
    · exact hprog.does_undone fun _ _ => rfl

end Sys2Proof.Machine
end

section
/-! PROOFS. The element-wise loop of `vx` and its bad type controls (O6): what an element of the loop is and which flags it sets, and
that every trigger of the unit checks its type control alike. -/

namespace Sys2Proof.Machine

/-! ## The loop of R197 -/

theorem elem_mod (w : Nat) (v : Vec) (i : Nat) : elem w v i % 2 ^ w = elem w v i := Nat.mod_mod _ _

/-- Every element of the loop, active or not. -/
theorem VxIn.elem_map {v : VxIn} {w i : Nat} (f : Nat → Nat × FlagBits) (hi : i < 512 / w) :
    elem w (v.map w f).1 i = if v.active i then (f i).1 % 2 ^ w else if v.msk = 1 then 0 else elem w v.c i := by
  by_cases ha : v.active i
  · rw [VxIn.elem_map_active f hi ha, if_pos ha]
  · rw [VxIn.map, VxIn.mapAt, elem_vecOf _ (Nat.mul_div_le 512 w) hi, if_neg ha]
    by_cases hm : v.msk = 1 <;> simp [hi, ha, hm, elem_mod]

/-- Flags gathered along a list. -/
theorem getLsbD_foldl_flags (l : List (Nat × FlagBits)) (z : FlagBits) (b : Nat) :
    (l.foldl (fun a r => a ||| r.2) z).getLsbD b = (z.getLsbD b || l.any fun r => r.2.getLsbD b) := by
  induction l generalizing z with
  | nil => simp
  | cons r l ih => rw [List.foldl_cons, ih, BitVec.getLsbD_or, List.any_cons, Bool.or_assoc]

/-- The flags of the loop are those of its active elements. -/
theorem VxIn.getLsbD_map_flags (v : VxIn) (w : Nat) (f : Nat → Nat × FlagBits) (b : Nat) :
    (v.map w f).2.getLsbD b = (List.range (512 / w)).any fun i => v.active i && (f i).2.getLsbD b := by
  have hz : (0 : FlagBits).getLsbD b = false := BitVec.getLsbD_zero
  rw [VxIn.map, VxIn.mapAt, getLsbD_foldl_flags, List.any_map, hz, Bool.false_or]
  congr 1
  funext i
  by_cases ha : v.active i
  · simp [ha]
  · by_cases hm : v.msk = 1 <;> simp [ha, hm]

/-! ## The check of the type control (R196) -/

section Check

variable {x : Trig} {s : State} (hc : x.vxClean s) (ht : ¬ vxTyOk (x.vxIn s).ty)

include hc ht

theorem vxRun_refused (reads : VxIn → List Nat) (ports : List Nat) (perm : VxIn → Bool) (lat : VxIn → Nat) (fp : VxIn → Bool)
    (op : VxIn → List Vec × FlagBits) : vxRun reads ports perm lat fp op x s = .trap 4 (refused 2 (x.vxIn s).ty) := by
  rw [x.vxClean_eq, Bool.not_eq_true'] at hc
  have hn : (!vxTyOk (x.vxIn s).ty || !perm (x.vxIn s)) = true := by simp [ht]
  exact (if_neg (ne_true_of_eq_false hc)).trans (if_pos hn)

/-- The codes of `vx.t5un` are not looked at where its type control is refused. -/
theorem fireVxT5un_refused : fireVxT5un x s = .trap 4 (refused 2 (x.vxIn s).ty) := by
  have h : vxT5un x s = .trap 4 (refused 2 (x.vxIn s).ty) := vxRun_refused hc ht ..
  rw [fireVxT5un, h]

/-- Every trigger of `vx` refuses a bad type control. -/
theorem fireVector_refused (hlo : 0x210 ≤ x.port) (hhi : x.port ≤ 0x247) :
    fireVector x s = .trap 4 (refused 2 (x.vxIn s).ty) := by
  unfold fireVector
  split
  iterate 41 exact vxRun_refused hc ht ..
  · exact fireVxT5un_refused hc ht
  iterate 14 exact vxRun_refused hc ht ..
  · simp only [imp_false] at *
    omega

end Check

/-- The unit of the ports 0x200 to 0x2FF. -/
theorem fire_vector {x : Trig} (hlo : 0x200 ≤ x.port) (hhi : x.port < 0x300) (s : State) : fire x s = fireVector x s := by
  rw [fire, if_neg (Nat.not_lt.mpr hlo), if_pos hhi]

/-- Settles O6: the loop element by element and flag by flag, and the check that every trigger of the unit makes. -/
theorem vxControl : Obligations.VxControl := by
  refine ⟨fun v w f _ => ⟨fun i hi => VxIn.elem_map f hi, fun b _ => v.getLsbD_map_flags w f b⟩,
    fun i p s s1 x g hp hlo hhi hb hc ht => exec_of_refusal hb (n := 4) ?_⟩
  have hport : x.port = p := (port_of_begins hb hp).trans (Nat.mod_eq_of_lt (by omega))
  rw [fire_vector (by omega) (by omega), fireVector_refused hc ht (by omega) (by omega)]
  rfl

end Sys2Proof.Machine
end

section
/-! PROOFS. Logic, shifts and counts of `vx` (O9): the shifts of the model are those by an unsigned amount (R208). -/

namespace Sys2Proof.Machine

/-- Every w-bit number read as signed lies within ±2^w. -/
theorem toSigned_bounds (w x : Nat) : -(2 ^ w : Nat) ≤ toSigned w x ∧ toSigned w x < (2 ^ w : Nat) := by
  have hx : x % 2 ^ w < 2 ^ w := Nat.mod_lt _ (Nat.two_pow_pos w)
  unfold toSigned
  split <;> omega

/-- A shift by w or more leaves the sign alone. -/
theorem toSigned_div_two_pow (w x : Nat) : toSigned w x / (2 ^ w : Nat) = if toSigned w x < 0 then -1 else 0 := by
  obtain ⟨hl, hu⟩ := toSigned_bounds w x
  split
  next hneg => exact Int.ediv_eq_neg_one_of_neg_of_le hneg (by omega)
  next hpos => exact Int.ediv_eq_zero_of_lt (not_lt.mp hpos) hu

theorem toSigned_shift (w a t : Nat) : toSigned w a / (2 ^ min t w : Nat) =
    if w ≤ t then (if toSigned w a < 0 then -1 else 0) else toSigned w a / 2 ^ t := by
  by_cases h : w ≤ t
  · rw [if_pos h, Nat.min_eq_right h, toSigned_div_two_pow]
  · rw [if_neg h, Nat.min_eq_left (Nat.le_of_not_le h), Nat.cast_pow, Nat.cast_ofNat]

theorem fireVxShl_eq : fireVxShl = vxRun rdAT [pR] etInt (fun _ => 1) noFp fun v =>
    v.rawMap fun w a t => if w ≤ t then 0 else a * 2 ^ t := by
  simp only [fireVxShl, ← Nat.not_lt, ite_not]

theorem fireVxShr_eq : fireVxShr = vxRun rdAT [pR] etInt (fun _ => 1) noFp fun v =>
    v.rawMap fun w a t => if w ≤ t then 0 else a / 2 ^ t := by
  simp only [fireVxShr, ← Nat.not_lt, ite_not]

theorem fireVxSar_eq : fireVxSar = vxRun rdAT [pR] etInt (fun _ => 1) noFp fun v =>
    v.rawMap fun w a t => wrap w (if w ≤ t then (if toSigned w a < 0 then -1 else 0) else toSigned w a / 2 ^ t) := by
  simp only [fireVxSar, toSigned_shift]

/-- Settles O9, one trigger after another; none sets a flag. -/
theorem vxBits : Obligations.VxBits := fun _ =>
  ⟨vxPlain_of_fire fireVxAnd rfl rfl (fun _ _ => rfl) rfl etAny_of_le fun _ => rfl,
    vxPlain_of_fire fireVxOr rfl rfl (fun _ _ => rfl) rfl etAny_of_le fun _ => rfl,
    vxPlain_of_fire fireVxXor rfl rfl (fun _ _ => rfl) rfl etAny_of_le fun _ => rfl,
    vxPlain_of_fire fireVxAndn rfl rfl (fun _ _ => rfl) rfl etAny_of_le fun _ => rfl,
    vxPlain_of_fire fireVxBlend rfl rfl (fun _ _ => rfl) rfl etAny_of_le fun _ => rfl,
    vxPlain_of_fire fireVxShl rfl rfl (fun _ _ => rfl) fireVxShl_eq etInt_of_le fun _ => rfl,
    vxPlain_of_fire fireVxShr rfl rfl (fun _ _ => rfl) fireVxShr_eq etInt_of_le fun _ => rfl,
    vxPlain_of_fire fireVxSar rfl rfl (fun _ _ => rfl) fireVxSar_eq etInt_of_le fun _ => rfl,
    vxPlain_of_fire fireVxPopc rfl rfl (fun _ _ => rfl) rfl etInt_of_le fun _ => rfl,
    vxPlain_of_fire fireVxClz rfl rfl (fun _ _ => rfl) rfl etInt_of_le fun _ => rfl,
    vxPlain_of_fire fireVxCls rfl rfl (fun _ _ => rfl) rfl etInt_of_le fun _ => rfl⟩

end Sys2Proof.Machine
end

section
/-! PROOFS. Floating functions of `vx` (O12). -/

namespace Sys2Proof.Machine

theorem etFp32_of_eq (v : VxIn) (h : v.et = 8) : etFp32 v := decide_eq_true h

theorem etFlt_of_mem (v : VxIn) (h : 8 ≤ v.et ∧ v.et ≤ 10) : etFlt v := by
  simpa [etFlt] using h

/-- Settles O12, one trigger after another. -/
theorem vxFloatingFunctions : Obligations.VxFloatingFunctions := fun _ =>
  ⟨vxDoes_of_fire fireVxRcp rfl rfl (fun _ _ => rfl) rfl etFp32_of_eq (fun _ _ => rfl) fun _ _ => rfl,
    vxDoes_of_fire fireVxRsqrt rfl rfl (fun _ _ => rfl) rfl etFp32_of_eq (fun _ _ => rfl) fun _ _ => rfl,
    vxDoes_of_fire fireVxExp2 rfl rfl (fun _ _ => rfl) rfl etFp32_of_eq (fun _ _ => rfl) fun _ _ => rfl,
    vxDoes_of_fire fireVxDiv rfl rfl (fun _ _ => rfl) rfl etFlt_of_mem (fun _ _ => rfl) fun _ _ => rfl,
    vxDoes_of_fire fireVxSqrt rfl rfl (fun _ _ => rfl) rfl etFlt_of_mem (fun _ _ => rfl) fun _ _ => rfl,
    vxDoes_of_fire fireVxRndi rfl rfl (fun _ _ => rfl) rfl etFlt_of_mem (fun _ _ => rfl) fun _ _ => rfl⟩

end Sys2Proof.Machine
end

section
/-! PROOFS. Arithmetic (O8) and compares (O10) of `vx`, refuted: an operation left undone by a mucked type control whose ET names no
integer or floating type of Table 3. Table 1 of R195 gives a latency for those types alone. The statements give every ET from 8 on the
floating one; the model gives it to the codes 8 to 10, and every other code the one for integers. -/

namespace Sys2Proof.Machine

/-- Core 0 about to run a word of X, with the reserved code 13 and tag 0xFFFF in `vx.ty`, and TRAPMUCK = 0 (R196, R199). -/
def reservedTypeMucked : State :=
  { State.reset with
    parts := [(0, some { w := 4, h := 4, maxNodes := 8 })], curHalf := .x
    cores := [(0, { task := some {}, ctx := { xs := { seg := wholeStore }, as_ := { seg := wholeStore }
                                              sfile := [(0x204, { v := 13, t := [mucked] })] } })] }

/-- A `vx` trigger of v1, alone in its group. -/
def vectorWord : TrigW := { s := true, g := 0, n := false, imm := false, low := 0x41 }

/-- The results in flight on core 0 all land n cycles of its clock after time 0. -/
def State.landAfter (n : Nat) (s : State) : Bool := (s.ctx 0).flight.map (·.due) == [2 * n]

/-- Where a trigger begins with a mucked control operand, its step leaves what the statement says of an undone operation. -/
theorem VxDoes.leaves_undone {i : Instr} {reads ports : List Nat} {ok : VxIn → Prop} {lat : VxIn → Nat} {fp : VxIn → Bool}
    {op : VxIn → List Vec × FlagBits} {s : State} {p : State → Bool} (h : VxDoes i reads ports ok lat fp op)
    (hb : (s.begins i).any (fun r => !r.1.vxClean r.2.1 &&
      p (s.closeSend r.2.1 r.1 r.2.2 (r.1.vxUndone r.2.1 (lat (r.1.vxIn r.2.1)) ports))) = true) :
    Leaves p (exec i s) = true := by
  rw [Option.any_eq_true] at hb
  obtain ⟨⟨x, s1, g⟩, hb, hp⟩ := hb
  rw [Bool.and_eq_true, Bool.not_eq_true'] at hp
  obtain ⟨hmuck, hp⟩ := hp
  obtain ⟨hundone, -⟩ := h s s1 x g hb
  rwa [hundone (ne_true_of_eq_false hmuck), Leaves]

theorem landAfter_unique {m n : Nat} {o : Host.Outcome State Fault Refusal} (hm : Leaves (·.landAfter m) o = true)
    (hn : Leaves (·.landAfter n) o = true) : m = n := by
  obtain ⟨t, rfl, hm⟩ := exists_of_leaves hm
  have h : [2 * m] = [2 * n] := (beq_iff_eq.mp hm).symm.trans (beq_iff_eq.mp hn)
  simpa using h

/-- The undone addition's result lands after the one cycle of an integer operation. -/
theorem undoneAdd_lands : Leaves (·.landAfter 1) (exec (.vxAdd vectorWord) reservedTypeMucked) = true := by decide +kernel

/-- So do the two results of the undone compare. -/
theorem undoneCompare_lands : Leaves (·.landAfter 1) (exec (.vxEq vectorWord) reservedTypeMucked) = true := by decide +kernel

/-- Refutes O8: `vx.add` with ET = 13 in a mucked type control is left undone, and its port receives 0 after 1 cycle, where the
statement gives it 4. -/
theorem not_vxArithmetic : ¬ Obligations.VxArithmetic := by
  unfold Obligations.VxArithmetic
  intro h
  obtain ⟨hadd, -⟩ := h vectorWord
  have hlate := hadd.leaves_undone (s := reservedTypeMucked) (p := (·.landAfter 4)) (by decide +kernel)
  exact absurd (landAfter_unique undoneAdd_lands hlate) (by decide)

/-- Refutes O10: the same of `vx.eq`, whose two ports receive 0 after 1 cycle, where the statement gives them 4. -/
theorem not_vxComparesAndMasks : ¬ Obligations.VxComparesAndMasks := by
  unfold Obligations.VxComparesAndMasks
  intro h
  obtain ⟨⟨heq, -⟩, -⟩ := h vectorWord
  have hlate := heq.leaves_undone (s := reservedTypeMucked) (p := (·.landAfter 4)) (by decide +kernel)
  exact absurd (landAfter_unique undoneCompare_lands hlate) (by decide)

end Sys2Proof.Machine
end

section
/-! PROOFS. Claims and releases of slots (O14): what a claimed slot holds, and the answer of each trigger. -/

namespace Sys2Proof.Machine

/-! ## A claimed slot (R228) -/

/-- Saving an evicted context's slot writes the core's save areas alone. -/
theorem Core.saveSlot_slots (k : Core) (i : Nat) : (k.saveSlot i).slots = k.slots ∧ (k.saveSlot i).task = k.task := by
  unfold Core.saveSlot
  split <;> exact ⟨rfl, rfl⟩

theorem Core.slot_claim (k : Core) (i j : Nat) : (k.claim i).slot j = if j = i then { owner := .task } else k.slot j := by
  rw [Core.claim, Core.slot, Core.setSlot, (k.saveSlot_slots i).1, NMap.get_set]
  rfl

theorem Core.claim_task (k : Core) (i : Nat) : (k.claim i).task = k.task := (k.saveSlot_slots i).2

/-! ## Writes of the save areas -/

/-- A fold whose every step keeps `wait` keeps it. -/
theorem foldl_wait {β : Type} {f : State → β → State} (hf : ∀ s b, (f s b).wait = s.wait) (l : List β) (s : State) :
    (l.foldl f s).wait = s.wait := List.foldlRecOn (motive := fun t => t.wait = s.wait) l f rfl fun t ht b _ => (hf t b).trans ht

/-- An area's write takes no step back. -/
theorem State.putArea_wait (s : State) (at_ : Nat) (v : Saved) (banks : Bool) : (s.putArea at_ v banks).wait = s.wait := by
  have hdword (t : State) : (v.listed.foldl (fun t k =>
      let w := v.dword t.now k
      if w = 0 then t else t.memWrite (at_ + 8 * k) (bytesOf 8 w.toNat)) t).wait = t.wait :=
    foldl_wait (fun t k => by dsimp only; split_ifs <;> rfl) _ t
  have htags (t : State) : (v.rowTags.foldl (fun s e => s.setMemTag (at_ / 64 + e.1) e.2) t).wait = t.wait :=
    foldl_wait (by intros; rfl) _ t
  cases banks with
  | false => exact (htags _).trans (hdword _)
  | true =>
    refine (foldl_wait (by intros; rfl) v.stags _).trans ((foldl_wait (by intros; rfl) v.spad _).trans ?_)
    exact (htags _).trans (hdword _)

theorem State.putAreas_wait (s : State) (c : Nat) : (s.putAreas c).wait = s.wait := by
  refine foldl_wait (fun s e => ?_) _ s
  cases e.2 with
  | none => rfl
  | some v => exact State.putArea_wait ..

/-! ## Claims (R229) -/

section Slots

variable (x : Trig) (s : State)

/-- A claim answers slot `j` with status `st`. -/
def Trig.claimAnswer (j st : Nat) : State := s.sent x 1 [(0x37D, BitVec.ofNat 64 j), (0x37F, BitVec.ofNat 64 st)] [x.t.t]

/-- A claim that takes slot `j`. -/
def Trig.claimTakes (j : Nat) : State := x.claimAnswer ((s.updCore x.core (·.claim j)).putAreas x.core) j 0

/-- What a claim leaves, by the rows of R229's table. -/
def Trig.claimed : State :=
  let k := s.core x.core
  let i := dfield x.t.v 3 0
  if (taskOf s x.core).nslot ≤ k.ownedSlots then x.claimAnswer s 16 3
  else if dfield x.t.v 4 4 = 0 then (if k.owns i then x.claimAnswer s i 2 else x.claimTakes s i)
  else match k.firstSlot (· = .free), k.firstSlot SlotOwner.isHeld with
    | some j, _ => x.claimTakes s j
    | none, some j => x.claimTakes s j
    | none, none => x.claimAnswer s 16 1

/-- What a release leaves (R230): the slot free, or free once the operations that name it are performed. -/
def Trig.releasedSlot : State :=
  let k := s.core x.core
  let i := dfield x.t.v 3 0
  if !k.owns i then s.sent x 1 [(0x37F, BitVec.ofNat 64 1)] [x.t.t]
  else if k.ctx.mxq.any (MxOp.names i) then
    (s.updCtx x.core fun c => { c with mxq := c.mxq ++ [.release i] }).sent x 1 [(0x37F, BitVec.ofNat 64 0)] [x.t.t]
  else (s.updCore x.core (·.setSlot i {})).sent x 1 [(0x37F, BitVec.ofNat 64 0)] [x.t.t]

variable {x s}

/-- A claim takes a slot, or leaves the slots as they are. -/
theorem Trig.claimed_cases : ∃ j st, x.claimed s = x.claimTakes s j ∨ x.claimed s = x.claimAnswer s j st := by
  unfold Trig.claimed
  dsimp only
  split_ifs
  · exact ⟨_, _, .inr rfl⟩
  · exact ⟨_, _, .inr rfl⟩
  · exact ⟨_, 0, .inl rfl⟩
  · split
    · exact ⟨_, 0, .inl rfl⟩
    · exact ⟨_, 0, .inl rfl⟩
    · exact ⟨_, _, .inr rfl⟩

theorem Trig.claimAnswer_frame (j st : Nat) : (x.claimAnswer s j st).wait = s.wait ∧ (x.claimAnswer s j st).row x.core = s.row x.core :=
  ⟨rfl, State.row_updCtx ..⟩

theorem Trig.claimTakes_frame (j : Nat) : (x.claimTakes s j).wait = s.wait ∧ (x.claimTakes s j).row x.core = s.row x.core := by
  obtain ⟨hw, hr⟩ := Trig.claimAnswer_frame (x := x) (s := (s.updCore x.core (·.claim j)).putAreas x.core) j 0
  refine ⟨hw.trans (State.putAreas_wait ..), hr.trans (State.row_congr ?_)⟩
  rw [State.core_putAreas, State.core_updCore_self, Core.claim_task]

theorem Trig.claimed_frame : (x.claimed s).wait = s.wait ∧ (x.claimed s).row x.core = s.row x.core := by
  obtain ⟨j, st, h | h⟩ := x.claimed_cases (s := s)
  · rw [h]
    exact Trig.claimTakes_frame j
  · rw [h]
    exact Trig.claimAnswer_frame j st

/-- With clean operands, no reserved bit and no release to come, a claim answers by the table. -/
theorem fireMxClaim_claims (hc : x.mxClean s) (hz : dfield x.t.v 63 5 = 0) (hr : ∀ i, MxOp.release i ∉ (s.ctx x.core).mxq) :
    fireMxClaim x s = .done (x.claimed s) false := by
  rw [fireMxClaim, Trig.mxGate_clean hc, Trig.claimed]
  simp only [hz, bne_self_eq_false, Bool.false_eq_true, if_false]
  refine (if_neg fun h => ?_).trans ?_
  · obtain ⟨o, ho, e⟩ := List.any_eq_true.mp h
    cases o with
    | release i => exact hr i ho
    | _ => exact Bool.false_ne_true e
  split_ifs
  · rfl
  · rfl
  · rfl
  · cases (s.core x.core).firstSlot (· = .free) with
    | some j => rfl
    | none => cases (s.core x.core).firstSlot SlotOwner.isHeld <;> rfl

/-! ## Releases (R230) -/

theorem fireMxRelease_releases (hc : x.mxClean s) (hz : dfield x.t.v 63 4 = 0) :
    fireMxRelease x s = .done (x.releasedSlot s) false := by
  rw [fireMxRelease, Trig.mxGate_clean hc, Trig.releasedSlot]
  simp only [hz, bne_self_eq_false, Bool.false_eq_true, if_false]
  split_ifs <;> rfl

theorem Trig.releasedSlot_frame : (x.releasedSlot s).wait = s.wait ∧ (x.releasedSlot s).row x.core = s.row x.core := by
  unfold Trig.releasedSlot
  dsimp only
  split_ifs
  · exact ⟨rfl, State.row_updCtx ..⟩
  · exact ⟨rfl, (State.row_updCtx ..).trans (State.row_updCtx ..)⟩
  · refine ⟨rfl, (State.row_updCtx ..).trans (State.row_congr ?_)⟩
    rw [State.core_updCore_self]
    rfl

end Slots

/-- Settles O14: what a claim leaves in the slots, and the two triggers by their answers. -/
theorem mxSlots : Obligations.MxSlots := by
  refine ⟨fun k i => ⟨?_, fun j hj => ?_⟩, fun w => ⟨?_, ?_⟩⟩
  · rw [Core.slot_claim, if_pos rfl]
  · rw [Core.slot_claim, if_neg hj]
  · have hclaim : Performs (.mxClaim w) false fireMxClaim := performs_of_port (p := 0x308) rfl rfl fun _ _ => rfl
    exact hclaim.does (f := Trig.claimed) (fun x s ⟨hc, hz, hr⟩ => fireMxClaim_claims hc hz hr)
      (fun _ _ _ => Trig.claimed_frame.1) fun _ _ _ => Trig.claimed_frame.2
  · have hrelease : Performs (.mxRelease w) false fireMxRelease := performs_of_port (p := 0x309) rfl rfl fun _ _ => rfl
    exact hrelease.does (f := Trig.releasedSlot) (fun x s ⟨hc, hz⟩ => fireMxRelease_releases hc hz)
      (fun _ _ _ => Trig.releasedSlot_frame.1) fun _ _ _ => Trig.releasedSlot_frame.2

end Sys2Proof.Machine
end

section
/-! PROOFS. Fills (O15): the source that a fill admits, the rows that it reads, and the operation that joins the unit's. -/

namespace Sys2Proof.Machine

section Fill

variable (x : Trig) (s : State)

/-! ## The source of a fill (R231) -/

/-- The columns that a fill gives of each row, or the rows of role B: KN, with 0 for 32. -/
def Trig.fillKn : Nat := if dfield x.t.v 10 5 = 0 then 32 else dfield x.t.v 10 5

/-- The format register of the bank that holds `mx.a`. -/
def Trig.fillReg : Dword := (s.core x.core).bfmtOf ((x.latch s 0x300).v.toNat / 0x8000)

/-- Bytes of a row. -/
def Trig.fillLen : Nat :=
  let fmt := bfmtFmt (x.fillReg s)
  ((if dfield x.t.v 4 4 = 1 then 64 else x.fillKn) + fmtElems fmt - 1) / fmtElems fmt * fmtUnit fmt

/-- The numbers of the rows. -/
def Trig.fillRows : List Nat := List.range (if dfield x.t.v 4 4 = 1 then x.fillKn else 64)

/-- Where row `i` starts. -/
def Trig.fillPos (i : Nat) : Int := ((x.latch s 0x300).v.toNat : Int) + i * (x.latch s 0x301).v.toInt

/-- Where the rows start. -/
def Trig.fillOffs : List Nat := (x.fillRows.map (x.fillPos s)).map Int.toNat

/-- The exponent bytes of a row at `o`. -/
def Trig.fillExps (o : Nat) : List Nat :=
  let fmt := bfmtFmt (x.fillReg s)
  let bank := (x.latch s 0x300).v.toNat / 0x8000 * 0x8000
  if fmtIsBfp fmt then (List.range (x.fillLen s / fmtUnit fmt)).map fun j =>
    bfmtExpBase (x.fillReg s) + (o - bank) / fmtUnit fmt + j
  else []

/-- The ranges that a fill reads: its rows and their exponents. -/
def Trig.fillRanges : List (Nat × Nat) :=
  (x.fillOffs s).map (·, x.fillLen s) ++ ((x.fillOffs s).flatMap (x.fillExps s)).map (·, 1)

/-- A source that a fill admits: a slot of the task, a good control word, and aligned rows inside the bank of `mx.a`. -/
structure Trig.FillFits : Prop where
  owned : (s.core x.core).owns (dfield x.t.v 3 0) = true
  kn : x.fillKn ≤ 32
  reserved : dfield x.t.v 63 11 = 0
  inside : (x.latch s 0x300).v.toNat < spadSize
  format : fillFormat (bfmtFmt (x.fillReg s)) = true
  alignA : (x.latch s 0x300).v.toNat % fillAlign (bfmtFmt (x.fillReg s)) = 0
  alignB : (x.latch s 0x301).v.toInt % (fillAlign (bfmtFmt (x.fillReg s)) : Int) = 0
  rows : ∀ i ∈ x.fillRows, (((x.latch s 0x300).v.toNat / 0x8000 * 0x8000 : Nat) : Int) ≤ x.fillPos s i ∧
    x.fillPos s i + x.fillLen s ≤ ((x.latch s 0x300).v.toNat / 0x8000 * 0x8000 : Nat) + 0x8000

/-! ## The operation -/

/-- The fill with its rows as they are read at the group, each with the tags of its granules and of its exponents. -/
def Trig.fillOp : MxOp :=
  let k := s.core x.core
  .fill (dfield x.t.v 3 0) (dfield x.t.v 4 4 = 1) x.fillKn (bfmtFmt (x.fillReg s)) ((x.fillOffs s).map fun o =>
    (k.spadRead o (x.fillLen s), (x.fillExps s o).map fun e => (k.spad.get 0 e).toNat, o,
      joinTags (k.rangeTag o (x.fillLen s) :: (x.fillExps s o).map fun e => k.rangeTag e 1))) x.trapIll x.ctl

/-- What a fill leaves: its reads counted in the buffers that they touch, and the operation behind the earlier ones. -/
def Trig.filled : State :=
  (s.turnFor x.core 2).updCtx x.core fun c => (c.countRanges false (x.fillRanges s)).pushMx (x.fillOp s)

variable {x s}

theorem Trig.filled_row : (x.filled s).row x.core = s.row x.core :=
  (State.row_updCtx ..).trans ((s.turnFor_frame x.core 2).2.2 _)

/-- A fill of clean operands, from a source that it admits and may read and that holds no bad granule, joins the unit's operations once the
core's accesses are performed. -/
theorem fireMxFill_joins (hc : x.mxClean s) (hf : x.FillFits s) (hr : (s.core x.core).rangesRefusal false (x.fillRanges s) = none)
    (hb : (s.core x.core).rangesBad (x.fillRanges s) = none) (hd : (s.turnFor x.core 2).drained x.core) :
    fireMxFill x s = .done (x.filled s) false := by
  obtain ⟨howned, hkn, hres, hin, hfmt, ha, hab, hrows⟩ := hf
  have hctl : ¬ (decide (32 < x.fillKn) || dfield x.t.v 63 11 != 0) = true := by simp [hkn, hres]
  have hplace : ¬ ((x.latch s 0x300).v.toNat % fillAlign (bfmtFmt (x.fillReg s)) != 0 ||
      (x.latch s 0x301).v.toInt % (fillAlign (bfmtFmt (x.fillReg s)) : Int) != 0 ||
      (x.fillRows.map (x.fillPos s)).any fun o =>
        decide (o < ((x.latch s 0x300).v.toNat / 0x8000 * 0x8000 : Nat)) ||
        decide ((((x.latch s 0x300).v.toNat / 0x8000 * 0x8000 : Nat) + 0x8000 : Int) < o + x.fillLen s)) = true := by
    simpa [ha, hab] using hrows
  rw [fireMxFill, Trig.mxGate_clean hc]
  refine (if_neg (by simp [howned])).trans ((if_neg hctl).trans ((if_neg (not_le.mpr hin)).trans
    ((if_neg (by rw [Bool.not_eq_true', Bool.not_eq_false]; exact hfmt)).trans ((if_neg hplace).trans ?_))))
  dsimp only
  split
  next h => exact absurd (hr.symm.trans h) nofun
  next h => exact absurd (hb.symm.trans h) nofun
  next => exact if_neg (by simp [hd])

theorem Trig.fillRanges_eq : x.fillRanges s = x.fillRows.map (fun i => ((x.fillPos s i).toNat, x.fillLen s)) ++
    x.fillRows.flatMap fun i => (x.fillExps s (x.fillPos s i).toNat).map (·, 1) := by
  simp only [Trig.fillRanges, Trig.fillOffs, List.map_map, List.flatMap_map, List.map_flatMap]
  rfl

/-- What a function of the rows' offsets gives, row by row. -/
theorem Trig.map_fillOffs {α : Type} (f : Nat → α) : (x.fillOffs s).map f = x.fillRows.map fun i => f (x.fillPos s i).toNat := by
  rw [Trig.fillOffs, List.map_map, List.map_map]
  rfl

end Fill

/-- Settles O15: an admitted source is one that the statement's conditions describe, and the rows that it gives are the statement's. -/
theorem mxFill : Obligations.MxFill := by
  intro w s s1 x g hb hc k slot roleB kn a b reg fmt per unit n bank al row exps is ranges howned hkn hres hin hfmt ha hab hrows hr hbad
    s2 hw hd
  have hfill : Performs (.mxFill w) false fireMxFill := performs_of_port (p := 0x30A) rfl rfl fun _ _ => rfl
  have hfits : x.FillFits s1 := ⟨howned, hkn, hres, hin, List.contains_iff_mem.mpr hfmt, ha, hab, hrows⟩
  have hranges : ranges = x.fillRanges s1 := Trig.fillRanges_eq.symm
  rw [hranges] at hr hbad
  rw [hfill.exec_alone hb (fireMxFill_joins hc hfits hr hbad hd) hw Trig.filled_row, hfill.transferJoin_nil hb, Trig.filled,
    Trig.fillOp, Trig.map_fillOffs, hranges]
  rfl

end Sys2Proof.Machine
end

section
/-! PROOFS. Multiply-accumulates, drains and zeroing join the unit's operations (O16). -/

namespace Sys2Proof.Machine

section Arithmetic

variable {x : Trig} {s : State}

/-! ## Multiply-accumulates (R232, R235) -/

theorem fireMxMma_joins (hc : x.mxClean s) (hz : dfield x.t.v 63 11 = 0) (ha : (s.core x.core).owns (dfield x.t.v 3 0) = true)
    (hra : (!(s.core x.core).roleOf (dfield x.t.v 3 0)) = true) (hb : (s.core x.core).owns (dfield x.t.v 7 4) = true)
    (hrb : (s.core x.core).roleOf (dfield x.t.v 7 4) = true) :
    fireMxMma x s = .done (s.updCtx x.core (·.pushMx
      (.mma (dfield x.t.v 3 0) (dfield x.t.v 7 4) (dfield x.t.v 9 8) (dfield x.t.v 10 10 = 1) 0 x.ctl))) false := by
  rw [Bool.not_eq_true'] at hra
  simp [fireMxMma, Trig.mxGate_clean hc, mmaFields, hz, ha, hra, hb, hrb]

/-- A team step of a member whose own tiles are good, numbered by TSTEP. -/
theorem fireMxMmat_joins (hc : x.mxClean s) (hz : dfield x.t.v 63 11 = 0) (ht : (s.core x.core).ctx.team ≠ 0)
    (ha : sendsA (taskOf s x.core) (s.core x.core).ctx.team = true →
      (s.core x.core).owns (dfield x.t.v 3 0) = true ∧ (!(s.core x.core).roleOf (dfield x.t.v 3 0)) = true)
    (hb : sendsB (taskOf s x.core) (s.core x.core).ctx.team = true →
      (s.core x.core).owns (dfield x.t.v 7 4) = true ∧ (s.core x.core).roleOf (dfield x.t.v 7 4) = true) :
    fireMxMmat x s = .done (s.updCtx x.core fun c => { (c.pushMx (.mmat (dfield x.t.v 3 0) (dfield x.t.v 7 4) (dfield x.t.v 9 8)
      (dfield x.t.v 10 10 = 1) (s.core x.core).ctx.team c.tstep false none 0 x.ctl)) with tstep := c.tstep + 1 }) false := by
  have hslots : ¬ ((sendsA (taskOf s x.core) (s.core x.core).ctx.team &&
      (!(s.core x.core).owns (dfield x.t.v 3 0) || (s.core x.core).roleOf (dfield x.t.v 3 0))) ||
      (sendsB (taskOf s x.core) (s.core x.core).ctx.team &&
      (!(s.core x.core).owns (dfield x.t.v 7 4) || !(s.core x.core).roleOf (dfield x.t.v 7 4)))) = true := by
    simpa [not_or] using And.intro ha hb
  simp only [fireMxMmat, mmaFields, Trig.mxGate_clean hc, hz, bne_self_eq_false, Bool.false_eq_true, if_false]
  exact (if_neg ht).trans (if_neg hslots)

/-! ## Drains (R236) -/

theorem State.joinFor_frame (s : State) (c : Nat) (t : LTag) :
    (s.joinFor c t).1.cores = s.cores ∧ (s.joinFor c t).1.wait = s.wait := by
  unfold State.joinFor State.resolveTags
  dsimp only
  split
  · exact ⟨rfl, rfl⟩
  · exact ⟨rfl, rfl⟩
  · obtain ⟨hcores, -, -, hwait⟩ := s.label_frame (s.spaceOf c).1 (s.spaceOf c).2 (some mucked) (·.joinAll (normTags t))
    exact ⟨hcores, hwait⟩

/-- The tags of a drain's granules are formed in the label space alone. -/
theorem State.drainTags_frame (s : State) (c acc : Nat) (ctl : LTag) (l : List Nat) :
    (s.drainTags c acc ctl l).1.cores = s.cores ∧ (s.drainTags c acc ctl l).1.wait = s.wait := by
  induction l generalizing s with
  | nil => exact ⟨rfl, rfl⟩
  | cons r rs ih =>
    obtain ⟨hcores, hwait⟩ := s.joinFor_frame c (joinTags [((s.ctx c).acc acc).tags.get [] r, ctl])
    rw [State.drainTags]
    split
    next e =>
      rw [e] at hcores hwait
      exact ⟨hcores, hwait⟩
    next t _ e =>
      rw [e] at hcores hwait
      exact ⟨(ih t).1.trans hcores, (ih t).2.trans hwait⟩

theorem State.drainReady_frame {s t : State} {c acc : Nat} {ctl : LTag} {e : Option Trap} (h : s.drainReady c acc ctl = some (t, e)) :
    t.cores = s.cores ∧ t.wait = s.wait := by
  unfold State.drainReady at h
  split_ifs at h
  · cases h
    exact ⟨rfl, rfl⟩
  · obtain ⟨hcores, hwait⟩ := s.drainTags_frame c acc ctl (List.range 64)
    rw [Option.some.inj h] at hcores hwait
    exact ⟨hcores, hwait⟩

/-- The rows that a drain writes: offset and length of each. -/
def Trig.drainRanges (x : Trig) (s : State) : List (Nat × Nat) :=
  (List.range 64).map fun r => ((x.latch s 0x300).v.toNat + r * (x.latch s 0x301).v.toNat, drainRow (dfield x.t.v 3 2))

/-- What a drain leaves once its tags are formed in `s3`: the writes counted, its status words to come, and the operation behind the earlier
ones. -/
def Trig.drains (x : Trig) (s s3 : State) : State :=
  s3.newId.2.updCtx x.core fun c => ((c.countRanges true (x.drainRanges s)).await [0x37D, 0x37F] s3.nextId).pushMx
    (.drain (dfield x.t.v 1 0) (dfield x.t.v 3 2) (dfield x.t.v 4 4 = 1) (x.latch s 0x300).v.toNat (x.latch s 0x301).v.toNat s3.nextId
      x.ctl (joinTags [x.t.t, x.ctl]))

/-- A destination that a drain admits: a form that there is, and aligned rows that do not overlap and lie in one bank. -/
def Trig.drainFits (x : Trig) (s : State) : Prop :=
  let a := (x.latch s 0x300).v.toNat
  let b := (x.latch s 0x301).v.toNat
  let n := drainRow (dfield x.t.v 3 2)
  dfield x.t.v 3 2 ≠ 3 ∧ dfield x.t.v 63 5 = 0 ∧ a % 64 = 0 ∧ b % 64 = 0 ∧ n ≤ b ∧ a < spadSize ∧
    (a + 63 * b + n - 1) / 0x8000 = a / 0x8000

theorem fireMxDrain_joins {s3 : State} (hc : x.mxClean s) (hf : x.drainFits s)
    (hr : (s.core x.core).rangesRefusal true (x.drainRanges s) = none) (hd : (s.turnFor x.core 2).drained x.core)
    (ht : (s.turnFor x.core 2).drainReady x.core (dfield x.t.v 1 0) x.ctl = some (s3, none)) :
    fireMxDrain x s = .done (x.drains s s3) false := by
  obtain ⟨hform, hz, ha, hb, hn, hs, hbank⟩ := hf
  rw [fireMxDrain, Trig.mxGate_clean hc]
  refine (if_neg (by simp [hform, hz])).trans ((if_neg (by simp [Trig.mxA, Trig.mxB, ha, hb, not_lt.mpr hn, not_le.mpr hs, hbank])).trans ?_)
  simp only [Trig.drainRanges] at hr
  simp only [Trig.mxA, Trig.mxB, hr, hd, ht, Bool.not_true, Bool.false_eq_true, if_false]
  rfl

theorem Trig.drains_frame {s3 : State} {acc : Nat} (ht : (s.turnFor x.core 2).drainReady x.core acc x.ctl = some (s3, none)) :
    (x.drains s s3).wait = (s.turnFor x.core 2).wait ∧ (x.drains s s3).row x.core = s.row x.core := by
  obtain ⟨hcores, hwait⟩ := State.drainReady_frame ht
  refine ⟨hwait, (State.row_updCtx ..).trans ((State.row_congr ?_).trans ((s.turnFor_frame x.core 2).2.2 _))⟩
  simp only [State.core, State.newId, hcores]

/-! ## Zeroing (R238) -/

/-- The accumulators that a zeroing names. -/
def Trig.zeroed (x : Trig) : List Nat := if dfield x.t.v 2 2 = 1 then [0, 1, 2, 3] else [dfield x.t.v 1 0]

/-- While no operation is under way, each accumulator is zeroed at once. -/
theorem Ctx.zeroAll_idle (t : LTag) (l : List Nat) {c : Ctx} (h : c.mxq = []) :
    l.foldl (fun c i => if c.mxq.isEmpty then c.setAcc i (zeroAcc t) else c.pushMx (.zero i t)) c =
      l.foldl (fun c i => c.setAcc i (zeroAcc t)) c := by
  induction l generalizing c with
  | nil => rfl
  | cons i l ih =>
    rw [List.foldl_cons, List.foldl_cons, if_pos (by simp [h])]
    exact ih (c := c.setAcc i (zeroAcc t)) h

theorem fireMxZero_idle (hc : x.mxClean s) (hz : dfield x.t.v 63 3 = 0) (hq : (s.ctx x.core).mxq = []) :
    fireMxZero x s = .done (s.updCtx x.core fun c => x.zeroed.foldl (fun c i => c.setAcc i (zeroAcc x.ctl)) c) false := by
  have hrange : List.range 4 = [0, 1, 2, 3] := rfl
  rw [fireMxZero, Trig.mxGate_clean hc]
  simp only [hz, bne_self_eq_false, Bool.false_eq_true, if_false, hrange]
  exact congrArg (Fired.done · false) (State.updCtx_congr (Ctx.zeroAll_idle x.ctl x.zeroed hq))

end Arithmetic

/-- Settles O16, one trigger after another. -/
theorem mxArithmetic : Obligations.MxArithmetic := by
  intro w
  have hmma : Performs (.mxMma w) false fireMxMma := performs_of_port (p := 0x30B) rfl rfl fun _ _ => rfl
  have hmmat : Performs (.mxMmat w) false fireMxMmat := performs_of_port (p := 0x30C) rfl rfl fun _ _ => rfl
  have hdrain : Performs (.mxDrain w) false fireMxDrain := performs_of_port (p := 0x30D) rfl rfl fun _ _ => rfl
  have hzero : Performs (.mxZero w) false fireMxZero := performs_of_port (p := 0x30F) rfl rfl fun _ _ => rfl
  refine ⟨hmma.does ?_ (fun _ _ _ => rfl) fun _ _ _ => State.row_updCtx .., ?_, ?_,
    hzero.does ?_ (fun _ _ _ => rfl) fun _ _ _ => State.row_updCtx ..⟩
  · rintro x s ⟨hc, hz, ha, hra, hb, hrb⟩
    exact fireMxMma_joins hc hz ha hra hb hrb
  · refine hmmat.does ?_ (fun _ _ _ => rfl) fun _ _ _ => State.row_updCtx ..
    rintro x s ⟨hc, hz, ht, ha, hb⟩
    exact (fireMxMmat_joins hc hz ht ha hb).trans (congrArg (Fired.done · false) (State.updCtx_congr rfl))
  · intro s s1 x g hb hc a b form n ranges hform hz ha hb' hn hs hbank hr s2 s3 hw hd ht
    obtain ⟨hwait, hrow⟩ := Trig.drains_frame ht
    have hfits : x.drainFits s1 := ⟨hform, hz, ha, hb', hn, hs, hbank⟩
    rw [hdrain.exec_alone hb (fireMxDrain_joins hc hfits hr hd ht) (hwait.trans hw) hrow, hdrain.transferJoin_nil hb]
    rfl
  · rintro x s ⟨hc, hz, hq⟩
    exact fireMxZero_idle hc hz hq

end Sys2Proof.Machine
end

section
/-! PROOFS. Matrix operations complete (O46): the operation alone in its queue, what each kind comes to, and a block sum at its
target. -/

namespace Sys2Proof.Machine

/-! ## The operation at the head (R225) -/

section Head

variable {s t : State} {c : Nat} {o : MxOp}

/-- The operation at the head is performed and leaves the queue. -/
def State.mxGone (s : State) (c : Nat) : State := s.updCtx c fun k => { k with mxq := [] }

theorem State.mxFlush_idle (n : Nat) (h : (s.ctx c).mxq = []) : State.mxFlush c n s = s := by
  cases n with
  | zero => rfl
  | succ n => simp only [State.mxFlush, h]

theorem State.mxComplete_only (hq : (s.ctx c).mxq = [o]) (hp : s.mxPerform c o = (t, true)) : s.mxComplete c = t.mxGone c := by
  simp only [State.mxComplete, hq, hp]
  exact State.mxFlush_idle _ (by rw [State.ctx_updCtx_self])

theorem State.mxHead_only (hq : (s.ctx c).mxq = [o]) (p : MxOp → Bool) : s.mxHead c p = p o := by
  simp only [State.mxHead, hq]

/-! ## Fills (R231) -/

variable {slot kn fmt : Nat} {rb ti : Bool} {rows : List (List Byte × List Nat × Nat × LTag)} {ctl : LTag}

theorem exec_mxFillComplete (hq : (s.ctx c).mxq = [.fill slot rb kn fmt rows ti ctl]) :
    exec (.mxFillComplete c) s = .next (s.mxComplete c) := by
  change execMxFillComplete c s = _
  rw [execMxFillComplete, State.mxHead_only hq]
  rfl

theorem State.mxPerform_fill (ht : (s.ctx c).xs.trap = none) :
    s.mxPerform c (.fill slot rb kn fmt rows ti ctl) = (s.doFill c slot rb kn fmt rows ti ctl, true) :=
  if_neg (by rw [← State.ctx, ht]; exact Bool.false_ne_true)

/-- A fill that meets no illegal code, or traps none, writes its slot and its flags. -/
theorem State.doFill_writes (h : ti = true → firstIllegal fmt rows = none) : s.doFill c slot rb kn fmt rows ti ctl =
    let ds := rows.map fun r => (decodeRow fmt r.1 r.2.1, r.2.2.2)
    let tl := tileOf rb (fmtIsBfp fmt) (ds.map fun d => (d.1.1.take (if rb then 64 else kn), d.2)) ctl
    (s.updCore c (·.setSlot slot tl.1)).updCtx c (·.setFlags (ds.foldl (fun a d => a ||| d.1.2) tl.2)) := by
  have hn : (if ti then firstIllegal fmt rows else none) = none := by
    cases ti with
    | false => rfl
    | true => exact h rfl
  rw [State.doFill, hn]

/-- A fill that meets an illegal code under TRAPILL leaves a trap for the next group. -/
theorem State.doFill_traps {code off : Nat} (hti : ti = true) (h : firstIllegal fmt rows = some (code, off))
    (ht : (s.ctx c).xs.trap = none) : s.doFill c slot rb kn fmt rows ti ctl = s.updCtx c fun k =>
      { k with xs := { k.xs with trap := some { cause := 12, val := BitVec.ofNat 64 (code + off * 2 ^ 20) } } } := by
  rw [State.doFill, hti, if_pos rfl, h]
  refine State.updCtx_congr ?_
  rw [Ctx.engineTrap, ht]
  rfl

/-! ## Multiply-accumulates (R232, R235) -/

/-- A multiply-accumulate, of the core alone or of a team. -/
def MxOp.isMultiply : MxOp → Bool
  | .mma _ _ _ _ _ _ => true
  | .mmat _ _ _ _ _ _ _ _ _ _ => true
  | _ => false

theorem exec_mxMmaComplete (hq : (s.ctx c).mxq = [o]) (ho : o.isMultiply = true) :
    exec (.mxMmaComplete c) s = .next (s.mxComplete c) := by
  change execMxMmaComplete c s = _
  rw [execMxMmaComplete, State.mxHead_only hq]
  exact if_pos ho

/-- With its tags resolved, a multiply-accumulate adds its remaining K steps. -/
theorem State.mxPerform_mma {a b acc n : Nat} {zf : Bool}
    (hp : mmaPending ((s.core c).slot a) ((s.core c).slot b) ((s.ctx c).acc acc) = false) :
    s.mxPerform c (.mma a b acc zf n ctl) = (s.updCtx c fun x => x.setAcc acc
      ((x.acc acc).multiply ((s.core c).slot a) ((s.core c).slot b) zf n (32 - n) ctl), true) :=
  if_neg (ne_true_of_eq_false hp)

/-- The same for a team step, of the tiles sent to it. -/
theorem State.mxPerform_mmat {sa sb acc st n : Nat} {zf snt : Bool} {team : BitVec 19} {ta tb : OpSlot}
    (hp : mmaPending ta tb ((s.ctx c).acc acc) = false) :
    s.mxPerform c (.mmat sa sb acc zf team st snt (some (ta, tb)) n ctl) =
      (s.updCtx c fun x => x.setAcc acc ((x.acc acc).multiply ta tb zf n (32 - n) ctl), true) :=
  if_neg (ne_true_of_eq_false hp)

/-! ## The turn of a scratchpad (R98) -/

/-- A scratchpad's turn changes its core's turn alone, or makes the step wait. -/
theorem State.core_turnFor (s : State) (k place d : Nat) : ∃ v, (s.turnFor k place).core d = { s.core d with turn := v } := by
  simp only [State.turnFor]
  split_ifs
  · exact ⟨_, rfl⟩
  · exact ⟨_, rfl⟩
  · rw [State.core_updCore]
    split_ifs with h
    · rw [h]
      exact ⟨_, rfl⟩
    · exact ⟨_, rfl⟩

theorem State.ctx_turnFor (s : State) (k place d : Nat) : (s.turnFor k place).ctx d = s.ctx d := by
  obtain ⟨v, hv⟩ := s.core_turnFor k place d
  rw [State.ctx, hv]
  rfl

/-! ## Drains (R236) -/

/-- A drain that has written its rows answers with the exponent and the clamp count. -/
theorem State.doDrain_done {s1 : State} {acc form off stride tok : Nat} {za : Bool} {rt : LTag}
    (h : s.drainRows c ((s.ctx c).acc acc) form off stride ctl (List.range 64) = (s1, none)) :
    s.doDrain c acc form za off stride tok ctl rt =
      let a := (s.ctx c).acc acc
      let n := ((List.range 64).map fun r => (a.drainRow form r).2).sum
      ((s1.updCtx c fun k => (if za then k.setAcc acc (zeroAcc ctl) else k).setFlags (if n = 0 then 0 else 0x40)).updCore c
        (·.reply tok [(0x37D, { v := BitVec.ofInt 64 (a.ae.getD 0), t := rt }), (0x37F, { v := BitVec.ofNat 64 n, t := rt })]),
        true) := by
  have hflag (n : Nat) : flagIf (n != 0) fSAT = if n = 0 then 0 else 0x40 := by
    cases n <;> rfl
  simp only [State.doDrain, h, ← List.sum_eq_foldl, hflag]

theorem State.mxPerform_drain {acc form off stride tok : Nat} {za : Bool} {rt : LTag} (ht : (s.ctx c).xs.trap = none)
    (hr : rowsPending ((s.ctx c).acc acc).tags = false) :
    s.mxPerform c (.drain acc form za off stride tok ctl rt) = s.doDrain c acc form za off stride tok ctl rt := by
  rw [State.ctx] at ht hr
  exact if_neg (by simp [ht, hr])

theorem exec_mxDrainComplete {acc form off stride tok : Nat} {za : Bool} {rt : LTag}
    (hq : (s.ctx c).mxq = [.drain acc form za off stride tok ctl rt]) :
    exec (.mxDrainComplete c) s = .next (s.whole fun s => (s.turnFor c 2).mxComplete c) := by
  change execMxDrainComplete c s = _
  rw [execMxDrainComplete, State.mxHead_only hq]
  rfl

/-! ## Team steps (R235) -/

/-- A member that has sent its own tiles takes those of its step, once both have come. -/
theorem exec_mmatStepStart {a b acc st n : Nat} {zf : Bool} {team : BitVec 19} {t : Task} {ta tb : Tile}
    (hq : (s.ctx c).mxq = [.mmat a b acc zf team st true none n ctl]) (ht : (s.core c).task = some t)
    (ha : (s.ctx (t.member (teamFields team).1 t.gy)).tiles.find? (Tile.isFor c team st false) = some ta)
    (hb : (s.ctx (t.member t.gx (teamFields team).2.1)).tiles.find? (Tile.isFor c team st true) = some tb) :
    exec (.mmatStepStart c) s = .next (((s.updCtx (t.member (teamFields team).1 t.gy) fun x =>
        { x with tiles := takeTile c (Tile.isFor c team st false) x.tiles }).updCtx
      (t.member t.gx (teamFields team).2.1) fun x => { x with tiles := takeTile c (Tile.isFor c team st true) x.tiles }).updCtx c
      fun x => { x with mxq := [.mmat a b acc zf team st true (some (ta.tile, tb.tile)) n ctl] }) := by
  change execMmatStepStart c s = _
  rw [State.ctx] at hq
  simp only [execMmatStepStart, ht, hq, ha, hb, Bool.not_true, Bool.false_and, Bool.false_eq_true, if_false, if_true]

end Head

/-! ## Block sums (R237) -/

/-- Two changes of a core that agree on it are one. -/
theorem State.updCore_congr {s : State} {c : Nat} {f g : Core → Core} (h : f (s.core c) = g (s.core c)) :
    s.updCore c f = s.updCore c g := by
  simp only [State.updCore, h]

theorem State.turnFor_bsumBuf (s : State) (k place : Nat) : (s.turnFor k place).bsumBuf = s.bsumBuf := by
  simp only [State.turnFor]
  split_ifs <;> rfl

theorem State.choose_frame (s : State) : s.choose.2.cores = s.cores ∧ s.choose.2.bsums = s.bsums ∧ s.choose.2.bsumBuf = s.bsumBuf := by
  unfold State.choose
  split <;> exact ⟨rfl, rfl, rfl⟩

/-- The turn that a block sum takes at its target: the target's own `mx` unit's, or a remote request's. -/
def State.bsumTurn (s : State) (b : BsumSet) : State := if b.sender = b.target then s.turnFor b.target 2 else s.remoteTurn b.target

theorem State.bsumTurn_frame (s : State) (b : BsumSet) : (s.bsumTurn b).bsums = s.bsums ∧ (s.bsumTurn b).bsumBuf = s.bsumBuf ∧
    ∀ d, ∃ v, (s.bsumTurn b).core d = { s.core d with turn := v } := by
  unfold State.bsumTurn
  split_ifs
  · exact ⟨(s.turnFor_frame ..).2.1, s.turnFor_bsumBuf .., s.core_turnFor _ _⟩
  · obtain ⟨hcores, hsums, hbuf⟩ := s.choose_frame
    refine ⟨(s.choose.2.turnFor_frame ..).2.1.trans hsums, (s.choose.2.turnFor_bsumBuf ..).trans hbuf, fun d => ?_⟩
    obtain ⟨v, hv⟩ := s.choose.2.core_turnFor b.target (4 + s.choose.1 % 5) d
    exact ⟨v, hv.trans (by simp only [State.core, hcores])⟩

theorem State.bsumTurn_admits (s : State) (b x : BsumSet) (d : Nat) : ((s.bsumTurn b).core d).admits x = (s.core d).admits x := by
  obtain ⟨v, hv⟩ := (s.bsumTurn_frame b).2.2 d
  rw [hv]
  rfl

theorem State.noteVec_cores (s : State) (v : Option (List Nat)) (d o : Nat) : (s.noteVec v d o).cores = s.cores := by
  cases v <;> rfl

/-- The only set that its target holds buffered is applied in its turn. -/
theorem State.bsumDrain_only {s t : State} {b : BsumSet} (hb : s.bsumBuf = [b])
    (ha : (s.core b.target).admits b = some ((s.core b.target).bsumHead b.off).applied) (hp : s.bsumApply b = (t, none)) :
    State.bsumDrain b 1 s = ({ t with bsumBuf := t.bsumBuf.filter (·.id != b.id) }, none) := by
  have hsame : s.bsumBuf.filter (·.sameTarget b) = [b] := by simp [hb, BsumSet.sameTarget]
  simp [State.bsumDrain, hsame, ha, hp]

section Arrives

variable {s : State} {i : Nat} {b : BsumSet}

/-- A block sum on its way no more, whose vector its target's die knows. -/
def State.bsumTaken (s : State) (i : Nat) (b : BsumSet) : State :=
  ({ s.bsumTurn b with bsums := s.bsums.eraseIdx i } : State).noteVec b.vec (dieOf b.target) (dieOf b.sender)

theorem State.bsumTaken_core (d : Nat) : ∃ v, (s.bsumTaken i b).core d = { s.core d with turn := v } := by
  obtain ⟨v, hv⟩ := (s.bsumTurn_frame b).2.2 d
  refine ⟨v, Eq.trans ?_ hv⟩
  rw [State.core, State.bsumTaken, State.noteVec_cores]
  rfl

theorem State.bsumTaken_head (off d : Nat) : ((s.bsumTaken i b).core d).bsumHead off = (s.core d).bsumHead off := by
  obtain ⟨v, hv⟩ := s.bsumTaken_core (i := i) (b := b) d
  rw [hv]
  rfl

theorem State.bsumTaken_admits (d : Nat) (x : BsumSet) : ((s.bsumTaken i b).core d).admits x = (s.core d).admits x := by
  obtain ⟨v, hv⟩ := s.bsumTaken_core (i := i) (b := b) d
  rw [hv]
  rfl

/-- The same, alone in the buffer of its target. -/
def State.bsumAlone (s : State) (i : Nat) (b : BsumSet) : State := { s.bsumTaken i b with bsumBuf := [b] }

/-- A header that has applied one set more. -/
def BsumHead.counted (h : BsumHead) : BsumHead := { h with applied := h.applied + 1, done := h.applied + 1 = h.nsend }

/-- A set that has no place in its header is counted bad. -/
theorem State.bsumArrives_bad (ha : (s.core b.target).admits b = none) :
    s.bsumArrives i b = (s.bsumTaken i b).updCore b.target fun k => k.putBsumHead b.off
      { (s.core b.target).bsumHead b.off with bad := min 65535 (((s.core b.target).bsumHead b.off).bad + 1) } := by
  obtain ⟨hsums, -, -⟩ := s.bsumTurn_frame b
  have hadm : ((s.bsumTurn b).core b.target).admits b = none := (s.bsumTurn_admits ..).trans ha
  have hbad : s.bsumArrives i b = (s.bsumTaken i b).updCore b.target (·.bsumBad b.off) := by
    rw [State.bsumTaken, ← hsums]
    exact if_pos (hadm ▸ Bool.or_true _)
  rw [hbad]
  refine State.updCore_congr ?_
  rw [Core.bsumBad, State.bsumTaken_head]

/-- An admitted set that finds no other buffered is put into its target's buffer, which is then worked off. -/
theorem State.bsumArrives_admitted {t : State} {n : Nat} (hbuf : s.bsumBuf = []) (ha : (s.core b.target).admits b = some n)
    (hd : State.bsumDrain b 1 (s.bsumAlone i b) = (t, none)) : s.bsumArrives i b = t := by
  obtain ⟨hsums, hempty, -⟩ := s.bsumTurn_frame b
  have hgo : ((s.bsumTurn b).bsumBuf.any (fun x => x.sameTarget b && x.index = b.index) ||
      (((s.bsumTurn b).core b.target).admits b).isNone) = false := by
    rw [hempty, hbuf, s.bsumTurn_admits, ha]
    rfl
  have hd' : State.bsumDrain b ((s.bsumTurn b).bsumBuf.length + 1)
      { ({ s.bsumTurn b with bsums := (s.bsumTurn b).bsums.eraseIdx i } : State).noteVec b.vec (dieOf b.target) (dieOf b.sender) with
        bsumBuf := (s.bsumTurn b).bsumBuf ++ [b] } = (t, none) := by
    rw [hsums, hempty, hbuf]
    exact hd
  refine (if_neg (ne_true_of_eq_false hgo)).trans ?_
  split
  next e => exact congrArg Prod.fst (e.symm.trans hd')
  next e => exact absurd (congrArg Prod.snd (e.symm.trans hd')) nofun

/-- A set whose turn it is is applied. -/
theorem State.bsumArrives_applied {s1 : State} (hbuf : s.bsumBuf = [])
    (ha : (s.core b.target).admits b = some ((s.core b.target).bsumHead b.off).applied)
    (hr : (s.bsumAlone i b).bsumRecords b.target b.off b.exp.toInt b.cnt.toNat 0 b.sums = (s1, none))
    (hh : (s1.core b.target).bsumHead b.off = (s.core b.target).bsumHead b.off) :
    s.bsumArrives i b = { s1.updCore b.target fun k => k.putBsumHead b.off ((s.core b.target).bsumHead b.off).counted with
      bsumBuf := s1.bsumBuf.filter (·.id != b.id) } := by
  have happly : (s.bsumAlone i b).bsumApply b =
      (s1.updCore b.target fun k => k.putBsumHead b.off ((s.core b.target).bsumHead b.off).counted, none) := by
    rw [State.bsumApply, hr]
    refine congrArg (·, none) (State.updCore_congr ?_)
    rw [hh]
    rfl
  have hnext : ((s.bsumAlone i b).core b.target).admits b = some (((s.bsumAlone i b).core b.target).bsumHead b.off).applied :=
    (State.bsumTaken_admits ..).trans (ha.trans (congrArg (fun h : BsumHead => some h.applied) (State.bsumTaken_head ..).symm))
  exact State.bsumArrives_admitted hbuf ha (State.bsumDrain_only rfl hnext happly)

end Arrives

theorem exec_bsumSetArrive {s : State} {i : Nat} {b : BsumSet} (hi : s.bsums[i]? = some b) (ht : (s.ctx b.target).xs.trap = none)
    (hc : s.bsumCovered b) : exec (.bsumSetArrive i) s = .next (s.whole (·.bsumArrives i b)) := by
  change execBsumSetArrive i s = _
  simp [execBsumSetArrive, hi, ht, hc]

/-- Settles O46, one kind of operation after another, and the two outcomes of a block sum. -/
theorem matrixEvents : Obligations.MatrixEvents := by
  refine ⟨fun s c o hq => ?_, fun s i b hi hbuf ht hc => ?_⟩
  · intro gone k
    refine ⟨?_, ?_, ?_, ?_, ?_⟩
    · rintro slot rb kn fmt rows ti ctl rfl ht
      refine ⟨fun h => ?_, fun code off hti h => ?_⟩
      · rw [exec_mxFillComplete hq, State.mxComplete_only hq (State.mxPerform_fill ht), State.doFill_writes h]
        rfl
      · rw [exec_mxFillComplete hq, State.mxComplete_only hq (State.mxPerform_fill ht), State.doFill_traps hti h ht]
        rfl
    · rintro a b acc zf n ctl rfl hp
      exact (exec_mxMmaComplete hq rfl).trans (congrArg _ (State.mxComplete_only hq (State.mxPerform_mma hp)))
    · rintro sa sb acc zf team st snt ta tb n ctl rfl hp
      exact (exec_mxMmaComplete hq rfl).trans (congrArg _ (State.mxComplete_only hq (State.mxPerform_mmat hp)))
    · rintro acc form za off stride tok ctl rt s1 rfl ht hr hd
      have hctx : (s.turnFor c 2).ctx c = s.ctx c := s.ctx_turnFor c 2 c
      have hperf := (State.mxPerform_drain (s := s.turnFor c 2) (ctl := ctl) (by rw [hctx]; exact ht) (by rw [hctx]; exact hr)).trans
        (State.doDrain_done (za := za) (tok := tok) (rt := rt) (by rw [hctx]; exact hd))
      rw [hctx] at hperf
      exact answers_of_whole (exec_mxDrainComplete hq) (State.mxComplete_only (hctx ▸ hq) hperf)
    · rintro a b acc zf team st n ctl t ta tb rfl ht ca cb ha hb
      exact exec_mmatStepStart hq ht ha hb
  · intro s0 s' h
    refine ⟨fun ha => ?_, fun s1 ha hr hh => ?_⟩
    · exact answers_of_whole (exec_bsumSetArrive hi ht hc) (State.bsumArrives_bad ha)
    · exact answers_of_whole (exec_bsumSetArrive hi ht hc) (State.bsumArrives_applied hbuf ha hr hh)

end Sys2Proof.Machine
end

section
/-! PROOFS. Blocks of the weight-driven mode (O47): what the step of a block and the step of a payload come to, the effect of each block, its
successor, and the payload granule by granule or whole. -/

namespace Sys2Proof.Machine

/-! ## A block that opens (R240, R241) -/

/-- A block that opens: the sequencer is ready and at a header, which it can read, which is `op`'s, and which passes its checks. -/
theorem State.blockOpens_some {s s2 : State} {c op : Nat} {t : Task} {w : WDrive} {h : Hdr} (ho : s.blockOpens c op = some (t, w, h, s2)) :
    ∃ w0 s1 v g, s.wdReady c = some (t, w0) ∧ s.blockRead c t w0.block w0.block = (s1, .ok (v, g)) ∧ (s.ctx c).xs.trap = none ∧
      w0.phase = .header ∧ (hdrOf v).op = op ∧ (hdrOf v).crcp = false ∧ hdrCheck (s.core c) t w0.block v = none ∧
      w = { w0 with hdr := v, phase := .payload } ∧ h = hdrOf v ∧ s2 = s1.updCtx c fun k => { k with wd := some w } := by
  unfold State.blockOpens at ho
  split at ho
  next t0 w0 hready =>
    split at ho
    next s1 v g hread =>
      dsimp only at ho
      split_ifs at ho with hc
      simp only [Bool.and_eq_true, Option.isNone_iff_eq_none, decide_eq_true_eq, Bool.not_eq_true'] at hc
      obtain ⟨⟨⟨⟨htrap, hphase⟩, hop⟩, hcrc⟩, hcheck⟩ := hc
      cases ho
      exact ⟨w0, s1, v, g, hready, hread, htrap, hphase, hop, hcrc, hcheck, rfl, rfl, rfl⟩
    next => cases ho
  next => cases ho

theorem State.wdBoundary_none {s : State} {c : Nat} (h : (s.ctx c).xs.trap = none) : s.wdBoundary c = none := by
  rw [State.wdBoundary, h]
  rfl

/-- The header of a block that opens names the block. -/
theorem op_of_blockOpens {s s2 : State} {c op : Nat} {t : Task} {w : WDrive} {h : Hdr} (ho : s.blockOpens c op = some (t, w, h, s2)) :
    h.op = op := by
  obtain ⟨w0, s1, v, g, -, -, -, -, hop, -, -, -, hh, -⟩ := State.blockOpens_some ho
  exact (congrArg Hdr.op hh).trans hop

/-- The step of a block that opens is its effect. -/
theorem State.wdBlock_opens {s s2 : State} {c op : Nat} {t : Task} {w : WDrive} {h : Hdr}
    (ho : s.blockOpens c op = some (t, w, h, s2)) : s.wdBlock c op = s2.wdOpen c t w h := by
  obtain ⟨w0, s1, v, g, hready, hread, htrap, hphase, hop, hcrc, hcheck, rfl, rfl, rfl⟩ := State.blockOpens_some ho
  simp [State.wdBlock, hready, State.wdBoundary_none htrap, hphase, State.wdHeader, hread, hop, hcheck, hcrc]

/-! ## The effects of the blocks (R242) -/

section Effects

variable {s : State} {c : Nat} {t : Task} {w : WDrive} {h : Hdr}

/-- A block that begins with a payload waits for it; one without goes on to its successor. -/
theorem State.wdOpen_payload (hp : h.op ∈ [0, 1, 2, 3, 4, 6, 9]) :
    s.wdOpen c t w h = if h.total ≤ w.restart then s.wdSuccessor c t w h else s := by
  have hother : ∀ m ∈ [0, 1, 2, 3, 4, 6, 9], ∀ n ∈ [oAct, oStore, oSend, oSync, oExit, oTrapb], m ≠ n := by decide
  replace hother := hother h.op hp
  simp only [List.forall_mem_cons] at hother
  obtain ⟨hact, hstore, hsend, hsync, hexit, htrapb, -⟩ := hother
  simp only [State.wdOpen, hact, hstore, hsend, hsync, hexit, htrapb, if_false]

theorem State.wdOpen_act (hop : h.op = 5) (hp : (s.ctx c).anyPending (spanRegs h.num 32 h.off h.ncol) = false) :
    s.wdOpen c t w h = (s.updCtx c (·.actApply h)).wdSuccessor c t w h := by
  simp [State.wdOpen, hop, oAct, hp]

/-- A STORE whose registers are ready, and whose destination may be written, writes its bytes and counts them in the buffer. -/
theorem State.wdOpen_store {s3 : State} {n : Nat} (hop : h.op = 7) (hp : (s.ctx c).anyPending h.srcRegs = false)
    (hbs : (s.ctx c).srcBytes h ≠ [])
    (hr : (s.core c).spadRefusal (s.core c).banks (((s.ctx c).bufs.get {} h.num).base.toNat + h.off) ((s.ctx c).srcBytes h).length
      true (BitVec.ofNat 64 w.block) = none)
    (hw : (s.turnFor c 1).writeBytes c t (s.ctx c).ctlab
      ((partsOf (spadAddr (((s.ctx c).bufs.get {} h.num).base.toNat + h.off)) ((s.ctx c).srcBytes h).length).map fun p =>
        (Loc.spad c (p.1.toNat % 2 ^ 20), p.2, p.1, 0)) ((s.ctx c).srcBytes h) = (s3, n, none)) :
    s.wdOpen c t w h =
      (s3.updCtx c (·.bufCount (((s.ctx c).bufs.get {} h.num).base.toNat + h.off) n true)).wdSuccessor c t w h := by
  obtain ⟨v, hv⟩ := s.core_turnFor c 1 c
  have hr' : ((s.turnFor c 1).core c).spadRefusal ((s.turnFor c 1).core c).banks (((s.ctx c).bufs.get {} h.num).base.toNat + h.off)
      ((s.ctx c).srcBytes h).length true (BitVec.ofNat 64 w.block) = none := by
    rw [hv]
    exact hr
  have hne : ((s.ctx c).srcBytes h).isEmpty = false := List.isEmpty_eq_false_iff.mpr hbs
  have hstore : s.wdOpen c t w h = s.wdStore c t w h := by simp [State.wdOpen, hop, oAct, oStore]
  simp only [hstore, State.wdStore, hp, hne, hr', hw, Bool.false_eq_true, if_false]

/-- A SEND with a dword left sends it, and goes on after the last. -/
theorem State.wdOpen_send {s3 : State} (hop : h.op = 8) (hp : (s.ctx c).anyPending h.srcRegs = false) (hl : w.sent < h.dwords)
    (hs : s.send c t h.dx h.dy h.num ((s.ctx c).sendDword h w.sent).1 ((s.ctx c).sendDword h w.sent).2 = .sent s3) :
    let w' : WDrive := { w with sent := w.sent + 1 }
    let s4 := s3.updCtx c fun k => { k with wd := some w' }
    s.wdOpen c t w h = if h.dwords ≤ w.sent + 1 then s4.wdSuccessor c t w' h else s4 := by
  simp [State.wdOpen, hop, oAct, oStore, oSend, State.wdSend, hp, hl, hs]

/-- A SYNC arrives, once the core's accesses are served. -/
theorem State.wdOpen_sync {r : Nat × Nat × Nat × Nat} (hop : h.op = 10) (hb : (s.ctx c).barrierBusy = false)
    (hr : s.barRect c t (h.arg &&& BitVec.ofNat 64 (2 ^ 40 - 1)) = some (some r)) (hq : ∀ q ∈ s.reqs, q.isOf c = false)
    (hu : dfield (h.arg &&& BitVec.ofNat 64 (2 ^ 40 - 1)) 3 0 = 2 ∨ ∀ q ∈ s.unpaired, q.isOf c = false) (hd : s.refusalDue c = false) :
    s.wdOpen c t w h = (s.updCtx c fun k => { k with wd := some { w with phase := .sync } }).arrive c t
      (if dfield (h.arg &&& BitVec.ofNat 64 (2 ^ 40 - 1)) 3 0 = 2 then none else some r) true := by
  have hserved : (s.reqs.any (·.isOf c) || (dfield (h.arg &&& BitVec.ofNat 64 (2 ^ 40 - 1)) 3 0 != 2 && s.unpaired.any (·.isOf c)) ||
      s.refusalDue c) = false := by
    simpa [hd, or_iff_not_imp_left] using And.intro hq hu
  simp only [State.wdOpen, hop, oAct, oStore, oSend, oSync, State.wdSync, hb, hr, hserved]
  simp

theorem State.wdOpen_exit (hop : h.op = 11) : s.wdOpen c t w h = s.wdEnd c w 0 (dfield h.arg 31 0) := by
  simp [State.wdOpen, hop, oAct, oStore, oSend, oSync, oExit]

/-- A TRAPB that finds its successor raises its breakpoint there. -/
theorem State.wdOpen_trapb (hop : h.op = 12) (hs : w.stuck h = false) : s.wdOpen c t w h =
    (s.wdSuccessor c t w h).raise c .x { cause := 15, val := BitVec.ofNat 64 (dfield h.arg 23 0) } := by
  simp [State.wdOpen, hop, oAct, oStore, oSend, oSync, oExit, oTrapb, hs, State.wdTrap]

end Effects

/-! ## Successors (R243) -/

section Successors

variable (s : State) (c : Nat) (t : Task) (w : WDrive) (h : Hdr)

/-- The mode at the point where it takes its successor. -/
def State.wdAt : State := s.updCtx c fun k => { k with wd := some { w with phase := .successor } }

/-- The mode at the next block, `va`. -/
def State.wdGo (va : Nat) (st : List Nat) : State := (s.wdAt c w).updCtx c fun k => { k with wd := some (w.next va st) }

variable {s c t w h}

theorem State.wdSuccessor_offset (hk : h.skind = 0) : s.wdSuccessor c t w h =
    s.wdGo c w (if h.soff = 0 then w.rel (h.grans + 1) else w.rel h.soff) w.bstk := by
  rw [State.wdSuccessor, hk]
  rfl

theorem State.wdSuccessor_end (hk : h.skind = 1) : s.wdSuccessor c t w h = (s.wdAt c w).wdEnd c w 1 0 := by
  rw [State.wdSuccessor, hk]
  rfl

theorem State.wdSuccessor_call (hk : h.skind = 2) : s.wdSuccessor c t w h =
    if w.bstk.length < 4 then s.wdGo c w (w.rel h.soff) (w.rel (h.grans + 1) :: w.bstk)
    else (s.wdAt c w).raise c .x { cause := 4, reason := 8, val := BitVec.ofNat 64 w.block } := by
  rw [State.wdSuccessor, hk]
  by_cases hl : w.bstk.length < 4
  · rw [if_pos hl]
    exact if_neg (Nat.not_le.mpr hl)
  · rw [if_neg hl]
    exact if_pos (Nat.not_lt.mp hl)

theorem State.wdSuccessor_return (hk : h.skind = 3) : (w.bstk = [] → s.wdSuccessor c t w h =
      (s.wdAt c w).raise c .x { cause := 4, reason := 9, val := BitVec.ofNat 64 w.block }) ∧
    ∀ r rs, w.bstk = r :: rs → s.wdSuccessor c t w h = s.wdGo c w r rs := by
  simp only [State.wdSuccessor, hk]
  refine ⟨fun hb => ?_, fun r rs hb => ?_⟩
  · split
    next => rfl
    next e => cases hb.symm.trans e
  · split
    next e => cases hb.symm.trans e
    next e =>
      cases hb.symm.trans e
      rfl

/-- A SELECT whose value is clean, shown and inside its table takes the entry that it selects. -/
theorem State.wdSelect_takes {s3 s4 : State} {g : Vec} {j : LTag} {x port : Nat} {tag : LTag}
    (hv : (s.ctx c).selectValue h = (x, tag, port)) (hp : (s.ctx c).portPending port = false)
    (hh : s.hiddenTag (s.spaceOf c).1 (s.spaceOf c).2 (toTag tag) = (s3, none, false)) (hm : isMuck tag = false)
    (hlo : 0 ≤ toSigned 32 x) (hhi : toSigned 32 x < (h.slen / 4 : Nat))
    (hr : s3.blockRead c t w.block (w.block + 64 + (toSigned 32 x).toNat * 4 / 64 * 64) = (s4, .ok (g, j))) :
    s.wdSelect c t w h = s4.updCtx c fun k => { (k.joinCtl .x [tag]) with
      wd := some (w.next (w.rel (toSigned 32 (elem 32 g ((toSigned 32 x).toNat % 16)))) w.bstk) } := by
  have hin : (decide (toSigned 32 x < 0) || decide (((h.slen / 4 : Nat) : Int) ≤ toSigned 32 x)) = false :=
    Bool.or_eq_false_iff.mpr ⟨decide_eq_false (Int.not_lt.mpr hlo), decide_eq_false (Int.not_le.mpr hhi)⟩
  simp only [State.wdSelect, hv, hp, hh, hm, hin, hr, Bool.or_self, Bool.false_eq_true, if_false]

theorem State.wdSuccessor_select (hk : h.skind = 4) :
    s.wdSuccessor c t w h = (s.wdAt c w).wdSelect c t { w with phase := .successor } h := by
  rw [State.wdSuccessor, hk]
  rfl

end Successors

/-! ## Payloads (R245) -/

section Payload

variable {s s1 : State} {c : Nat} {t : Task} {w : WDrive}

/-- In a block's payload, where no trap waits and granules are left, the step takes it whole or the next granule of it. -/
theorem State.wdPayload_goes (hr : s.wdReady c = some (t, w)) (ht : (s.ctx c).xs.trap = none) (hp : w.phase = .payload)
    (hl : w.restart < (hdrOf w.hdr).total) :
    s.wdPayload c = if (hdrOf w.hdr).whole then s.wdWhole c t w (hdrOf w.hdr) else s.wdGranule c t w (hdrOf w.hdr) := by
  have hgo : (w.phase != .payload || decide ((hdrOf w.hdr).total ≤ w.restart)) = false := by simp [hp, hl]
  simp only [State.wdPayload, hr, State.wdBoundary_none ht, hgo, Bool.false_eq_true, if_false]

variable {h : Hdr}

/-- The next granule, which can be read and holds no illegal code to trap, is applied. -/
theorem State.wdGranule_applies {g : Vec × LTag} (hm : h.op = 1 → (s.ctx c).anyPending (h.mvSrc (w.restart / h.grans)) = false)
    (hr : s.blockRead c t w.block (w.block + 64 + 64 * (w.restart % h.grans)) = (s1, .ok g))
    (hi : h.illegal (s1.ctx c) ((bytesOf 64 g.1.toNat).take (h.slen - 64 * (w.restart % h.grans))) = none) :
    let w' : WDrive := { w with restart := w.restart + 1 }
    let s2 := s1.updCtx c (·.granApply h w.restart g)
    s.wdGranule c t w h = if h.total ≤ w.restart + 1 then s2.wdSuccessor c t w' h else s2.updCtx c fun k => { k with wd := some w' } := by
  have hready : (decide (h.op = oMvacc) && (s.ctx c).anyPending (h.mvSrc (w.restart / h.grans))) = false := by
    by_cases hop : h.op = oMvacc
    · exact Bool.and_eq_false_iff.mpr (.inr (hm hop))
    · exact Bool.and_eq_false_iff.mpr (.inl (decide_eq_false hop))
  simp only [State.wdGranule, hready, hr, hi, Bool.false_eq_true, if_false]

/-- An MMACC whose slot and accumulator are ready takes its payload whole. -/
theorem State.wdWhole_mmacc {gs : List (Vec × LTag)} (hr : s.payloadRead c t w.block 0 h.grans = (s1, .ok gs)) (hop : h.op = 2)
    (hq : (s.ctx c).mxq = []) (hp : mmaPending ((s.core c).slot h.abase) {} ((s.ctx c).acc h.num) = false)
    (hi : h.illegal (s.ctx c) ((payloadBytes h.slen gs).map (·.1)) = none) :
    s.wdWhole c t w h = (s1.updCore c (·.mmacc h (payloadBytes h.slen gs))).wdSuccessor c t { w with restart := h.total } h := by
  rw [State.ctx] at hq hp hi
  simp [State.wdWhole, hop, hq, hp, hr, hi, Hdr.unapplied, oNop, oSelect, oMmacc]

/-- A payload that is not applied is read whole, and the block goes on. -/
theorem State.wdWhole_unapplied {gs : List (Vec × LTag)} (hr : s.payloadRead c t w.block 0 h.grans = (s1, .ok gs))
    (hop : h.op = 0 ∨ h.op = 9) : s.wdWhole c t w h = s1.wdSuccessor c t w h := by
  rcases hop with hop | hop <;> simp [State.wdWhole, hop, hr, Hdr.unapplied, oNop, oSelect, oMmacc]

theorem Hdr.whole_of_op (hop : h.op = 2 ∨ h.op = 0 ∨ h.op = 9) : h.whole = true := by
  rcases hop with hop | hop | hop <;> simp [Hdr.whole, Hdr.unapplied, hop, oMmacc, oNop, oSelect]

end Payload

/-- Settles O47: each block's effect, each kind of successor, and the payload's steps. -/
theorem weightBlocks : Obligations.WeightBlocks := by
  refine ⟨fun s c op t w h s2 ho => ?_, fun s c t w h => ?_, fun s c t w s1 hr ht hp => ?_⟩
  · have hop : h.op = op := op_of_blockOpens ho
    have hblock {s' : State} (e : s2.wdOpen c t w h = s') : s.wdBlock c op = s' := (State.wdBlock_opens ho).trans e
    refine ⟨?_, ?_, ?_, ?_, ?_, ?_, ?_⟩
    · intro e he hop'
      have hpayload : h.op ∈ [0, 1, 2, 3, 4, 6, 9] := by
        rw [hop, hop']
        exact List.mem_map_of_mem (f := Prod.snd) he
      have hstep := hblock (State.wdOpen_payload hpayload)
      simp only [List.mem_cons, List.not_mem_nil, or_false] at he
      rcases he with rfl | rfl | rfl | rfl | rfl | rfl | rfl <;> cases hop' <;> exact answers_of_whole rfl hstep
    · rintro rfl hpend
      exact answers_of_whole rfl (hblock (State.wdOpen_act hop hpend))
    · rintro s3 n rfl hpend bs off hbs href hwrite
      exact answers_of_whole rfl (hblock (State.wdOpen_store hop hpend hbs href hwrite))
    · rintro s3 rfl hpend hleft d hsend w' s4
      exact answers_of_whole rfl (hblock (State.wdOpen_send hop hpend hleft hsend))
    · rintro r rfl v hbusy hrect hreqs hunp hdue
      exact answers_of_whole rfl (hblock (State.wdOpen_sync hop hbusy hrect hreqs hunp hdue))
    · rintro rfl
      exact answers_of_whole rfl (hblock (State.wdOpen_exit hop))
    · rintro rfl hstuck
      exact answers_of_whole rfl (hblock (State.wdOpen_trapb hop hstuck))
  · refine ⟨State.wdSuccessor_offset, State.wdSuccessor_end, State.wdSuccessor_call, fun hk => ?_, ?_⟩
    · obtain ⟨hnil, hcons⟩ := State.wdSuccessor_return (s := s) (c := c) (t := t) (w := w) hk
      split
      next hb => exact hnil hb
      next r rs hb => exact hcons r rs hb
    · intro s3 s4 g j hk v hpend hhid hmuck hlo hhi n hread
      exact (State.wdSuccessor_select hk).trans (State.wdSelect_takes rfl hpend hhid hmuck hlo hhi hread)
  · intro h w' hleft
    have hgo := State.wdPayload_goes hr ht hp hleft
    refine ⟨fun g hwhole hpend hread hill => ?_, fun gs hread => ⟨fun hop hq hpend hill => ?_, fun hop => ?_⟩⟩
    · rw [if_neg (ne_true_of_eq_false hwhole)] at hgo
      exact answers_of_whole (f := (·.wdPayload c)) rfl (hgo.trans (State.wdGranule_applies hpend hread hill))
    · rw [if_pos (Hdr.whole_of_op (.inl hop))] at hgo
      exact answers_of_whole (f := (·.wdPayload c)) rfl (hgo.trans (State.wdWhole_mmacc hread hop hq hpend hill))
    · rw [if_pos (Hdr.whole_of_op (.inr hop))] at hgo
      exact answers_of_whole (f := (·.wdPayload c)) rfl (hgo.trans (State.wdWhole_unapplied hread hop))

end Sys2Proof.Machine
end

section
/-! PROOFS. Labels made, joined and tested (O18), the operations of a whole label space (O19), CTLAB and the space's fields (O20): what an
operation of `lb` comes to where its space exists, from which each statement follows operation by operation. -/

namespace Sys2Proof.Machine

/-! ## The time of a resolution (R267) -/

theorem State.choose_wait (s : State) : s.choose.2.wait = s.wait := by
  unfold State.choose
  split <;> rfl

theorem State.row_of_cores {s t : State} (h : t.cores = s.cores) (d : Nat) : t.row d = s.row d :=
  State.row_congr (by rw [State.core, State.core, h])

/-- Resolving tags takes free choices alone, and at least a cycle for each step. -/
theorem State.pathTime_frame (s : State) (l : List Bool) : (s.pathTime l).2.cores = s.cores ∧ (s.pathTime l).2.now = s.now ∧
    (s.pathTime l).2.wait = s.wait ∧ l.length ≤ (s.pathTime l).1 := by
  induction l generalizing s with
  | nil => exact ⟨rfl, rfl, rfl, le_rfl⟩
  | cons b l ih =>
    cases b with
    | false =>
      obtain ⟨hcores, hnow, hwait, hlen⟩ := ih s
      exact ⟨hcores, hnow, hwait, Nat.succ_le_succ hlen⟩
    | true =>
      obtain ⟨hcores, hnow, hwait, hlen⟩ := ih s.choose.2
      refine ⟨hcores.trans s.choose_frame.1, hnow.trans s.choose_hbm.2, hwait.trans s.choose_wait, ?_⟩
      simp only [State.pathTime, List.length_cons]
      split_ifs <;> omega

/-- On the fast path each step takes one cycle, and nothing is chosen. -/
theorem State.pathTime_fast (s : State) {l : List Bool} (h : ∀ b ∈ l, b = false) : s.pathTime l = (l.length, s) := by
  induction l with
  | nil => rfl
  | cons b l ih =>
    obtain ⟨rfl, hl⟩ := List.forall_mem_cons.mp h
    simp [State.pathTime, ih hl]

/-- The results of an operation land when its tags are resolved. -/
theorem State.lbSend_eq (s : State) (c : Nat) (o : LbOp) (ws : LWrite) : s.lbSend c o ws =
    ((s.pathTime o.path).2.sampled 4 c (s.pathTime o.path).1).updCtx c
      (·.send { due := s.now + 2 * (s.pathTime o.path).1, sw := ws }) := by
  rw [← (s.pathTime_frame o.path).2.1]
  rfl

theorem State.lbSend_wait (s : State) (c : Nat) (o : LbOp) (ws : LWrite) : (s.lbSend c o ws).wait = s.wait := by
  rw [State.lbSend_eq, State.updCtx_wait]
  exact (s.pathTime_frame o.path).2.2.1

theorem State.lbSend_row (s : State) (c : Nat) (o : LbOp) (ws : LWrite) (d : Nat) : (s.lbSend c o ws).row d = s.row d := by
  rw [State.lbSend_eq, State.row_updCtx]
  exact State.row_of_cores (s.pathTime_frame o.path).1 d

theorem State.lbSend_fast (s : State) (c : Nat) (o : LbOp) (ws : LWrite) (h : ∀ b ∈ o.path, b = false) : s.lbSend c o ws =
    (s.sampled 4 c o.path.length).updCtx c (·.send { due := s.now + 2 * o.path.length, sw := ws }) := by
  rw [State.lbSend_eq, State.pathTime_fast s h]

theorem State.lbSend_due (s : State) (c : Nat) (o : LbOp) (ws : LWrite) : ∃ (n : Nat) (s' : State), o.path.length ≤ n ∧
    s'.cores = s.cores ∧ s.lbSend c o ws = s'.updCtx c (·.send { due := s.now + 2 * n, sw := ws }) := by
  obtain ⟨hcores, -, -, hlen⟩ := s.pathTime_frame o.path
  exact ⟨(s.pathTime o.path).1, (s.pathTime o.path).2.sampled 4 c (s.pathTime o.path).1, hlen, hcores, s.lbSend_eq c o ws⟩

/-! ## What an operation comes to (R267 to R269, R271) -/

/-- What operation `o` comes to in the label space of core `c`. -/
abbrev State.lbRun (s : State) (c : Nat) (f : LRun → LRun × LWrite) : State × Option Trap × LWrite :=
  s.label (s.spaceOf c).1 (s.spaceOf c).2 [] f

/-- What a full table leaves: the ports of the operation wait, and the X stream takes the trap at its next group. -/
def State.lbStuck (s : State) (c : Nat) (o : LbOp) (tr : Trap) : State :=
  s.newId.2.updCtx c fun k => { k.await (lbPorts o.op) s.nextId with
    lbops := k.lbops ++ [{ o with token := s.nextId }], xs := { k.xs with trap := k.xs.trap.orElse fun _ => some tr } }

section Unit

variable {x : Trig} {s : State} {o : LbOp}

theorem Trig.lb_performed (h : (s.lbRun x.core (·.perform o)).2.1 = none) :
    x.lb s o = .done ((s.lbRun x.core (·.perform o)).1.lbSend x.core o (s.lbRun x.core (·.perform o)).2.2) false := by
  obtain ⟨r, hr⟩ : ∃ r, s.lbRun x.core (·.perform o) = r := ⟨_, rfl⟩
  obtain ⟨t, e, ws⟩ := r
  rw [hr] at h ⊢
  obtain rfl : e = none := h
  have hp : s.lbPerform x.core o = (t, none, ws) := hr
  rw [Trig.lb, hp]

theorem Trig.lb_stuck {tr : Trap} (h : (s.lbRun x.core (·.perform o)).2.1 = some tr) :
    x.lb s o = .done ((s.lbRun x.core (·.perform o)).1.lbStuck x.core o tr) false := by
  obtain ⟨r, hr⟩ : ∃ r, s.lbRun x.core (·.perform o) = r := ⟨_, rfl⟩
  obtain ⟨t, e, ws⟩ := r
  rw [hr] at h ⊢
  obtain rfl : e = some tr := h
  have hp : s.lbPerform x.core o = (t, some tr, ws) := hr
  rw [Trig.lb, hp]
  rfl

/-- Without a label space the operation is refused with NOSPACE. -/
theorem lbOpOf_nospace {op : Nat} {bad : LSpace → SVal → Option Nat} (h : x.lspaceOf s = none) :
    lbOpOf op bad x s = .trap 4 (refused 11 x.t.v) := by
  rw [lbOpOf, h]

/-- In a label space that holds what its operands need, it is performed. -/
theorem lbOpOf_performs {op : Nat} {bad : LSpace → SVal → Option Nat} {l : LSpace} (h : x.lspaceOf s = some l)
    (hb : bad l x.t = none) : lbOpOf op bad x s = x.lb s { op := op, a := x.latch s 0x380, t := x.t, ctl := x.ctl
                                                           wt := s.mergedTag x.core op (x.latch s 0x380).t x.t.t } := by
  rw [lbOpOf, h]
  dsimp only
  rw [hb]

end Unit

/-- An operation of `lb`, by what it performs in its space. -/
theorem Performs.lbDoes {i : Instr} {op : Nat} {bad : LSpace → SVal → Option Nat} (h : Performs i false (lbOpOf op bad))
    {ok : LSpace → Trig → Prop} {f : LRun → Trig → SVal → LRun × LWrite} (hok : ∀ l x, ok l x → bad l x.t = none)
    (hf : ∀ q (x : Trig) a wt, q.perform { op := op, a := a, t := x.t, ctl := x.ctl, wt := wt } = f q x a) : LbDoes i op ok f := by
  intro s s1 x g l hb hl hx a r o
  have hrun : r = s1.lbRun x.core (·.perform o) := congrArg (s1.label _ _ []) (funext fun q => (hf q x a _).symm)
  obtain ⟨hcores, -, -, hwait⟩ := s1.label_frame (s1.spaceOf x.core).1 (s1.spaceOf x.core).2 [] (·.perform o)
  have hwait1 : s1.wait = false := (frame_of_begins hb).2.2.2.2
  have hop : lbOpOf op bad x s1 = x.lb s1 o := lbOpOf_performs hl (hok l x hx)
  have hexec {s2 : State} (ho : x.lb s1 o = .done s2 false) (hw : s2.wait = s1.wait) (hr : s2.row x.core = s1.row x.core) :
      exec i s = .next (s.close s2 x g [] false) := by
    rw [h.exec_alone hb (hop.trans ho) (hw.trans hwait1) hr, h.transferJoin_nil hb]
  rw [hrun]
  refine ⟨fun hn => ?_, fun tr ht => ?_⟩
  · exact hexec (Trig.lb_performed hn) ((State.lbSend_wait ..).trans hwait) ((State.lbSend_row ..).trans (State.row_of_cores hcores _))
  · exact hexec (Trig.lb_stuck ht) hwait ((State.row_updCtx ..).trans (State.row_of_cores hcores _))


/-! ## Reads leave the rows alone -/

theorem State.row_updCore (s : State) (c d : Nat) {f : Core → Core} (hf : ∀ k : Core, (f k).task = k.task) :
    (s.updCore c f).row d = s.row d := by
  refine State.row_congr ?_
  rw [State.core_updCore]
  split
  · subst d
    exact hf _
  · rfl

theorem State.row_updCluster (s : State) (k d : Nat) (f : Cluster → Cluster) : (s.updCluster k f).row d = s.row d := rfl

theorem readHome_cores (s : State) (key pa n : Nat) (a : Dword) : (s.readHome key pa n a).1.cores = s.cores := by
  unfold State.readHome State.correct
  split
  · rfl
  · split
    · rfl
    · dsimp only
      split <;> rfl

theorem readEntry_cores (s : State) (p : Part) (table i : Nat) (a : Dword) : (s.readEntry p table i a).1.cores = s.cores := by
  have h := readHome_cores s 0 (table + 8 * i) 8 a
  unfold State.readEntry
  split
  · rfl
  · split <;> next e => exact (congrArg (·.1.cores) e).symm.trans h

theorem walk_cores (s : State) (p : Part) (va : Nat) (a : Dword) : (s.walk p va a).1.cores = s.cores := by
  have hentry {s t : State} {table i : Nat} {r : Except Trap Dword} (e : s.readEntry p table i a = (t, r)) : t.cores = s.cores :=
    (congrArg (·.1.cores) e).symm.trans (readEntry_cores ..)
  unfold State.walk
  split
  next e3 => exact hentry e3
  next s3 _ e3 =>
    split
    · exact hentry e3
    · split
      next e2 => exact (hentry e2).trans (hentry e3)
      next e2 =>
        have h2 := (hentry e2).trans (hentry e3)
        split
        · exact h2
        · split
          · exact h2
          · split <;> next e1 => exact (hentry e1).trans h2

theorem leafFor_row (s : State) (c part va : Nat) (a : Dword) (d : Nat) : (s.leafFor c part va a).1.row d = s.row d := by
  have hwalk {t : State} {r : Except Trap (Dword × Bool)} (e : s.walk (s.part part) va a = (t, r)) : t.row d = s.row d :=
    State.row_of_cores ((congrArg (·.1.cores) e).symm.trans (walk_cores ..)) d
  unfold State.leafFor
  split
  · rfl
  · split
    · exact State.row_updCore s c d fun _ => rfl
    · split
      next e => exact hwalk e
      next t _ _ e =>
        dsimp only
        split
        · exact hwalk e
        · refine (State.row_updCluster ..).trans ((State.row_updCore t c d ?_).trans (hwalk e))
          exact fun _ => rfl

theorem locate_row (s : State) (c : Nat) (t : Task) (kind : AccessKind) (a : Dword) (d : Nat) :
    (s.locate c t kind a).1.row d = s.row d := by
  have hleaf {u : State} {r : Except Trap (Dword × Bool)} (e : s.leafFor c t.part (a.toNat % 2 ^ 48) a = (u, r)) :
      u.row d = s.row d := by
    have h := leafFor_row s c t.part (a.toNat % 2 ^ 48) a d
    rwa [e] at h
  have htr : (s.translate c t.part kind a).1.row d = s.row d := by
    unfold State.translate
    dsimp only
    split
    next e => exact hleaf e
    next e => split <;> exact hleaf e
  unfold State.locate
  split
  · rfl
  · split_ifs <;> rfl
  · split <;> next e => rwa [e] at htr

theorem locateAll_row (s : State) (c : Nat) (t : Task) (kind : AccessKind) (ps : List (Dword × Nat)) (d : Nat) :
    (s.locateAll c t kind ps).1.row d = s.row d := by
  induction ps generalizing s with
  | nil => rfl
  | cons p ps ih =>
    have h := locate_row s c t kind p.1 d
    unfold State.locateAll
    split
    next e => rwa [e] at h
    next u l key e =>
      rw [e] at h
      have hu := (ih u).trans h
      split <;> next e' => rwa [e'] at hu

theorem place_row (s : State) (c : Nat) (t : Task) (kind : AccessKind) (a : Dword) (n d : Nat) :
    (s.place c t kind a n).1.row d = s.row d := by
  unfold State.place
  dsimp only
  split
  · rfl
  · exact locateAll_row ..

theorem placeTurn_row (s : State) (c : Nat) (l : Loc) (d : Nat) : (s.placeTurn c l).row d = s.row d := by
  cases l with
  | mem pa => rfl
  | spad k off =>
    simp only [State.placeTurn]
    split
    · exact (s.turnFor_frame k 1).2.2 d
    · exact ((s.choose.2.turnFor_frame k (4 + s.choose.1 % 5)).2.2 d).trans (State.row_of_cores s.choose_frame.1 d)

theorem readLoc_row (s : State) (c key : Nat) (l : Loc) (n : Nat) (a : Dword) (d : Nat) : (s.readLoc c key l n a).1.row d = s.row d := by
  cases l with
  | mem pa => exact State.row_of_cores (readHome_cores ..) d
  | spad k off =>
    simp only [State.readLoc]
    split
    · rfl
    · exact State.row_updCtx ..

theorem overlay_row (s : State) (c id : Nat) (l : Loc) (p : Piece) (d : Nat) : (s.overlay c id l p).1.row d = s.row d := by
  have hjoin {t : LTag} {u : State} {r : Option Trap × Tag} (e : s.joinFor c t = (u, r)) : u.row d = s.row d :=
    State.row_of_cores ((congrArg (·.1.cores) e).symm.trans (s.joinFor_frame c t).1) d
  unfold State.overlay
  split
  · rfl
  · dsimp only
    split
    · rfl
    · split <;> next e => exact hjoin e

/-- Reading the parts of an access leaves the task of every core. -/
theorem readParts_row (s : State) (c id : Nat) (ps : List (Loc × Nat × Dword × Nat)) (d : Nat) :
    (s.readParts c id ps).1.row d = s.row d := by
  induction ps generalizing s with
  | nil => rfl
  | cons p ps ih =>
    obtain ⟨l, n, a, key⟩ := p
    have h := (overlay_row _ c id l ((s.placeTurn c l).readLoc c key l n a).2 d).trans
      ((readLoc_row _ c key l n a d).trans (placeTurn_row s c l d))
    unfold State.readParts
    dsimp only
    split
    next t b tg e =>
      rw [e] at h
      have ht := (ih t).trans h
      split <;> next e' => rwa [e'] at ht
    next e => rwa [e] at h

/-! ## The triggers of `lb` -/

section Triggers

variable (w : TrigW)

theorem performs_lbAssume : Performs (.lbAssume w) false fireLbAssume := performs_of_port (p := 0x388) rfl rfl fun _ _ => rfl
theorem performs_lbJoin : Performs (.lbJoin w) false fireLbJoin := performs_of_port (p := 0x389) rfl rfl fun _ _ => rfl
theorem performs_lbMerge : Performs (.lbMerge w) false fireLbMerge := performs_of_port (p := 0x38A) rfl rfl fun _ _ => rfl
theorem performs_lbContra : Performs (.lbContra w) false fireLbContra := performs_of_port (p := 0x38B) rfl rfl fun _ _ => rfl
theorem performs_lbCommit : Performs (.lbCommit w) false fireLbCommit := performs_of_port (p := 0x38C) rfl rfl fun _ _ => rfl
theorem performs_lbHolds : Performs (.lbHolds w) false fireLbHolds := performs_of_port (p := 0x38D) rfl rfl fun _ _ => rfl
theorem performs_lbTag : Performs (.lbTag w) false fireLbTag := performs_of_port (p := 0x38E) rfl rfl fun _ _ => rfl
theorem performs_lbRetag : Performs (.lbRetag w) false fireLbRetag := performs_of_port (p := 0x38F) rfl rfl fun _ _ => rfl
theorem performs_lbEnvs : Performs (.lbEnvs w) false fireLbEnvs := performs_of_port (p := 0x390) rfl rfl fun _ _ => rfl
theorem performs_lbEnv : Performs (.lbEnv w) false fireLbEnv := performs_of_port (p := 0x391) rfl rfl fun _ _ => rfl
theorem performs_lbCount : Performs (.lbCount w) false fireLbCount := performs_of_port (p := 0x392) rfl rfl fun _ _ => rfl
theorem performs_lbMin : Performs (.lbMin w) false fireLbMin := performs_of_port (p := 0x393) rfl rfl fun _ _ => rfl
theorem performs_lbCensus : Performs (.lbCensus w) false fireLbCensus := performs_of_port (p := 0x394) rfl rfl fun _ _ => rfl
theorem performs_lbCtlset : Performs (.lbCtlset w) false fireLbCtlset := performs_of_port (p := 0x395) rfl rfl fun _ _ => rfl
theorem performs_lbCtlget : Performs (.lbCtlget w) false fireLbCtlget := performs_of_port (p := 0x396) rfl rfl fun _ _ => rfl
theorem performs_lbSpace : Performs (.lbSpace w) false fireLbSpace := performs_of_port (p := 0x397) rfl rfl fun _ _ => rfl

end Triggers

/-! ## Labels made, joined and tested (R271 to R277) -/

/-- The environments of a resolved tag (R255). -/
def LRun.sets (q : LRun) (u : Tag) : List Nat := if u = 0 then [0] else if u = mucked then [] else q.content (q.entry u)

section Tests

variable (q : LRun) (u : Tag)

/-- R277: the number of environments that `lb.envs` gives. -/
theorem LRun.sets_length : min 0xFFFFFFFF (q.sets u).length =
    if u = 0 then 1 else if u = mucked then 0 else min 0xFFFFFFFF (q.content (q.entry u)).length := by
  unfold LRun.sets
  split_ifs <;> rfl

/-- R277: the environment of fewest assumptions that `lb.min` gives. -/
theorem LRun.sets_fewest : (if q.sets u = [] then 2 ^ 64 - 1 else fewest (q.sets u)) =
    if u = 0 then 0 else if u = mucked then 2 ^ 64 - 1 else fewest (q.content (q.entry u)) := by
  have hempty (es : List Nat) : (if es = [] then 2 ^ 64 - 1 else fewest es) = fewest es := by
    split_ifs with h
    · subst h
      rfl
    · rfl
  rw [hempty, LRun.sets]
  split_ifs <;> rfl

end Tests

/-- A test of T's label writes a number and the label's kind, or 3 where there is no such number. -/
theorem Performs.lbTests {i : Instr} {op : Nat} (h : Performs i false (lbOpOf op neverBad)) {f : SVal → List Nat → Nat × Bool}
    (hf : ∀ (q : LRun) (x : Trig) a wt, q.perform { op := op, a := a, t := x.t, ctl := x.ctl, wt := wt } =
      let (q, u) := q.single x.t.t
      let (q, u) := q.resolve u
      (q, testWrites (BitVec.ofNat 64 (f a (q.sets u)).1) (if (f a (q.sets u)).2 then q.kind u else 3) x.ctl)) :
    LbDoes i op (fun _ _ => True) (fun q x a =>
      let (q, u) := q.single x.t.t
      let (q, u) := q.resolve u
      let (n, known) := f a (if u = 0 then [0] else if u = mucked then [] else q.content (q.entry u))
      (q, [(0x3BD, { v := BitVec.ofNat 64 n, t := x.ctl }), (0x3BF, { v := if known then q.kind u else 3, t := x.ctl })])) :=
  h.lbDoes (fun _ _ _ => rfl) hf

/-- Settles O18, one operation after another, each by what it performs in its space. -/
theorem lbLabels : Obligations.LbLabels := by
  intro w
  refine ⟨(performs_lbAssume w).lbDoes ?_ fun _ _ _ _ => rfl, (performs_lbJoin w).lbDoes (fun _ _ _ => rfl) fun _ _ _ _ => rfl,
    (performs_lbMerge w).lbDoes (fun _ _ _ => rfl) fun _ _ _ _ => rfl, (performs_lbTag w).lbDoes (fun _ _ _ => rfl) fun _ _ _ _ => rfl,
    (performs_lbRetag w).lbDoes ?_ fun _ _ _ _ => rfl, (performs_lbCommit w).lbDoes (fun _ _ _ => rfl) fun _ _ _ _ => rfl,
    (performs_lbHolds w).lbDoes (fun _ _ _ => rfl) fun _ _ _ _ => rfl,
    (performs_lbEnvs w).lbTests (f := fun _ es => (min 0xFFFFFFFF es.length, true)) fun q x a wt => ?_,
    (performs_lbEnv w).lbTests (f := fun a es => (es.getD a.v.toNat 0, a.v.toNat < es.length)) fun q x a wt => ?_,
    (performs_lbMin w).lbTests (f := fun _ es => (if es = [] then 2 ^ 64 - 1 else fewest es, true)) fun q x a wt => ?_⟩
  · rintro l x ⟨hz, hn⟩
    simp [hz, hn]
  · rintro l x ⟨hz, h0 | hf | ⟨hlim, hfree⟩⟩
    · simp [hz, h0]
    · simp [hz, hf]
    · simp [hz, hfree, not_lt.mpr hlim]
  · simp only [LRun.sets_length]
    rfl
  · simp only [LRun.perform, List.getD_eq_getElem?_getD, decide_eq_true_eq]
    split
    next e he =>
      have hs : (LRun.sets _ _)[a.v.toNat]? = some e := he
      rw [hs, if_pos (List.getElem?_eq_some_iff.mp hs).1]
      rfl
    next he =>
      have hs : (LRun.sets _ _)[a.v.toNat]? = none := he
      rw [hs, if_neg (not_lt.mpr (List.getElem?_eq_none_iff.mp hs))]
      rfl
  · simp only [LRun.sets_fewest]
    rfl

/-! ## The whole space (R258, R273, R278, R280) -/

theorem fireLbContra_performs {x : Trig} {s : State} {l : LSpace} (h : x.lspaceOf s = some l) (he : l.epoch < 2 ^ 40 - 1)
    (hd : s.drained x.core) {t : State} {j : Bool}
    (ht : x.lb s { op := 3, a := x.latch s 0x380, t := x.t, ctl := x.ctl } = .done t j) :
    fireLbContra x s = .done (t.updCore x.core fun k => { k with irrev := true }) j := by
  have hop : lbOpOf 3 (fun l _ => if 2 ^ 40 - 1 ≤ l.epoch then some 10 else none) x s = .done t j :=
    (lbOpOf_performs h (if_neg (not_le.mpr he))).trans ht
  rw [fireLbContra, hop]
  exact if_pos hd

theorem fireLbCount_performs {x : Trig} {s s1 s2 : State} {l : LSpace} {ps : List (Loc × Nat × Dword × Nat)} {bs : List Byte}
    {ts : LTag} (h : x.lspaceOf s = some l) (ha : (x.latch s 0x380).v.toNat % 64 = 0) (hd : s.drained x.core)
    (hp : s.place x.core (taskOf s x.core) .read (x.latch s 0x380).v 512 = (s1, .ok ps))
    (hr : s1.readParts x.core s1.nextId ps = (s2, .ok (bs, ts))) :
    fireLbCount x s = x.lb s2 { op := 10, a := x.latch s 0x380, t := x.t, ctl := x.ctl, wt := ts
                                ws := (List.range 64).map fun i => BitVec.ofNat 64 (ofBytes ((bs.drop (8 * i)).take 8)) } := by
  simp only [fireLbCount, h, ha, hd, hp, hr, bne_self_eq_false, Bool.not_true, Bool.false_eq_true, if_false]

theorem LRun.perform_count (q : LRun) (a t : SVal) (ctl ts : LTag) (ws : List Dword) :
    q.perform { op := 10, a := a, t := t, ctl := ctl, ws := ws, wt := ts } =
      let (q, u) := q.single t.t
      let (q, p) := q.probability u fun i => (ws.getD i 0).toNat
      (q, [(0x3BD, { v := BitVec.ofNat 64 p, t := joinTags [a.t, ts, ctl] })]) := by
  simp only [LRun.perform]

theorem fireLbCensus_waits {x : Trig} {s : State} {l : LSpace} (h : x.lspaceOf s = some l) (hd : s.drained x.core) :
    fireLbCensus x s = .done (s.newId.2.updCtx x.core fun k =>
      { k.await [0x3BD, 0x3BE] s.nextId with lbops := k.lbops ++ [{ op := 12, token := s.nextId }] }) false := by
  simp only [fireLbCensus, h, hd, Bool.not_true, Bool.false_eq_true, if_false]
  rfl

/-- Settles O19: the nogood and the count by what the operation performs in the space that its group leaves, the times by the path. -/
theorem lbWholeSpace : Obligations.LbWholeSpace := by
  refine ⟨fun w => ⟨?_, ?_, ?_⟩, State.lbSend_fast, State.lbSend_due⟩
  · intro s s1 x g l hb hl he hd r hr
    obtain ⟨hcores, -, -, hwait⟩ := s1.label_frame (s1.spaceOf x.core).1 (s1.spaceOf x.core).2 []
      (·.perform { op := 3, a := x.latch s1 0x380, t := x.t, ctl := x.ctl })
    have hrun : r = s1.lbRun x.core (·.perform { op := 3, a := x.latch s1 0x380, t := x.t, ctl := x.ctl }) :=
      congrArg (s1.label _ _ []) (funext fun _ => rfl)
    rw [hrun] at hr ⊢
    rw [(performs_lbContra w).exec_alone hb (fireLbContra_performs hl he hd (Trig.lb_performed hr)),
      (performs_lbContra w).transferJoin_nil hb]
    · exact (State.updCore_wait ..).trans ((State.lbSend_wait ..).trans (hwait.trans (frame_of_begins hb).2.2.2.2))
    · refine (State.row_updCore _ _ _ ?_).trans ((State.lbSend_row ..).trans (State.row_of_cores hcores _))
      exact fun _ => rfl
  · intro s s1 x g l ps bs ts hb hl a at_ rd s2 ha hd hat hrd hw ws r hr
    obtain ⟨hcores, -, -, hwait⟩ := s2.label_frame (s2.spaceOf x.core).1 (s2.spaceOf x.core).2 []
      (·.perform { op := 10, a := a, t := x.t, ctl := x.ctl, ws := ws, wt := ts })
    have hrun : r = s2.lbRun x.core (·.perform { op := 10, a := a, t := x.t, ctl := x.ctl, ws := ws, wt := ts }) :=
      congrArg (s2.label _ _ []) (funext fun q => (q.perform_count _ _ _ _ _).symm)
    have hcount := fireLbCount_performs hl ha hd (Prod.ext rfl hat) (Prod.ext rfl hrd)
    rw [hrun] at hr ⊢
    rw [(performs_lbCount w).exec_alone hb (hcount.trans (Trig.lb_performed hr)), (performs_lbCount w).transferJoin_nil hb]
    · exact (State.lbSend_wait ..).trans (hwait.trans hw)
    · exact (State.lbSend_row ..).trans ((State.row_of_cores hcores _).trans ((readParts_row ..).trans (place_row ..)))
  · refine (performs_lbCensus w).does ?_ (fun _ _ _ => rfl) fun _ _ _ => State.row_updCtx ..
    rintro x s ⟨hl, hd⟩
    obtain ⟨l, hl⟩ := Option.isSome_iff_exists.mp hl
    exact fireLbCensus_waits hl hd

/-! ## CTLAB and the fields of the space (R264, R279, R281) -/

theorem State.resolveTags_frame (s : State) (p sp : Nat) (t : LTag) : (s.resolveTags p sp t).1.cores = s.cores ∧
    (s.resolveTags p sp t).1.wait = s.wait := by
  unfold State.resolveTags
  split
  · exact ⟨rfl, rfl⟩
  · exact ⟨rfl, rfl⟩
  · obtain ⟨hcores, -, -, hwait⟩ := s.label_frame p sp (some mucked) (·.joinAll (normTags t))
    exact ⟨hcores, hwait⟩

/-- Setting CTLAB changes its core's context alone, besides what its join takes from the label space. -/
theorem fireLbCtlset_sets {x : Trig} {s s1 s2 : State} {t : LTag} {u : Tag} (hm : x.muckTrap = false ∨ isMuck x.t.t = false)
    (ht : s.ctlabOf x.core x.t = (s1, none, t))
    (hu : s1.resolveTags (s1.spaceOf x.core).1 (s1.spaceOf x.core).2 t = (s2, none, u)) :
    fireLbCtlset x s = .done (s2.updCtx x.core fun k =>
      { (k.send { due := s2.now + 2, sw := [(0x3BD, { v := u.setWidth 64 })] }) with ctlab := tagOf u }) false := by
  have hclean : (x.muckTrap && isMuck x.t.t) = false := by rcases hm with h | h <;> simp [h]
  simp only [fireLbCtlset, hclean, ht, hu, Bool.false_eq_true, if_false]
  rfl

/-- `lb.space` reads the field that T names, as R281 lays them out, with T's own tag left out. -/
theorem fireLbSpace_reads {x : Trig} {s : State} (h : x.t.v.toNat ≤ 3) : fireLbSpace x s = .done (s.updCtx x.core (·.send
    { due := s.now + 2, sw := [(0x3BD, { v := spaceField (x.lspaceOf s) (s.ctx x.core).lspace.toNat x.t.v.toNat })] })) false :=
  if_neg (not_lt.mpr h)

/-- Dword 0 of `lb.space`: NA, INCONS, DSP, LIMIT and LSPACE. -/
theorem pack_space (na inc dsp lim lsp : Nat) : pack [(0, na), (7, inc), (8, dsp), (16, lim), (32, lsp)] =
    BitVec.ofNat 64 (na + 2 ^ 7 * inc + 2 ^ 8 * dsp + 2 ^ 16 * lim + 2 ^ 32 * lsp) := by
  have h : 0 + na * 2 ^ 0 + inc * 2 ^ 7 + dsp * 2 ^ 8 + lim * 2 ^ 16 + lsp * 2 ^ 32 =
      na + 2 ^ 7 * inc + 2 ^ 8 * dsp + 2 ^ 16 * lim + 2 ^ 32 * lsp := by ring
  rw [pack, List.foldl_cons, List.foldl_cons, List.foldl_cons, List.foldl_cons, List.foldl_cons, List.foldl_nil, h]

/-- Its dword 3: the inline nogoods, and whether there are others. -/
theorem pack_nogoods (n ovf : Nat) : pack [(0, n), (63, ovf)] = BitVec.ofNat 64 (n + 2 ^ 63 * ovf) := by
  have h : 0 + n * 2 ^ 0 + ovf * 2 ^ 63 = n + 2 ^ 63 * ovf := by ring
  rw [pack, List.foldl_cons, List.foldl_cons, List.foldl_nil, h]

theorem pack_lspace (lsp : Nat) : pack [(32, lsp)] = BitVec.ofNat 64 (2 ^ 32 * lsp) := by
  have h : 0 + lsp * 2 ^ 32 = 2 ^ 32 * lsp := by ring
  rw [pack, List.foldl_cons, List.foldl_nil, h]

theorem le_three_cases {t : Dword} (h : t.toNat ≤ 3) : t = 0 ∨ t = 1 ∨ t = 2 ∨ t = 3 := by bv_omega

/-- The fields of a label space, as R281 lays them out. -/
theorem spaceField_some (l : LSpace) (lsp : Nat) {t : Dword} (h : t.toNat ≤ 3) : spaceField (some l) lsp t.toNat =
    BitVec.ofNat 64 (if t = 0 then l.na + 2 ^ 7 * (if l.incons then 1 else 0) + 2 ^ 8 * l.dsp + 2 ^ 16 * l.limit + 2 ^ 32 * lsp
      else if t = 1 then l.epoch
      else if t = 2 then l.ents.length
      else l.ngs.length + 2 ^ 63 * (if hNorm l.ngh.toNat = hFalse then 0 else 1)) := by
  rcases le_three_cases h with rfl | rfl | rfl | rfl
  · rw [if_pos rfl]
    exact pack_space ..
  · rw [if_neg (by decide), if_pos rfl]
    rfl
  · rw [if_neg (by decide), if_neg (by decide), if_pos rfl]
    rfl
  · rw [if_neg (by decide), if_neg (by decide), if_neg (by decide)]
    exact pack_nogoods ..

/-- Where there is no space, only LSPACE reads other than 0. -/
theorem spaceField_none (lsp : Nat) {t : Dword} (h : t.toNat ≤ 3) : spaceField none lsp t.toNat =
    BitVec.ofNat 64 (if t = 0 then 2 ^ 32 * lsp else 0) := by
  rcases le_three_cases h with rfl | rfl | rfl | rfl
  · rw [if_pos rfl]
    exact pack_lspace lsp
  · rfl
  · rfl
  · rfl

/-- The operations that need a label space are refused without one (R271). -/
theorem refused_nospace {i : Instr} {op : Trig → State → Fired} (h : Performs i false op)
    (ho : ∀ x s, x.lspaceOf s = none → op x s = .trap 4 (refused 11 x.t.v)) :
    Refused i (fun x s => x.lspaceOf s = none) (fun x _ => { cause := 18, reason := 11, val := x.t.v }) :=
  h.refused 4 ho

/-- Settles O20: CTLAB by what its join and its resolution come to, the fields by T, the refusals operation by operation. -/
theorem lbControl : Obligations.LbControl := by
  intro w
  refine ⟨?_, (performs_lbCtlget w).does ?_ (fun _ _ _ => State.updCtx_wait ..) fun _ _ _ => State.row_updCtx ..,
    (performs_lbSpace w).does ?_ ?_ ?_, ?_⟩
  · intro s s1 x g t u hb hm r hr z hz
    obtain ⟨hcores, hwait⟩ := r.1.resolveTags_frame (r.1.spaceOf x.core).1 (r.1.spaceOf x.core).2 t
    have hctl : s1.ctlabOf x.core x.t = (r.1, none, t) := Prod.ext rfl hr
    have htag : r.1.resolveTags (r.1.spaceOf x.core).1 (r.1.spaceOf x.core).2 t = (z.1, none, u) := Prod.ext rfl hz
    rw [(performs_lbCtlset w).exec_alone hb (fireLbCtlset_sets hm hctl htag), (performs_lbCtlset w).transferJoin_nil hb]
    · exact hwait.trans (frame_of_begins hb).2.2.2.2
    · exact (State.row_updCtx ..).trans (State.row_of_cores hcores _)
  · intro x s hu
    simp only [fireLbCtlget, hu, Bool.false_eq_true, if_false]
    rfl
  · intro x s ht
    rw [fireLbSpace_reads ht]
    cases x.lspaceOf s with
    | none => simp only [spaceField_none _ ht]
    | some l => simp only [spaceField_some _ _ ht]
  · intro x s ht
    exact State.updCtx_wait ..
  · intro x s ht
    exact State.row_updCtx ..
  · intro i hi
    have hlb {op : Nat} {bad : LSpace → SVal → Option Nat} {i : Instr} (h : Performs i false (lbOpOf op bad)) :=
      refused_nospace h fun _ _ h => lbOpOf_nospace h
    simp only [List.mem_cons, List.not_mem_nil, or_false] at hi
    rcases hi with rfl | rfl | rfl | rfl | rfl | rfl | rfl | rfl | rfl | rfl | rfl | rfl | rfl
    · exact hlb (performs_lbAssume w)
    · exact hlb (performs_lbJoin w)
    · exact hlb (performs_lbMerge w)
    · refine refused_nospace (performs_lbContra w) fun x s h => ?_
      rw [fireLbContra, lbOpOf_nospace h]
    · exact hlb (performs_lbCommit w)
    · exact hlb (performs_lbHolds w)
    · exact hlb (performs_lbTag w)
    · exact hlb (performs_lbRetag w)
    · exact hlb (performs_lbEnvs w)
    · exact hlb (performs_lbEnv w)
    · refine refused_nospace (performs_lbCount w) fun x s h => ?_
      rw [fireLbCount, h]
    · exact hlb (performs_lbMin w)
    · refine refused_nospace (performs_lbCensus w) fun x s h => ?_
      rw [fireLbCensus, h]

end Sys2Proof.Machine
end

section
/-! PROOFS. Operations go to the Carillon (O21): what `clOp` comes to, check by check, and the statement from it. -/

namespace Sys2Proof.Machine

/-- The operands that a `cl` trigger reads, of `cl.a`, `cl.b` and T. -/
def Trig.clOperands (op : Nat) (x : Trig) (s : State) : List SVal :=
  (if (clReads op).1 then [x.latch s 0x3C0] else []) ++ (if (clReads op).2.1 then [x.latch s 0x3C1] else [])
    ++ if (clReads op).2.2 then [x.t] else []

/-- The handles that it names. -/
def Trig.clNamed (op : Nat) (x : Trig) (s : State) : List Nat :=
  let h (v : SVal) : Nat := hNorm (v.v.toNat % 2 ^ 32)
  clHandles op (h (x.latch s 0x3C0)) (h (x.latch s 0x3C1)) (if op = 12 then x.t.v.toNat else h x.t)

/-- The diagram space of a trigger exists. -/
def Trig.clSpace (x : Trig) (s : State) : Prop := x.ddspace < 8 ∧ ((s.part (s.partNo x.core)).dspaces.get none x.ddspace).isSome

/-- What the Carillon is given to do. -/
def Trig.clGiven (op : Nat) (x : Trig) (s : State) : State :=
  (s.newId.2.updCtx x.core fun k => { k.await (clPorts op) s.nextId with
    clop := some { op := op, a := x.latch s 0x3C0, b := x.latch s 0x3C1, t := x.t, space := x.ddspace, ddwt := x.ddwt
                   ctl := x.ctl, token := s.nextId, began := s.now } }).updCore x.core fun k => { k with irrev := true }

section Issue

variable {op : Nat} {x : Trig} {s : State}

/-- The tags whose muck keeps the operation from the Carillon are those of its operands. -/
theorem Trig.anyMuck_clOperands : anyMuck ((x.clOperands op s).map (·.t)) = true ↔ ∃ v ∈ x.clOperands op s, isMuck v.t := by
  simp [anyMuck]

/-- A control operand is one that its operation reads (Table 7). -/
theorem clControl_mem {v : SVal} (h : clControl op (x.latch s 0x3C0) x.t = some v) : v ∈ x.clOperands op s := by
  unfold clControl at h
  split at h
  next hop =>
    obtain rfl := Option.some.inj h
    simp only [List.contains_eq_mem, List.mem_cons, List.not_mem_nil, or_false, decide_eq_true_eq] at hop
    rcases hop with rfl | rfl | rfl | rfl | rfl <;> simp [Trig.clOperands, clReads]
  next =>
    split at h
    next hop =>
      obtain rfl := Option.some.inj h
      simp only [List.contains_eq_mem, List.mem_cons, List.not_mem_nil, or_false, decide_eq_true_eq] at hop
      rcases hop with rfl | rfl | rfl <;> simp [Trig.clOperands, clReads]
    next => exact absurd h (by simp)

theorem clControl_clean (h : ∀ v ∈ x.clOperands op s, isMuck v.t = false) :
    (clControl op (x.latch s 0x3C0) x.t).any (isMuck ·.t) = false := by
  cases hc : clControl op (x.latch s 0x3C0) x.t with
  | none => rfl
  | some v => exact h v (clControl_mem hc)

/-- `clOp`, in these words. -/
theorem clOp_eq : clOp op x s =
    if (s.ctx x.core).clop.isSome then .stall
    else if (clControl op (x.latch s 0x3C0) x.t).any (isMuck ·.t) then x.undone s (clPorts op)
    else if clArgReserved op (x.latch s 0x3C0).v x.t.v then .trap 4 (refused 12 x.t.v)
    else if 8 ≤ x.ddspace || ((s.part (s.partNo x.core)).dspaces.get none x.ddspace).isNone
        || (x.clNamed op s).any (fun e => !hConst e && hSp e != x.ddspace) then .trap 4 (refused 13 x.t.v)
    else if anyMuck ((x.clOperands op s).map (·.t)) then x.undone s (clPorts op)
    else if !s.drained x.core then .stall
    else .done (x.clGiven op s) false := by
  have hread : (x.clOperands op s).map (·.t) = (if (clReads op).1 then [(x.latch s 0x3C0).t] else [])
      ++ (if (clReads op).2.1 then [(x.latch s 0x3C1).t] else []) ++ if (clReads op).2.2 then [x.t.t] else [] := by
    simp only [Trig.clOperands, List.map_append]
    split_ifs <;> rfl
  rw [hread]
  rfl

variable (hf : (s.ctx x.core).clop = none)
include hf

theorem clOp_controlMucked (hm : (clControl op (x.latch s 0x3C0) x.t).any (isMuck ·.t) = true) : clOp op x s = x.undone s (clPorts op) := by
  rw [clOp_eq, hf, hm]
  rfl

variable (hm : (clControl op (x.latch s 0x3C0) x.t).any (isMuck ·.t) = false) (hr : clArgReserved op (x.latch s 0x3C0).v x.t.v = false)
include hm hr

theorem clOp_nospace (hs : 8 ≤ x.ddspace ∨ (s.part (s.partNo x.core)).dspaces.get none x.ddspace = none) :
    clOp op x s = .trap 4 (refused 13 x.t.v) := by
  simp only [clOp_eq, hf, hm, hr, Option.isSome_none, Bool.false_eq_true, if_false]
  refine if_pos ?_
  simp only [Bool.or_eq_true, decide_eq_true_eq, Option.isNone_iff_eq_none]
  exact .inl hs

variable (hs : x.clSpace s) (hn : ∀ z ∈ x.clNamed op s, hConst z ∨ hSp z = x.ddspace)
include hs hn

/-- In a space that exists and holds the handles named, the operation waits for its operands and for the core's accesses. -/
theorem clOp_fits : clOp op x s =
    if anyMuck ((x.clOperands op s).map (·.t)) then x.undone s (clPorts op)
    else if !s.drained x.core then .stall
    else .done (x.clGiven op s) false := by
  obtain ⟨hlt, hsome⟩ := hs
  have hheld : (x.clNamed op s).any (fun e => !hConst e && hSp e != x.ddspace) = false := by
    rw [List.any_eq_false]
    intro z hz
    rcases hn z hz with h | h <;> simp [h]
  have hnone : ((s.part (s.partNo x.core)).dspaces.get none x.ddspace).isNone = false := by rw [← Option.not_isSome, hsome]; rfl
  rw [clOp_eq, hf, hm, hr, hheld, hnone, decide_eq_false (not_le.mpr hlt)]
  rfl

end Issue

/-- Settles O21: the fifteen triggers are one operation, said check by check. -/
theorem clIssue : Obligations.ClIssue := by
  intro w e he
  obtain ⟨i, op⟩ := e
  have hi : Performs i false (clOp op) := by
    simp only [List.mem_cons, List.not_mem_nil, or_false, Prod.mk.injEq] at he
    rcases he with ⟨rfl, rfl⟩ | ⟨rfl, rfl⟩ | ⟨rfl, rfl⟩ | ⟨rfl, rfl⟩ | ⟨rfl, rfl⟩ | ⟨rfl, rfl⟩ | ⟨rfl, rfl⟩ | ⟨rfl, rfl⟩ | ⟨rfl, rfl⟩ |
      ⟨rfl, rfl⟩ | ⟨rfl, rfl⟩ | ⟨rfl, rfl⟩ | ⟨rfl, rfl⟩ | ⟨rfl, rfl⟩ | ⟨rfl, rfl⟩
    · exact performs_of_port (p := 0x3C8) rfl rfl fun _ _ => rfl
    · exact performs_of_port (p := 0x3C9) rfl rfl fun _ _ => rfl
    · exact performs_of_port (p := 0x3CA) rfl rfl fun _ _ => rfl
    · exact performs_of_port (p := 0x3CB) rfl rfl fun _ _ => rfl
    · exact performs_of_port (p := 0x3CC) rfl rfl fun _ _ => rfl
    · exact performs_of_port (p := 0x3CD) rfl rfl fun _ _ => rfl
    · exact performs_of_port (p := 0x3CE) rfl rfl fun _ _ => rfl
    · exact performs_of_port (p := 0x3CF) rfl rfl fun _ _ => rfl
    · exact performs_of_port (p := 0x3D0) rfl rfl fun _ _ => rfl
    · exact performs_of_port (p := 0x3D1) rfl rfl fun _ _ => rfl
    · exact performs_of_port (p := 0x3D2) rfl rfl fun _ _ => rfl
    · exact performs_of_port (p := 0x3D3) rfl rfl fun _ _ => rfl
    · exact performs_of_port (p := 0x3D4) rfl rfl fun _ _ => rfl
    · exact performs_of_port (p := 0x3D5) rfl rfl fun _ _ => rfl
    · exact performs_of_port (p := 0x3D6) rfl rfl fun _ _ => rfl
  refine ⟨hi.does ?_ (fun _ _ _ => rfl) ?_, hi.does ?_ (fun _ _ _ => rfl) fun _ _ _ => State.row_updCtx ..,
    hi.does ?_ (fun _ _ _ => rfl) fun _ _ _ => State.row_updCtx .., hi.refused 4 ?_⟩
  · rintro x s ⟨hf, hc, hr, hlt, hsome, hn, hd⟩
    have hclean : anyMuck ((x.clOperands op s).map (·.t)) = false :=
      eq_false_of_ne_true fun h => by
        obtain ⟨v, hv, hm⟩ := Trig.anyMuck_clOperands.mp h
        exact ne_true_of_eq_false (hc v hv) hm
    rw [clOp_fits hf (clControl_clean hc) hr ⟨hlt, hsome⟩ hn, hclean, hd]
    rfl
  · intro x s _
    refine (State.row_updCore _ _ _ ?_).trans (State.row_updCtx ..)
    exact fun _ => rfl
  · rintro x s ⟨hf, hm⟩
    exact clOp_controlMucked hf hm
  · rintro x s ⟨hf, hm, hv, hr, hlt, hsome, hn⟩
    rw [clOp_fits hf hm hr ⟨hlt, hsome⟩ hn, Trig.anyMuck_clOperands.mpr hv]
    rfl
  · rintro x s ⟨hf, hm, hr, hs⟩
    exact clOp_nospace hf hm hr hs

end Sys2Proof.Machine
end

section
/-! PROOFS. Messages (O22) and the acceptance of copies (O23): what each trigger's operation comes to, and the statements from them. -/

namespace Sys2Proof.Machine

/-! ## Where a message goes (R81, R325) -/

/-- A write of a partition that leaves its instances leaves the nodes of every one. -/
theorem State.node_updPart_insts (s : State) (q : Nat) {f : Part → Part} (hf : ∀ x, (f x).insts = x.insts) (p i n : Nat) :
    (s.updPart q f).node p i n = s.node p i n := by
  by_cases h : p = q
  · subst h
    exact State.node_updPart hf
  · unfold State.updPart
    split
    · simp only [State.node, State.inst, State.part, State.setPart]
      rw [NMap.get_set_ne none _ _ h]
    · rfl

/-- A computation in a label space leaves the nodes. -/
theorem State.label_node {α : Type} (s : State) (q sp : Nat) (d : α) (f : LRun → LRun × α) (p i n : Nat) :
    (s.label q sp d f).1.node p i n = s.node p i n := by
  unfold State.label
  split
  · rfl
  · refine State.node_updPart_insts s q ?_ p i n
    exact fun _ => rfl

/-- A join of tags leaves the nodes. -/
theorem State.joinFor_node (s : State) (c : Nat) (t : LTag) (p i n : Nat) : (s.joinFor c t).1.node p i n = s.node p i n := by
  unfold State.joinFor State.resolveTags
  dsimp only
  split
  · rfl
  · rfl
  · exact s.label_node _ _ _ _ p i n

/-- Where a member's mail goes depends on the nodes, and on the tasks and the areas of cores. -/
theorem State.box_congr {s t : State} (hn : ∀ p i n, t.node p i n = s.node p i n)
    (hc : ∀ c, (t.core c).task = (s.core c).task ∧ (t.core c).areas = (s.core c).areas) (u : Task) (gx gy : Nat) :
    t.box u gx gy = s.box u gx gy := by
  have harea (c a : Nat) : (t.core c).area a = (s.core c).area a := by rw [Core.area, (hc c).2]; rfl
  have hold (nd : Node) : t.oldPlace nd u.partner gx gy = s.oldPlace nd u.partner gx gy := by
    simp only [State.oldPlace, fun c => (hc c).2]
  unfold State.box
  dsimp only
  rw [hn, (hc _).1, hold]
  cases s.oldPlace (s.node u.part u.inst u.node) u.partner gx gy with
  | none => rfl
  | some e => simp only [harea]

/-- Noting a member's last sender leaves the messages on their way and the tasks. -/
theorem State.setBoxLast_frame (s : State) (t : Task) (gx gy i : Nat) : (s.setBoxLast t gx gy i).msgs = s.msgs ∧
    (s.setBoxLast t gx gy i).wait = s.wait ∧ ∀ d, (s.setBoxLast t gx gy i).row d = s.row d := by
  unfold State.setBoxLast
  split
  · exact ⟨rfl, rfl, fun d => State.row_updCtx ..⟩
  · exact ⟨rfl, rfl, fun d => State.row_updCore _ _ d fun _ => rfl⟩
  · exact ⟨rfl, rfl, fun _ => rfl⟩

/-! ## The triggers of `ms` -/

section Messages

variable {x : Trig} {s : State}

/-- The fields of `ms.a` are in range, and none that is reserved is set (R324). -/
theorem msBad_eq_false {t : Task} {a : Dword} (hx : dfield a 5 0 < t.gw) (hy : dfield a 11 6 < t.gh)
    (hn : (if dfield a 26 20 = 0 then 64 else dfield a 26 20) ≤ 64) (hz : dfield a 63 27 = 0) : msBad t a = false := by
  simp only [msBad, Bool.or_eq_false_iff, decide_eq_false_iff_not, not_le, not_lt, bne_eq_false_iff_eq]
  exact ⟨⟨⟨hx, hy⟩, hn⟩, hz⟩

/-- What a sent message leaves: the receiver's last sender, and the message on its way. -/
def State.mailed (s : State) (c : Nat) (t : Task) (gx gy ch : Nat) (v : Dword) (u : Tag) : State :=
  let s3 := (s.updCtx c fun k => { k with sendWait := none }).setBoxLast t gx gy t.index
  { s3 with msgs := s3.msgs ++ [{ task := t, gx := gx, gy := gy, msg := { sender := t.index, chan := ch, v := v, t := tagOf u } }] }

theorem State.mailed_frame (s : State) (c : Nat) (t : Task) (gx gy ch : Nat) (v : Dword) (u : Tag) :
    (s.mailed c t gx gy ch v u).wait = s.wait ∧ ∀ d, (s.mailed c t gx gy ch v u).row d = s.row d := by
  obtain ⟨-, hwait, hrow⟩ := (s.updCtx c fun k => { k with sendWait := none }).setBoxLast_frame t gx gy t.index
  exact ⟨hwait, fun d => (hrow d).trans (State.row_updCtx ..)⟩

/-- A send to a member with room, where no other sender comes first. -/
theorem State.send_sent {c gx gy ch : Nat} {t : Task} {v : Dword} {tag : LTag} {s2 : State} {u : Tag} (hd : t.duplex = false)
    (hj : s.joinFor c tag = (s2, none, u)) (hr : s.boxRoom t gx gy ch = true) (hb : s.sendBehind c t gx gy = false)
    (hg : s.box t gx gy ≠ .gone) : s.send c t gx gy ch v tag = .sent (s2.mailed c t gx gy ch v u) := by
  have hbox : (s2.updCtx c fun k => { k with sendWait := none }).box t gx gy = s.box t gx gy := by
    have hnode (p i n : Nat) : s2.node p i n = s.node p i n := by
      have h := s.joinFor_node c tag p i n
      rwa [hj] at h
    have hcore (d : Nat) : s2.core d = s.core d := by
      have h := (s.joinFor_frame c tag).1
      rw [hj] at h
      rw [State.core, h]
      rfl
    refine State.box_congr (t := s2.updCtx c _) hnode (fun d => ?_) t gx gy
    rw [State.core_updCtx]
    split
    next h => subst h; rw [hcore]; exact ⟨rfl, rfl⟩
    next => rw [hcore]; exact ⟨rfl, rfl⟩
  simp only [State.send, hj, hr, hb, State.sendItem, hd, Bool.not_true, Bool.not_false, Bool.or_self, Bool.false_eq_true, if_false, if_true, hbox]
  obtain ⟨hmsgs, -, -⟩ := (s2.updCtx c fun k => { k with sendWait := none }).setBoxLast_frame t gx gy t.index
  rw [State.mailed, hmsgs]

theorem fireMsSend_sends {s2 : State} (hm : isMuck (x.latch s 0x400).t = false)
    (hb : msBad (taskOf s x.core) (x.latch s 0x400).v = false) (hd : s.drained x.core)
    (hs : s.send x.core (taskOf s x.core) (dfield (x.latch s 0x400).v 5 0) (dfield (x.latch s 0x400).v 11 6)
      (dfield (x.latch s 0x400).v 19 12) x.t.v (joinTags [x.t.t, (x.latch s 0x400).t, x.ctl]) = .sent s2) :
    fireMsSend x s = .done s2 false := by
  simp only [fireMsSend, hm, hb, hd, msGx, msGy, msChan, hs, Bool.not_true, Bool.false_eq_true, if_false]

theorem fireMsPut_holds {m off : Nat} (hm : isMuck (x.latch s 0x400).t = false) (hmt : isMuck x.t.t = false)
    (hb : msBad (taskOf s x.core) (x.latch s 0x400).v = false)
    (ha : decodeAddr x.core (taskOf s x.core) x.t.v = some (some (.spad m off)))
    (hfit : off % 64 + msLen (x.latch s 0x400).v ≤ 64) (hp : (taskOf s x.core).isProtected = false) :
    fireMsPut x s = .done ((s.newId.2.updPart (taskOf s x.core).part fun p => { p with held := p.held ++ [({
      core := x.core, loc := .spad m off, addr := x.t.v
      bytes := bytesOf (msLen (x.latch s 0x400).v) ((s.ctx x.core).vector 0x402).v.toNat, put := true, id := s.nextId
      tag := joinTags [((s.ctx x.core).vector 0x402).t, x.t.t, (x.latch s 0x400).t, x.ctl] } : Held)] }).addStore x.core s.nextId) false := by
  simp only [fireMsPut, anyMuck_clean hm hmt, hb, ha, hp, not_lt.mpr hfit, Bool.false_and, Bool.false_eq_true, if_false]
  rfl

end Messages

/-- Settles O22: a send by where it goes, the put, the poll and the reservation by their operations on clean operands. -/
theorem msOperations : Obligations.MsOperations := by
  intro w
  have hsend : Performs (.msSend w) false fireMsSend := performs_of_port (p := 0x408) rfl rfl fun _ _ => rfl
  have hput : Performs (.msPut w) false fireMsPut := performs_of_port (p := 0x409) rfl rfl fun _ _ => rfl
  have hpoll : Performs (.msPoll w) false fireMsPoll := performs_of_port (p := 0x40A) rfl rfl fun _ _ => rfl
  have hchan : Performs (.msChan w) false fireMsChan := performs_of_port (p := 0x40B) rfl rfl fun _ _ => rfl
  refine ⟨?_, ?_, hpoll.does ?_ (fun _ _ _ => rfl) fun _ _ _ => State.row_updCtx .., hchan.does ?_ ?_ ?_⟩
  · intro s s1 x g s2 u hb a t gx gy ch hm hx hy hlen hz hdup hd hj hroom hfirst hbox
    have hbad : msBad t a.v = false := msBad_eq_false hx hy (by split_ifs <;> omega) hz
    have hfire := fireMsSend_sends hm hbad hd (State.send_sent hdup hj hroom hfirst hbox)
    obtain ⟨hwait, hrow⟩ := s2.mailed_frame x.core t gx gy ch x.t.v u
    have hframe := s1.joinFor_frame x.core (joinTags [x.t.t, a.t, x.ctl])
    rw [hj] at hframe
    obtain ⟨hcores, hw⟩ := hframe
    rw [hsend.exec_alone hb hfire (hwait.trans (hw.trans (frame_of_begins hb).2.2.2.2))
      ((hrow x.core).trans (State.row_of_cores hcores _)), hsend.transferJoin_nil hb]
    rfl
  · intro s s1 x g m off hb a v t n hm hmt hx hy hz hn ha hfit hp
    have hfire := fireMsPut_holds hm hmt (msBad_eq_false hx hy hn hz) ha hfit hp
    rw [hput.exec_alone hb hfire, hput.transferJoin_nil hb]
    · rfl
    · exact (State.updPart_wait ..).trans (frame_of_begins hb).2.2.2.2
    · exact (State.row_updCtx ..).trans (State.row_of_cores (State.updPart_cores ..) _)
  · rintro x s ⟨hm, hz⟩
    simp only [fireMsPoll, hm, hz, bne_self_eq_false, Bool.false_eq_true, if_false]
    rfl
  · rintro x s ⟨hm, hz, hn⟩
    simp only [fireMsChan, hm, hz, not_lt.mpr hn, bne_self_eq_false, decide_false, Bool.or_self, Bool.false_eq_true, if_false]
    split_ifs <;> rfl
  · intro x s _
    dsimp only
    split_ifs <;> rfl
  · intro x s _
    dsimp only
    split_ifs
    · exact State.row_updCtx ..
    · exact (State.row_updCtx ..).trans (State.row_updCtx ..)

/-! ## The acceptance of copies (R308, R309, R323) -/

section Copies

variable {x : Trig} {s : State} {isTry : Bool}

/-- The words of a command. -/
def Trig.ceWords (x : Trig) (s : State) : List SVal := [x.latch s 0x600, x.latch s 0x601, x.latch s 0x602, x.t]

/-- The register of SREG is free for the command's status word, where it takes one. -/
def Trig.ceFree (x : Trig) (s : State) : Prop :=
  (x.copy s s.nextId).nost ∨ (s.ctx x.core).portPending (x.copy s s.nextId).dPort = false

/-- What a core is told of a command: `ce.try` alone has an answer. -/
def Trig.ceAnswer (isTry : Bool) (x : Trig) (s s2 : State) (r : Dword) : State :=
  if isTry then s2.sent x 1 [(0x63D, r)] ((x.ceWords s).map (·.t)) else s2

/-- The register of SREG receives 0 with tag 0xFFFF in place of a status word. -/
def Trig.ceRegMucked (x : Trig) (s : State) : State :=
  if (x.copy s s.nextId).nost then s else s.updCtx x.core fun c =>
    { c.setScalar (x.copy s s.nextId).dPort { t := [mucked] } with
      pend := c.pend.filter fun e => e.1 != (x.copy s s.nextId).dPort }

/-- What a mucked word leaves: nothing is captured, and `ce.r` receives what the register of SREG does. -/
def Trig.ceMucked (isTry : Bool) (x : Trig) (s : State) : State :=
  if isTry then (x.ceRegMucked s).undone x [0x63D] else x.ceRegMucked s

/-- The command is captured. -/
def Trig.ceCaptured (x : Trig) (s : State) : State :=
  s.newId.2.updCtx x.core fun c =>
    let c := { c with copies := c.copies ++ [x.copy s s.nextId] }
    if (x.copy s s.nextId).nost then c else c.await [(x.copy s s.nextId).dPort] s.nextId

/-- `ce.go` and `ce.try`, in these words. -/
theorem copyOp_eq : copyOp isTry x s =
    if !(x.copy s s.nextId).nost && (s.ctx x.core).portPending (x.copy s s.nextId).dPort then .stall
    else if 8 ≤ (s.ctx x.core).copies.length + (s.ctx x.core).nosts.length then
      (if isTry then .done (x.ceAnswer isTry s s 1) false else .stall)
    else if anyMuck ((x.ceWords s).map (·.t)) then .done (x.ceMucked isTry s) false
    else .done (x.ceAnswer isTry s (x.ceCaptured s) 0) false := rfl

theorem Trig.ceFree_busy (h : x.ceFree s) :
    (!(x.copy s s.nextId).nost && (s.ctx x.core).portPending (x.copy s s.nextId).dPort) = false := by
  rcases h with h | h <;> simp [h]

theorem Trig.anyMuck_ceWords : anyMuck ((x.ceWords s).map (·.t)) = true ↔ ∃ v ∈ x.ceWords s, isMuck v.t := by
  simp [anyMuck]

/-- What is left of a command keeps the core's row, and takes no step back. -/
theorem Trig.ceAnswer_frame (x : Trig) (s s2 : State) (r : Dword) :
    (x.ceAnswer isTry s s2 r).wait = s2.wait ∧ (x.ceAnswer isTry s s2 r).row x.core = s2.row x.core := by
  cases isTry
  · exact ⟨rfl, rfl⟩
  · rw [Trig.ceAnswer, if_pos rfl]
    exact ⟨rfl, State.row_updCtx ..⟩

theorem Trig.ceMucked_frame (x : Trig) (s : State) :
    (x.ceMucked isTry s).wait = s.wait ∧ (x.ceMucked isTry s).row x.core = s.row x.core := by
  have hreg : (x.ceRegMucked s).wait = s.wait ∧ (x.ceRegMucked s).row x.core = s.row x.core := by
    unfold Trig.ceRegMucked
    split_ifs
    · exact ⟨rfl, rfl⟩
    · exact ⟨rfl, State.row_updCtx ..⟩
  cases isTry
  · exact hreg
  · rw [Trig.ceMucked, if_pos rfl]
    exact ⟨hreg.1, (State.row_updCtx ..).trans hreg.2⟩

theorem Trig.ceCaptured_frame (x : Trig) (s : State) :
    (x.ceCaptured s).wait = s.wait ∧ (x.ceCaptured s).row x.core = s.row x.core := ⟨rfl, State.row_updCtx ..⟩

variable (hr : x.ceFree s)
include hr

theorem copyOp_full (h8 : 8 ≤ (s.ctx x.core).copies.length + (s.ctx x.core).nosts.length) :
    copyOp true x s = .done (x.ceAnswer true s s 1) false := by
  simp only [copyOp_eq, x.ceFree_busy hr, h8, Bool.false_eq_true, if_false, if_true]

variable (h8 : (s.ctx x.core).copies.length + (s.ctx x.core).nosts.length < 8)
include h8

theorem copyOp_captures (hm : ∀ v ∈ x.ceWords s, isMuck v.t = false) :
    copyOp isTry x s = .done (x.ceAnswer isTry s (x.ceCaptured s) 0) false := by
  have hclean : anyMuck ((x.ceWords s).map (·.t)) = false := eq_false_of_ne_true fun h => by
    obtain ⟨v, hv, h⟩ := Trig.anyMuck_ceWords.mp h
    exact ne_true_of_eq_false (hm v hv) h
  simp only [copyOp_eq, x.ceFree_busy hr, not_le.mpr h8, hclean, Bool.false_eq_true, if_false]

theorem copyOp_mucked (hm : ∃ v ∈ x.ceWords s, isMuck v.t) :
    copyOp isTry x s = .done (x.ceMucked isTry s) false := by
  simp only [copyOp_eq, x.ceFree_busy hr, not_le.mpr h8, Trig.anyMuck_ceWords.mpr hm, Bool.false_eq_true, if_false, if_true]

end Copies

/-- Settles O23: `ce.go` and `ce.try` are one operation, said on clean words, on mucked ones, and with eight commands under way. -/
theorem ceAcceptance : Obligations.CeAcceptance := by
  intro w e he
  obtain ⟨i, isTry⟩ := e
  have hi : Performs i false (copyOp isTry) := by
    simp only [List.mem_cons, List.not_mem_nil, or_false, Prod.mk.injEq] at he
    rcases he with ⟨rfl, rfl⟩ | ⟨rfl, rfl⟩
    · exact performs_of_port (p := 0x608) rfl rfl fun _ _ => rfl
    · exact performs_of_port (p := 0x609) rfl rfl fun _ _ => rfl
  refine ⟨hi.does ?_ ?_ ?_, hi.does ?_ ?_ ?_, ?_⟩
  · rintro x s ⟨hm, h8, hr⟩
    exact copyOp_captures hr h8 hm
  · intro x s _
    exact (x.ceAnswer_frame s (x.ceCaptured s) 0).1.trans (x.ceCaptured_frame s).1
  · intro x s _
    exact (x.ceAnswer_frame s (x.ceCaptured s) 0).2.trans (x.ceCaptured_frame s).2
  · rintro x s ⟨hm, h8, hr⟩
    exact copyOp_mucked hr h8 hm
  · intro x s _
    exact (x.ceMucked_frame s).1
  · intro x s _
    exact (x.ceMucked_frame s).2
  · rintro rfl
    refine hi.does ?_ ?_ ?_
    · rintro x s ⟨h8, hr⟩
      exact copyOp_full hr h8
    · intro x s _
      exact (x.ceAnswer_frame s s 1).1
    · intro x s _
      exact (x.ceAnswer_frame s s 1).2

end Sys2Proof.Machine
end

section
/-! PROOFS. Stacks (O51). -/

namespace Sys2Proof.Machine

theorem nodup_eraseDups {α : Type} [BEq α] [LawfulBEq α] {l : List α} (hn : l.Nodup) : l.eraseDups = l := by
  induction l with
  | nil => rfl
  | cons a l ih =>
    obtain ⟨ha, hl⟩ := List.nodup_cons.1 hn
    have hkeep : l.filter (fun b => !b == a) = l := List.filter_eq_self.2 fun b hb => by
      simpa using fun h : b = a => ha (h ▸ hb)
    rw [List.eraseDups_cons, hkeep, ih hl]

theorem foldl_setMemStat_hbm (gs : List Nat) (v : GStat) (s : State) :
    (gs.foldl (fun s g => s.setMemStat g v) s).hbm = s.hbm := by
  induction gs generalizing s with
  | nil => rfl
  | cons g gs ih => rw [List.foldl_cons, ih, State.setMemStat_hbm]

theorem State.serveGone_hbm (s : State) (r : Req) : (s.serveGone r).hbm = s.hbm := by
  obtain ⟨cs, h⟩ := foldl_refuseReq_gone (r :: s.reqs.filter (s.keeps r)) { s with
    reqs := s.reqs.filter (fun e => !(s.reqs.filter (s.keeps r)).contains e), gone := s.gone ++ r :: s.reqs.filter (s.keeps r) }
  rw [State.serveGone, h]

theorem foldl_serveGone_hbm (rs : List Req) (s : State) :
    (rs.foldl (fun s r => if s.reqs.contains r then ({ s with reqs := s.reqs.erase r } : State).serveGone r else s) s).hbm = s.hbm := by
  induction rs generalizing s with
  | nil => rfl
  | cons r rs ih =>
    rw [List.foldl_cons, ih]
    split
    · exact State.serveGone_hbm ..
    · rfl

theorem State.stk_endHeld (s : State) (k : Nat) : (s.endHeld k).stk k = s.stk k := by
  rw [State.stk, State.endHeld, foldl_serveGone_hbm, ← State.stk]

/-- The granules that a layer's abrupt loss poisons are those named, where all are of the layer. -/
theorem State.layerGone_eq {s : State} {k layer : Nat} {lost : List Nat} (hk : k < 8) (hl : layer < 16) (hn : lost.Nodup)
    (hg : ∀ g ∈ lost, stackOf (paHome (64 * g)) = k ∧ paOff (64 * g) / 0x1000000 = layer ∧ paHome (64 * g) < 1536) :
    s.layerGone k layer lost =
      let s1 := lost.foldl (fun s g => s.setMemStat g .uncorrectable) s
      if (s.stk k).mapped then stackEvent s1 0x36 k [layer * 0x1000000, lost.length] else s1.mapOut k layer lost.length := by
  have hrange : (8 ≤ k || 16 ≤ layer) = false := by simp [hk, hl]
  have hall : (lost.filter fun g => stackOf (paHome (64 * g)) = k && paOff (64 * g) / 0x1000000 = layer
      && paHome (64 * g) < numCores).eraseDups = lost := by
    rw [List.filter_eq_self.2 fun g h => by
      obtain ⟨hstack, hlayer, hhome⟩ := hg g h
      simpa [hstack, hlayer] using (show paHome (64 * g) < numCores from hhome)]
    exact nodup_eraseDups hn
  have hstk : (lost.foldl (fun s g => s.setMemStat g .uncorrectable) s).stk k = s.stk k := by
    rw [State.stk, foldl_setMemStat_hbm, ← State.stk]
  simp only [State.layerGone, hrange, Bool.false_eq_true, if_false, hall, hstk]

/-- Settles O51, clause by clause: each is one branch of the model's function for the event, and neither poisoned granules nor ended
accesses touch the stacks. -/
theorem memoryStacks : Obligations.Stacks := by
  intro s k hk x ev out
  have hk8 : ¬ 8 ≤ k := Nat.not_le.2 hk
  refine ⟨fun layer hl hm hs => congrArg Host.Outcome.next ?warn, fun hs => congrArg Host.Outcome.next ?ack,
    fun hs ht => congrArg Host.Outcome.next (if_pos (Bool.and_eq_true_iff.2 ⟨decide_eq_true hs, decide_eq_true ht⟩)),
    fun hs => congrArg Host.Outcome.next (if_pos hs),
    fun layer lost hl hm hn hg => congrArg Host.Outcome.next ((State.layerGone_eq hk hl hn hg).trans (if_neg (Bool.eq_false_iff.1 hm))),
    fun layer lost hl hm hn hg => congrArg Host.Outcome.next ((State.layerGone_eq hk hl hn hg).trans (if_pos hm)),
    fun hf => congrArg Host.Outcome.next (if_neg (by simpa [hk] using hf)), rfl,
    fun temp hs => congrArg Host.Outcome.next (if_neg (by simpa [hk] using hs)),
    fun hs ht => congrArg Host.Outcome.next (if_pos (Bool.and_eq_true_iff.2 ⟨decide_eq_true hs, decide_eq_true ht⟩)),
    fun temp hs => congrArg Host.Outcome.next ?exit⟩
  case warn => exact if_neg (by simpa [hk, hl] using ⟨hm, hs⟩)
  case ack => exact if_pos (Bool.and_eq_true_iff.2 ⟨by decide, decide_eq_true hs⟩)
  case exit =>
    have hheld : (if (s.stk k).state = 3 && (s.stk k).over s.now then s.endHeld k else s)
        = if (s.stk k).over s.now then s.endHeld k else s := by
      rw [decide_eq_true (show (s.stk k).state = 3 from hs), Bool.true_and]
    have hstk : (if (s.stk k).over s.now then s.endHeld k else s).stk k = s.stk k := by
      split
      · exact s.stk_endHeld k
      · rfl
    rw [State.srExit, hheld]
    exact if_neg (by rw [hstk, show (s.stk k).state = 3 from hs]; decide)

end Sys2Proof.Machine
end

section
/-! PROOFS. Events, telemetry and monitors (O52). -/

namespace Sys2Proof.Machine

/-! ### The event ring -/

/-- The ring takes an event of at most 255 granules as its record and what follows it. -/
theorem State.writeEvent_eq {s : State} {e : Event} {rest : List Event} (hw : s.evWait = e :: rest) (hen : s.evRing.en = true)
    (hup : (s.port 12).up = true) (hroom : e.total ≤ s.evRing.free) (htot : e.total < 256) (hq : s.quotesOnly = false) :
    s.writeEvent = { s.putGranules s.evRing 0 (((List.range e.ngran).map fun i =>
        ((e.dwords e.total s.evLost (s.evRing.at e.ngran)).drop (8 * i)).take 8) ++ e.extra) with
      evWait := rest, evLost := false, evRing := s.evRing.advance e.total } := by
  have hgo : (!s.evRing.en || !(s.port 12).up || decide (s.evRing.free < e.total) || s.quotesOnly) = false := by
    simp [hen, hup, hq, hroom]
  simp only [State.writeEvent, hw, hgo, Bool.false_eq_true, if_false, if_pos htot]

theorem Event.ngran_of_short {e : Event} (h : e.fields.length ≤ 6) : e.ngran = 1 := by
  unfold Event.ngran
  omega

theorem Event.total_of_short {e : Event} (h : e.fields.length ≤ 6) (hx : e.extra = []) : e.total = 1 := by
  rw [Event.total, Event.ngran_of_short h, hx, List.length_nil]

theorem pack_eventHead (kind n lost die : Nat) :
    pack [(0, kind), (8, n), (16, lost), (24, die)] = BitVec.ofNat 64 (kind + 2 ^ 8 * n + 2 ^ 16 * lost + 2 ^ 24 * die) := by
  have h : 0 + kind * 2 ^ 0 + n * 2 ^ 8 + lost * 2 ^ 16 + die * 2 ^ 24 = kind + 2 ^ 8 * n + 2 ^ 16 * lost + 2 ^ 24 * die := by ring
  rw [pack, List.foldl_cons, List.foldl_cons, List.foldl_cons, List.foldl_cons, List.foldl_nil, h]

/-- The dwords of an event without a list. -/
theorem Event.dwords_one {e : Event} {lost : Bool} {list : Nat} (hk : e.kind ≠ 0x3A) (hk8 : e.kind < 256) (hd : e.die < 4) :
    e.dwords 1 lost list = BitVec.ofNat 64 (e.kind + 2 ^ 8 + (if lost then 2 ^ 16 else 0) + 2 ^ 24 * e.die)
      :: BitVec.ofNat 64 e.time :: e.fields := by
  rw [Event.dwords, if_neg hk, Nat.mod_eq_of_lt hk8, Nat.mod_eq_of_lt hd, pack_eventHead]
  cases lost <;> rfl

/-! ### Telemetry -/

theorem pack_two (n m i : Nat) : pack [(0, n), (i, m)] = BitVec.ofNat 64 (n + 2 ^ i * m) := by
  have h : 0 + n * 2 ^ 0 + m * 2 ^ i = n + 2 ^ i * m := by ring
  rw [pack, List.foldl_cons, List.foldl_cons, List.foldl_nil, h]

/-- The cause that a throttle word gives: none where there was no throttling, and none of the limit's where no limit was in force. -/
def throttleWhy (w : Dword) (didt : Bool) : Nat :=
  if w.toNat % 850001 = 0 then 0
  else (if didt then [1, 2, 3, 4, 5, 6, 7] else [2, 4, 6]).getD (w.toNat / 850001 % (if didt then [1, 2, 3, 4, 5, 6, 7] else [2, 4, 6]).length) 2

theorem throttleWord_eq (w : Dword) (didt : Bool) :
    throttleWord w didt = BitVec.ofNat 64 (w.toNat % 850001 + 2 ^ 20 * throttleWhy w didt) := pack_two ..

theorem throttleWhy_zero {w : Dword} {didt : Bool} (h : w.toNat % 850001 = 0) : throttleWhy w didt = 0 := if_pos h

/-- A cause is one of the list's, whatever its index. -/
theorem throttleWhy_mem {w : Dword} {didt : Bool} (h : w.toNat % 850001 ≠ 0) :
    throttleWhy w didt ∈ (if didt then [1, 2, 3, 4, 5, 6, 7] else [2, 4, 6]) := by
  rw [throttleWhy, if_neg h]
  generalize hl : (if didt then [1, 2, 3, 4, 5, 6, 7] else [2, 4, 6] : List Nat) = l
  have hlen : 0 < l.length := by
    subst hl
    cases didt <;> decide
  rw [List.getD_eq_getElem _ _ (Nat.mod_lt _ hlen)]
  exact List.getElem_mem _

theorem throttleWhy_range {w : Dword} {didt : Bool} (h : w.toNat % 850001 ≠ 0) : 0 < throttleWhy w didt ∧ throttleWhy w didt < 8 := by
  have hm := throttleWhy_mem (didt := didt) h
  cases didt <;> simp at hm <;> omega

theorem throttleWhy_even (w : Dword) : throttleWhy w false % 2 = 0 := by
  by_cases h : w.toNat % 850001 = 0
  · rw [throttleWhy_zero h]
  · have hm := throttleWhy_mem (didt := false) h
    simp at hm
    omega

theorem throttleWhy_lt (w : Dword) (didt : Bool) : throttleWhy w didt < 8 := by
  by_cases h : w.toNat % 850001 = 0
  · rw [throttleWhy_zero h]
    decide
  · exact (throttleWhy_range h).2

theorem throttleWord_toNat (w : Dword) (didt : Bool) :
    (throttleWord w didt).toNat = w.toNat % 850001 + 2 ^ 20 * throttleWhy w didt := by
  have := throttleWhy_lt w didt
  rw [throttleWord_eq, BitVec.toNat_ofNat, Nat.mod_eq_of_lt (by omega)]

/-- THRCYC and WHY of a throttle word. -/
theorem throttleWord_fields (w : Dword) (didt : Bool) :
    dfield (throttleWord w didt) 19 0 = w.toNat % 850001 ∧ dfield (throttleWord w didt) 22 20 = throttleWhy w didt := by
  have := throttleWhy_lt w didt
  simp only [dfield, field, throttleWord_toNat]
  omega

theorem throttleWord_spec (w : Dword) (didt : Bool) : (throttleWord w didt).toNat < 2 ^ 23 ∧ dfield (throttleWord w didt) 19 0 ≤ 850000 ∧
    (dfield (throttleWord w didt) 22 20 = 0 ↔ dfield (throttleWord w didt) 19 0 = 0) ∧
    (didt = false → (throttleWord w didt).getLsbD 20 = false) := by
  obtain ⟨hcyc, hwhy⟩ := throttleWord_fields w didt
  have hlt := throttleWhy_lt w didt
  rw [hcyc, hwhy, throttleWord_toNat]
  refine ⟨by omega, by omega, ⟨fun h => ?_, throttleWhy_zero⟩, fun h => ?_⟩
  · by_contra hn
    exact absurd (throttleWhy_range (didt := didt) hn).1 (by omega)
  · subst h
    have heven := throttleWhy_even w
    rw [BitVec.getLsbD, throttleWord_toNat, Nat.testBit_eq_decide_div_mod_eq]
    simp only [decide_eq_false_iff_not]
    omega

/-- A record that the ring has room for: what it holds besides its header is free but for the last two words. -/
theorem State.telemetry_eq {s : State} {d : Nat} (hd : d < 4) (ht : (s.die d).telAt + 1700000 ≤ s.now) (hq : s.quotesOnly = false) :
    s.telemetry d =
      let x := s.die d
      let s1 := s.updDie d fun x => { x with telAt := x.telAt + 1700000, telEnds := x.telEnds.tail }
      let past := x.telEnds.headD (s.effLimit d, x.telLim)
      if !s.telRing.en then s1
      else if s.telRing.free = 0 then
        { (s1.choose.2.updDie d fun x => { x with tseq := x.tseq + BitVec.ofNat 32 (s1.choose.1 % 2) }) with
          telRing := { s.telRing with lost := if s.telRing.lost = 0xFFFFFFFF then s.telRing.lost else s.telRing.lost + 1 } }
      else
        { (({ s1 with fresh := s.fresh + 4 } : State).hostWrite (s.telRing.at 0) (granuleBytes 1 [pack [(0, x.tseq.toNat), (32, d)],
          BitVec.ofNat 64 (x.telAt + 1700000), Config.datum s.fresh, BitVec.ofNat 64 ((Config.datum (s.fresh + 1)).toNat % 2 ^ 48),
          Config.datum (s.fresh + 2), throttleWord (Config.datum (s.fresh + 3)) past.2, BitVec.ofNat 64 past.1])).updDie d fun x =>
            { x with tseq := x.tseq + 1 } with telRing := s.telRing.advance 1 } :=
  if_neg (by simp [hq, hd, telemetryPeriod, Nat.not_lt.2 ht])

theorem State.choose_host (s : State) : s.choose.2.host = s.host := by
  unfold State.choose
  split <;> rfl

/-! ### Monitors -/

/-- A sample of an enabled unit, by the unit's source. -/
theorem State.monSample_eq {s : State} {u : Nat} (v : BitVec 32) (hu : u < 16) (hen : (s.monitor u).en = true) (hq : s.quotesOnly = false) :
    (∀ x r, (s.monitor u).src ≤ 5 → (s.monitor u).due = x :: r →
      s.monSample u v = s.updMonitor u fun m => { m.sample x with due := r }) ∧
    ((s.monitor u).src = 6 → (s.monitor u).last + 512 ≤ s.now →
      s.monSample u v = s.updMonitor u fun m => { m.sample v with last := s.now }) ∧
    ((s.monitor u).src = 7 → s.monSample u v = s.updMonitor u (·.sample v)) := by
  have hgo : (decide (16 ≤ u) || !(s.monitor u).en || s.quotesOnly) = false := by simp [hen, hq, hu]
  refine ⟨fun x r hs hdue => ?_, fun hs ht => ?_, fun hs => ?_⟩
  · simp only [State.monSample, hgo, Bool.false_eq_true, if_false, if_pos hs, hdue]
  · simp only [State.monSample, hgo, Bool.false_eq_true, if_false, hs, if_neg (show ¬ 6 ≤ 5 by decide), if_true,
      if_neg (show ¬ s.now < (s.monitor u).last + coreCycles 256 from Nat.not_lt.2 ht)]
  · simp only [State.monSample, hgo, Bool.false_eq_true, if_false, hs, if_neg (show ¬ 7 ≤ 5 by decide),
      if_neg (show ¬ 7 = 6 by decide), if_true]

/-- Dword 0 as a write leaves it: SRC to EN and BASE as written, and DUMP set where it was or is written. -/
def ctlKeep (m : Monitor) (v : Dword) : Nat := dfield v 21 0 ||| (if m.dump then 0x200000 else 0)

theorem ctlKeep_lt (m : Monitor) (v : Dword) : ctlKeep m v < 2 ^ 22 := by
  refine Nat.or_lt_two_pow ?_ (by split <;> decide)
  exact Nat.mod_lt _ (by decide)

theorem ctlKeep_low (m : Monitor) (v : Dword) : ctlKeep m v % 2 ^ 21 = dfield v 20 0 := by
  have hzero : (if m.dump then 0x200000 else 0) % 2 ^ 21 = 0 := by split <;> rfl
  rw [ctlKeep, Nat.or_mod_two_pow, hzero, Nat.or_zero]
  simp only [dfield, field]
  omega

theorem ctlKeep_dump {m : Monitor} (v : Dword) (h : m.dump = true) : ctlKeep m v / 2 ^ 21 % 2 = 1 := by
  rw [ctlKeep, if_pos h, Nat.or_div_two_pow, show 0x200000 / 2 ^ 21 = 1 from rfl, Nat.or_mod_two_pow (n := 1)]
  rcases Nat.mod_two_eq_zero_or_one (dfield v 21 0 / 2 ^ 21) with hbit | hbit <;> rw [pow_one, hbit] <;> rfl

theorem Monitor.setCtl_eq (m : Monitor) (v : Dword) (now : Nat) : m.setCtl v now =
    let c := pack [(0, ctlKeep m v), (32, dfield v 63 32)]
    if !m.en && dfield v 20 20 = 1 then { ctl := c, daddr := m.daddr, last := now } else { m.flush with ctl := c } := rfl

/-- Whether or not the unit is enabled anew. -/
theorem Monitor.setCtl_ctl (m : Monitor) (v : Dword) (now : Nat) : (m.setCtl v now).ctl = pack [(0, ctlKeep m v), (32, dfield v 63 32)] := by
  rw [Monitor.setCtl_eq]
  split <;> rfl

theorem Monitor.setCtl_due (m : Monitor) (v : Dword) (now : Nat) : (m.setCtl v now).due = [] := by
  rw [Monitor.setCtl_eq]
  split <;> rfl

theorem Monitor.setCtl_enables {m : Monitor} {v : Dword} {now : Nat} (he : m.en = false) (hv : dfield v 20 20 = 1) :
    m.setCtl v now = { ctl := pack [(0, ctlKeep m v), (32, dfield v 63 32)], daddr := m.daddr, last := now } :=
  if_pos (by simp [he, hv])

theorem Monitor.setCtl_toNat (m : Monitor) (v : Dword) (now : Nat) :
    (m.setCtl v now).ctl.toNat = ctlKeep m v + 2 ^ 32 * dfield v 63 32 := by
  have hkeep := ctlKeep_lt m v
  have hbase : dfield v 63 32 < 2 ^ 32 := Nat.mod_lt _ (by decide)
  rw [Monitor.setCtl_ctl, pack_two, BitVec.toNat_ofNat, Nat.mod_eq_of_lt (by omega)]

theorem Monitor.setCtl_fields (m : Monitor) (v : Dword) (now : Nat) :
    dfield (m.setCtl v now).ctl 20 0 = dfield v 20 0 ∧ dfield (m.setCtl v now).ctl 63 32 = dfield v 63 32 ∧
    (m.dump → (m.setCtl v now).dump) := by
  have hkeep := ctlKeep_lt m v
  have hbase : dfield v 63 32 < 2 ^ 32 := Nat.mod_lt _ (by decide)
  have hlow := ctlKeep_low m v
  refine ⟨?_, ?_, fun h => decide_eq_true ?_⟩
  · rw [dfield, field, Monitor.setCtl_toNat, ← hlow]
    omega
  · rw [dfield, field, Monitor.setCtl_toNat]
    omega
  · have := ctlKeep_dump v h
    rw [dfield, field, Monitor.setCtl_toNat]
    omega

/-- Settles O52: what each event writes is its function past the tests that the hypotheses decide; the throttle word and dword 0 of a
capture unit are taken apart as numbers. -/
theorem monitoring : Obligations.Monitoring := by
  refine ⟨?ring, ?one, ?telemetry, ?sample, ?enable, fun m v now => ?setCtl, ?dump⟩
  case ring =>
    intro s e rest hw hen hup hroom htot hq
    exact answers_of_whole rfl (State.writeEvent_eq hw hen hup hroom htot hq)
  case one =>
    intro s e rest hw hk hk8 hd hlen hx hen hup hroom hq
    have htot := Event.total_of_short hlen hx
    refine answers_of_whole rfl ((State.writeEvent_eq hw hen hup (htot.symm ▸ hroom) (htot.symm ▸ by decide) hq).trans ?_)
    have hgran : (List.range e.ngran).map (fun i => ((e.dwords 1 s.evLost (s.evRing.at e.ngran)).drop (8 * i)).take 8)
        = [e.dwords 1 s.evLost (s.evRing.at e.ngran)] := by
      rw [Event.ngran_of_short hlen, List.range_one, List.map_singleton, Nat.mul_zero, List.drop_zero,
        List.take_of_length_le (by rw [Event.dwords_one hk hk8 hd, List.length_cons, List.length_cons]; omega)]
    rw [htot, hgran, hx, Event.dwords_one hk hk8 hd]
    rfl
  case telemetry =>
    intro s d hd ht hq x s1 past
    have heq := State.telemetry_eq hd ht hq
    refine ⟨fun hen hfree => ?_, fun hen => ?_, fun hwait hen hfree => ?_⟩
    · obtain ⟨hw, hcyc, hwhy, hlim⟩ := throttleWord_spec (Config.datum (s.fresh + 3)) past.2
      refine ⟨_, _, _, _, ?_, hw, hcyc, hwhy, hlim, answers_of_whole rfl (heq.trans ((if_neg ?_).trans (if_neg hfree)))⟩
      · rw [BitVec.toNat_ofNat]
        omega
      · simp [hen]
    · exact answers_of_whole rfl (heq.trans (if_pos (by simp [hen])))
    · refine ⟨_, answers_of_whole rfl (heq.trans ((if_neg (by simp [hen])).trans (if_pos hfree))) (s1.choose_wait.trans hwait),
        s1.choose_host, ?_⟩
      by_cases hl : s.telRing.lost = 0xFFFFFFFF
      · simp only [hl]
      · simp only [if_neg hl]
  case sample =>
    intro s u v hu hen hq
    obtain ⟨hdue, hcurrent, htemp⟩ := State.monSample_eq v hu hen hq
    exact ⟨fun x r hs hd => congrArg Host.Outcome.next (hdue x r hs hd), fun hs ht => congrArg Host.Outcome.next (hcurrent hs ht),
      fun hs => congrArg Host.Outcome.next (htemp hs)⟩
  case enable =>
    intro s u v hu hq hup
    exact congrArg Host.Outcome.next (if_neg (by simp [hu, hq, hup]))
  case setCtl =>
    obtain ⟨hlow, hbase, hdump⟩ := Monitor.setCtl_fields m v now
    exact ⟨hlow, hbase, hdump, m.setCtl_due v now, fun he hv => by rw [Monitor.setCtl_enables he hv]; exact ⟨rfl, rfl, rfl, rfl⟩⟩
  case dump =>
    intro s u hu hd hq
    exact answers_of_whole rfl (if_neg (by simp [hu, hd, hq]))

end Sys2Proof.Machine
end

section
/-! PROOFS. Containment (O50). -/

namespace Sys2Proof.Machine

/-- A snapshot whose scratchpad lists byte 5 before byte 3. A read stops at the first key past the one it seeks, so byte 3 reads 0. -/
def fallingSnap : Snap := { spad := [(5, 1), (3, 2)] }

/-- Core 0 runs a gang of one core, and has that snapshot. -/
def restoring : State := { State.reset with cores := [(0, { task := some {}, snap := some fallingSnap })] }

theorem fallingSnap_byte : fallingSnap.spad.get 0 3 = 0 := by decide

theorem restoring_byte : ((restoring.restoreMember {} 0).core 0).spad.get 0 3 = 2 := by decide

/-- Refutes O50, in its clause on what a restored member reads: the clause asks for the snapshot's own bytes whatever the order of its
list, and the restore lays the list's entries over the scratchpad one by one. Of a list whose keys do not rise the restored
scratchpad reads byte 3, which the snapshot's list does not. -/
theorem not_containment : ¬ Obligations.Containment := by
  rintro ⟨-, hrestore, -⟩
  obtain ⟨-, -, -, -, -, -, -, -, -, -, -, hspad, -⟩ := hrestore restoring {} 0 fallingSnap {} rfl rfl rfl rfl rfl
  have hread : ((restoring.restoreMember {} 0).core 0).spad.get 0 3 = fallingSnap.spad.get 0 3 := hspad 3 (by decide)
  rw [restoring_byte, fallingSnap_byte] at hread
  exact absurd hread (by decide)

end Sys2Proof.Machine
end
